-- ==== Sys2Proof/Word.lean ====
section
/-! DEFINITION. The word types of the Umavia Q24 and their plainest arithmetic. -/

namespace Sys2Proof

/-- A byte of memory, the smallest addressable unit (00 R3). -/
abbrev Byte := BitVec 8

/-- The contents of an address or modifier register (11 R195). -/
abbrev Word := BitVec 64

/-- One 32-bit lane of a vector (11 R194). -/
abbrev Lane32 := BitVec 32

/-- A 1024-bit line: 32 lanes of 32 bits (11 R194). -/
abbrev Line := BitVec 1024

/-- A slot word (03 R34). -/
abbrev SlotWord := BitVec 32

/-- A bundle: eight slot words, slot k in bits [32k+31:32k] (03 R32). -/
abbrev Bundle := BitVec 256

/-- Slot k of a bundle (03 R32). -/
def Bundle.slot (b : Bundle) (k : Nat) : SlotWord := b.extractLsb' (32 * k) 32

/-- A bundle with slot k replaced (03 R32). -/
def Bundle.setSlot (b : Bundle) (k : Nat) (w : SlotWord) : Bundle :=
  BitVec.ofNat 256
    (b.toNat / 2 ^ (32 * k + 32) * 2 ^ (32 * k + 32) + w.toNat * 2 ^ (32 * k) + b.toNat % 2 ^ (32 * k))

end Sys2Proof
end

