-- ==== Sys2Proof/Syntax.lean ====
section
/-! DEFINITION. The syntax of the device: the instructions of the slots, the two header fields and the events of
spec/opcode_table.json, with the payloads that the events carry. -/

namespace Sys2Proof

/-- The register files a result can be written to, coded as FILE of a snapshot entry (21 R381). -/
inductive RegFile where
  | a | m | v | p | k | plane | st | tc | special
deriving DecidableEq, Repr

/-- A packet of the felt: its header fields and its 128-byte payload (09 R156). -/
structure FeltPacket where
  /-- source: physical sheet, gateway bit, torus position (R156 PARTY) -/
  party : BitVec 12
  /-- the packet also raises the watermark word at wma -/
  wme : Bool
  /-- watermark word offset in the window, bits [20:4] -/
  wma : BitVec 17
  /-- atomic size: true 64-bit -/
  sz : Bool
  /-- atomic code for op 3; poison bits of elements 3 to 0 for op 2 -/
  aux : BitVec 4
  /-- 0 store, 1 watermark raise, 2 exact add, 3 atomic -/
  op : BitVec 4
  /-- bit i enables payload bytes 4i to 4i+3 -/
  mask : BitVec 32
  /-- window offset bits [20:4] -/
  addr : BitVec 17
  payload : BitVec 1024
deriving DecidableEq, Repr

/-- One raw EXA line on its way to a gateway cell (09 R167). -/
structure Contribution where
  anchor : BitVec 16
  /-- the 32 elements: value and tag -/
  els : List (BitVec 256 × BitVec 2)
  /-- true when this core sent it -/
  own : Bool
deriving DecidableEq, Repr

/-- What another core's instruction brings to a combine cell: a contribution (GCM), or a setting (GCS) with its count − 1, its
aN, its kind and the capability that a ream destination names (09 R166, R167). -/
inductive CellArrival where
  | add (con : Contribution)
  | set (n : BitVec 7) (dest : Word) (ream : Bool) (cap : BitVec 64)
deriving DecidableEq, Repr

/-- What a web flit carries (10 R172, R183; 17 R318; 07 R131). -/
inductive FlitBody where
  /-- part of a message: receive queue, line or scalar, which half, watermark word of the capability -/
  | msg (qn : BitVec 5) (line : Bool) (half : Bool) (wm : Option (BitVec 16))
  /-- a remote copy beat: offset at the destination, watermark word to raise -/
  | beat (off : Nat) (wm : Option Nat)
  /-- a remote atomic: code, size, offset and operands -/
  | atm (op : BitVec 3) (i64 : Bool) (off : Nat) (x cmp : BitVec 64)
  /-- the old value of a remote atomic on its way back -/
  | atmRet (old : BitVec 64)
  /-- a flit bound for a ream link -/
  | ream (lk : BitVec 4) (dtix : BitVec 11) (qn : BitVec 5) (line : Bool) (half : Bool)
deriving DecidableEq, Repr

/-- One 64-byte flit: source and destination are a logical position y*8+x, or 64 for the gateway (10 R172). -/
structure Flit where
  src : BitVec 7
  dst : BitVec 7
  body : FlitBody
  data : BitVec 512
deriving DecidableEq, Repr

/-- A link flit of a ream link: its type, 0 idle, 1 header, 2 data, 3 end, and its 32 bytes (10 R187). -/
structure LinkFlit where
  type : BitVec 2
  data : BitVec 256
deriving DecidableEq, Repr

/-- The guaranteed shares of a partition: HBM frames and quire pages as ranges (first byte, bytes), the gateway cells of each sheet as
(first, number), the most data slots of a channel wheel and the most felt slots that it may own, and the web flits that it may send
on a link in a revolution, by link, where it has less than the whole link; and the physical quadrants of its regions (19 R340).  With them
comes the code section of the core's own logical region, where that is not the one of the launch entry: its IMG, LEN and ENTRY (02 R410;
assumption 87). -/
structure Shares where
  frames : List (Nat × Nat)
  quire : List (Nat × Nat)
  cells : Nat × Nat
  hbmSlots : Nat
  feltSlots : Nat
  ream : List (Nat × Nat)
  regions : List Nat
  code : Option (BitVec 40 × BitVec 10 × BitVec 10)
deriving DecidableEq, Repr

/-- Where an uncorrectable error is found: in a stored granule of the scratchpad, of the sheet's quire mirror or of the weight
buffer, in a bundle of the instruction store, in a granule of the base die's mirror, in the data of engine write i on its way to the core, on
the TSV or not, or in a word that the operation of a slot reads in another SRAM of the core (21 R382, 05 R108).  `quadrant` is the runtime's finding that
cores of physical quadrant q have failed or that its fmax is lower, with the new word of the resource map (06 R110, R121). -/
inductive ErrorAt where
  | pad (gran : Nat)
  | quire (gran : Nat)
  | wbuf (gran : Nat)
  | istore (key : Nat)
  | base (gran : Nat)
  | transit (i : Nat) (tsv : Bool)
  | other (slot : BitVec 3)
  | quadrant (q : BitVec 7) (w : BitVec 52)
deriving DecidableEq, Repr

/-- What is known of one end of a crossing port at its other end, in another region (20 R370): of a writer, that a line not yet
read is there for the reader, that the reader's last read found none newer, that lines were lost; of a reader, that it has stopped;
and how many lines the reader has taken. -/
structure PortFacts where
  avail : Bool
  stale : Bool
  lost : Bool
  stopped : Bool
  taken : Nat
deriving DecidableEq, Repr

/-- What reaches one end of a crossing port from the other region: a line with its stamp (20 R366), what is known of the other end
(R370), or the news that the writer's samples have been interrupted (R367). -/
inductive Crossing where
  | line (ln : BitVec 1024) (stamp : BitVec 64)
  | facts (f : PortFacts)
  | restart
deriving DecidableEq, Repr

/-- What triggers a snapshot from outside the core: the pin, the SNAP of another core, or the fault of another core, with whether
its EFLT is set and the entry that its violation leaves in the region's log (21 R384, R389). -/
inductive Outside where
  | pin
  | snap
  | fault (eflt : Bool) (viol : Option Word)
deriving DecidableEq, Repr

/-- What the debug unit reaches: a register of the halted core, a snapshot register, or a register of a mill core (22 R402). -/
inductive DebugTarget where
  | register (file : RegFile) (idx : BitVec 10)
  | snapshot (off : BitVec 34)
  | mill (n : Nat)
deriving DecidableEq, Repr

/-- A packet of a ream link as its gateways see it (10 R187). -/
structure ReamPacket where
  seq : BitVec 16
  dtix : BitVec 11
  qn : BitVec 5
  /-- a gateway line of 16 web flits -/
  gline : Bool
  scalar : Bool
  /-- the web flits, each rejoined from two link flits -/
  flits : List (BitVec 512)
deriving DecidableEq, Repr

/-- The instructions and steps of the device: one constructor for each row of spec/opcode_table.json.
The operands of a slot word carry the table's field names: g the guard, w the write-back-suppress bit, z the width code,
k a lane mask.  `u` is 0 for address unit A or vector slot X and 1 for B or Y (03 R32); `n` of `nop` is the slot.
A header's own bits (PS, RM, SK, POP) are no operand of the control word (03 R36). -/
inductive Instr where
  /-- No operation in slots 1 to 7; the all-zero slot word has no effect. (R43) -/
  | nop (n : BitVec 3)
  /-- No operation in the control slot; the bundle header bits remain independent of it. (R43) -/
  | nopControl
  /-- Branch to this index plus a signed displacement; a taken branch is a group switch with one dead cycle. (R328) -/
  | br (g : BitVec 4) (d : BitVec 14)
  /-- Branch to aN plus a signed immediate. (R328) -/
  | bri (g : BitVec 4) (n : BitVec 5) (im : BitVec 9)
  /-- Branch by displacement and write the link index to a31; illegal while any loop level is active. (R329) -/
  | call (g : BitVec 4) (d : BitVec 14)
  /-- Call the target aN plus an immediate and write the link to a31. (R329) -/
  | calli (g : BitVec 4) (n : BitVec 5) (im : BitVec 9)
  /-- Return to the index in a31 and pop every active loop level. (R329) -/
  | ret (g : BitVec 4)
  /-- Push a hardware loop level with an immediate count of 1 to 128. (R325) -/
  | loop (g : BitVec 4) (c : BitVec 7) (l : BitVec 6)
  /-- Push a loop level counted by aN; a zero count skips the body as a taken transfer. (R325) -/
  | loopa (g : BitVec 4) (n : BitVec 5) (l : BitVec 6)
  /-- Push a loop level counted by aN; a zero count runs open until BRK. (R325) -/
  | loopn (g : BitVec 4) (n : BitVec 5) (l : BitVec 6)
  /-- Pop the innermost loop level and continue after its END bundle. (R330) -/
  | brk (g : BitVec 4)
  /-- Write a predicate as the AND, OR or XOR of two optionally negated predicates. (R331) -/
  | plog (g : BitVec 4) (d : BitVec 3) (o : BitVec 3) (a : BitVec 4) (b : BitVec 4)
  /-- Set a predicate to 0 or 1. (R331) -/
  | pset (g : BitVec 4) (d : BitVec 3) (v : BitVec 1)
  /-- Take the next tile of the core's slice into the next tile register, with a predicate that reports validity at c+24. (R335) -/
  | nxt (g : BitVec 4) (d : BitVec 3)
  /-- Wait for the next sample boundary, or count overruns when boundaries have passed. (R363) -/
  | wsamp (g : BitVec 4)
  /-- Hold issue until lcnt or scnt is at most a threshold. (R310) -/
  | waitc (g : BitVec 4) (c : BitVec 1) (n : BitVec 9)
  /-- Hold issue until a watermark word's generation reaches g, compared modulo 512. (R139) -/
  | wmw (g : BitVec 4) (n : BitVec 5) (e : BitVec 9)
  /-- Wait for every started overlay to finish, write its success to a predicate and clear FS. (R151) -/
  | ifence (g : BitVec 4) (p : BitVec 3)
  /-- After waiting for overlays, move the PC to an index of the other instruction-store half. (R152) -/
  | bswap (g : BitVec 4) (im : BitVec 10)
  /-- Trigger a module-wide snapshot latch when ESNAP is set and no snapshot is held. (R390) -/
  | snap (g : BitVec 4)
  /-- Complete the bundle, stop issue and report a code and argument to the runtime. (R336) -/
  | trap (g : BitVec 4) (n : BitVec 5) (c : BitVec 9)
  /-- Complete the bundle, stop issue and request a runtime service that resumes at the next bundle. (R336) -/
  | sysc (g : BitVec 4) (n : BitVec 5) (c : BitVec 9)
  /-- Commit the gate buffer and stop issue until the next launch. (R337) -/
  | halt (g : BitVec 4)
  /-- Read a special register into aN, resetting RS fields. (R338) -/
  | srd (g : BitVec 4) (sf : BitVec 9) (n : BitVec 5)
  /-- Write aN to a special register at c+1. (R338) -/
  | swr (g : BitVec 4) (sf : BitVec 9) (n : BitVec 5)
  /-- Order later loads after earlier queued stores, and later stores after earlier loads. (R308) -/
  | mark (g : BitVec 4)
  /-- 64-bit add modulo 2^64. (R209) -/
  | add (u : BitVec 1) (g : BitVec 4) (d : BitVec 5) (a : BitVec 6) (b : BitVec 6) (w : BitVec 1)
  /-- 64-bit subtract modulo 2^64. (R209) -/
  | sub (u : BitVec 1) (g : BitVec 4) (d : BitVec 5) (a : BitVec 6) (b : BitVec 6) (w : BitVec 1)
  /-- Bitwise AND. (R209) -/
  | and (u : BitVec 1) (g : BitVec 4) (d : BitVec 5) (a : BitVec 6) (b : BitVec 6) (w : BitVec 1)
  /-- Bitwise OR. (R209) -/
  | or (u : BitVec 1) (g : BitVec 4) (d : BitVec 5) (a : BitVec 6) (b : BitVec 6) (w : BitVec 1)
  /-- Bitwise XOR. (R209) -/
  | xor (u : BitVec 1) (g : BitVec 4) (d : BitVec 5) (a : BitVec 6) (b : BitVec 6) (w : BitVec 1)
  /-- Shift left by y[5:0]. (R209) -/
  | shl (u : BitVec 1) (g : BitVec 4) (d : BitVec 5) (a : BitVec 6) (b : BitVec 6) (w : BitVec 1)
  /-- Logical shift right by y[5:0]. (R209) -/
  | shr (u : BitVec 1) (g : BitVec 4) (d : BitVec 5) (a : BitVec 6) (b : BitVec 6) (w : BitVec 1)
  /-- Arithmetic shift right by y[5:0]. (R209) -/
  | sar (u : BitVec 1) (g : BitVec 4) (d : BitVec 5) (a : BitVec 6) (b : BitVec 6) (w : BitVec 1)
  /-- Low 64 bits of the product, landing at c+3. (R209) -/
  | mul (u : BitVec 1) (g : BitVec 4) (d : BitVec 5) (a : BitVec 6) (b : BitVec 6) (w : BitVec 1)
  /-- High 64 bits of the signed 128-bit product. (R209) -/
  | mulh (u : BitVec 1) (g : BitVec 4) (d : BitVec 5) (a : BitVec 6) (b : BitVec 6) (w : BitVec 1)
  /-- High 64 bits of the unsigned 128-bit product. (R209) -/
  | mulhu (u : BitVec 1) (g : BitVec 4) (d : BitVec 5) (a : BitVec 6) (b : BitVec 6) (w : BitVec 1)
  /-- Signed minimum. (R209) -/
  | min (u : BitVec 1) (g : BitVec 4) (d : BitVec 5) (a : BitVec 6) (b : BitVec 6) (w : BitVec 1)
  /-- Signed maximum. (R209) -/
  | max (u : BitVec 1) (g : BitVec 4) (d : BitVec 5) (a : BitVec 6) (b : BitVec 6) (w : BitVec 1)
  /-- Unsigned minimum. (R209) -/
  | minu (u : BitVec 1) (g : BitVec 4) (d : BitVec 5) (a : BitVec 6) (b : BitVec 6) (w : BitVec 1)
  /-- Unsigned maximum. (R209) -/
  | maxu (u : BitVec 1) (g : BitVec 4) (d : BitVec 5) (a : BitVec 6) (b : BitVec 6) (w : BitVec 1)
  /-- x AND NOT y. (R209) -/
  | andn (u : BitVec 1) (g : BitVec 4) (d : BitVec 5) (a : BitVec 6) (b : BitVec 6) (w : BitVec 1)
  /-- Compare two scalars under a condition and write a predicate. (R211) -/
  | cmp (u : BitVec 1) (g : BitVec 4) (p : BitVec 3) (a : BitVec 6) (b : BitVec 6) (c : BitVec 3)
  /-- Add a signed immediate. (R210) -/
  | addi (u : BitVec 1) (g : BitVec 4) (d : BitVec 5) (sf : BitVec 6) (im : BitVec 10) (w : BitVec 1)
  /-- AND with a sign-extended immediate. (R210) -/
  | andi (u : BitVec 1) (g : BitVec 4) (d : BitVec 5) (sf : BitVec 6) (im : BitVec 10) (w : BitVec 1)
  /-- OR with a sign-extended immediate. (R210) -/
  | ori (u : BitVec 1) (g : BitVec 4) (d : BitVec 5) (sf : BitVec 6) (im : BitVec 10) (w : BitVec 1)
  /-- XOR with a sign-extended immediate. (R210) -/
  | xori (u : BitVec 1) (g : BitVec 4) (d : BitVec 5) (sf : BitVec 6) (im : BitVec 10) (w : BitVec 1)
  /-- Shift left by an immediate 0 to 63. (R210) -/
  | shli (u : BitVec 1) (g : BitVec 4) (d : BitVec 5) (sf : BitVec 6) (im : BitVec 6) (w : BitVec 1)
  /-- Logical shift right by an immediate. (R210) -/
  | shri (u : BitVec 1) (g : BitVec 4) (d : BitVec 5) (sf : BitVec 6) (im : BitVec 6) (w : BitVec 1)
  /-- Arithmetic shift right by an immediate. (R210) -/
  | sari (u : BitVec 1) (g : BitVec 4) (d : BitVec 5) (sf : BitVec 6) (im : BitVec 6) (w : BitVec 1)
  /-- Multiply by a signed immediate. (R210) -/
  | muli (u : BitVec 1) (g : BitVec 4) (d : BitVec 5) (sf : BitVec 6) (im : BitVec 10) (w : BitVec 1)
  /-- Shift left by 10 and OR in an unsigned 10-bit immediate. (R210) -/
  | imx (u : BitVec 1) (g : BitVec 4) (d : BitVec 5) (sf : BitVec 6) (im : BitVec 10) (w : BitVec 1)
  /-- Compare a scalar with a signed immediate and write a predicate. (R211) -/
  | cmpi (u : BitVec 1) (g : BitVec 4) (p : BitVec 3) (c : BitVec 3) (sf : BitVec 6) (im : BitVec 10)
  /-- Write a modifier register with a source plus an immediate. (R212) -/
  | mset (u : BitVec 1) (g : BitVec 4) (m : BitVec 5) (sf : BitVec 6) (im : BitVec 10)
  /-- Apply a modifier's update to a value and write the result. (R212) -/
  | aupd (u : BitVec 1) (g : BitVec 4) (d : BitVec 5) (m : BitVec 5) (b : BitVec 6) (w : BitVec 1)
  /-- Extract one element of a line or register, selected by aI, into the slot latch. (R213) -/
  | lane (u : BitVec 1) (g : BitVec 4) (sf : BitVec 10) (im : BitVec 5) (z : BitVec 2) (k : BitVec 1) (ux : BitVec 1)
  /-- Load a line of 1024, 512 or 256 bits into a register or plane line. (R217) -/
  | ldl (u : BitVec 1) (g : BitVec 4) (sf : BitVec 10) (n : BitVec 5) (m : BitVec 1) (w : BitVec 2) (t : BitVec 1) (h : BitVec 2)
  /-- Store a line of 1024, 512 or 256 bits. (R217) -/
  | stl (u : BitVec 1) (g : BitVec 4) (sf : BitVec 10) (n : BitVec 5) (m : BitVec 1) (w : BitVec 2) (t : BitVec 1) (h : BitVec 2)
  /-- Load a sign- or zero-extended scalar. (R218) -/
  | lds (u : BitVec 1) (g : BitVec 4) (d : BitVec 5) (n : BitVec 5) (m : BitVec 1) (k : BitVec 4)
  /-- Store a scalar of 1, 2, 4 or 8 bytes. (R218) -/
  | sts (u : BitVec 1) (g : BitVec 4) (sf : BitVec 5) (n : BitVec 5) (m : BitVec 1) (k : BitVec 4)
  /-- Gather elements at offsets given by vK. (R219) -/
  | ldg (u : BitVec 1) (g : BitVec 4) (v : BitVec 4) (n : BitVec 5) (m : BitVec 1) (w : BitVec 2) (k : BitVec 4)
  /-- Scatter elements to offsets given by vK. (R219) -/
  | stg (u : BitVec 1) (g : BitVec 4) (v : BitVec 4) (n : BitVec 5) (m : BitVec 1) (w : BitVec 2) (k : BitVec 4)
  /-- Broadcast one loaded element across the lanes of a form. (R220) -/
  | ldb (u : BitVec 1) (g : BitVec 4) (sf : BitVec 10) (n : BitVec 5) (m : BitVec 1) (w : BitVec 2) (t : BitVec 1) (f : BitVec 1) (e : BitVec 2)
  /-- Write a whole stream descriptor from half of vK. (R223) -/
  | sdef (u : BitVec 1) (g : BitVec 4) (v : BitVec 4) (h : BitVec 1) (sf : BitVec 4)
  /-- Read one stream descriptor field into aD. (R224) -/
  | srdf (u : BitVec 1) (g : BitVec 4) (d : BitVec 5) (sf : BitVec 4) (f : BitVec 4)
  /-- Advance a stream by aS steps at a dimension. (R225) -/
  | sadv (u : BitVec 1) (g : BitVec 4) (n : BitVec 5) (sf : BitVec 4) (d : BitVec 4)
  /-- Reset a stream's indices to zero. (R226) -/
  | srst (u : BitVec 1) (g : BitVec 4) (sf : BitVec 4)
  /-- Load a line at a stream's current address and advance the stream. (R227) -/
  | ldt (u : BitVec 1) (g : BitVec 4) (sf : BitVec 10) (t : BitVec 4) (k : BitVec 1)
  /-- Store a line at a stream's current address and advance the stream. (R227) -/
  | stt (u : BitVec 1) (g : BitVec 4) (sf : BitVec 10) (t : BitVec 4) (k : BitVec 1)
  /-- FP32 add per lane, rounded by fmode. (R233) -/
  | vfadd (u : BitVec 1) (g : BitVec 4) (d : BitVec 4) (w : BitVec 1) (a : BitVec 5) (b : BitVec 5) (z : BitVec 3) (k : BitVec 3)
  /-- FP32 subtract per lane. (R233) -/
  | vfsub (u : BitVec 1) (g : BitVec 4) (d : BitVec 4) (w : BitVec 1) (a : BitVec 5) (b : BitVec 5) (z : BitVec 3) (k : BitVec 3)
  /-- FP32 multiply per lane. (R233) -/
  | vfmul (u : BitVec 1) (g : BitVec 4) (d : BitVec 4) (w : BitVec 1) (a : BitVec 5) (b : BitVec 5) (z : BitVec 3) (k : BitVec 3)
  /-- Fused a×b+c, with the destination as the addend. (R234) -/
  | vfma (u : BitVec 1) (g : BitVec 4) (d : BitVec 4) (w : BitVec 1) (a : BitVec 5) (b : BitVec 5) (z : BitVec 3) (k : BitVec 3)
  /-- Fused a×b−c. (R234) -/
  | vfms (u : BitVec 1) (g : BitVec 4) (d : BitVec 4) (w : BitVec 1) (a : BitVec 5) (b : BitVec 5) (z : BitVec 3) (k : BitVec 3)
  /-- Fused c−a×b. (R234) -/
  | vfnma (u : BitVec 1) (g : BitVec 4) (d : BitVec 4) (w : BitVec 1) (a : BitVec 5) (b : BitVec 5) (z : BitVec 3) (k : BitVec 3)
  /-- FP32 minimum, with −0 ordered below +0. (R235) -/
  | vfmin (u : BitVec 1) (g : BitVec 4) (d : BitVec 4) (w : BitVec 1) (a : BitVec 5) (b : BitVec 5) (z : BitVec 3) (k : BitVec 3)
  /-- FP32 maximum. (R235) -/
  | vfmax (u : BitVec 1) (g : BitVec 4) (d : BitVec 4) (w : BitVec 1) (a : BitVec 5) (b : BitVec 5) (z : BitVec 3) (k : BitVec 3)
  /-- Clear the sign bit. (R235) -/
  | vfabs (u : BitVec 1) (g : BitVec 4) (d : BitVec 4) (w : BitVec 1) (a : BitVec 5) (z : BitVec 3) (k : BitVec 3)
  /-- FP32 compare into a lane mask and the latch. (R236) -/
  | vfcmp (u : BitVec 1) (g : BitVec 4) (d : BitVec 3) (w : BitVec 1) (a : BitVec 5) (b : BitVec 5) (z : BitVec 3) (c : BitVec 3)
  /-- 32-bit integer add modulo 2^32. (R237) -/
  | vadd (u : BitVec 1) (g : BitVec 4) (d : BitVec 4) (w : BitVec 1) (a : BitVec 5) (b : BitVec 5) (z : BitVec 3) (k : BitVec 3)
  /-- 32-bit integer subtract. (R237) -/
  | vsub (u : BitVec 1) (g : BitVec 4) (d : BitVec 4) (w : BitVec 1) (a : BitVec 5) (b : BitVec 5) (z : BitVec 3) (k : BitVec 3)
  /-- Low 32 bits of the product. (R237) -/
  | vmul (u : BitVec 1) (g : BitVec 4) (d : BitVec 4) (w : BitVec 1) (a : BitVec 5) (b : BitVec 5) (z : BitVec 3) (k : BitVec 3)
  /-- High 32 bits of the signed or unsigned product. (R237) -/
  | vmulh (u : BitVec 1) (g : BitVec 4) (d : BitVec 4) (w : BitVec 1) (a : BitVec 5) (b : BitVec 5) (z : BitVec 3) (k : BitVec 3) (ux : BitVec 1)
  /-- Saturating add, signed or unsigned. (R237) -/
  | vadds (u : BitVec 1) (g : BitVec 4) (d : BitVec 4) (w : BitVec 1) (a : BitVec 5) (b : BitVec 5) (z : BitVec 3) (k : BitVec 3) (ux : BitVec 1)
  /-- Integer minimum. (R237) -/
  | vmin (u : BitVec 1) (g : BitVec 4) (d : BitVec 4) (w : BitVec 1) (a : BitVec 5) (b : BitVec 5) (z : BitVec 3) (k : BitVec 3) (ux : BitVec 1)
  /-- Integer maximum. (R237) -/
  | vmax (u : BitVec 1) (g : BitVec 4) (d : BitVec 4) (w : BitVec 1) (a : BitVec 5) (b : BitVec 5) (z : BitVec 3) (k : BitVec 3) (ux : BitVec 1)
  /-- Bitwise AND per lane. (R237) -/
  | vand (u : BitVec 1) (g : BitVec 4) (d : BitVec 4) (w : BitVec 1) (a : BitVec 5) (b : BitVec 5) (z : BitVec 3) (k : BitVec 3)
  /-- Bitwise OR per lane. (R237) -/
  | vor (u : BitVec 1) (g : BitVec 4) (d : BitVec 4) (w : BitVec 1) (a : BitVec 5) (b : BitVec 5) (z : BitVec 3) (k : BitVec 3)
  /-- Bitwise XOR per lane. (R237) -/
  | vxor (u : BitVec 1) (g : BitVec 4) (d : BitVec 4) (w : BitVec 1) (a : BitVec 5) (b : BitVec 5) (z : BitVec 3) (k : BitVec 3)
  /-- Shift left per lane. (R237) -/
  | vshl (u : BitVec 1) (g : BitVec 4) (d : BitVec 4) (w : BitVec 1) (a : BitVec 5) (b : BitVec 5) (z : BitVec 3) (k : BitVec 3)
  /-- Arithmetic or logical shift right per lane. (R237) -/
  | vshr (u : BitVec 1) (g : BitVec 4) (d : BitVec 4) (w : BitVec 1) (a : BitVec 5) (b : BitVec 5) (z : BitVec 3) (k : BitVec 3) (ux : BitVec 1)
  /-- Integer compare into a lane mask. (R238) -/
  | vcmp (u : BitVec 1) (g : BitVec 4) (d : BitVec 3) (w : BitVec 1) (a : BitVec 5) (b : BitVec 5) (z : BitVec 3) (c : BitVec 3) (ux : BitVec 1)
  /-- Add a signed 9-bit immediate per lane. (R239) -/
  | vaddi (u : BitVec 1) (g : BitVec 4) (d : BitVec 4) (w : BitVec 1) (sf : BitVec 5) (im : BitVec 9) (z : BitVec 3)
  /-- AND with a signed immediate per lane. (R239) -/
  | vandi (u : BitVec 1) (g : BitVec 4) (d : BitVec 4) (w : BitVec 1) (sf : BitVec 5) (im : BitVec 9) (z : BitVec 3)
  /-- Shift left per lane by an immediate count. (R239) -/
  | vshli (u : BitVec 1) (g : BitVec 4) (d : BitVec 4) (w : BitVec 1) (sf : BitVec 5) (im : BitVec 5) (z : BitVec 3)
  /-- Arithmetic or logical shift right per lane by an immediate count. (R239) -/
  | vshri (u : BitVec 1) (g : BitVec 4) (d : BitVec 4) (w : BitVec 1) (sf : BitVec 5) (a : BitVec 1) (im : BitVec 5) (z : BitVec 3)
  /-- Write a sign-extended immediate to every lane. (R239) -/
  | vmovi (u : BitVec 1) (g : BitVec 4) (d : BitVec 4) (w : BitVec 1) (im : BitVec 9) (z : BitVec 3)
  /-- Convert a float to an integer with rounding and saturation. (R241) -/
  | vcfi (u : BitVec 1) (g : BitVec 4) (d : BitVec 4) (w : BitVec 1) (sf : BitVec 5) (f : BitVec 3) (t : BitVec 3) (z : BitVec 3) (r : BitVec 2) (ux : BitVec 1)
  /-- Convert an integer to a float. (R241) -/
  | vcif (u : BitVec 1) (g : BitVec 4) (d : BitVec 4) (w : BitVec 1) (sf : BitVec 5) (f : BitVec 3) (t : BitVec 3) (z : BitVec 3) (r : BitVec 2) (ux : BitVec 1)
  /-- Narrow FP32 to BF16 or FP16. (R241) -/
  | vcfn (u : BitVec 1) (g : BitVec 4) (d : BitVec 4) (w : BitVec 1) (sf : BitVec 5) (t : BitVec 3) (z : BitVec 3) (r : BitVec 2)
  /-- Widen BF16 or FP16 to FP32 exactly. (R241) -/
  | vcnf (u : BitVec 1) (g : BitVec 4) (d : BitVec 4) (w : BitVec 1) (sf : BitVec 5) (f : BitVec 3) (z : BitVec 3) (r : BitVec 2)
  /-- Quantise a 32-element FP32 block to Q8 or Q4 with an E8 scale. (R242) -/
  | vqnt (u : BitVec 1) (g : BitVec 4) (d : BitVec 4) (w : BitVec 1) (sf : BitVec 5) (r : BitVec 2) (ux : BitVec 1)
  /-- Dequantise a Q8 or Q4 block to FP32. (R243) -/
  | vdqn (u : BitVec 1) (g : BitVec 4) (d : BitVec 4) (w : BitVec 1) (sf : BitVec 5) (r : BitVec 2) (ux : BitVec 1)
  /-- Convert FP32 to SP32. (R241) -/
  | vcfs (u : BitVec 1) (g : BitVec 4) (d : BitVec 4) (w : BitVec 1) (sf : BitVec 5) (z : BitVec 3) (r : BitVec 2)
  /-- Convert SP32 to FP32. (R241) -/
  | vcsf (u : BitVec 1) (g : BitVec 4) (d : BitVec 4) (w : BitVec 1) (sf : BitVec 5) (z : BitVec 3) (r : BitVec 2)
  /-- Move a plane line to or from an operand register. (R246) -/
  | vpmov (u : BitVec 1) (g : BitVec 4) (p : BitVec 10) (v : BitVec 4) (r : BitVec 1) (z : BitVec 3) (k : BitVec 3)
  /-- Permute bytes by an index register. (R244) -/
  | vperm (u : BitVec 1) (g : BitVec 4) (d : BitVec 4) (w : BitVec 1) (a : BitVec 5) (b : BitVec 5) (z : BitVec 3) (k : BitVec 3)
  /-- Broadcast lane j to every lane. (R245) -/
  | vbcst (u : BitVec 1) (g : BitVec 4) (d : BitVec 4) (w : BitVec 1) (a : BitVec 5) (j : BitVec 5) (z : BitVec 3) (k : BitVec 3)
  /-- Exchange lanes by XOR with s. (R245) -/
  | vxch (u : BitVec 1) (g : BitVec 4) (d : BitVec 4) (w : BitVec 1) (a : BitVec 5) (j : BitVec 5) (z : BitVec 3) (k : BitVec 3)
  /-- Interleave the lanes of two registers. (R245) -/
  | vzip (u : BitVec 1) (g : BitVec 4) (d : BitVec 4) (w : BitVec 1) (a : BitVec 5) (b : BitVec 5) (z : BitVec 3) (k : BitVec 3)
  /-- De-interleave the even lanes of two registers. (R245) -/
  | vuzp (u : BitVec 1) (g : BitVec 4) (d : BitVec 4) (w : BitVec 1) (a : BitVec 5) (b : BitVec 5) (z : BitVec 3) (k : BitVec 3)
  /-- Copy lanes. (R245) -/
  | vmov (u : BitVec 1) (g : BitVec 4) (d : BitVec 4) (w : BitVec 1) (a : BitVec 5) (z : BitVec 3) (k : BitVec 3)
  /-- Select lanes from two sources by a mask. (R247) -/
  | vsel (u : BitVec 1) (g : BitVec 4) (d : BitVec 4) (w : BitVec 1) (a : BitVec 5) (b : BitVec 5) (z : BitVec 3) (k : BitVec 3)
  /-- AND two lane masks. (R248) -/
  | kand (u : BitVec 1) (g : BitVec 4) (d : BitVec 3) (w : BitVec 1) (a : BitVec 3) (b : BitVec 3) (z : BitVec 3)
  /-- OR two lane masks. (R248) -/
  | kor (u : BitVec 1) (g : BitVec 4) (d : BitVec 3) (w : BitVec 1) (a : BitVec 3) (b : BitVec 3) (z : BitVec 3)
  /-- XOR two lane masks. (R248) -/
  | kxor (u : BitVec 1) (g : BitVec 4) (d : BitVec 3) (w : BitVec 1) (a : BitVec 3) (b : BitVec 3) (z : BitVec 3)
  /-- Copy a lane mask (form 0). (R248) -/
  | kmov (u : BitVec 1) (g : BitVec 4) (d : BitVec 3) (w : BitVec 1) (a : BitVec 3) (z : BitVec 3)
  /-- Set mask bits where register lanes are nonzero (form 1). (R248) -/
  | kmovNz (u : BitVec 1) (g : BitVec 4) (d : BitVec 3) (w : BitVec 1) (a : BitVec 5) (z : BitVec 3)
  /-- Take mask bits from the operation's lane 0 (form 2). (R248) -/
  | kmovBits (u : BitVec 1) (g : BitVec 4) (d : BitVec 3) (w : BitVec 1) (a : BitVec 5) (z : BitVec 3)
  /-- Pairwise-tree FP32 sum of the participating lanes. (R249) -/
  | vrsum (u : BitVec 1) (g : BitVec 4) (d : BitVec 4) (w : BitVec 1) (a : BitVec 5) (z : BitVec 3) (k : BitVec 3)
  /-- FP32 maximum reduction. (R249) -/
  | vrmax (u : BitVec 1) (g : BitVec 4) (d : BitVec 4) (w : BitVec 1) (a : BitVec 5) (z : BitVec 3) (k : BitVec 3)
  /-- FP32 minimum reduction. (R249) -/
  | vrmin (u : BitVec 1) (g : BitVec 4) (d : BitVec 4) (w : BitVec 1) (a : BitVec 5) (z : BitVec 3) (k : BitVec 3)
  /-- Integer sum reduction modulo 2^32. (R249) -/
  | vrisum (u : BitVec 1) (g : BitVec 4) (d : BitVec 4) (w : BitVec 1) (a : BitVec 5) (z : BitVec 3) (k : BitVec 3)
  /-- Inclusive FP32 prefix sum in a fixed tree order. (R250) -/
  | vscan (u : BitVec 1) (g : BitVec 4) (d : BitVec 4) (w : BitVec 1) (a : BitVec 5) (z : BitVec 3) (k : BitVec 3)
  /-- Table seed for a reciprocal. (R253) -/
  | frcps (u : BitVec 1) (g : BitVec 4) (d : BitVec 4) (w : BitVec 1) (a : BitVec 5) (z : BitVec 3) (k : BitVec 3)
  /-- Table seed for a reciprocal square root. (R254) -/
  | frsqs (u : BitVec 1) (g : BitVec 4) (d : BitVec 4) (w : BitVec 1) (a : BitVec 5) (z : BitVec 3) (k : BitVec 3)
  /-- Newton step for a reciprocal. (R255) -/
  | fnrcp (u : BitVec 1) (g : BitVec 4) (d : BitVec 4) (w : BitVec 1) (a : BitVec 5) (b : BitVec 5) (z : BitVec 3) (k : BitVec 3)
  /-- Newton step for a reciprocal square root. (R255) -/
  | fnrsq (u : BitVec 1) (g : BitVec 4) (d : BitVec 4) (w : BitVec 1) (a : BitVec 5) (b : BitVec 5) (z : BitVec 3) (k : BitVec 3)
  /-- Round to an integral value in the selected direction. (R257) -/
  | frint (u : BitVec 1) (g : BitVec 4) (d : BitVec 4) (w : BitVec 1) (sf : BitVec 5) (z : BitVec 3) (r : BitVec 2)
  /-- Multiply by 2^k, with k taken from an FP32 lane. (R258) -/
  | fscale (u : BitVec 1) (g : BitVec 4) (d : BitVec 4) (w : BitVec 1) (a : BitVec 5) (b : BitVec 5) (z : BitVec 3) (k : BitVec 3)
  /-- Extract the exponent as an FP32 integer. (R259) -/
  | fgete (u : BitVec 1) (g : BitVec 4) (d : BitVec 4) (w : BitVec 1) (a : BitVec 5) (z : BitVec 3) (k : BitVec 3)
  /-- Extract the signed significand. (R259) -/
  | fgetm (u : BitVec 1) (g : BitVec 4) (d : BitVec 4) (w : BitVec 1) (a : BitVec 5) (z : BitVec 3) (k : BitVec 3)
  /-- Counter-based random draw CBR32 per lane. (R260) -/
  | vrng (u : BitVec 1) (g : BitVec 4) (d : BitVec 4) (w : BitVec 1) (a : BitVec 5) (b : BitVec 5) (z : BitVec 3) (k : BitVec 3)
  /-- Multiply a block from streams A and B and accumulate it into an EXA tile. (R277) -/
  | mma (g : BitVec 4) (a : BitVec 4) (b : BitVec 4) (t : BitVec 1) (p : BitVec 6) (y : BitVec 1) (hx : BitVec 1)
  /-- Multiply a block and replace the tile elements with it. (R272) -/
  | mmaz (g : BitVec 4) (a : BitVec 4) (b : BitVec 4) (t : BitVec 1) (p : BitVec 6) (y : BitVec 1) (hx : BitVec 1)
  /-- Read a tile row out, rounded once, into a plane line. (R279) -/
  | mrd (g : BitVec 4) (t : BitVec 1) (r : BitVec 5) (l : BitVec 10) (f : BitVec 3) (e : BitVec 2)
  /-- Read a raw EXA chunk into a register. (R280) -/
  | mrdx (g : BitVec 4) (t : BitVec 1) (r : BitVec 5) (v : BitVec 4) (c : BitVec 4)
  /-- Write a raw EXA chunk, tags or the anchor into a tile. (R280) -/
  | mwrx (g : BitVec 4) (t : BitVec 1) (r : BitVec 5) (v : BitVec 4) (c : BitVec 4)
  /-- Clear a tile and keep its anchor. (R281) -/
  | mclr (g : BitVec 4) (t : BitVec 1)
  /-- Clear a tile and set its anchor. (R281) -/
  | manc (g : BitVec 4) (t : BitVec 1) (a : BitVec 16)
  /-- Move 128 bytes through a stream into the weight buffer. (R282) -/
  | mldw (g : BitVec 4) (sf : BitVec 4) (f : BitVec 12)
  /-- Upward pass of a sum-product tree, writing its root and possibly a stash. (R297) -/
  | spu (g : BitVec 4) (t : BitVec 3) (h : BitVec 6) (v : BitVec 4) (r : BitVec 8) (f : BitVec 1)
  /-- Downward pass against a stash, accumulating or overwriting adjoints. (R298) -/
  | spd (g : BitVec 4) (t : BitVec 3) (h : BitVec 6) (v : BitVec 4) (r : BitVec 8) (f : BitVec 1)
  /-- Write two bank-file rows from a register. (R299) -/
  | spld (g : BitVec 4) (v : BitVec 4) (r : BitVec 8) (c : BitVec 2)
  /-- Read two bank-file rows into a register. (R299) -/
  | spst (g : BitVec 4) (v : BitVec 4) (r : BitVec 8) (c : BitVec 2)
  /-- Write a shape-table entry. (R300) -/
  | spsh (g : BitVec 4) (h : BitVec 6) (v : BitVec 4)
  /-- Set a tree's weight set. (R301) -/
  | spw (g : BitVec 4) (t : BitVec 3) (v : BitVec 4)
  /-- Convert bank-file rows between FP32 and SP32. (R302) -/
  | spcv (g : BitVec 4) (r : BitVec 8) (n : BitVec 8) (e : BitVec 1)
  /-- Set a tree's mode and empty its stash. (R303) -/
  | spsc (g : BitVec 4) (t : BitVec 3) (m : BitVec 1)
  /-- Zero a tree's weights and empty its stash. (R303) -/
  | spcl (g : BitVec 4) (t : BitVec 3)
  /-- Scale-add the residue block at the partial-sum port from the scale queue head. (R278) -/
  | msc (g : BitVec 4) (b : BitVec 8)
  /-- Start, or gate, a copy command named by its descriptor, with an optional watermark. (R136) -/
  | cpy (g : BitVec 4) (n : BitVec 5) (m : BitVec 5)
  /-- Set a local watermark word's target and clear its count, generation and flags. (R138) -/
  | wms (g : BitVec 4) (n : BitVec 5) (sf : BitVec 1) (t : BitVec 16)
  /-- Start an overlay load of the idle instruction-store half. (R149) -/
  | ovl (g : BitVec 4) (n : BitVec 5)
  /-- Send a scalar message through a capability. (R183) -/
  | send (g : BitVec 4) (c : BitVec 8) (n : BitVec 5)
  /-- Send a line message through a capability. (R183) -/
  | sendLine (g : BitVec 4) (c : BitVec 8) (v : BitVec 4)
  /-- Bind a queue head to a local receive queue. (R184) -/
  | chb (g : BitVec 4) (c : BitVec 8) (h : BitVec 2)
  /-- Unbind a queue head. (R185) -/
  | chu (g : BitVec 4) (h : BitVec 2)
  /-- Queue a felt store packet to the quire window. (R163) -/
  | qwr (g : BitVec 4) (n : BitVec 5) (v : BitVec 4) (k : BitVec 3)
  /-- Queue a felt watermark-raise packet. (R163) -/
  | qwrWm (g : BitVec 4) (n : BitVec 5) (v : BitVec 4)
  /-- Queue a felt exact-add packet of four 256-bit elements. (R163) -/
  | qwrXadd (g : BitVec 4) (n : BitVec 5) (v : BitVec 4) (k : BitVec 3)
  /-- Queue a felt atomic packet whose old value returns to lda. (R164) -/
  | qat (g : BitVec 4) (n : BitVec 5) (v : BitVec 4) (o : BitVec 3) (sf : BitVec 1)
  /-- Set a gateway cell collecting for a felt destination. (R166) -/
  | gcs (g : BitVec 4) (c : BitVec 5) (n : BitVec 7) (a : BitVec 5)
  /-- Set a gateway cell collecting for a ream capability destination. (R166) -/
  | gcsReam (g : BitVec 4) (c : BitVec 5) (n : BitVec 7) (a : BitVec 5)
  /-- Contribute a raw EXA row to a gateway cell. (R167) -/
  | gcm (g : BitVec 4) (c : BitVec 5) (t : BitVec 1) (r : BitVec 5)
  /-- Atomic read-modify-write on local, HBM or remote integers. (R317) -/
  | atm (g : BitVec 4) (n : BitVec 5) (m : BitVec 5) (k : BitVec 5) (o : BitVec 3) (sf : BitVec 1) (r : BitVec 1)
  /-- Add an FP32 value exactly into a BIN set. (R319) -/
  | abn (g : BitVec 4) (n : BitVec 5) (m : BitVec 5)
  /-- Fold a BIN set into a rounded FP32 value. (R320) -/
  | bfold (g : BitVec 4) (n : BitVec 5) (m : BitVec 5) (e : BitVec 2)
  /-- Write a line into a crossing port's writer end. (R368) -/
  | xwr (g : BitVec 4) (p : BitVec 2) (v : BitVec 4)
  /-- Read a crossing port's reader end into lcx and advance the port. (R369) -/
  | xrd (g : BitVec 4) (p : BitVec 2)
  /-- Read a crossing port status bit into a predicate. (R370) -/
  | xst (g : BitVec 4) (p : BitVec 2) (d : BitVec 3) (sf : BitVec 3)
  /-- A bundle with RM set commits the gate buffer, empties the undo log, frees popped entries and becomes the restart point. (R378) -/
  | restartMark
  /-- The bundle header POP mask advances each named bound queue head by one message at bundle end. (R181) -/
  | pop (q : BitVec 4)
  /-- A bundle held by WMW issues 3 cycles after the raise that satisfies the wait. (R139) -/
  | wmwResume
  /-- The bundle after WAITC issues once the counter reaches the threshold. (R310) -/
  | waitcResume
  /-- Issue resumes after the last started overlay finishes. (R151) -/
  | ifenceResume
  /-- A WSAMP hold ends in the first cycle of the next sample. (R363) -/
  | wsampResume
  /-- A bundle that reads an empty bound head issues in the cycle after a push. (R181) -/
  | queueHeadResume
  /-- A bundle held on an EXA tile or matrix datapath issues when the awaited landing or free cycle arrives. (R276) -/
  | busyBitResume
  /-- A bundle held on a full command, send, felt or gate queue issues when an entry leaves. (R130) -/
  | queueCapResume
  /-- A committed gate entry that waited for room takes effect when its queue has room. (R378) -/
  | gateEntryRelease
  /-- A command starts at S, reads its descriptor and checks it at S+1. (R130) -/
  | copyCommandStart (id : Nat)
  /-- A copy beat performs at its destination at the offset of its pair of kinds. (R131) -/
  | copyBeat (id n : Nat)
  /-- The overlay loader finishes at F, setting STATE, CAUSE, NB and FS. (R149) -/
  | overlayFinish (id : Nat)
  /-- A channel slot starts and performs its read, write, refresh or withheld access. (R94) -/
  | hbmSlot (ch : BitVec 9)
  /-- The head of a felt send queue goes out in an owned slot. (R158) -/
  | feltSend (gwy : Bool)
  /-- Every awake mirror applies a packet at beat b+5. (R162) -/
  | feltPacketApply (pk : FeltPacket)
  /-- The felt master broadcasts a refusal for an uncorrectable beat, and the sender requeues the packet. (R157) -/
  | refusal (bt : Nat) (pk : FeltPacket)
  /-- A GCM contribution reaches a gateway cell and is added exactly, or a GCS sets the cell. (R167) -/
  | gatewayContribution (cell : BitVec 5) (arr : CellArrival)
  /-- A queued flit leaves in its pair's next usable owned slot. (R183) -/
  | webFlitSend
  /-- A web flit arrives at its destination core or gateway. (R172) -/
  | webFlitArrival (fl : Flit)
  /-- A remote ATM's old value returns in the reverse pair's slot and lands in lda. (R318) -/
  | remoteAtmReturn (num : Nat) (old : BitVec 64)
  /-- A ream link packet is received, checked, acknowledged and rejoined. (R187) -/
  | reamPacketReceive (lk : BitVec 4) (fls : List LinkFlit)
  /-- The destination gateway forwards a held ream message from g+LAT in its owned slots. (R189) -/
  | gatewayForward (lk : BitVec 4)
  /-- The mill cores initialise a ream link, which moves from DOWN to TRAIN. (R188) -/
  | linkInitialisation (lk : BitVec 4)
  /-- A link finishes training and pads to LAT, or stays in TRAIN. (R188) -/
  | linkTrained (lk : BitVec 4) (lat : BitVec 20)
  /-- No training or retrain within 50 µs takes the link DOWN. (R188) -/
  | trainingTimeout (lk : BitVec 4)
  /-- A retrain inside a retrain window takes a TIMED link to TRAIN. (R188) -/
  | retrain (lk : BitVec 4)
  /-- An unscheduled retrain discards partial packets, replays them and raises the timing fault. (R191) -/
  | unscheduledRetrain (lk : BitVec 4)
  /-- At the time a cut-short message would have been held, the queue records a missed arrival. (R191) -/
  | missedArrival (lk : BitVec 4)
  /-- A SLIPPED link pads to LAT again at the next launch of a kernel that uses it. (R188) -/
  | synchronisationPoint (lk : BitVec 4)
  /-- A peer applies the same throttle to its fabric-group regions within 1 µs. (R374) -/
  | paceMessage (div : BitVec 2)
  /-- A source edge marks a sample boundary, with phase steps, lag, drops or relock resumption. (R357) -/
  | sourceEdge (far : Bool) (periods : Nat)
  /-- A sample's budget ends before its edge, and the synthesiser gates pulses. (R357) -/
  | budgetEnd
  /-- After three nominal periods without an edge, the synthesiser enters HOLD or FROZEN. (R358) -/
  | edgesAbsent
  /-- Lock in ACQ or RELOCK moves the synthesiser to TRACK at the next edge. (R358) -/
  | lockAchieved
  /-- Writing RCLK EN = 1 starts the synthesiser's acquisition. (R358) -/
  | startAcquisition
  /-- Writing RCLK EN = 0 stops the synthesiser. (R358) -/
  | synthesiserStop
  /-- A written line reaches the reader end of a crossing port. (R366) -/
  | crossingLineArrival (pt : BitVec 2) (x : Crossing)
  /-- An alarm divides a region's pulse rate by four within 1 µs. (R393) -/
  | fastThrottle (alarm : BitVec 4)
  /-- DIV returns to full rate after every alarm has stayed clear for 100 µs. (R393) -/
  | throttleRelease
  /-- A correctable SRAM error is corrected in place and swallows 12 pulses of the region. (R382) -/
  | correctableError (cnt : BitVec 3)
  /-- An uncorrectable stored-data error poisons its granule. (R382) -/
  | uncorrectableError (at_ : ErrorAt)
  /-- A canary failure steps VOUT up by 5 mV. (R392) -/
  | canaryFailure
  /-- After 10 ms with no canary failure, VOUT steps down by 5 mV. (R392) -/
  | voutStepDown
  /-- Every 10 µs VOUT is trimmed towards the target slack SLK. (R392) -/
  | replicaTrim (up : Bool) (mv : BitVec 3)
  /-- A stack's new heat level takes effect at the next slot 0. (R396) -/
  | heatLevelChange (stk : BitVec 4) (lvl : BitVec 2)
  /-- The cycle count since the last PS bundle reaches preb and raises the watchdog fault. (R386) -/
  | watchdog
  /-- The runtime resumes a faulted or trapped core at its restart or recorded bundle. (R379) -/
  | resume (wr : List (RegFile × BitVec 10 × BitVec 1024))
  /-- The driver makes a faulted extent RESIDENT and moves it to the head of the active list. (R107) -/
  | residencyFaultService (ent : BitVec 10) (pb : BitVec 22)
  /-- At least every 10 ms, and at each kernel boundary, the driver reads and clears ACC and updates its lists. (R107) -/
  | accessCounterScan (others : List (BitVec 10 × BitVec 5 × BitVec 16))
  /-- A translation entry takes effect when its high doubleword is written, at the end of a web cycle. (R104) -/
  | translationEntryWrite (ent : BitVec 10) (hi : Bool) (dw : BitVec 64)
  /-- Between kernels the mill cores move extents to their new homes. (R120) -/
  | pageMove (ent : BitVec 10) (pb : BitVec 22)
  /-- A mill-core access to kernel memory is performed in a best-effort slot. (R316) -/
  | millCoreAccess (pa : BitVec 40) (wr : Bool) (dw : BitVec 64)
  /-- The mill cores reinitialise the web clock and select its reference. (R17) -/
  | webClockInitialisation (trained : Bool)
  /-- A PCTL GO bit adds one start credit. (R346) -/
  | go
  /-- A ready entry starts: placement, table and image loading, then RUN. (R347) -/
  | kernelStart (ent : BitVec 3) (sh : Option Shares)
  /-- When every core has halted and every access has performed, the entry becomes DONE. (R316) -/
  | kernelComplete (ab : Option (BitVec 5 × BitVec 9))
  /-- A PPRE REQ write requests that the partition hold at PS bundles and drain. (R387) -/
  | preEmptionRequest
  /-- After its drain a core is parked, and its region's context goes to shadow storage. (R387) -/
  | park
  /-- A PPRE RES write restores the parked context, which resumes at the next sample boundary. (R388) -/
  | restore
  /-- Writing SLP = 1 puts a sheet to sleep. (R399) -/
  | sheetSleep (sh : BitVec 5)
  /-- Writing SLP = 0 wakes a sheet and starts its mirror reload. (R170) -/
  | sheetWake (sh : BitVec 5)
  /-- The reload ends after 1.6 µs, and held quire reads proceed. (R170) -/
  | mirrorReloadEnd
  /-- A one written to bit 0 of SNAPT triggers a snapshot. (R389) -/
  | managementTrigger
  /-- The external trigger pin, or another core's SNAP or fault, triggers a snapshot. (R389) -/
  | externalTrigger (src : Outside)
  /-- Every snapshot register latches in web cycle T+24. (R389) -/
  | snapshotLatch
  /-- A read of LINKST returns and resets its RS counters. (R188) -/
  | linkstRead (lk : BitVec 4)
  /-- A mill-core write to a device register with no behaviour of its own. (R89) -/
  | registerWrite (off : BitVec 34) (dw : BitVec 64)
  /-- A debug halt stops the core at its next bundle and saves in-flight results. (R403) -/
  | debugHalt
  /-- Resuming from a debug halt issues the bundle and lands saved results. (R403) -/
  | debugResume
  /-- A single-bundle step issues one bundle and halts again. (R403) -/
  | singleBundleStep
  /-- A signed, device-bound token unlocks debug until the next power cycle. (R402) -/
  | unlockToken (tok : List (BitVec 8))
  /-- Power-good brings up the rails and the boot ROM verifies and runs a flash image. (R400) -/
  | powerGood
  /-- After both flashes fail, a signed image is accepted through the PCIe endpoint. (R400) -/
  | signedImage (img : List (BitVec 8))
  /-- An SPDM CHALLENGE is answered, signed with the identity key. (R401) -/
  | challenge (nonce : List (BitVec 8))
  /-- An SPDM GET_MEASUREMENTS request returns signed measurements. (R401) -/
  | getMeasurements (nonce : List (BitVec 8))
  /-- A PCTL write with SUB bit e set makes launch entry e PEND and stamps it with a submission number, or leaves it ABORTED with cause 6 when its DEP names itself. (R345) -/
  | submission (ent : BitVec 3)
  /-- When a partition's power averaged over 1 ms exceeds CAPW, the power controller swallows pulses evenly across its regions (DIV 2), possibly below MINC, and releases them when power falls. (R394) -/
  | capThrottling (on : Bool)
  /-- A bundle held because the sum-product slot is still occupied by an SPU extension or an SPCV issues when the slot becomes free. (R289) -/
  | bankExtensionResume
  /-- With debug unlocked, a JTAG register access reads or writes the registers of a halted compute core. (R402) -/
  | debugRegisterAccess (wr : Bool) (at_ : DebugTarget) (val : BitVec 1024)
deriving DecidableEq, Repr

end Sys2Proof
end

