-- ==== Sys2Proof/WellFormed.lean ====
section
/-! DEFINITION. Which instructions are well formed: the encoding checks of 03 that no field width makes by itself. -/

namespace Sys2Proof

/-- A 6-bit address source: a register, or a latch other than the reserved code 11 with bit 4 zero (03 R37, R57). -/
def okA (x : BitVec 6) : Bool := x.toNat < 32 || (x.toNat < 48 && x.toNat ≠ 32 + 11)

/-- A 5-bit vector source: a register, or a latch other than the reserved code 11 (03 R37, R57). -/
def okV (x : BitVec 5) : Bool := x.toNat ≠ 16 + 11

/-- With write-back suppressed the destination field is zero (03 R38). -/
def okWbs {n : Nat} (w : BitVec 1) (d : BitVec n) : Bool := w == 0 || d.toNat == 0

/-- The vector width codes; 0b111 is reserved (03 R40). -/
def okZ (z : BitVec 3) : Bool := z.toNat ≠ 7

/-- The number of lanes of a vector width code (03 R40, 13 R229). -/
def lanesOf (z : BitVec 3) : Nat := if z.toNat < 4 then 8 else if z.toNat < 6 then 16 else 32

/-- A line specifier: any plane line, or vN with the upper bits zero (03 R49). -/
def okTarget (t : BitVec 1) (sp : BitVec 10) : Bool := t == 0 || sp.toNat < 16

/-- The forms of LDL and STL (12 R217). -/
def okWidth (w h : BitVec 2) : Bool :=
  match w.toNat with
  | 0 => h.toNat == 0
  | 1 => decide (h.toNat < 2)
  | 2 => true
  | _ => false

/-- The kinds of LDS and STS (12 R218). -/
def okKind (k : BitVec 4) : Bool := k.toNat < 4 || (8 ≤ k.toNat && k.toNat < 11)

/-- The published profiles (15 R266). -/
def okProfile (p : BitVec 6) : Bool := [0, 1, 2, 8, 9, 12].contains p.toNat

/-- The special-register numbers that are listed (11 R200). -/
def readable (n : BitVec 9) : Bool :=
  let x := n.toNat
  x < 6 || x == 0x10 || (0x20 ≤ x && x < 0x28) || x == 0x40 || x == 0x41 || (0x80 ≤ x && x < 0x84)
    || (0xC0 ≤ x && x < 0xC9) || x == 0x100 || (0x120 ≤ x && x < 0x140)

/-- The special registers that hold a field software can write (11 R200); the others are RO throughout, `ovrc` is RS
only. -/
def writable (n : BitVec 9) : Bool :=
  let x := n.toNat
  x == 0x40 || x == 0x41 || x == 0x83 || x == 0xC0 || x == 0x100 || (0x120 ≤ x && x < 0x140)

/-- An instruction that a slot may issue: no reserved value, latch code 11, reserved width, nor a destination beside the
write-back-suppress bit (03 R38, R42, R57).  An event has no encoding to check. -/
def Instr.wf : Instr → Bool
  | .nop n => decide (n ≠ 0)
  | .nopControl => true
  | .br _ _ => true
  | .bri _ _ _ => true
  | .call _ _ => true
  | .calli _ _ _ => true
  | .ret _ => true
  | .loop _ _ _ => true
  | .loopa _ _ _ => true
  | .loopn _ _ _ => true
  | .brk _ => true
  | .plog _ _ o _ _ => decide (o.toNat ≤ 2)
  | .pset _ _ _ => true
  | .nxt _ _ => true
  | .wsamp _ => true
  | .waitc _ _ _ => true
  | .wmw _ _ _ => true
  | .ifence _ _ => true
  | .bswap _ _ => true
  | .snap _ => true
  | .trap _ _ _ => true
  | .sysc _ _ _ => true
  | .halt _ => true
  | .srd _ sf _ => readable sf
  | .swr _ sf _ => readable sf && writable sf
  | .mark _ => true
  | .add _ _ d a b w => okA a && okA b && okWbs w d
  | .sub _ _ d a b w => okA a && okA b && okWbs w d
  | .and _ _ d a b w => okA a && okA b && okWbs w d
  | .or _ _ d a b w => okA a && okA b && okWbs w d
  | .xor _ _ d a b w => okA a && okA b && okWbs w d
  | .shl _ _ d a b w => okA a && okA b && okWbs w d
  | .shr _ _ d a b w => okA a && okA b && okWbs w d
  | .sar _ _ d a b w => okA a && okA b && okWbs w d
  | .mul _ _ d a b w => okA a && okA b && okWbs w d
  | .mulh _ _ d a b w => okA a && okA b && okWbs w d
  | .mulhu _ _ d a b w => okA a && okA b && okWbs w d
  | .min _ _ d a b w => okA a && okA b && okWbs w d
  | .max _ _ d a b w => okA a && okA b && okWbs w d
  | .minu _ _ d a b w => okA a && okA b && okWbs w d
  | .maxu _ _ d a b w => okA a && okA b && okWbs w d
  | .andn _ _ d a b w => okA a && okA b && okWbs w d
  | .cmp _ _ _ a b _ => okA a && okA b
  | .addi _ _ d sf _ w => okA sf && okWbs w d
  | .andi _ _ d sf _ w => okA sf && okWbs w d
  | .ori _ _ d sf _ w => okA sf && okWbs w d
  | .xori _ _ d sf _ w => okA sf && okWbs w d
  | .shli _ _ d sf _ w => okA sf && okWbs w d
  | .shri _ _ d sf _ w => okA sf && okWbs w d
  | .sari _ _ d sf _ w => okA sf && okWbs w d
  | .muli _ _ d sf _ w => okA sf && okWbs w d
  | .imx _ _ d sf _ w => okA sf && okWbs w d
  | .cmpi _ _ _ _ sf _ => okA sf
  | .mset _ _ _ sf _ => okA sf
  | .aupd _ _ d _ b w => okA b && okWbs w d
  | .lane _ _ sf _ z k ux => okTarget k sf && !(z == 3 && ux == 1)
  | .ldl _ _ sf _ _ w t h => okTarget t sf && okWidth w h
  | .stl _ _ sf _ _ w t h => okTarget t sf && okWidth w h
  | .lds _ _ _ _ _ k => okKind k
  | .sts _ _ _ _ _ k => okKind k
  | .ldg _ _ _ _ _ w _ => decide (w ≠ 3)
  | .stg _ _ _ _ _ w _ => decide (w ≠ 3)
  | .ldb _ _ sf _ _ w t f _ => okTarget t sf && !(w == 0 && f == 1)
  | .sdef _ _ _ _ _ => true
  | .srdf _ _ _ _ _ => true
  | .sadv _ _ _ _ d => decide (d.toNat ≤ 5)
  | .srst _ _ _ => true
  | .ldt _ _ sf _ k => okTarget k sf
  | .stt _ _ sf _ k => okTarget k sf
  | .vfadd _ _ d w a b z _ => okZ z && okV a && okV b && okWbs w d
  | .vfsub _ _ d w a b z _ => okZ z && okV a && okV b && okWbs w d
  | .vfmul _ _ d w a b z _ => okZ z && okV a && okV b && okWbs w d
  | .vfma _ _ d w a b z _ => okZ z && okV a && okV b && okWbs w d
  | .vfms _ _ d w a b z _ => okZ z && okV a && okV b && okWbs w d
  | .vfnma _ _ d w a b z _ => okZ z && okV a && okV b && okWbs w d
  | .vfmin _ _ d w a b z _ => okZ z && okV a && okV b && okWbs w d
  | .vfmax _ _ d w a b z _ => okZ z && okV a && okV b && okWbs w d
  | .vfabs _ _ d w a z _ => okZ z && okV a && okWbs w d
  | .vfcmp _ _ d w a b z _ => okZ z && okV a && okV b && okWbs w d
  | .vadd _ _ d w a b z _ => okZ z && okV a && okV b && okWbs w d
  | .vsub _ _ d w a b z _ => okZ z && okV a && okV b && okWbs w d
  | .vmul _ _ d w a b z _ => okZ z && okV a && okV b && okWbs w d
  | .vmulh _ _ d w a b z _ _ => okZ z && okV a && okV b && okWbs w d
  | .vadds _ _ d w a b z _ _ => okZ z && okV a && okV b && okWbs w d
  | .vmin _ _ d w a b z _ _ => okZ z && okV a && okV b && okWbs w d
  | .vmax _ _ d w a b z _ _ => okZ z && okV a && okV b && okWbs w d
  | .vand _ _ d w a b z _ => okZ z && okV a && okV b && okWbs w d
  | .vor _ _ d w a b z _ => okZ z && okV a && okV b && okWbs w d
  | .vxor _ _ d w a b z _ => okZ z && okV a && okV b && okWbs w d
  | .vshl _ _ d w a b z _ => okZ z && okV a && okV b && okWbs w d
  | .vshr _ _ d w a b z _ _ => okZ z && okV a && okV b && okWbs w d
  | .vcmp _ _ d w a b z c _ => okZ z && okV a && okV b && okWbs w d && decide (c.toNat ≤ 5)
  | .vaddi _ _ d w sf _ z => okZ z && okV sf && okWbs w d
  | .vandi _ _ d w sf _ z => okZ z && okV sf && okWbs w d
  | .vshli _ _ d w sf _ z => okZ z && okV sf && okWbs w d
  | .vshri _ _ d w sf _ _ z => okZ z && okV sf && okWbs w d
  | .vmovi _ _ d w _ z => okZ z && okWbs w d
  | .vcfi _ _ d w sf f t z _ _ => okZ z && okV sf && okWbs w d && decide (f.toNat ≤ 2) && decide (4 ≤ t.toNat ∧ t.toNat ≤ 6)
  | .vcif _ _ d w sf f t z _ _ => okZ z && okV sf && okWbs w d && decide (4 ≤ f.toNat ∧ f.toNat ≤ 6) && decide (t.toNat ≤ 2)
  | .vcfn _ _ d w sf t z _ => okZ z && okV sf && okWbs w d && decide (1 ≤ t.toNat ∧ t.toNat ≤ 2)
  | .vcnf _ _ d w sf f z _ => okZ z && okV sf && okWbs w d && decide (1 ≤ f.toNat ∧ f.toNat ≤ 2)
  | .vqnt _ _ d w sf _ _ => okV sf && okWbs w d
  | .vdqn _ _ d w sf _ _ => okV sf && okWbs w d
  | .vcfs _ _ d w sf z _ => okZ z && okV sf && okWbs w d
  | .vcsf _ _ d w sf z _ => okZ z && okV sf && okWbs w d
  | .vpmov _ _ _ _ _ z _ => okZ z
  | .vperm _ _ d w a b z _ => okZ z && okV a && okV b && okWbs w d
  | .vbcst _ _ d w a j z _ => okZ z && okV a && okWbs w d && decide (j.toNat < lanesOf z)
  | .vxch _ _ d w a j z _ => okZ z && okV a && okWbs w d && decide (j.toNat < lanesOf z)
  | .vzip _ _ d w a b z _ => okZ z && okV a && okV b && okWbs w d
  | .vuzp _ _ d w a b z _ => okZ z && okV a && okV b && okWbs w d
  | .vmov _ _ d w a z _ => okZ z && okV a && okWbs w d
  | .vsel _ _ d w a b z _ => okZ z && okV a && okV b && okWbs w d
  | .kand _ _ d w _ _ z => okZ z && okWbs w d
  | .kor _ _ d w _ _ z => okZ z && okWbs w d
  | .kxor _ _ d w _ _ z => okZ z && okWbs w d
  | .kmov _ _ d w _ z => okZ z && okWbs w d
  | .kmovNz _ _ d w a z => okZ z && okV a && okWbs w d
  | .kmovBits _ _ d w a z => okZ z && okV a && okWbs w d
  | .vrsum _ _ d w a z _ => okZ z && okV a && okWbs w d
  | .vrmax _ _ d w a z _ => okZ z && okV a && okWbs w d
  | .vrmin _ _ d w a z _ => okZ z && okV a && okWbs w d
  | .vrisum _ _ d w a z _ => okZ z && okV a && okWbs w d
  | .vscan _ _ d w a z _ => okZ z && okV a && okWbs w d
  | .frcps _ _ d w a z _ => okZ z && okV a && okWbs w d
  | .frsqs _ _ d w a z _ => okZ z && okV a && okWbs w d
  | .fnrcp _ _ d w a b z _ => okZ z && okV a && okV b && okWbs w d
  | .fnrsq _ _ d w a b z _ => okZ z && okV a && okV b && okWbs w d
  | .frint _ _ d w sf z _ => okZ z && okV sf && okWbs w d
  | .fscale _ _ d w a b z _ => okZ z && okV a && okV b && okWbs w d
  | .fgete _ _ d w a z _ => okZ z && okV a && okWbs w d
  | .fgetm _ _ d w a z _ => okZ z && okV a && okWbs w d
  | .vrng _ _ d w a b z _ => okZ z && okV a && okV b && okWbs w d
  | .mma _ _ _ _ p _ _ => okProfile p
  | .mmaz _ _ _ _ p _ _ => okProfile p
  | .mrd _ _ _ _ f _ => decide (f.toNat ≤ 3)
  | .mrdx _ _ _ _ c => decide (c.toNat ≤ 8)
  | .mwrx _ _ _ _ c => decide (c.toNat ≤ 8)
  | .mclr _ _ => true
  | .manc _ _ _ => true
  | .mldw _ _ f => decide (f.toNat ≤ 4092)
  | .spu _ _ _ _ _ _ => true
  | .spd _ _ _ _ _ _ => true
  | .spld _ _ r c => decide (r.toNat % 2 = 0) && decide (c.toNat ≤ 1)
  | .spst _ _ r c => decide (r.toNat % 2 = 0) && decide (c.toNat ≤ 1)
  | .spsh _ _ _ => true
  | .spw _ _ _ => true
  | .spcv _ r n _ => decide (r.toNat + n.toNat + 1 ≤ 256)
  | .spsc _ _ _ => true
  | .spcl _ _ => true
  | .msc _ _ => true
  | .cpy _ _ _ => true
  | .wms _ _ _ _ => true
  | .ovl _ _ => true
  | .send _ _ _ => true
  | .sendLine _ _ _ => true
  | .chb _ _ _ => true
  | .chu _ _ => true
  | .qwr _ _ _ _ => true
  | .qwrWm _ _ _ => true
  | .qwrXadd _ _ _ _ => true
  | .qat _ _ _ o _ => decide (o.toNat ≤ 6)
  | .gcs _ _ _ _ => true
  | .gcsReam _ _ _ _ => true
  | .gcm _ _ _ _ => true
  | .atm _ _ _ k o _ _ => decide (o.toNat ≤ 6) && (o == 6 || k == 0)
  | .abn _ _ _ => true
  | .bfold _ _ _ _ => true
  | .xwr _ _ _ => true
  | .xrd _ _ => true
  | .xst _ _ _ sf => decide (sf.toNat ≤ 4)
  | .restartMark => true
  | .pop _ => true
  | .wmwResume => true
  | .waitcResume => true
  | .ifenceResume => true
  | .wsampResume => true
  | .queueHeadResume => true
  | .busyBitResume => true
  | .queueCapResume => true
  | .gateEntryRelease => true
  | .copyCommandStart _ => true
  | .copyBeat _ _ => true
  | .overlayFinish _ => true
  | .hbmSlot _ => true
  | .feltSend _ => true
  | .feltPacketApply _ => true
  | .refusal _ _ => true
  | .gatewayContribution _ _ => true
  | .webFlitSend => true
  | .webFlitArrival _ => true
  | .remoteAtmReturn _ _ => true
  | .reamPacketReceive _ _ => true
  | .gatewayForward _ => true
  | .linkInitialisation _ => true
  | .linkTrained _ _ => true
  | .trainingTimeout _ => true
  | .retrain _ => true
  | .unscheduledRetrain _ => true
  | .missedArrival _ => true
  | .synchronisationPoint _ => true
  | .paceMessage _ => true
  | .sourceEdge _ _ => true
  | .budgetEnd => true
  | .edgesAbsent => true
  | .lockAchieved => true
  | .startAcquisition => true
  | .synthesiserStop => true
  | .crossingLineArrival _ _ => true
  | .fastThrottle _ => true
  | .throttleRelease => true
  | .correctableError _ => true
  | .uncorrectableError _ => true
  | .canaryFailure => true
  | .voutStepDown => true
  | .replicaTrim _ _ => true
  | .heatLevelChange _ _ => true
  | .watchdog => true
  | .resume _ => true
  | .residencyFaultService _ _ => true
  | .accessCounterScan _ => true
  | .translationEntryWrite _ _ _ => true
  | .pageMove _ _ => true
  | .millCoreAccess _ _ _ => true
  | .webClockInitialisation _ => true
  | .go => true
  | .kernelStart _ _ => true
  | .kernelComplete _ => true
  | .preEmptionRequest => true
  | .park => true
  | .restore => true
  | .sheetSleep _ => true
  | .sheetWake _ => true
  | .mirrorReloadEnd => true
  | .managementTrigger => true
  | .externalTrigger _ => true
  | .snapshotLatch => true
  | .linkstRead _ => true
  | .registerWrite _ _ => true
  | .debugHalt => true
  | .debugResume => true
  | .singleBundleStep => true
  | .unlockToken _ => true
  | .powerGood => true
  | .signedImage _ => true
  | .challenge _ => true
  | .getMeasurements _ => true
  | .submission _ => true
  | .capThrottling _ => true
  | .bankExtensionResume => true
  | .debugRegisterAccess _ _ _ => true

/-- `wf` as a proposition. -/
abbrev Instr.WF (i : Instr) : Prop := i.wf = true

end Sys2Proof
end

