-- ==== Sys2Proof/Decode.lean ====
section
/-! DEFINITION. The decoder, total on every slot word and bundle and refusing by name, and after it the encoder. -/

namespace Sys2Proof

/-- The n bits of a slot word from bit lo up. -/
def fld (w : SlotWord) (lo n : Nat) : BitVec n := BitVec.ofNat n (w.toNat / 2 ^ lo)

/-- A field's value at its place in the word, above the rest of the word. -/
def pk (x lo rest : Nat) : Nat := x * 2 ^ lo + rest

/-- Why a slot word is no instruction.  Each raises the illegal-operation fault in its slot (03 R42, R57). -/
inductive DecodeError where
  /-- the opcode, or a form of it, is unassigned (R48 to R54) -/
  | unassigned
  /-- opcode 0 with a nonzero guard or operand bit (R43) -/
  | nopOperands
  /-- a reserved bit, value or code in a field (R42, R57) -/
  | reservedField
deriving DecidableEq, Repr

/-- The control map, slot 0 (03 R45). -/
def readControl (w : SlotWord) : Option Instr :=
  match (fld w 14 6).toNat with
  | 0 => some (.nopControl)
  | 1 => some (.br (fld w 20 4) (fld w 0 14))
  | 2 => some (.bri (fld w 20 4) (fld w 9 5) (fld w 0 9))
  | 3 => some (.call (fld w 20 4) (fld w 0 14))
  | 4 => some (.calli (fld w 20 4) (fld w 9 5) (fld w 0 9))
  | 5 => some (.ret (fld w 20 4))
  | 6 => some (.loop (fld w 20 4) (fld w 6 7) (fld w 0 6))
  | 7 => some (.loopa (fld w 20 4) (fld w 8 5) (fld w 0 6))
  | 8 => some (.loopn (fld w 20 4) (fld w 8 5) (fld w 0 6))
  | 9 => some (.brk (fld w 20 4))
  | 10 => some (.plog (fld w 20 4) (fld w 11 3) (fld w 8 3) (fld w 4 4) (fld w 0 4))
  | 11 => some (.pset (fld w 20 4) (fld w 11 3) (fld w 8 1))
  | 12 => some (.nxt (fld w 20 4) (fld w 11 3))
  | 13 => some (.wsamp (fld w 20 4))
  | 14 => some (.waitc (fld w 20 4) (fld w 9 1) (fld w 0 9))
  | 15 => some (.wmw (fld w 20 4) (fld w 9 5) (fld w 0 9))
  | 16 => some (.ifence (fld w 20 4) (fld w 11 3))
  | 17 => some (.bswap (fld w 20 4) (fld w 0 10))
  | 18 => some (.snap (fld w 20 4))
  | 19 => some (.trap (fld w 20 4) (fld w 9 5) (fld w 0 9))
  | 20 => some (.sysc (fld w 20 4) (fld w 9 5) (fld w 0 9))
  | 21 => some (.halt (fld w 20 4))
  | 22 => some (.srd (fld w 20 4) (fld w 5 9) (fld w 0 5))
  | 23 => some (.swr (fld w 20 4) (fld w 5 9) (fld w 0 5))
  | 24 => some (.mark (fld w 20 4))
  | _ => none

/-- The address map of slots 1 and 2 (03 R48). -/
def readAddress (u : BitVec 1) (w : SlotWord) : Option Instr :=
  match (fld w 22 6).toNat with
  | 1 =>
    match (fld w 0 4).toNat with
    | 0 => some (.add u (fld w 28 4) (fld w 17 5) (fld w 11 6) (fld w 5 6) (fld w 4 1))
    | 1 => some (.sub u (fld w 28 4) (fld w 17 5) (fld w 11 6) (fld w 5 6) (fld w 4 1))
    | 2 => some (.and u (fld w 28 4) (fld w 17 5) (fld w 11 6) (fld w 5 6) (fld w 4 1))
    | 3 => some (.or u (fld w 28 4) (fld w 17 5) (fld w 11 6) (fld w 5 6) (fld w 4 1))
    | 4 => some (.xor u (fld w 28 4) (fld w 17 5) (fld w 11 6) (fld w 5 6) (fld w 4 1))
    | 5 => some (.shl u (fld w 28 4) (fld w 17 5) (fld w 11 6) (fld w 5 6) (fld w 4 1))
    | 6 => some (.shr u (fld w 28 4) (fld w 17 5) (fld w 11 6) (fld w 5 6) (fld w 4 1))
    | 7 => some (.sar u (fld w 28 4) (fld w 17 5) (fld w 11 6) (fld w 5 6) (fld w 4 1))
    | 8 => some (.mul u (fld w 28 4) (fld w 17 5) (fld w 11 6) (fld w 5 6) (fld w 4 1))
    | 9 => some (.mulh u (fld w 28 4) (fld w 17 5) (fld w 11 6) (fld w 5 6) (fld w 4 1))
    | 10 => some (.mulhu u (fld w 28 4) (fld w 17 5) (fld w 11 6) (fld w 5 6) (fld w 4 1))
    | 11 => some (.min u (fld w 28 4) (fld w 17 5) (fld w 11 6) (fld w 5 6) (fld w 4 1))
    | 12 => some (.max u (fld w 28 4) (fld w 17 5) (fld w 11 6) (fld w 5 6) (fld w 4 1))
    | 13 => some (.minu u (fld w 28 4) (fld w 17 5) (fld w 11 6) (fld w 5 6) (fld w 4 1))
    | 14 => some (.maxu u (fld w 28 4) (fld w 17 5) (fld w 11 6) (fld w 5 6) (fld w 4 1))
    | 15 => some (.andn u (fld w 28 4) (fld w 17 5) (fld w 11 6) (fld w 5 6) (fld w 4 1))
    | _ => none
  | 2 => some (.cmp u (fld w 28 4) (fld w 19 3) (fld w 11 6) (fld w 5 6) (fld w 0 3))
  | 3 => some (.addi u (fld w 28 4) (fld w 17 5) (fld w 11 6) (fld w 1 10) (fld w 0 1))
  | 4 => some (.andi u (fld w 28 4) (fld w 17 5) (fld w 11 6) (fld w 1 10) (fld w 0 1))
  | 5 => some (.ori u (fld w 28 4) (fld w 17 5) (fld w 11 6) (fld w 1 10) (fld w 0 1))
  | 6 => some (.xori u (fld w 28 4) (fld w 17 5) (fld w 11 6) (fld w 1 10) (fld w 0 1))
  | 7 => some (.shli u (fld w 28 4) (fld w 17 5) (fld w 11 6) (fld w 1 6) (fld w 0 1))
  | 8 => some (.shri u (fld w 28 4) (fld w 17 5) (fld w 11 6) (fld w 1 6) (fld w 0 1))
  | 9 => some (.sari u (fld w 28 4) (fld w 17 5) (fld w 11 6) (fld w 1 6) (fld w 0 1))
  | 10 => some (.muli u (fld w 28 4) (fld w 17 5) (fld w 11 6) (fld w 1 10) (fld w 0 1))
  | 11 => some (.imx u (fld w 28 4) (fld w 17 5) (fld w 11 6) (fld w 1 10) (fld w 0 1))
  | 12 => some (.cmpi u (fld w 28 4) (fld w 19 3) (BitVec.ofNat 3 ((fld w 17 2).toNat * 2 + (fld w 0 1).toNat)) (fld w 11 6) (fld w 1 10))
  | 13 => some (.mset u (fld w 28 4) (fld w 17 5) (fld w 11 6) (fld w 1 10))
  | 14 => some (.aupd u (fld w 28 4) (fld w 17 5) (fld w 11 5) (fld w 5 6) (fld w 4 1))
  | 15 => some (.lane u (fld w 28 4) (fld w 12 10) (fld w 7 5) (fld w 4 2) (fld w 3 1) (fld w 0 1))
  | 16 => some (.ldl u (fld w 28 4) (fld w 12 10) (fld w 7 5) (fld w 6 1) (fld w 4 2) (fld w 3 1) (fld w 0 2))
  | 17 => some (.stl u (fld w 28 4) (fld w 12 10) (fld w 7 5) (fld w 6 1) (fld w 4 2) (fld w 3 1) (fld w 0 2))
  | 18 => some (.lds u (fld w 28 4) (fld w 17 5) (fld w 7 5) (fld w 6 1) (fld w 0 4))
  | 19 => some (.sts u (fld w 28 4) (fld w 17 5) (fld w 7 5) (fld w 6 1) (fld w 0 4))
  | 20 => some (.ldg u (fld w 28 4) (fld w 12 4) (fld w 7 5) (fld w 6 1) (fld w 4 2) (fld w 0 4))
  | 21 => some (.stg u (fld w 28 4) (fld w 12 4) (fld w 7 5) (fld w 6 1) (fld w 4 2) (fld w 0 4))
  | 22 => some (.ldb u (fld w 28 4) (fld w 12 10) (fld w 7 5) (fld w 6 1) (fld w 4 2) (fld w 3 1) (fld w 2 1) (fld w 0 2))
  | 24 => some (.sdef u (fld w 28 4) (fld w 18 4) (fld w 17 1) (fld w 8 4))
  | 25 => some (.srdf u (fld w 28 4) (fld w 17 5) (fld w 8 4) (fld w 4 4))
  | 26 => some (.sadv u (fld w 28 4) (fld w 17 5) (fld w 8 4) (fld w 4 4))
  | 27 => some (.srst u (fld w 28 4) (fld w 8 4))
  | 28 => some (.ldt u (fld w 28 4) (fld w 12 10) (fld w 8 4) (fld w 3 1))
  | 29 => some (.stt u (fld w 28 4) (fld w 12 10) (fld w 8 4) (fld w 3 1))
  | _ => none

/-- The vector map of slots 3 and 4 (03 R51). -/
def readVector (u : BitVec 1) (w : SlotWord) : Option Instr :=
  match (fld w 22 6).toNat with
  | 1 => some (.vfadd u (fld w 28 4) (fld w 18 4) (fld w 17 1) (fld w 12 5) (fld w 7 5) (fld w 4 3) (fld w 1 3))
  | 2 => some (.vfsub u (fld w 28 4) (fld w 18 4) (fld w 17 1) (fld w 12 5) (fld w 7 5) (fld w 4 3) (fld w 1 3))
  | 3 => some (.vfmul u (fld w 28 4) (fld w 18 4) (fld w 17 1) (fld w 12 5) (fld w 7 5) (fld w 4 3) (fld w 1 3))
  | 4 => some (.vfma u (fld w 28 4) (fld w 18 4) (fld w 17 1) (fld w 12 5) (fld w 7 5) (fld w 4 3) (fld w 1 3))
  | 5 => some (.vfms u (fld w 28 4) (fld w 18 4) (fld w 17 1) (fld w 12 5) (fld w 7 5) (fld w 4 3) (fld w 1 3))
  | 6 => some (.vfnma u (fld w 28 4) (fld w 18 4) (fld w 17 1) (fld w 12 5) (fld w 7 5) (fld w 4 3) (fld w 1 3))
  | 7 => some (.vfmin u (fld w 28 4) (fld w 18 4) (fld w 17 1) (fld w 12 5) (fld w 7 5) (fld w 4 3) (fld w 1 3))
  | 8 => some (.vfmax u (fld w 28 4) (fld w 18 4) (fld w 17 1) (fld w 12 5) (fld w 7 5) (fld w 4 3) (fld w 1 3))
  | 9 => some (.vfabs u (fld w 28 4) (fld w 18 4) (fld w 17 1) (fld w 12 5) (fld w 4 3) (fld w 1 3))
  | 10 => some (.vfcmp u (fld w 28 4) (fld w 18 3) (fld w 17 1) (fld w 12 5) (fld w 7 5) (fld w 4 3) (fld w 1 3))
  | 11 => some (.vadd u (fld w 28 4) (fld w 18 4) (fld w 17 1) (fld w 12 5) (fld w 7 5) (fld w 4 3) (fld w 1 3))
  | 12 => some (.vsub u (fld w 28 4) (fld w 18 4) (fld w 17 1) (fld w 12 5) (fld w 7 5) (fld w 4 3) (fld w 1 3))
  | 13 => some (.vmul u (fld w 28 4) (fld w 18 4) (fld w 17 1) (fld w 12 5) (fld w 7 5) (fld w 4 3) (fld w 1 3))
  | 14 => some (.vmulh u (fld w 28 4) (fld w 18 4) (fld w 17 1) (fld w 12 5) (fld w 7 5) (fld w 4 3) (fld w 1 3) (fld w 0 1))
  | 15 => some (.vadds u (fld w 28 4) (fld w 18 4) (fld w 17 1) (fld w 12 5) (fld w 7 5) (fld w 4 3) (fld w 1 3) (fld w 0 1))
  | 16 => some (.vmin u (fld w 28 4) (fld w 18 4) (fld w 17 1) (fld w 12 5) (fld w 7 5) (fld w 4 3) (fld w 1 3) (fld w 0 1))
  | 17 => some (.vmax u (fld w 28 4) (fld w 18 4) (fld w 17 1) (fld w 12 5) (fld w 7 5) (fld w 4 3) (fld w 1 3) (fld w 0 1))
  | 18 => some (.vand u (fld w 28 4) (fld w 18 4) (fld w 17 1) (fld w 12 5) (fld w 7 5) (fld w 4 3) (fld w 1 3))
  | 19 => some (.vor u (fld w 28 4) (fld w 18 4) (fld w 17 1) (fld w 12 5) (fld w 7 5) (fld w 4 3) (fld w 1 3))
  | 20 => some (.vxor u (fld w 28 4) (fld w 18 4) (fld w 17 1) (fld w 12 5) (fld w 7 5) (fld w 4 3) (fld w 1 3))
  | 21 => some (.vshl u (fld w 28 4) (fld w 18 4) (fld w 17 1) (fld w 12 5) (fld w 7 5) (fld w 4 3) (fld w 1 3))
  | 22 => some (.vshr u (fld w 28 4) (fld w 18 4) (fld w 17 1) (fld w 12 5) (fld w 7 5) (fld w 4 3) (fld w 1 3) (fld w 0 1))
  | 23 => some (.vcmp u (fld w 28 4) (fld w 18 3) (fld w 17 1) (fld w 12 5) (fld w 7 5) (fld w 4 3) (fld w 1 3) (fld w 0 1))
  | 24 => some (.vaddi u (fld w 28 4) (fld w 18 4) (fld w 17 1) (fld w 12 5) (fld w 3 9) (fld w 0 3))
  | 25 => some (.vandi u (fld w 28 4) (fld w 18 4) (fld w 17 1) (fld w 12 5) (fld w 3 9) (fld w 0 3))
  | 26 => some (.vshli u (fld w 28 4) (fld w 18 4) (fld w 17 1) (fld w 12 5) (fld w 3 5) (fld w 0 3))
  | 27 => some (.vshri u (fld w 28 4) (fld w 18 4) (fld w 17 1) (fld w 12 5) (fld w 11 1) (fld w 3 5) (fld w 0 3))
  | 28 => some (.vmovi u (fld w 28 4) (fld w 18 4) (fld w 17 1) (fld w 3 9) (fld w 0 3))
  | 29 => some (.vcfi u (fld w 28 4) (fld w 18 4) (fld w 17 1) (fld w 12 5) (fld w 9 3) (fld w 6 3) (fld w 3 3) (fld w 1 2) (fld w 0 1))
  | 30 => some (.vcif u (fld w 28 4) (fld w 18 4) (fld w 17 1) (fld w 12 5) (fld w 9 3) (fld w 6 3) (fld w 3 3) (fld w 1 2) (fld w 0 1))
  | 31 => some (.vcfn u (fld w 28 4) (fld w 18 4) (fld w 17 1) (fld w 12 5) (fld w 6 3) (fld w 3 3) (fld w 1 2))
  | 32 => some (.vcnf u (fld w 28 4) (fld w 18 4) (fld w 17 1) (fld w 12 5) (fld w 9 3) (fld w 3 3) (fld w 1 2))
  | 33 => some (.vqnt u (fld w 28 4) (fld w 18 4) (fld w 17 1) (fld w 12 5) (fld w 1 2) (fld w 0 1))
  | 34 => some (.vdqn u (fld w 28 4) (fld w 18 4) (fld w 17 1) (fld w 12 5) (fld w 1 2) (fld w 0 1))
  | 35 => some (.vcfs u (fld w 28 4) (fld w 18 4) (fld w 17 1) (fld w 12 5) (fld w 3 3) (fld w 1 2))
  | 36 => some (.vcsf u (fld w 28 4) (fld w 18 4) (fld w 17 1) (fld w 12 5) (fld w 3 3) (fld w 1 2))
  | 37 => some (.vpmov u (fld w 28 4) (fld w 12 10) (fld w 8 4) (fld w 7 1) (fld w 4 3) (fld w 1 3))
  | 38 => some (.vperm u (fld w 28 4) (fld w 18 4) (fld w 17 1) (fld w 12 5) (fld w 7 5) (fld w 4 3) (fld w 1 3))
  | 39 => some (.vbcst u (fld w 28 4) (fld w 18 4) (fld w 17 1) (fld w 12 5) (fld w 7 5) (fld w 4 3) (fld w 1 3))
  | 40 => some (.vxch u (fld w 28 4) (fld w 18 4) (fld w 17 1) (fld w 12 5) (fld w 7 5) (fld w 4 3) (fld w 1 3))
  | 41 => some (.vzip u (fld w 28 4) (fld w 18 4) (fld w 17 1) (fld w 12 5) (fld w 7 5) (fld w 4 3) (fld w 1 3))
  | 42 => some (.vuzp u (fld w 28 4) (fld w 18 4) (fld w 17 1) (fld w 12 5) (fld w 7 5) (fld w 4 3) (fld w 1 3))
  | 43 => some (.vmov u (fld w 28 4) (fld w 18 4) (fld w 17 1) (fld w 12 5) (fld w 4 3) (fld w 1 3))
  | 44 => some (.vsel u (fld w 28 4) (fld w 18 4) (fld w 17 1) (fld w 12 5) (fld w 7 5) (fld w 4 3) (fld w 1 3))
  | 45 => some (.kand u (fld w 28 4) (fld w 18 3) (fld w 17 1) (fld w 12 3) (fld w 7 3) (fld w 4 3))
  | 46 => some (.kor u (fld w 28 4) (fld w 18 3) (fld w 17 1) (fld w 12 3) (fld w 7 3) (fld w 4 3))
  | 47 => some (.kxor u (fld w 28 4) (fld w 18 3) (fld w 17 1) (fld w 12 3) (fld w 7 3) (fld w 4 3))
  | 48 =>
    match (fld w 7 5).toNat with
    | 0 => some (.kmov u (fld w 28 4) (fld w 18 3) (fld w 17 1) (fld w 12 3) (fld w 4 3))
    | 1 => some (.kmovNz u (fld w 28 4) (fld w 18 3) (fld w 17 1) (fld w 12 5) (fld w 4 3))
    | 2 => some (.kmovBits u (fld w 28 4) (fld w 18 3) (fld w 17 1) (fld w 12 5) (fld w 4 3))
    | _ => none
  | 49 => some (.vrsum u (fld w 28 4) (fld w 18 4) (fld w 17 1) (fld w 12 5) (fld w 4 3) (fld w 1 3))
  | 50 => some (.vrmax u (fld w 28 4) (fld w 18 4) (fld w 17 1) (fld w 12 5) (fld w 4 3) (fld w 1 3))
  | 51 => some (.vrmin u (fld w 28 4) (fld w 18 4) (fld w 17 1) (fld w 12 5) (fld w 4 3) (fld w 1 3))
  | 52 => some (.vrisum u (fld w 28 4) (fld w 18 4) (fld w 17 1) (fld w 12 5) (fld w 4 3) (fld w 1 3))
  | 53 => some (.vscan u (fld w 28 4) (fld w 18 4) (fld w 17 1) (fld w 12 5) (fld w 4 3) (fld w 1 3))
  | 54 => some (.frcps u (fld w 28 4) (fld w 18 4) (fld w 17 1) (fld w 12 5) (fld w 4 3) (fld w 1 3))
  | 55 => some (.frsqs u (fld w 28 4) (fld w 18 4) (fld w 17 1) (fld w 12 5) (fld w 4 3) (fld w 1 3))
  | 56 => some (.fnrcp u (fld w 28 4) (fld w 18 4) (fld w 17 1) (fld w 12 5) (fld w 7 5) (fld w 4 3) (fld w 1 3))
  | 57 => some (.fnrsq u (fld w 28 4) (fld w 18 4) (fld w 17 1) (fld w 12 5) (fld w 7 5) (fld w 4 3) (fld w 1 3))
  | 58 => some (.frint u (fld w 28 4) (fld w 18 4) (fld w 17 1) (fld w 12 5) (fld w 3 3) (fld w 1 2))
  | 59 => some (.fscale u (fld w 28 4) (fld w 18 4) (fld w 17 1) (fld w 12 5) (fld w 7 5) (fld w 4 3) (fld w 1 3))
  | 60 => some (.fgete u (fld w 28 4) (fld w 18 4) (fld w 17 1) (fld w 12 5) (fld w 4 3) (fld w 1 3))
  | 61 => some (.fgetm u (fld w 28 4) (fld w 18 4) (fld w 17 1) (fld w 12 5) (fld w 4 3) (fld w 1 3))
  | 62 => some (.vrng u (fld w 28 4) (fld w 18 4) (fld w 17 1) (fld w 12 5) (fld w 7 5) (fld w 4 3) (fld w 1 3))
  | _ => none

/-- The matrix map, slot 5 (03 R52). -/
def readMatrix (w : SlotWord) : Option Instr :=
  match (fld w 22 6).toNat with
  | 1 => some (.mma (fld w 28 4) (fld w 18 4) (fld w 14 4) (fld w 13 1) (fld w 7 6) (fld w 4 1) (fld w 3 1))
  | 2 => some (.mmaz (fld w 28 4) (fld w 18 4) (fld w 14 4) (fld w 13 1) (fld w 7 6) (fld w 4 1) (fld w 3 1))
  | 3 => some (.mrd (fld w 28 4) (fld w 21 1) (fld w 16 5) (fld w 6 10) (fld w 3 3) (fld w 1 2))
  | 4 => some (.mrdx (fld w 28 4) (fld w 21 1) (fld w 16 5) (fld w 12 4) (fld w 8 4))
  | 5 => some (.mwrx (fld w 28 4) (fld w 21 1) (fld w 16 5) (fld w 12 4) (fld w 8 4))
  | 6 => some (.mclr (fld w 28 4) (fld w 21 1))
  | 7 => some (.manc (fld w 28 4) (fld w 21 1) (fld w 5 16))
  | 8 => some (.mldw (fld w 28 4) (fld w 18 4) (fld w 6 12))
  | _ => none

/-- The sum-product map, slot 6 (03 R53). -/
def readSumProduct (w : SlotWord) : Option Instr :=
  match (fld w 22 6).toNat with
  | 1 => some (.spu (fld w 28 4) (fld w 19 3) (fld w 13 6) (fld w 9 4) (fld w 1 8) (fld w 0 1))
  | 2 => some (.spd (fld w 28 4) (fld w 19 3) (fld w 13 6) (fld w 9 4) (fld w 1 8) (fld w 0 1))
  | 3 => some (.spld (fld w 28 4) (fld w 18 4) (fld w 10 8) (fld w 8 2))
  | 4 => some (.spst (fld w 28 4) (fld w 18 4) (fld w 10 8) (fld w 8 2))
  | 5 => some (.spsh (fld w 28 4) (fld w 16 6) (fld w 12 4))
  | 6 => some (.spw (fld w 28 4) (fld w 19 3) (fld w 15 4))
  | 7 => some (.spcv (fld w 28 4) (fld w 14 8) (fld w 6 8) (fld w 4 1))
  | 8 => some (.spsc (fld w 28 4) (fld w 19 3) (fld w 18 1))
  | 9 => some (.spcl (fld w 28 4) (fld w 19 3))
  | _ => none

/-- The port map, slot 7 (03 R54). -/
def readPort (w : SlotWord) : Option Instr :=
  match (fld w 22 6).toNat with
  | 1 => some (.msc (fld w 28 4) (fld w 14 8))
  | 2 => some (.cpy (fld w 28 4) (fld w 17 5) (fld w 12 5))
  | 3 => some (.wms (fld w 28 4) (fld w 17 5) (fld w 16 1) (fld w 0 16))
  | 4 => some (.ovl (fld w 28 4) (fld w 17 5))
  | 5 =>
    match (fld w 13 1).toNat with
    | 0 => some (.send (fld w 28 4) (fld w 14 8) (fld w 8 5))
    | 1 => some (.sendLine (fld w 28 4) (fld w 14 8) (fld w 8 4))
    | _ => none
  | 6 => some (.chb (fld w 28 4) (fld w 14 8) (fld w 12 2))
  | 7 => some (.chu (fld w 28 4) (fld w 12 2))
  | 8 =>
    match (fld w 6 4).toNat with
    | 0 => some (.qwr (fld w 28 4) (fld w 17 5) (fld w 13 4) (fld w 10 3))
    | 1 => some (.qwrWm (fld w 28 4) (fld w 17 5) (fld w 13 4))
    | 2 => some (.qwrXadd (fld w 28 4) (fld w 17 5) (fld w 13 4) (fld w 10 3))
    | _ => none
  | 9 => some (.qat (fld w 28 4) (fld w 17 5) (fld w 13 4) (fld w 6 3) (fld w 5 1))
  | 10 =>
    match (fld w 4 1).toNat with
    | 0 => some (.gcs (fld w 28 4) (fld w 17 5) (fld w 10 7) (fld w 5 5))
    | 1 => some (.gcsReam (fld w 28 4) (fld w 17 5) (fld w 10 7) (fld w 5 5))
    | _ => none
  | 11 => some (.gcm (fld w 28 4) (fld w 17 5) (fld w 16 1) (fld w 11 5))
  | 12 => some (.atm (fld w 28 4) (fld w 17 5) (fld w 12 5) (fld w 7 5) (fld w 4 3) (fld w 3 1) (fld w 2 1))
  | 13 => some (.abn (fld w 28 4) (fld w 17 5) (fld w 12 5))
  | 14 => some (.bfold (fld w 28 4) (fld w 17 5) (fld w 12 5) (fld w 10 2))
  | 15 => some (.xwr (fld w 28 4) (fld w 20 2) (fld w 16 4))
  | 16 => some (.xrd (fld w 28 4) (fld w 20 2))
  | 17 => some (.xst (fld w 28 4) (fld w 20 2) (fld w 13 3) (fld w 10 3))
  | _ => none

/-- The number that the fields of a slot word make, from the encoding tables of 03 (R43 to R54); `none` for the header
fields and the events, which have no word.  Control words are given with a zero header. -/
def encodeNat : Instr → Option Nat
  | .nop _ => some (0)
  | .nopControl => some (0)
  | .br g d => some (pk g.toNat 20 (pk 1 14 (pk d.toNat 0 0)))
  | .bri g n im => some (pk g.toNat 20 (pk 2 14 (pk n.toNat 9 (pk im.toNat 0 0))))
  | .call g d => some (pk g.toNat 20 (pk 3 14 (pk d.toNat 0 0)))
  | .calli g n im => some (pk g.toNat 20 (pk 4 14 (pk n.toNat 9 (pk im.toNat 0 0))))
  | .ret g => some (pk g.toNat 20 (pk 81920 0 0))
  | .loop g c l => some (pk g.toNat 20 (pk 12 13 (pk c.toNat 6 (pk l.toNat 0 0))))
  | .loopa g n l => some (pk g.toNat 20 (pk 14 13 (pk n.toNat 8 (pk l.toNat 0 0))))
  | .loopn g n l => some (pk g.toNat 20 (pk 16 13 (pk n.toNat 8 (pk l.toNat 0 0))))
  | .brk g => some (pk g.toNat 20 (pk 147456 0 0))
  | .plog g d o a b => some (pk g.toNat 20 (pk 10 14 (pk d.toNat 11 (pk o.toNat 8 (pk a.toNat 4 (pk b.toNat 0 0))))))
  | .pset g d v => some (pk g.toNat 20 (pk 11 14 (pk d.toNat 11 (pk v.toNat 8 0))))
  | .nxt g d => some (pk g.toNat 20 (pk 12 14 (pk d.toNat 11 0)))
  | .wsamp g => some (pk g.toNat 20 (pk 212992 0 0))
  | .waitc g c n => some (pk g.toNat 20 (pk 224 10 (pk c.toNat 9 (pk n.toNat 0 0))))
  | .wmw g n e => some (pk g.toNat 20 (pk 15 14 (pk n.toNat 9 (pk e.toNat 0 0))))
  | .ifence g p => some (pk g.toNat 20 (pk 16 14 (pk p.toNat 11 0)))
  | .bswap g im => some (pk g.toNat 20 (pk 272 10 (pk im.toNat 0 0)))
  | .snap g => some (pk g.toNat 20 (pk 294912 0 0))
  | .trap g n c => some (pk g.toNat 20 (pk 19 14 (pk n.toNat 9 (pk c.toNat 0 0))))
  | .sysc g n c => some (pk g.toNat 20 (pk 20 14 (pk n.toNat 9 (pk c.toNat 0 0))))
  | .halt g => some (pk g.toNat 20 (pk 344064 0 0))
  | .srd g sf n => some (pk g.toNat 20 (pk 22 14 (pk sf.toNat 5 (pk n.toNat 0 0))))
  | .swr g sf n => some (pk g.toNat 20 (pk 23 14 (pk sf.toNat 5 (pk n.toNat 0 0))))
  | .mark g => some (pk g.toNat 20 (pk 393216 0 0))
  | .add _ g d a b w => some (pk g.toNat 28 (pk 1 22 (pk d.toNat 17 (pk a.toNat 11 (pk b.toNat 5 (pk w.toNat 4 0))))))
  | .sub _ g d a b w => some (pk g.toNat 28 (pk 1 22 (pk d.toNat 17 (pk a.toNat 11 (pk b.toNat 5 (pk w.toNat 4 (pk 1 0 0)))))))
  | .and _ g d a b w => some (pk g.toNat 28 (pk 1 22 (pk d.toNat 17 (pk a.toNat 11 (pk b.toNat 5 (pk w.toNat 4 (pk 2 0 0)))))))
  | .or _ g d a b w => some (pk g.toNat 28 (pk 1 22 (pk d.toNat 17 (pk a.toNat 11 (pk b.toNat 5 (pk w.toNat 4 (pk 3 0 0)))))))
  | .xor _ g d a b w => some (pk g.toNat 28 (pk 1 22 (pk d.toNat 17 (pk a.toNat 11 (pk b.toNat 5 (pk w.toNat 4 (pk 4 0 0)))))))
  | .shl _ g d a b w => some (pk g.toNat 28 (pk 1 22 (pk d.toNat 17 (pk a.toNat 11 (pk b.toNat 5 (pk w.toNat 4 (pk 5 0 0)))))))
  | .shr _ g d a b w => some (pk g.toNat 28 (pk 1 22 (pk d.toNat 17 (pk a.toNat 11 (pk b.toNat 5 (pk w.toNat 4 (pk 6 0 0)))))))
  | .sar _ g d a b w => some (pk g.toNat 28 (pk 1 22 (pk d.toNat 17 (pk a.toNat 11 (pk b.toNat 5 (pk w.toNat 4 (pk 7 0 0)))))))
  | .mul _ g d a b w => some (pk g.toNat 28 (pk 1 22 (pk d.toNat 17 (pk a.toNat 11 (pk b.toNat 5 (pk w.toNat 4 (pk 8 0 0)))))))
  | .mulh _ g d a b w => some (pk g.toNat 28 (pk 1 22 (pk d.toNat 17 (pk a.toNat 11 (pk b.toNat 5 (pk w.toNat 4 (pk 9 0 0)))))))
  | .mulhu _ g d a b w => some (pk g.toNat 28 (pk 1 22 (pk d.toNat 17 (pk a.toNat 11 (pk b.toNat 5 (pk w.toNat 4 (pk 10 0 0)))))))
  | .min _ g d a b w => some (pk g.toNat 28 (pk 1 22 (pk d.toNat 17 (pk a.toNat 11 (pk b.toNat 5 (pk w.toNat 4 (pk 11 0 0)))))))
  | .max _ g d a b w => some (pk g.toNat 28 (pk 1 22 (pk d.toNat 17 (pk a.toNat 11 (pk b.toNat 5 (pk w.toNat 4 (pk 12 0 0)))))))
  | .minu _ g d a b w => some (pk g.toNat 28 (pk 1 22 (pk d.toNat 17 (pk a.toNat 11 (pk b.toNat 5 (pk w.toNat 4 (pk 13 0 0)))))))
  | .maxu _ g d a b w => some (pk g.toNat 28 (pk 1 22 (pk d.toNat 17 (pk a.toNat 11 (pk b.toNat 5 (pk w.toNat 4 (pk 14 0 0)))))))
  | .andn _ g d a b w => some (pk g.toNat 28 (pk 1 22 (pk d.toNat 17 (pk a.toNat 11 (pk b.toNat 5 (pk w.toNat 4 (pk 15 0 0)))))))
  | .cmp _ g p a b c => some (pk g.toNat 28 (pk 2 22 (pk p.toNat 19 (pk a.toNat 11 (pk b.toNat 5 (pk c.toNat 0 0))))))
  | .addi _ g d sf im w => some (pk g.toNat 28 (pk 3 22 (pk d.toNat 17 (pk sf.toNat 11 (pk im.toNat 1 (pk w.toNat 0 0))))))
  | .andi _ g d sf im w => some (pk g.toNat 28 (pk 4 22 (pk d.toNat 17 (pk sf.toNat 11 (pk im.toNat 1 (pk w.toNat 0 0))))))
  | .ori _ g d sf im w => some (pk g.toNat 28 (pk 5 22 (pk d.toNat 17 (pk sf.toNat 11 (pk im.toNat 1 (pk w.toNat 0 0))))))
  | .xori _ g d sf im w => some (pk g.toNat 28 (pk 6 22 (pk d.toNat 17 (pk sf.toNat 11 (pk im.toNat 1 (pk w.toNat 0 0))))))
  | .shli _ g d sf im w => some (pk g.toNat 28 (pk 7 22 (pk d.toNat 17 (pk sf.toNat 11 (pk im.toNat 1 (pk w.toNat 0 0))))))
  | .shri _ g d sf im w => some (pk g.toNat 28 (pk 8 22 (pk d.toNat 17 (pk sf.toNat 11 (pk im.toNat 1 (pk w.toNat 0 0))))))
  | .sari _ g d sf im w => some (pk g.toNat 28 (pk 9 22 (pk d.toNat 17 (pk sf.toNat 11 (pk im.toNat 1 (pk w.toNat 0 0))))))
  | .muli _ g d sf im w => some (pk g.toNat 28 (pk 10 22 (pk d.toNat 17 (pk sf.toNat 11 (pk im.toNat 1 (pk w.toNat 0 0))))))
  | .imx _ g d sf im w => some (pk g.toNat 28 (pk 11 22 (pk d.toNat 17 (pk sf.toNat 11 (pk im.toNat 1 (pk w.toNat 0 0))))))
  | .cmpi _ g p c sf im => some (pk g.toNat 28 (pk 12 22 (pk p.toNat 19 (pk (c.toNat / 2) 17 (pk sf.toNat 11 (pk im.toNat 1 (pk (c.toNat % 2) 0 0)))))))
  | .mset _ g m sf im => some (pk g.toNat 28 (pk 13 22 (pk m.toNat 17 (pk sf.toNat 11 (pk im.toNat 1 0)))))
  | .aupd _ g d m b w => some (pk g.toNat 28 (pk 14 22 (pk d.toNat 17 (pk m.toNat 11 (pk b.toNat 5 (pk w.toNat 4 0))))))
  | .lane _ g sf im z k ux => some (pk g.toNat 28 (pk 15 22 (pk sf.toNat 12 (pk im.toNat 7 (pk z.toNat 4 (pk k.toNat 3 (pk ux.toNat 0 0)))))))
  | .ldl _ g sf n m w t h => some (pk g.toNat 28 (pk 16 22 (pk sf.toNat 12 (pk n.toNat 7 (pk m.toNat 6 (pk w.toNat 4 (pk t.toNat 3 (pk h.toNat 0 0))))))))
  | .stl _ g sf n m w t h => some (pk g.toNat 28 (pk 17 22 (pk sf.toNat 12 (pk n.toNat 7 (pk m.toNat 6 (pk w.toNat 4 (pk t.toNat 3 (pk h.toNat 0 0))))))))
  | .lds _ g d n m k => some (pk g.toNat 28 (pk 18 22 (pk d.toNat 17 (pk n.toNat 7 (pk m.toNat 6 (pk k.toNat 0 0))))))
  | .sts _ g sf n m k => some (pk g.toNat 28 (pk 19 22 (pk sf.toNat 17 (pk n.toNat 7 (pk m.toNat 6 (pk k.toNat 0 0))))))
  | .ldg _ g v n m w k => some (pk g.toNat 28 (pk 1280 16 (pk v.toNat 12 (pk n.toNat 7 (pk m.toNat 6 (pk w.toNat 4 (pk k.toNat 0 0)))))))
  | .stg _ g v n m w k => some (pk g.toNat 28 (pk 1344 16 (pk v.toNat 12 (pk n.toNat 7 (pk m.toNat 6 (pk w.toNat 4 (pk k.toNat 0 0)))))))
  | .ldb _ g sf n m w t f e => some (pk g.toNat 28 (pk 22 22 (pk sf.toNat 12 (pk n.toNat 7 (pk m.toNat 6 (pk w.toNat 4 (pk t.toNat 3 (pk f.toNat 2 (pk e.toNat 0 0)))))))))
  | .sdef _ g v h sf => some (pk g.toNat 28 (pk 24 22 (pk v.toNat 18 (pk h.toNat 17 (pk sf.toNat 8 0)))))
  | .srdf _ g d sf f => some (pk g.toNat 28 (pk 25 22 (pk d.toNat 17 (pk sf.toNat 8 (pk f.toNat 4 0)))))
  | .sadv _ g n sf d => some (pk g.toNat 28 (pk 26 22 (pk n.toNat 17 (pk sf.toNat 8 (pk d.toNat 4 0)))))
  | .srst _ g sf => some (pk g.toNat 28 (pk 27648 12 (pk sf.toNat 8 0)))
  | .ldt _ g sf t k => some (pk g.toNat 28 (pk 28 22 (pk sf.toNat 12 (pk t.toNat 8 (pk k.toNat 3 0)))))
  | .stt _ g sf t k => some (pk g.toNat 28 (pk 29 22 (pk sf.toNat 12 (pk t.toNat 8 (pk k.toNat 3 0)))))
  | .vfadd _ g d w a b z k => some (pk g.toNat 28 (pk 1 22 (pk d.toNat 18 (pk w.toNat 17 (pk a.toNat 12 (pk b.toNat 7 (pk z.toNat 4 (pk k.toNat 1 0))))))))
  | .vfsub _ g d w a b z k => some (pk g.toNat 28 (pk 2 22 (pk d.toNat 18 (pk w.toNat 17 (pk a.toNat 12 (pk b.toNat 7 (pk z.toNat 4 (pk k.toNat 1 0))))))))
  | .vfmul _ g d w a b z k => some (pk g.toNat 28 (pk 3 22 (pk d.toNat 18 (pk w.toNat 17 (pk a.toNat 12 (pk b.toNat 7 (pk z.toNat 4 (pk k.toNat 1 0))))))))
  | .vfma _ g d w a b z k => some (pk g.toNat 28 (pk 4 22 (pk d.toNat 18 (pk w.toNat 17 (pk a.toNat 12 (pk b.toNat 7 (pk z.toNat 4 (pk k.toNat 1 0))))))))
  | .vfms _ g d w a b z k => some (pk g.toNat 28 (pk 5 22 (pk d.toNat 18 (pk w.toNat 17 (pk a.toNat 12 (pk b.toNat 7 (pk z.toNat 4 (pk k.toNat 1 0))))))))
  | .vfnma _ g d w a b z k => some (pk g.toNat 28 (pk 6 22 (pk d.toNat 18 (pk w.toNat 17 (pk a.toNat 12 (pk b.toNat 7 (pk z.toNat 4 (pk k.toNat 1 0))))))))
  | .vfmin _ g d w a b z k => some (pk g.toNat 28 (pk 7 22 (pk d.toNat 18 (pk w.toNat 17 (pk a.toNat 12 (pk b.toNat 7 (pk z.toNat 4 (pk k.toNat 1 0))))))))
  | .vfmax _ g d w a b z k => some (pk g.toNat 28 (pk 8 22 (pk d.toNat 18 (pk w.toNat 17 (pk a.toNat 12 (pk b.toNat 7 (pk z.toNat 4 (pk k.toNat 1 0))))))))
  | .vfabs _ g d w a z k => some (pk g.toNat 28 (pk 9 22 (pk d.toNat 18 (pk w.toNat 17 (pk a.toNat 12 (pk z.toNat 4 (pk k.toNat 1 0)))))))
  | .vfcmp _ g d w a b z c => some (pk g.toNat 28 (pk 20 21 (pk d.toNat 18 (pk w.toNat 17 (pk a.toNat 12 (pk b.toNat 7 (pk z.toNat 4 (pk c.toNat 1 0))))))))
  | .vadd _ g d w a b z k => some (pk g.toNat 28 (pk 11 22 (pk d.toNat 18 (pk w.toNat 17 (pk a.toNat 12 (pk b.toNat 7 (pk z.toNat 4 (pk k.toNat 1 0))))))))
  | .vsub _ g d w a b z k => some (pk g.toNat 28 (pk 12 22 (pk d.toNat 18 (pk w.toNat 17 (pk a.toNat 12 (pk b.toNat 7 (pk z.toNat 4 (pk k.toNat 1 0))))))))
  | .vmul _ g d w a b z k => some (pk g.toNat 28 (pk 13 22 (pk d.toNat 18 (pk w.toNat 17 (pk a.toNat 12 (pk b.toNat 7 (pk z.toNat 4 (pk k.toNat 1 0))))))))
  | .vmulh _ g d w a b z k ux => some (pk g.toNat 28 (pk 14 22 (pk d.toNat 18 (pk w.toNat 17 (pk a.toNat 12 (pk b.toNat 7 (pk z.toNat 4 (pk k.toNat 1 (pk ux.toNat 0 0)))))))))
  | .vadds _ g d w a b z k ux => some (pk g.toNat 28 (pk 15 22 (pk d.toNat 18 (pk w.toNat 17 (pk a.toNat 12 (pk b.toNat 7 (pk z.toNat 4 (pk k.toNat 1 (pk ux.toNat 0 0)))))))))
  | .vmin _ g d w a b z k ux => some (pk g.toNat 28 (pk 16 22 (pk d.toNat 18 (pk w.toNat 17 (pk a.toNat 12 (pk b.toNat 7 (pk z.toNat 4 (pk k.toNat 1 (pk ux.toNat 0 0)))))))))
  | .vmax _ g d w a b z k ux => some (pk g.toNat 28 (pk 17 22 (pk d.toNat 18 (pk w.toNat 17 (pk a.toNat 12 (pk b.toNat 7 (pk z.toNat 4 (pk k.toNat 1 (pk ux.toNat 0 0)))))))))
  | .vand _ g d w a b z k => some (pk g.toNat 28 (pk 18 22 (pk d.toNat 18 (pk w.toNat 17 (pk a.toNat 12 (pk b.toNat 7 (pk z.toNat 4 (pk k.toNat 1 0))))))))
  | .vor _ g d w a b z k => some (pk g.toNat 28 (pk 19 22 (pk d.toNat 18 (pk w.toNat 17 (pk a.toNat 12 (pk b.toNat 7 (pk z.toNat 4 (pk k.toNat 1 0))))))))
  | .vxor _ g d w a b z k => some (pk g.toNat 28 (pk 20 22 (pk d.toNat 18 (pk w.toNat 17 (pk a.toNat 12 (pk b.toNat 7 (pk z.toNat 4 (pk k.toNat 1 0))))))))
  | .vshl _ g d w a b z k => some (pk g.toNat 28 (pk 21 22 (pk d.toNat 18 (pk w.toNat 17 (pk a.toNat 12 (pk b.toNat 7 (pk z.toNat 4 (pk k.toNat 1 0))))))))
  | .vshr _ g d w a b z k ux => some (pk g.toNat 28 (pk 22 22 (pk d.toNat 18 (pk w.toNat 17 (pk a.toNat 12 (pk b.toNat 7 (pk z.toNat 4 (pk k.toNat 1 (pk ux.toNat 0 0)))))))))
  | .vcmp _ g d w a b z c ux => some (pk g.toNat 28 (pk 46 21 (pk d.toNat 18 (pk w.toNat 17 (pk a.toNat 12 (pk b.toNat 7 (pk z.toNat 4 (pk c.toNat 1 (pk ux.toNat 0 0)))))))))
  | .vaddi _ g d w sf im z => some (pk g.toNat 28 (pk 24 22 (pk d.toNat 18 (pk w.toNat 17 (pk sf.toNat 12 (pk im.toNat 3 (pk z.toNat 0 0)))))))
  | .vandi _ g d w sf im z => some (pk g.toNat 28 (pk 25 22 (pk d.toNat 18 (pk w.toNat 17 (pk sf.toNat 12 (pk im.toNat 3 (pk z.toNat 0 0)))))))
  | .vshli _ g d w sf im z => some (pk g.toNat 28 (pk 26 22 (pk d.toNat 18 (pk w.toNat 17 (pk sf.toNat 12 (pk im.toNat 3 (pk z.toNat 0 0)))))))
  | .vshri _ g d w sf a im z => some (pk g.toNat 28 (pk 27 22 (pk d.toNat 18 (pk w.toNat 17 (pk sf.toNat 12 (pk a.toNat 11 (pk im.toNat 3 (pk z.toNat 0 0))))))))
  | .vmovi _ g d w im z => some (pk g.toNat 28 (pk 28 22 (pk d.toNat 18 (pk w.toNat 17 (pk im.toNat 3 (pk z.toNat 0 0))))))
  | .vcfi _ g d w sf f t z r ux => some (pk g.toNat 28 (pk 29 22 (pk d.toNat 18 (pk w.toNat 17 (pk sf.toNat 12 (pk f.toNat 9 (pk t.toNat 6 (pk z.toNat 3 (pk r.toNat 1 (pk ux.toNat 0 0))))))))))
  | .vcif _ g d w sf f t z r ux => some (pk g.toNat 28 (pk 30 22 (pk d.toNat 18 (pk w.toNat 17 (pk sf.toNat 12 (pk f.toNat 9 (pk t.toNat 6 (pk z.toNat 3 (pk r.toNat 1 (pk ux.toNat 0 0))))))))))
  | .vcfn _ g d w sf t z r => some (pk g.toNat 28 (pk 31 22 (pk d.toNat 18 (pk w.toNat 17 (pk sf.toNat 12 (pk t.toNat 6 (pk z.toNat 3 (pk r.toNat 1 0))))))))
  | .vcnf _ g d w sf f z r => some (pk g.toNat 28 (pk 32 22 (pk d.toNat 18 (pk w.toNat 17 (pk sf.toNat 12 (pk f.toNat 9 (pk z.toNat 3 (pk r.toNat 1 0))))))))
  | .vqnt _ g d w sf r ux => some (pk g.toNat 28 (pk 33 22 (pk d.toNat 18 (pk w.toNat 17 (pk sf.toNat 12 (pk 54 3 (pk r.toNat 1 (pk ux.toNat 0 0))))))))
  | .vdqn _ g d w sf r ux => some (pk g.toNat 28 (pk 34 22 (pk d.toNat 18 (pk w.toNat 17 (pk sf.toNat 12 (pk 390 3 (pk r.toNat 1 (pk ux.toNat 0 0))))))))
  | .vcfs _ g d w sf z r => some (pk g.toNat 28 (pk 35 22 (pk d.toNat 18 (pk w.toNat 17 (pk sf.toNat 12 (pk 3 6 (pk z.toNat 3 (pk r.toNat 1 0))))))))
  | .vcsf _ g d w sf z r => some (pk g.toNat 28 (pk 36 22 (pk d.toNat 18 (pk w.toNat 17 (pk sf.toNat 12 (pk 24 6 (pk z.toNat 3 (pk r.toNat 1 0))))))))
  | .vpmov _ g p v r z k => some (pk g.toNat 28 (pk 37 22 (pk p.toNat 12 (pk v.toNat 8 (pk r.toNat 7 (pk z.toNat 4 (pk k.toNat 1 0)))))))
  | .vperm _ g d w a b z k => some (pk g.toNat 28 (pk 38 22 (pk d.toNat 18 (pk w.toNat 17 (pk a.toNat 12 (pk b.toNat 7 (pk z.toNat 4 (pk k.toNat 1 0))))))))
  | .vbcst _ g d w a j z k => some (pk g.toNat 28 (pk 39 22 (pk d.toNat 18 (pk w.toNat 17 (pk a.toNat 12 (pk j.toNat 7 (pk z.toNat 4 (pk k.toNat 1 0))))))))
  | .vxch _ g d w a j z k => some (pk g.toNat 28 (pk 40 22 (pk d.toNat 18 (pk w.toNat 17 (pk a.toNat 12 (pk j.toNat 7 (pk z.toNat 4 (pk k.toNat 1 0))))))))
  | .vzip _ g d w a b z k => some (pk g.toNat 28 (pk 41 22 (pk d.toNat 18 (pk w.toNat 17 (pk a.toNat 12 (pk b.toNat 7 (pk z.toNat 4 (pk k.toNat 1 0))))))))
  | .vuzp _ g d w a b z k => some (pk g.toNat 28 (pk 42 22 (pk d.toNat 18 (pk w.toNat 17 (pk a.toNat 12 (pk b.toNat 7 (pk z.toNat 4 (pk k.toNat 1 0))))))))
  | .vmov _ g d w a z k => some (pk g.toNat 28 (pk 43 22 (pk d.toNat 18 (pk w.toNat 17 (pk a.toNat 12 (pk z.toNat 4 (pk k.toNat 1 0)))))))
  | .vsel _ g d w a b z k => some (pk g.toNat 28 (pk 44 22 (pk d.toNat 18 (pk w.toNat 17 (pk a.toNat 12 (pk b.toNat 7 (pk z.toNat 4 (pk k.toNat 1 0))))))))
  | .kand _ g d w a b z => some (pk g.toNat 28 (pk 90 21 (pk d.toNat 18 (pk w.toNat 17 (pk a.toNat 12 (pk b.toNat 7 (pk z.toNat 4 0)))))))
  | .kor _ g d w a b z => some (pk g.toNat 28 (pk 92 21 (pk d.toNat 18 (pk w.toNat 17 (pk a.toNat 12 (pk b.toNat 7 (pk z.toNat 4 0)))))))
  | .kxor _ g d w a b z => some (pk g.toNat 28 (pk 94 21 (pk d.toNat 18 (pk w.toNat 17 (pk a.toNat 12 (pk b.toNat 7 (pk z.toNat 4 0)))))))
  | .kmov _ g d w a z => some (pk g.toNat 28 (pk 96 21 (pk d.toNat 18 (pk w.toNat 17 (pk a.toNat 12 (pk z.toNat 4 0))))))
  | .kmovNz _ g d w a z => some (pk g.toNat 28 (pk 96 21 (pk d.toNat 18 (pk w.toNat 17 (pk a.toNat 12 (pk 1 7 (pk z.toNat 4 0)))))))
  | .kmovBits _ g d w a z => some (pk g.toNat 28 (pk 96 21 (pk d.toNat 18 (pk w.toNat 17 (pk a.toNat 12 (pk 2 7 (pk z.toNat 4 0)))))))
  | .vrsum _ g d w a z k => some (pk g.toNat 28 (pk 49 22 (pk d.toNat 18 (pk w.toNat 17 (pk a.toNat 12 (pk z.toNat 4 (pk k.toNat 1 0)))))))
  | .vrmax _ g d w a z k => some (pk g.toNat 28 (pk 50 22 (pk d.toNat 18 (pk w.toNat 17 (pk a.toNat 12 (pk z.toNat 4 (pk k.toNat 1 0)))))))
  | .vrmin _ g d w a z k => some (pk g.toNat 28 (pk 51 22 (pk d.toNat 18 (pk w.toNat 17 (pk a.toNat 12 (pk z.toNat 4 (pk k.toNat 1 0)))))))
  | .vrisum _ g d w a z k => some (pk g.toNat 28 (pk 52 22 (pk d.toNat 18 (pk w.toNat 17 (pk a.toNat 12 (pk z.toNat 4 (pk k.toNat 1 0)))))))
  | .vscan _ g d w a z k => some (pk g.toNat 28 (pk 53 22 (pk d.toNat 18 (pk w.toNat 17 (pk a.toNat 12 (pk z.toNat 4 (pk k.toNat 1 0)))))))
  | .frcps _ g d w a z k => some (pk g.toNat 28 (pk 54 22 (pk d.toNat 18 (pk w.toNat 17 (pk a.toNat 12 (pk z.toNat 4 (pk k.toNat 1 0)))))))
  | .frsqs _ g d w a z k => some (pk g.toNat 28 (pk 55 22 (pk d.toNat 18 (pk w.toNat 17 (pk a.toNat 12 (pk z.toNat 4 (pk k.toNat 1 0)))))))
  | .fnrcp _ g d w a b z k => some (pk g.toNat 28 (pk 56 22 (pk d.toNat 18 (pk w.toNat 17 (pk a.toNat 12 (pk b.toNat 7 (pk z.toNat 4 (pk k.toNat 1 0))))))))
  | .fnrsq _ g d w a b z k => some (pk g.toNat 28 (pk 57 22 (pk d.toNat 18 (pk w.toNat 17 (pk a.toNat 12 (pk b.toNat 7 (pk z.toNat 4 (pk k.toNat 1 0))))))))
  | .frint _ g d w sf z r => some (pk g.toNat 28 (pk 58 22 (pk d.toNat 18 (pk w.toNat 17 (pk sf.toNat 12 (pk z.toNat 3 (pk r.toNat 1 0)))))))
  | .fscale _ g d w a b z k => some (pk g.toNat 28 (pk 59 22 (pk d.toNat 18 (pk w.toNat 17 (pk a.toNat 12 (pk b.toNat 7 (pk z.toNat 4 (pk k.toNat 1 0))))))))
  | .fgete _ g d w a z k => some (pk g.toNat 28 (pk 60 22 (pk d.toNat 18 (pk w.toNat 17 (pk a.toNat 12 (pk z.toNat 4 (pk k.toNat 1 0)))))))
  | .fgetm _ g d w a z k => some (pk g.toNat 28 (pk 61 22 (pk d.toNat 18 (pk w.toNat 17 (pk a.toNat 12 (pk z.toNat 4 (pk k.toNat 1 0)))))))
  | .vrng _ g d w a b z k => some (pk g.toNat 28 (pk 62 22 (pk d.toNat 18 (pk w.toNat 17 (pk a.toNat 12 (pk b.toNat 7 (pk z.toNat 4 (pk k.toNat 1 0))))))))
  | .mma g a b t p y hx => some (pk g.toNat 28 (pk 1 22 (pk a.toNat 18 (pk b.toNat 14 (pk t.toNat 13 (pk p.toNat 7 (pk y.toNat 4 (pk hx.toNat 3 0))))))))
  | .mmaz g a b t p y hx => some (pk g.toNat 28 (pk 2 22 (pk a.toNat 18 (pk b.toNat 14 (pk t.toNat 13 (pk p.toNat 7 (pk y.toNat 4 (pk hx.toNat 3 0))))))))
  | .mrd g t r l f e => some (pk g.toNat 28 (pk 3 22 (pk t.toNat 21 (pk r.toNat 16 (pk l.toNat 6 (pk f.toNat 3 (pk e.toNat 1 0)))))))
  | .mrdx g t r v c => some (pk g.toNat 28 (pk 4 22 (pk t.toNat 21 (pk r.toNat 16 (pk v.toNat 12 (pk c.toNat 8 0))))))
  | .mwrx g t r v c => some (pk g.toNat 28 (pk 5 22 (pk t.toNat 21 (pk r.toNat 16 (pk v.toNat 12 (pk c.toNat 8 0))))))
  | .mclr g t => some (pk g.toNat 28 (pk 6 22 (pk t.toNat 21 0)))
  | .manc g t a => some (pk g.toNat 28 (pk 7 22 (pk t.toNat 21 (pk a.toNat 5 0))))
  | .mldw g sf f => some (pk g.toNat 28 (pk 8 22 (pk sf.toNat 18 (pk f.toNat 6 0))))
  | .spu g t h v r f => some (pk g.toNat 28 (pk 1 22 (pk t.toNat 19 (pk h.toNat 13 (pk v.toNat 9 (pk r.toNat 1 (pk f.toNat 0 0)))))))
  | .spd g t h v r f => some (pk g.toNat 28 (pk 2 22 (pk t.toNat 19 (pk h.toNat 13 (pk v.toNat 9 (pk r.toNat 1 (pk f.toNat 0 0)))))))
  | .spld g v r c => some (pk g.toNat 28 (pk 3 22 (pk v.toNat 18 (pk r.toNat 10 (pk c.toNat 8 0)))))
  | .spst g v r c => some (pk g.toNat 28 (pk 4 22 (pk v.toNat 18 (pk r.toNat 10 (pk c.toNat 8 0)))))
  | .spsh g h v => some (pk g.toNat 28 (pk 5 22 (pk h.toNat 16 (pk v.toNat 12 0))))
  | .spw g t v => some (pk g.toNat 28 (pk 6 22 (pk t.toNat 19 (pk v.toNat 15 0))))
  | .spcv g r n e => some (pk g.toNat 28 (pk 7 22 (pk r.toNat 14 (pk n.toNat 6 (pk e.toNat 4 0)))))
  | .spsc g t m => some (pk g.toNat 28 (pk 8 22 (pk t.toNat 19 (pk m.toNat 18 0))))
  | .spcl g t => some (pk g.toNat 28 (pk 9 22 (pk t.toNat 19 0)))
  | .msc g b => some (pk g.toNat 28 (pk 1 22 (pk b.toNat 14 0)))
  | .cpy g n m => some (pk g.toNat 28 (pk 2 22 (pk n.toNat 17 (pk m.toNat 12 0))))
  | .wms g n sf t => some (pk g.toNat 28 (pk 3 22 (pk n.toNat 17 (pk sf.toNat 16 (pk t.toNat 0 0)))))
  | .ovl g n => some (pk g.toNat 28 (pk 4 22 (pk n.toNat 17 0)))
  | .send g c n => some (pk g.toNat 28 (pk 5 22 (pk c.toNat 14 (pk n.toNat 8 0))))
  | .sendLine g c v => some (pk g.toNat 28 (pk 5 22 (pk c.toNat 14 (pk 2 12 (pk v.toNat 8 0)))))
  | .chb g c h => some (pk g.toNat 28 (pk 6 22 (pk c.toNat 14 (pk h.toNat 12 0))))
  | .chu g h => some (pk g.toNat 28 (pk 1792 14 (pk h.toNat 12 0)))
  | .qwr g n v k => some (pk g.toNat 28 (pk 8 22 (pk n.toNat 17 (pk v.toNat 13 (pk k.toNat 10 0)))))
  | .qwrWm g n v => some (pk g.toNat 28 (pk 8 22 (pk n.toNat 17 (pk v.toNat 13 (pk 64 0 0)))))
  | .qwrXadd g n v k => some (pk g.toNat 28 (pk 8 22 (pk n.toNat 17 (pk v.toNat 13 (pk k.toNat 10 (pk 128 0 0))))))
  | .qat g n v o sf => some (pk g.toNat 28 (pk 9 22 (pk n.toNat 17 (pk v.toNat 13 (pk o.toNat 6 (pk sf.toNat 5 0))))))
  | .gcs g c n a => some (pk g.toNat 28 (pk 10 22 (pk c.toNat 17 (pk n.toNat 10 (pk a.toNat 5 0)))))
  | .gcsReam g c n a => some (pk g.toNat 28 (pk 10 22 (pk c.toNat 17 (pk n.toNat 10 (pk a.toNat 5 (pk 16 0 0))))))
  | .gcm g c t r => some (pk g.toNat 28 (pk 11 22 (pk c.toNat 17 (pk t.toNat 16 (pk r.toNat 11 0)))))
  | .atm g n m k o sf r => some (pk g.toNat 28 (pk 12 22 (pk n.toNat 17 (pk m.toNat 12 (pk k.toNat 7 (pk o.toNat 4 (pk sf.toNat 3 (pk r.toNat 2 0))))))))
  | .abn g n m => some (pk g.toNat 28 (pk 13 22 (pk n.toNat 17 (pk m.toNat 12 0))))
  | .bfold g n m e => some (pk g.toNat 28 (pk 14 22 (pk n.toNat 17 (pk m.toNat 12 (pk e.toNat 10 0)))))
  | .xwr g p v => some (pk g.toNat 28 (pk 15 22 (pk p.toNat 20 (pk v.toNat 16 0))))
  | .xrd g p => some (pk g.toNat 28 (pk 16 22 (pk p.toNat 20 0)))
  | .xst g p d sf => some (pk g.toNat 28 (pk 17 22 (pk p.toNat 20 (pk d.toNat 13 (pk sf.toNat 10 0)))))
  | .restartMark => none
  | .pop _ => none
  | .wmwResume => none
  | .waitcResume => none
  | .ifenceResume => none
  | .wsampResume => none
  | .queueHeadResume => none
  | .busyBitResume => none
  | .queueCapResume => none
  | .gateEntryRelease => none
  | .copyCommandStart _ => none
  | .copyBeat _ _ => none
  | .overlayFinish _ => none
  | .hbmSlot _ => none
  | .feltSend _ => none
  | .feltPacketApply _ => none
  | .refusal _ _ => none
  | .gatewayContribution _ _ => none
  | .webFlitSend => none
  | .webFlitArrival _ => none
  | .remoteAtmReturn _ _ => none
  | .reamPacketReceive _ _ => none
  | .gatewayForward _ => none
  | .linkInitialisation _ => none
  | .linkTrained _ _ => none
  | .trainingTimeout _ => none
  | .retrain _ => none
  | .unscheduledRetrain _ => none
  | .missedArrival _ => none
  | .synchronisationPoint _ => none
  | .paceMessage _ => none
  | .sourceEdge _ _ => none
  | .budgetEnd => none
  | .edgesAbsent => none
  | .lockAchieved => none
  | .startAcquisition => none
  | .synthesiserStop => none
  | .crossingLineArrival _ _ => none
  | .fastThrottle _ => none
  | .throttleRelease => none
  | .correctableError _ => none
  | .uncorrectableError _ => none
  | .canaryFailure => none
  | .voutStepDown => none
  | .replicaTrim _ _ => none
  | .heatLevelChange _ _ => none
  | .watchdog => none
  | .resume _ => none
  | .residencyFaultService _ _ => none
  | .accessCounterScan _ => none
  | .translationEntryWrite _ _ _ => none
  | .pageMove _ _ => none
  | .millCoreAccess _ _ _ => none
  | .webClockInitialisation _ => none
  | .go => none
  | .kernelStart _ _ => none
  | .kernelComplete _ => none
  | .preEmptionRequest => none
  | .park => none
  | .restore => none
  | .sheetSleep _ => none
  | .sheetWake _ => none
  | .mirrorReloadEnd => none
  | .managementTrigger => none
  | .externalTrigger _ => none
  | .snapshotLatch => none
  | .linkstRead _ => none
  | .registerWrite _ _ => none
  | .debugHalt => none
  | .debugResume => none
  | .singleBundleStep => none
  | .unlockToken _ => none
  | .powerGood => none
  | .signedImage _ => none
  | .challenge _ => none
  | .getMeasurements _ => none
  | .submission _ => none
  | .capThrottling _ => none
  | .bankExtensionResume => none
  | .debugRegisterAccess _ _ _ => none
/-- The word of an instruction (03). -/
def encode (i : Instr) : Option SlotWord := (encodeNat i).map (BitVec.ofNat 32)

/-- A candidate stands when its own word is the word read, so that every bit the encoding fixes holds, and when it is
well formed. -/
def confirm (w : SlotWord) (c : Option Instr) : Except DecodeError Instr :=
  match c with
  | none => .error .unassigned
  | some i => if encode i = some w ∧ i.wf = true then .ok i else .error .reservedField

/-- A control word without its header bits [31:24] (03 R33). -/
def controlBits (w : SlotWord) : SlotWord := BitVec.ofNat 32 (w.toNat % 2 ^ 24)

/-- Decode the word of slot k (03 R32 to R54).  Slot 0's header bits are read by `Header.of`. -/
def decodeSlot (k : Nat) (w : SlotWord) : Except DecodeError Instr :=
  if k = 0 then
    let c := controlBits w
    if fld c 14 6 = 0 then
      if c = 0 then .ok .nopControl else .error .nopOperands
    else confirm c (readControl c)
  else if fld w 22 6 = 0 then
    if w = 0 then .ok (.nop (BitVec.ofNat 3 k)) else .error .nopOperands
  else if k ≤ 2 then confirm w (readAddress (BitVec.ofNat 1 (k - 1)) w)
  else if k ≤ 4 then confirm w (readVector (BitVec.ofNat 1 (k - 3)) w)
  else if k = 5 then confirm w (readMatrix w)
  else if k = 6 then confirm w (readSumProduct w)
  else confirm w (readPort w)

/-- The slot whose engine executes an instruction (03 R32); `none` for header fields and events. -/
def slotOf : Instr → Option Nat
  | .nop n => some n.toNat
  | .nopControl => some 0
  | .br _ _ => some 0
  | .bri _ _ _ => some 0
  | .call _ _ => some 0
  | .calli _ _ _ => some 0
  | .ret _ => some 0
  | .loop _ _ _ => some 0
  | .loopa _ _ _ => some 0
  | .loopn _ _ _ => some 0
  | .brk _ => some 0
  | .plog _ _ _ _ _ => some 0
  | .pset _ _ _ => some 0
  | .nxt _ _ => some 0
  | .wsamp _ => some 0
  | .waitc _ _ _ => some 0
  | .wmw _ _ _ => some 0
  | .ifence _ _ => some 0
  | .bswap _ _ => some 0
  | .snap _ => some 0
  | .trap _ _ _ => some 0
  | .sysc _ _ _ => some 0
  | .halt _ => some 0
  | .srd _ _ _ => some 0
  | .swr _ _ _ => some 0
  | .mark _ => some 0
  | .add u _ _ _ _ _ => some (1 + u.toNat)
  | .sub u _ _ _ _ _ => some (1 + u.toNat)
  | .and u _ _ _ _ _ => some (1 + u.toNat)
  | .or u _ _ _ _ _ => some (1 + u.toNat)
  | .xor u _ _ _ _ _ => some (1 + u.toNat)
  | .shl u _ _ _ _ _ => some (1 + u.toNat)
  | .shr u _ _ _ _ _ => some (1 + u.toNat)
  | .sar u _ _ _ _ _ => some (1 + u.toNat)
  | .mul u _ _ _ _ _ => some (1 + u.toNat)
  | .mulh u _ _ _ _ _ => some (1 + u.toNat)
  | .mulhu u _ _ _ _ _ => some (1 + u.toNat)
  | .min u _ _ _ _ _ => some (1 + u.toNat)
  | .max u _ _ _ _ _ => some (1 + u.toNat)
  | .minu u _ _ _ _ _ => some (1 + u.toNat)
  | .maxu u _ _ _ _ _ => some (1 + u.toNat)
  | .andn u _ _ _ _ _ => some (1 + u.toNat)
  | .cmp u _ _ _ _ _ => some (1 + u.toNat)
  | .addi u _ _ _ _ _ => some (1 + u.toNat)
  | .andi u _ _ _ _ _ => some (1 + u.toNat)
  | .ori u _ _ _ _ _ => some (1 + u.toNat)
  | .xori u _ _ _ _ _ => some (1 + u.toNat)
  | .shli u _ _ _ _ _ => some (1 + u.toNat)
  | .shri u _ _ _ _ _ => some (1 + u.toNat)
  | .sari u _ _ _ _ _ => some (1 + u.toNat)
  | .muli u _ _ _ _ _ => some (1 + u.toNat)
  | .imx u _ _ _ _ _ => some (1 + u.toNat)
  | .cmpi u _ _ _ _ _ => some (1 + u.toNat)
  | .mset u _ _ _ _ => some (1 + u.toNat)
  | .aupd u _ _ _ _ _ => some (1 + u.toNat)
  | .lane u _ _ _ _ _ _ => some (1 + u.toNat)
  | .ldl u _ _ _ _ _ _ _ => some (1 + u.toNat)
  | .stl u _ _ _ _ _ _ _ => some (1 + u.toNat)
  | .lds u _ _ _ _ _ => some (1 + u.toNat)
  | .sts u _ _ _ _ _ => some (1 + u.toNat)
  | .ldg u _ _ _ _ _ _ => some (1 + u.toNat)
  | .stg u _ _ _ _ _ _ => some (1 + u.toNat)
  | .ldb u _ _ _ _ _ _ _ _ => some (1 + u.toNat)
  | .sdef u _ _ _ _ => some (1 + u.toNat)
  | .srdf u _ _ _ _ => some (1 + u.toNat)
  | .sadv u _ _ _ _ => some (1 + u.toNat)
  | .srst u _ _ => some (1 + u.toNat)
  | .ldt u _ _ _ _ => some (1 + u.toNat)
  | .stt u _ _ _ _ => some (1 + u.toNat)
  | .vfadd u _ _ _ _ _ _ _ => some (3 + u.toNat)
  | .vfsub u _ _ _ _ _ _ _ => some (3 + u.toNat)
  | .vfmul u _ _ _ _ _ _ _ => some (3 + u.toNat)
  | .vfma u _ _ _ _ _ _ _ => some (3 + u.toNat)
  | .vfms u _ _ _ _ _ _ _ => some (3 + u.toNat)
  | .vfnma u _ _ _ _ _ _ _ => some (3 + u.toNat)
  | .vfmin u _ _ _ _ _ _ _ => some (3 + u.toNat)
  | .vfmax u _ _ _ _ _ _ _ => some (3 + u.toNat)
  | .vfabs u _ _ _ _ _ _ => some (3 + u.toNat)
  | .vfcmp u _ _ _ _ _ _ _ => some (3 + u.toNat)
  | .vadd u _ _ _ _ _ _ _ => some (3 + u.toNat)
  | .vsub u _ _ _ _ _ _ _ => some (3 + u.toNat)
  | .vmul u _ _ _ _ _ _ _ => some (3 + u.toNat)
  | .vmulh u _ _ _ _ _ _ _ _ => some (3 + u.toNat)
  | .vadds u _ _ _ _ _ _ _ _ => some (3 + u.toNat)
  | .vmin u _ _ _ _ _ _ _ _ => some (3 + u.toNat)
  | .vmax u _ _ _ _ _ _ _ _ => some (3 + u.toNat)
  | .vand u _ _ _ _ _ _ _ => some (3 + u.toNat)
  | .vor u _ _ _ _ _ _ _ => some (3 + u.toNat)
  | .vxor u _ _ _ _ _ _ _ => some (3 + u.toNat)
  | .vshl u _ _ _ _ _ _ _ => some (3 + u.toNat)
  | .vshr u _ _ _ _ _ _ _ _ => some (3 + u.toNat)
  | .vcmp u _ _ _ _ _ _ _ _ => some (3 + u.toNat)
  | .vaddi u _ _ _ _ _ _ => some (3 + u.toNat)
  | .vandi u _ _ _ _ _ _ => some (3 + u.toNat)
  | .vshli u _ _ _ _ _ _ => some (3 + u.toNat)
  | .vshri u _ _ _ _ _ _ _ => some (3 + u.toNat)
  | .vmovi u _ _ _ _ _ => some (3 + u.toNat)
  | .vcfi u _ _ _ _ _ _ _ _ _ => some (3 + u.toNat)
  | .vcif u _ _ _ _ _ _ _ _ _ => some (3 + u.toNat)
  | .vcfn u _ _ _ _ _ _ _ => some (3 + u.toNat)
  | .vcnf u _ _ _ _ _ _ _ => some (3 + u.toNat)
  | .vqnt u _ _ _ _ _ _ => some (3 + u.toNat)
  | .vdqn u _ _ _ _ _ _ => some (3 + u.toNat)
  | .vcfs u _ _ _ _ _ _ => some (3 + u.toNat)
  | .vcsf u _ _ _ _ _ _ => some (3 + u.toNat)
  | .vpmov u _ _ _ _ _ _ => some (3 + u.toNat)
  | .vperm u _ _ _ _ _ _ _ => some (3 + u.toNat)
  | .vbcst u _ _ _ _ _ _ _ => some (3 + u.toNat)
  | .vxch u _ _ _ _ _ _ _ => some (3 + u.toNat)
  | .vzip u _ _ _ _ _ _ _ => some (3 + u.toNat)
  | .vuzp u _ _ _ _ _ _ _ => some (3 + u.toNat)
  | .vmov u _ _ _ _ _ _ => some (3 + u.toNat)
  | .vsel u _ _ _ _ _ _ _ => some (3 + u.toNat)
  | .kand u _ _ _ _ _ _ => some (3 + u.toNat)
  | .kor u _ _ _ _ _ _ => some (3 + u.toNat)
  | .kxor u _ _ _ _ _ _ => some (3 + u.toNat)
  | .kmov u _ _ _ _ _ => some (3 + u.toNat)
  | .kmovNz u _ _ _ _ _ => some (3 + u.toNat)
  | .kmovBits u _ _ _ _ _ => some (3 + u.toNat)
  | .vrsum u _ _ _ _ _ _ => some (3 + u.toNat)
  | .vrmax u _ _ _ _ _ _ => some (3 + u.toNat)
  | .vrmin u _ _ _ _ _ _ => some (3 + u.toNat)
  | .vrisum u _ _ _ _ _ _ => some (3 + u.toNat)
  | .vscan u _ _ _ _ _ _ => some (3 + u.toNat)
  | .frcps u _ _ _ _ _ _ => some (3 + u.toNat)
  | .frsqs u _ _ _ _ _ _ => some (3 + u.toNat)
  | .fnrcp u _ _ _ _ _ _ _ => some (3 + u.toNat)
  | .fnrsq u _ _ _ _ _ _ _ => some (3 + u.toNat)
  | .frint u _ _ _ _ _ _ => some (3 + u.toNat)
  | .fscale u _ _ _ _ _ _ _ => some (3 + u.toNat)
  | .fgete u _ _ _ _ _ _ => some (3 + u.toNat)
  | .fgetm u _ _ _ _ _ _ => some (3 + u.toNat)
  | .vrng u _ _ _ _ _ _ _ => some (3 + u.toNat)
  | .mma _ _ _ _ _ _ _ => some 5
  | .mmaz _ _ _ _ _ _ _ => some 5
  | .mrd _ _ _ _ _ _ => some 5
  | .mrdx _ _ _ _ _ => some 5
  | .mwrx _ _ _ _ _ => some 5
  | .mclr _ _ => some 5
  | .manc _ _ _ => some 5
  | .mldw _ _ _ => some 5
  | .spu _ _ _ _ _ _ => some 6
  | .spd _ _ _ _ _ _ => some 6
  | .spld _ _ _ _ => some 6
  | .spst _ _ _ _ => some 6
  | .spsh _ _ _ => some 6
  | .spw _ _ _ => some 6
  | .spcv _ _ _ _ => some 6
  | .spsc _ _ _ => some 6
  | .spcl _ _ => some 6
  | .msc _ _ => some 7
  | .cpy _ _ _ => some 7
  | .wms _ _ _ _ => some 7
  | .ovl _ _ => some 7
  | .send _ _ _ => some 7
  | .sendLine _ _ _ => some 7
  | .chb _ _ _ => some 7
  | .chu _ _ => some 7
  | .qwr _ _ _ _ => some 7
  | .qwrWm _ _ _ => some 7
  | .qwrXadd _ _ _ _ => some 7
  | .qat _ _ _ _ _ => some 7
  | .gcs _ _ _ _ => some 7
  | .gcsReam _ _ _ _ => some 7
  | .gcm _ _ _ _ => some 7
  | .atm _ _ _ _ _ _ _ => some 7
  | .abn _ _ _ => some 7
  | .bfold _ _ _ _ => some 7
  | .xwr _ _ _ => some 7
  | .xrd _ _ => some 7
  | .xst _ _ _ _ => some 7
  | .restartMark => none
  | .pop _ => none
  | .wmwResume => none
  | .waitcResume => none
  | .ifenceResume => none
  | .wsampResume => none
  | .queueHeadResume => none
  | .busyBitResume => none
  | .queueCapResume => none
  | .gateEntryRelease => none
  | .copyCommandStart _ => none
  | .copyBeat _ _ => none
  | .overlayFinish _ => none
  | .hbmSlot _ => none
  | .feltSend _ => none
  | .feltPacketApply _ => none
  | .refusal _ _ => none
  | .gatewayContribution _ _ => none
  | .webFlitSend => none
  | .webFlitArrival _ => none
  | .remoteAtmReturn _ _ => none
  | .reamPacketReceive _ _ => none
  | .gatewayForward _ => none
  | .linkInitialisation _ => none
  | .linkTrained _ _ => none
  | .trainingTimeout _ => none
  | .retrain _ => none
  | .unscheduledRetrain _ => none
  | .missedArrival _ => none
  | .synchronisationPoint _ => none
  | .paceMessage _ => none
  | .sourceEdge _ _ => none
  | .budgetEnd => none
  | .edgesAbsent => none
  | .lockAchieved => none
  | .startAcquisition => none
  | .synthesiserStop => none
  | .crossingLineArrival _ _ => none
  | .fastThrottle _ => none
  | .throttleRelease => none
  | .correctableError _ => none
  | .uncorrectableError _ => none
  | .canaryFailure => none
  | .voutStepDown => none
  | .replicaTrim _ _ => none
  | .heatLevelChange _ _ => none
  | .watchdog => none
  | .resume _ => none
  | .residencyFaultService _ _ => none
  | .accessCounterScan _ => none
  | .translationEntryWrite _ _ _ => none
  | .pageMove _ _ => none
  | .millCoreAccess _ _ _ => none
  | .webClockInitialisation _ => none
  | .go => none
  | .kernelStart _ _ => none
  | .kernelComplete _ => none
  | .preEmptionRequest => none
  | .park => none
  | .restore => none
  | .sheetSleep _ => none
  | .sheetWake _ => none
  | .mirrorReloadEnd => none
  | .managementTrigger => none
  | .externalTrigger _ => none
  | .snapshotLatch => none
  | .linkstRead _ => none
  | .registerWrite _ _ => none
  | .debugHalt => none
  | .debugResume => none
  | .singleBundleStep => none
  | .unlockToken _ => none
  | .powerGood => none
  | .signedImage _ => none
  | .challenge _ => none
  | .getMeasurements _ => none
  | .submission _ => none
  | .capThrottling _ => none
  | .bankExtensionResume => none
  | .debugRegisterAccess _ _ _ => none

/-- The lane groups that a width code occupies (03 R40). -/
def laneGroups (z : BitVec 3) : List Nat :=
  match z.toNat with
  | 0 => [0]
  | 1 => [1]
  | 2 => [2]
  | 3 => [3]
  | 4 => [0, 1]
  | 5 => [2, 3]
  | 6 => [0, 1, 2, 3]
  | _ => []

/-- The lane groups of the operation that a vector slot word holds, by its opcode's family; a word that a reserved field
makes illegal counts too, and an unassigned opcode is no operation (03 R40, R50, R51, R56). -/
def wordGroups (w : SlotWord) : List Nat :=
  let o := (fld w 22 6).toNat
  if o = 0 ∨ o = 0x3F then []
  else if 0x18 ≤ o ∧ o ≤ 0x1C then laneGroups (fld w 0 3)
  else if (0x1D ≤ o ∧ o ≤ 0x24) ∨ o = 0x3A then laneGroups (fld w 3 3)
  else laneGroups (fld w 4 3)

/-- The header of a bundle: bits 31 to 24 of slot 0 (03 R33). -/
structure Header where
  ps : Bool
  rm : Bool
  sk : Bool
  pop : BitVec 4
  /-- bit 24, which must be zero -/
  res : Bool
deriving DecidableEq, Repr

/-- The header bits of slot 0's word (03 R33). -/
def Header.of (w : SlotWord) : Header :=
  { ps := fld w 31 1 = 1, rm := fld w 30 1 = 1, sk := fld w 29 1 = 1, pop := fld w 25 4, res := fld w 24 1 = 1 }

/-- The eight slots of a bundle, decoded. -/
def decodeBundle (b : Bundle) : List (Nat × Except DecodeError Instr) :=
  (List.range 8).map fun k => (k, decodeSlot k (b.slot k))

/-- The slots whose maps are tried, in this order, for a table word that does not say its slot (assumption 6). -/
def tableSlots : List Nat := [1, 3, 5, 6, 7]

/-- The instruction of a table word: a word with bits [27:22] zero is a control word; any other is read by the first map
of `tableSlots` that accepts it, and as a control word with header bits when none does (assumption 6). -/
def decodeTableWord (nbits w : Nat) : Option Instr :=
  if nbits ≠ 32 then none else
  let b : SlotWord := BitVec.ofNat 32 w
  if b = 0 then some (.nop 1)
  else if fld b 22 6 = 0 then (decodeSlot 0 b).toOption
  else
    match tableSlots.filterMap (fun k => (decodeSlot k b).toOption) with
    | i :: _ => some i
    | [] => (decodeSlot 0 b).toOption

end Sys2Proof
end

