-- ==== Sys2Proof/Config.lean ====
section
/-! DEFINITION. What one implementation fixes, and the free values of the spec: constants with no body, so that no
proof can see what they are (notes/assumptions/2.md). -/

namespace Sys2Proof.Config

/-- Bytes of the scratchpad, 768 KiB (07 R122). -/
def scratchBytes : Nat := 0xC0000

/-- Bytes of the weight buffer, 128 KiB (15 R265). -/
def wbufBytes : Nat := 0x20000

/-- Bytes of the quire window, 2 MiB (05 R88). -/
def quireBytes : Nat := 0x200000

/-- Physical base of the quire window (05 R88). -/
def quireBase : Nat := 0xF800000000

/-- Physical base and size of the staging SRAM (05 R88). -/
def stagingBase : Nat := 0xF000000000
/-- Size of the staging SRAM, 64 MiB (05 R88). -/
def stagingBytes : Nat := 0x4000000

/-- End of HBM in the physical address space (05 R88). -/
def hbmEnd : Nat := 0x9000000000

/-- Bytes of one HBM channel (05 R87). -/
def channelBytes : Nat := 0x60000000

/-- Web cycles of one HBM slot, and slots of a revolution (05 R91). -/
def slotCycles : Nat := 9
/-- Slots of one wheel revolution (05 R91). -/
def wheelSlots : Nat := 512

/-- The free value number n, any natural number: what the spec leaves open and does not bound (assumption 2). -/
opaque freeNat : Nat → Nat

/-- The deckle's choice among the free frames of a channel: some function of what the deckle reads, so that the same inputs give the
same page homes (06 R109; assumption 2). -/
opaque deckleFrame : List Nat → List Nat → Nat

/-- The data slots of a channel that other partitions leave unowned in a revolution, as bits; only they know which (19 R341; assumption
2). -/
opaque idleOwned : Nat → Nat → Nat

/-- The SHA-256 digest of a byte string; the spec names the standard only (22 R400; assumption 31). -/
opaque sha256 : List (BitVec 8) → BitVec 256

/-- Whether an ECDSA P-256 signature (r, s) over a digest verifies under the public key in flash (22 R400). -/
opaque ecdsaVerify : BitVec 256 → BitVec 512 → Bool

/-- SHA-256 of the public key that signed the image (22 R400). -/
opaque rootKeyHash : List (BitVec 8) → BitVec 256

/-- The signature that the security block forms with the identity key over a message (22 R401). -/
opaque identitySign : List (BitVec 8) → BitVec 512

/-- Whether an unlock token is signed by Afcel and bound to this device (22 R402). -/
opaque tokenValid : List (BitVec 8) → Bool

/-- The digest of the boot ROM, which the security block measures (22 R401). -/
opaque romDigest : BitVec 256

end Sys2Proof.Config
end

