-- ==== Sys2Proof/Machine/State.lean ====
section
/-! DEFINITION. The state of one logical core and of the module around it, as plain data, and the state after reset.
INVENTORY.md lists every field with the rule that names it. -/

namespace Sys2Proof.Machine

/-- Sparse storage by number: pairs in rising order of key, none equal to the table's default. -/
abbrev Tab (α : Type) := List (Nat × α)

/-- A memory: host cells in rising order of address, none equal to the byte an unlisted address reads as, which is
zero (assumption 5). -/
abbrev Memory := List Host.Cell

/-- A tile coordinate register: t0 to t5 and the valid bit (11 R199). -/
structure TileCoord where
  t : Vector (BitVec 16) 6
  v : Bool
deriving DecidableEq, Repr

/-- The registers that the undo log covers (21 R377): those of chapter 11 and the RW special-register fields. -/
structure Regs where
  /-- a0 to a31 (R195); a0 reads zero through `Regs.readA` -/
  a : Vector Word 32
  /-- m0 to m31 (R195) -/
  m : Vector Word 32
  /-- v0 to v15 (R194) -/
  v : Vector Line 16
  /-- p0 to p7 (R196); p0 reads 1 through `Regs.readP` -/
  p : Vector Bool 8
  /-- k0 to k7 (R196); k0 reads all ones through `Regs.readK` -/
  k : Vector Lane32 8
  /-- the plane file (R192): element (i, j) of plane n at key 1024n + 32i + j, default 0 -/
  plane : Tab Lane32
  /-- st0 to st15 (R197) -/
  st : Vector (BitVec 512) 16
  /-- tc0 to tc3 (R199) -/
  tc : Vector TileCoord 4
  /-- rounding mode, special register 0x040 (04 R64) -/
  fmode : BitVec 2
  /-- snapc bits 2 and 1 (21 R389) -/
  eflt : Bool
  esnap : Bool
  /-- pre-emption bound, 0x100 (21 R386) -/
  preb : BitVec 32
  /-- QCAP and QMIN of the 32 receive queues, 0x120 to 0x13F (10 R178) -/
  qcap : Vector (BitVec 10) 32
  qmin : Vector (BitVec 10) 32
deriving DecidableEq, Repr

/-- The bypass latches (03 R37, 11 R201). -/
structure Latches where
  lx0 : Line
  lx1 : Line
  ly0 : Line
  ly1 : Line
  la : Word
  lb : Word
  lda : Line
  ldb : Line
  lsp : Lane32
  lmx : Line
  lcx : Line
deriving DecidableEq, Repr

/-- The latch a result lands in (11 R201); `x` and `y` shift lx0 into lx1 and ly0 into ly1 first. -/
inductive Latch where
  | none | la | lb | lda | ldb | x | y | lsp | lmx | lcx
deriving DecidableEq, Repr

/-- The fault kinds, coded as KIND of the record (21 R375). -/
inductive FaultKind where
  | illegalBundle | illegalOperation | misalignment | outOfTable | permission | residency | capability | copyCommand
  | gateway | feltSlot | stash | markOverflow | watchdog | uncorrectableData | violation | timing
deriving DecidableEq, Repr

/-- What a fault found: the fields of the record that its cause fills in (21 R376). -/
structure FaultInfo where
  kind : FaultKind
  slot : Nat
  word : SlotWord
  /-- ACC: 0 read, 1 write, 2 atomic -/
  acc : BitVec 2
  entry : BitVec 10
  va : BitVec 48
  /-- the violation log's KIND, for a violation (21 R384) -/
  vkind : BitVec 3
  /-- the runtime resumes the core; otherwise the kernel is aborted (21 R375) -/
  resumes : Bool
deriving DecidableEq, Repr

/-- A register result in flight (03 R59). -/
structure Landing where
  /-- the cycle at which it lands -/
  due : Nat
  /-- issue order, for results that land together (11 R206) -/
  seq : Nat
  /-- the issuing slot, 0 to 7 -/
  slot : Nat
  /-- the destination file; `none` for a latch-only result -/
  file : Option RegFile
  /-- register within its file (21 R381, DST) -/
  dst : BitVec 10
  /-- result bits, and which of them are written -/
  val : Line
  sel : Line
  /-- `fstat` bits that land with it -/
  flg : BitVec 9
  latch : Latch
  /-- what the latch takes, and which of its bits -/
  lval : Line
  lsel : Line
  /-- the late fault taken when it lands (21 R380) -/
  bad : Option FaultInfo := none
deriving DecidableEq, Repr

/-- What a load makes of the bytes it reads (12 R217 to R220, R227). -/
inductive LoadForm where
  /-- the bytes stand at their places in the line -/
  | line
  /-- a scalar of n bytes, sign-extended to 64 bits or not -/
  | scalar (n : Nat) (sext : Bool)
  /-- one element of n bytes in every place -/
  | bcast (n : Nat)
  /-- a BIN set folded into FP32 with a rounding code (17 R320) -/
  | bfold (rnd : BitVec 2)
  /-- 128 bytes for the weight buffer at an offset (15 R282) -/
  | wbuf (off : Nat)
deriving DecidableEq, Repr

/-- A load in the load queue (17 R306), with the results it will land. -/
structure Load where
  seq : Nat
  /-- the cycle whose visible memory it reads: b0 − 4 (07 R126) -/
  readAt : Nat
  /-- place in the line and address of each byte read -/
  bytes : List (Nat × Nat)
  /-- reads the sheet's quire mirror, not the scratchpad (09 R161) -/
  quire : Bool
  /-- the translation gives zeros, a DISCARD entry (05 R101) -/
  zeros : Bool
  /-- violation: the poison pattern lands (21 R383) -/
  poison : Bool
  form : LoadForm
  /-- the landing; its `val` and `lval` are filled when the load reads -/
  land : Landing
  /-- its slot word, for a fault record -/
  word : SlotWord
  /-- issued before the restart mark, with the cycles it still had to run there (21 R381); such a load stays in the list
  until the next mark -/
  markRem : Option Nat
  /-- set once it has read -/
  done : Bool
  /-- the cycle of its landing as first stated, until which `lcnt` counts it (17 R309) -/
  until_ : Nat
deriving DecidableEq, Repr

/-- A store in the store queue (17 R306). -/
structure Store where
  seq : Nat
  /-- last cycle of its bank phase, when it performs -/
  w : Nat
  bytes : List Host.Cell
  /-- the image already shows it, and what it wrote over -/
  applied : Bool
  old : List Host.Cell
deriving DecidableEq, Repr

/-- One active loop level (18 R323). -/
structure Level where
  start : BitVec 10
  stop : BitVec 10
  rem : BitVec 32
  idx : BitVec 32
  opn : Bool
deriving DecidableEq, Repr

/-- The resumable sequencer state: the PC and the loop stack, innermost level first (18 R323). -/
structure Seq where
  half : BitVec 1
  index : BitVec 10
  loops : List Level
deriving DecidableEq, Repr

/-- What the core is doing. -/
inductive Run where
  /-- no kernel runs on the core -/
  | idle
  | running
  /-- after HALT (18 R337) -/
  | halted
  /-- stopped by TRAP or SYSC until the runtime resumes it (18 R336) -/
  | trapped
  /-- stopped by a resumable fault (21 R375) -/
  | faulted
  /-- holding a PS bundle for pre-emption while the core drains (21 R387) -/
  | draining
  /-- its context is parked (21 R387) -/
  | parked
  /-- halted by the debug unit (22 R403) -/
  | debugHalted
  /-- the kernel was aborted (21 R375) -/
  | aborted
deriving DecidableEq, Repr

/-- A hold that the bundle just issued puts on the next one. -/
inductive Wait where
  | none
  /-- until the watermark word at this offset of the scratchpad or the quire reaches a generation, with the cycle in
  which it was first seen to (07 R139) -/
  | wmw (quire : Bool) (off : Nat) (gen : BitVec 9) (since : Option Nat)
  /-- until `scnt` (true) or `lcnt` is at most n (17 R310) -/
  | waitc (scnt : Bool) (n : BitVec 9)
  /-- until the next sample begins (20 R363) -/
  | wsamp
  /-- until every started overlay has finished; its success goes to a predicate (08 R151) -/
  | ifence (p : BitVec 3)
  /-- every overlay has finished and the predicate has landed: the next bundle is due in the cycle after (08 R151) -/
  | fenced (p : BitVec 3)
  /-- until every started overlay has finished, then the other half at this index (08 R152) -/
  | bswap (target : BitVec 10)
deriving DecidableEq, Repr

/-- A hold of the bundle at the PC (19 R350). -/
inductive Held where
  | none | queueHead | busyBit | queueCap | bankExtension | mirrorReload
deriving DecidableEq, Repr

/-- A taken control transfer (18 R324). -/
structure Taken where
  half : BitVec 1
  index : Nat
  loops : List Level
deriving DecidableEq, Repr

/-- The record that a TRAP or SYSC passes to the runtime (18 R336). -/
structure TrapRecord where
  sysc : Bool
  code : BitVec 9
  arg : Word
  half : BitVec 1
  index : BitVec 10
deriving DecidableEq, Repr

/-- What a rollback restores of a port: XRD advances are undone (20 R369). -/
structure PortMark where
  lastTaken : Line
  lastStamp : Option (BitVec 64)
  stale : Bool
  j : Nat
  pos : Nat
  est : Nat
deriving DecidableEq, Repr

/-- The copy that a rollback restores (21 R378, R379): the values at the mark of what the undo log covers. -/
structure Mark where
  /-- a restart point is in force -/
  inForce : Bool
  /-- the commit cycle m -/
  cyc : Nat
  regs : Regs
  seq : Seq
  /-- the copy of `fstat` -/
  fstat : BitVec 9
  /-- the rotation pointer and the walker position -/
  tctr : BitVec 2
  walk : Nat
  lw : BitVec 64
  heads : Vector (Option (BitVec 5)) 4
  ports : List PortMark
  /-- what the look-ahead knew at m of each predicate's last write (18 R332) -/
  known : Vector (Option Nat) 8
  /-- the mark snapshot: results in flight at m, with their cycles as at m, by slot and issue order -/
  snap : List Landing
deriving DecidableEq, Repr

/-- An operation with the operands it captured at issue, as it waits in the gate buffer (21 R377). -/
inductive Eff where
  /-- STL, STS, STG, STT: bytes, and the demand d and banks of the access -/
  | store (bytes : List Host.Cell)
  /-- CPY: descriptor offset, aM, slot word -/
  | cpy (desc : Nat) (wm : Word) (word : SlotWord)
  /-- OVL: descriptor offset, slot word, the half that was idle at issue -/
  | ovl (desc : Nat) (word : SlotWord) (half : BitVec 1)
  /-- WMS: word offset and target -/
  | wms (off : Nat) (tgt : BitVec 32)
  /-- SEND: capability index and payload -/
  | send (cap : BitVec 8) (line : Bool) (data : Line)
  /-- QWR and QAT: the packet, whether an old value returns, and the translation entry -/
  | felt (pk : FeltPacket) (qat : Bool) (ent : BitVec 10)
  /-- local ATM: code, size, offset, operands -/
  | atmLocal (op : BitVec 3) (i64 : Bool) (off : Nat) (x cmp : Word)
  /-- ATM on HBM: code, size, physical address, translation entry, operands -/
  | atmHbm (op : BitVec 3) (i64 : Bool) (pa : Nat) (ent : BitVec 10) (x cmp : Word)
  /-- remote ATM: code, size, capability, offset, operands -/
  | atmRemote (op : BitVec 3) (i64 : Bool) (cap : BitVec 8) (off : Nat) (x cmp : Word)
  /-- ATM on HBM refused as a violation: size, physical address; the poison pattern lands in `lda` (21 R383) -/
  | atmPoison (i64 : Bool) (pa : Nat) (info : FaultInfo)
  /-- remote ATM to an endpoint outside the partition: size; the poison pattern lands in `lda` (21 R383) -/
  | atmOutside (i64 : Bool) (info : FaultInfo)
  /-- ABN: offset and addend -/
  | abn (off : Nat) (x : BitVec 32)
  /-- XWR: port and line, with the stamp at issue -/
  | xwr (port : BitVec 2) (ln : Line) (stamp : BitVec 64)
  /-- GCS: cell, count − 1, aN, kind, slot word -/
  | gcs (cell : BitVec 5) (n : BitVec 7) (dest : Word) (ream : Bool) (word : SlotWord)
  /-- GCM: cell, tile, row, slot word -/
  | gcm (cell : BitVec 5) (tile : BitVec 1) (row : BitVec 5) (word : SlotWord)
deriving DecidableEq, Repr

/-- An entry of the gate buffer: committed ones wait for room (21 R378). -/
structure GateEntry where
  seq : Nat
  slot : Nat
  eff : Eff
  committed : Bool
  /-- it has waited, and its slip is counted -/
  waited : Bool
deriving DecidableEq, Repr

/-- A memory access of a fenced atomic under way in its bank cycle (17 R318 to R320). -/
structure AtomAccess where
  seq : Nat
  /-- the cycle whose image it acts on: b0 − 3 for ATM and ABN -/
  at_ : Nat
  eff : Eff
  /-- last cycle of its bank phase, when it performs -/
  w : Nat
  /-- landing cycle of the old value -/
  due : Nat
deriving DecidableEq, Repr

/-- Where the old value of an atomic comes back from: a channel, the felt, or the core at a position of the sheet (17 R318, 09
R164). -/
inductive Return where
  | hbm
  | felt
  | core (pos : BitVec 7)
deriving DecidableEq, Repr

/-- A remote or HBM atomic or a QAT: its issue number, where its old value comes back from, and the cycle at which that lands,
once it has come (17 R309). -/
structure Await where
  seq : Nat
  src : Return
  due : Option Nat
deriving DecidableEq, Repr

/-- What a copy beat or a channel access writes, and where (07 R131). -/
inductive Place where
  /-- scratchpad offset -/
  | pad (off : Nat)
  /-- weight-buffer offset -/
  | wbuf (off : Nat)
  /-- physical address: HBM or staging -/
  | phys (pa : Nat)
  /-- the loader's fetch of an overlay: stream position of the beat -/
  | loader (n : Nat)
  /-- another core's scratchpad: the beat, which leaves as a flit, is only counted here -/
  | remote (fl : Flit)
  /-- no memory of this core -/
  | away
deriving DecidableEq, Repr

/-- A write of an engine on its way (07 R126, R131). -/
structure EngWrite where
  /-- perform cycle, in region cycles -/
  due : Nat
  /-- engine port rank: 0 HBM, 1 gateway, 2 web, 3 copy write, 4 WMS and others -/
  port : Nat
  place : Place
  data : BitVec 512
  /-- the command and beat it belongs to -/
  cmd : Option (Nat × Nat)
  /-- local watermark word raised by 64 when it performs -/
  wm : Option Nat
  /-- this is WMS: TGT of the word at `place` is set and the rest cleared -/
  wms : Option (BitVec 32)
  /-- the data carry an uncorrectable error or a violation: the fault taken when it performs -/
  bad : Option FaultInfo
  /-- a remote atomic that arrived: code, size, operands and the position it came from (17 R318) -/
  atm : Option (BitVec 3 × Bool × Word × Word × BitVec 7)
  /-- translation entries that count the access when it performs, and whether under DISCARD (05 R103, R104) -/
  ents : List (Nat × Bool)
deriving DecidableEq, Repr

/-- What crosses from the web side to the region: a write, a message with the watermark word that it raises, or the old value of
the atomic of a number. -/
inductive InItem where
  | write (w : EngWrite)
  | msg (qn : BitVec 5) (line : Bool) (data : Line) (wm : Option (BitVec 16))
  | old (num : Nat) (val : Word)
deriving DecidableEq, Repr

/-- An item in the region's crossing buffer: the web cycle τ at which it was available, its port rank (07 R124), and what it is
(20 R362). -/
structure Inbound where
  tau : Nat
  port : Nat
  item : InItem
deriving DecidableEq, Repr

/-- The scratchpad as accesses of a region cycle saw it, with the web cycle in which that cycle started (07 R126, R131). -/
structure Image where
  cyc : Nat
  web : Nat
  mem : Memory
deriving DecidableEq, Repr

/-- The raise that a watermark word has had in a cycle: those of one cycle are one raise (07 R134). -/
structure Raised where
  /-- the region cycle, and the web cycle while the region is frozen -/
  cyc : Nat
  web : Nat
  off : Nat
  /-- bytes raised so far, and the word before -/
  bytes : Nat
  old : BitVec 128
deriving DecidableEq, Repr

/-- Whose turn it is in the best-effort slots of a channel while this core has requests pending there: the partition served last,
0 to 95, or 96 for the mill cores; the core of this partition served last, and the web cycle of the last such slot (19 R342). -/
structure Turn where
  channel : Nat
  part : Nat
  core : Nat
  web : Nat
  /-- other partitions, and the mill cores, that can still be served before this partition's turn, and requesters that can still be
  served before this core (19 R352) -/
  left : Nat
  most : Nat
deriving DecidableEq, Repr

/-- A watermark raise due in a region cycle (07 R134). -/
structure Raise where
  due : Nat
  off : Nat
  bytes : Nat
deriving DecidableEq, Repr

/-- The rows of the table of R131. -/
inductive Row where
  | local_ | hbm | staging | quireSrc | quireDst | remote
deriving DecidableEq, Repr

/-- A started copy command or overlay (07 R130, 08 R149). -/
structure Cmd where
  id : Nat
  /-- the ids it had before it was restarted -/
  old : List Nat
  ovl : Bool
  desc : Nat
  wm : Word
  word : SlotWord
  /-- S, or L for an overlay that began later, and the web cycle in which that region cycle starts -/
  start : Nat
  startWeb : Nat
  /-- the descriptor as read at S -/
  raw : Option (BitVec 1024)
  /-- the check of S+1 has passed -/
  checked : Bool
  /-- a fault has stopped it; it restarts when the core resumes (R140) -/
  stopped : Bool
  /-- cycles at which local beat 0 and the last local beat perform -/
  localBase : Nat
  localLast : Nat
  /-- beats of the command, and the next beat to be taken in an HBM group -/
  beats : Nat
  next : Nat
  /-- the row of beat 0, and the beats taken -/
  kind : Row
  took : List Nat
  /-- the region has been frozen since S: the channel and start of the slot that its last HBM group would have had otherwise (R141) -/
  ideal : Option (Nat × Nat)
  /-- a slot of its pair has passed it in a frozen region (R141) -/
  webLate : Bool
  /-- a translation entry has been written since S, so that its beats may be of other kinds than they were (05 R104) -/
  shifted : Bool
  /-- beats performed so far -/
  done : List Nat
  /-- beats counted in the watermark before a restart (R140) -/
  counted : List Nat
  /-- beats into the quire window that wait for room in the felt send queue -/
  feltWait : List Nat
  /-- channel and start of the slot of the last HBM group, and whether that group still waits for a best-effort slot -/
  lastSlot : Option (Nat × Nat)
  waits : Bool
  /-- landing of the last staging beat -/
  stagingEnd : Nat
  /-- cycles lost to a reload of the mirror by its reads of the quire window, and whether it waits now (R131) -/
  stall : Nat
  stalled : Bool
  /-- OVL: the half being loaded, L, the fetched stream, P and F -/
  half : BitVec 1
  began : Option Nat
  fetched : List (Nat × BitVec 512)
  fetchEnd : Nat
  finish : Option Nat
deriving DecidableEq, Repr

/-- One beat of an HBM group as translated when its slot was chosen (07 R131, R380). -/
structure GroupBeat where
  n : Nat
  pa : Nat
  /-- where a read lands, or the scratchpad source of a write -/
  place : Place
  zeros : Bool
  bad : Option FaultInfo
  ents : List (Nat × Bool)
deriving DecidableEq, Repr

/-- A held HBM slot and the group or atomic that holds it, or a request for a best-effort slot, which holds none (07 R131, 17
R318, 05 R92). -/
structure SlotHold where
  channel : Nat
  /-- web cycle at which the slot starts; of a best-effort request, the first at which it may -/
  start : Nat
  best : Bool
  write : Bool
  /-- a command and the beats of its group, or an atomic -/
  grp : Option (Nat × List GroupBeat)
  atm : Option Eff
  /-- cycle order of an atomic for its landing -/
  seq : Nat
  /-- the slot start that its group would have had if the region had not been frozen (07 R141) -/
  ideal : Option Nat := none
deriving DecidableEq, Repr

/-- An entry of the felt send queue (09 R158). -/
structure FeltItem where
  pk : FeltPacket
  /-- web cycle from which it may go is this plus 2 -/
  entry : Nat
  /-- an old value returns (QAT) -/
  qat : Bool
  /-- a copy beat: its command, beat and source offset, read at the send beat -/
  beat : Option (Nat × Nat × Nat)
  /-- local watermark word raised at 2b+12 -/
  wm : Option Nat
  /-- translation entry under which the packet was checked -/
  ent : Option Nat
  seq : Nat
  /-- the late fault of its data, taken when it performs (21 R380) -/
  bad : Option FaultInfo := none
deriving DecidableEq, Repr

/-- A packet under way to the mirrors, or applied and not yet visible to a load (09 R160, R161). -/
structure FeltSent where
  beat : Nat
  pk : FeltPacket
  /-- the item, when this core sent it, or the cell of the sheet's gateway that did -/
  own : Option FeltItem
  cell : Option (BitVec 5)
  /-- applied at the base die -/
  applied : Bool
  /-- its raise in the sender's local window is done (07 R135) -/
  told : Bool
deriving DecidableEq, Repr

/-- A flit in the send queue (10 R183). -/
structure SendItem where
  fl : Flit
  /-- web cycle at or after which it may take a slot -/
  ready : Nat
  cap : BitVec 8
  /-- a returned old value of a remote atomic goes ahead of all others (17 R318) -/
  first : Bool
  /-- command and beat of a remote copy beat -/
  beat : Option (Nat × Nat)
  /-- its slot has passed it for its allowance, and the slip is counted (10 R176) -/
  delayed : Bool
  /-- a copy beat that a SEND has displaced, with its slip counted (10 R183) -/
  displaced : Bool
  /-- a copy beat that a frozen region keeps, with its slip counted (07 R141) -/
  kept : Bool
deriving DecidableEq, Repr

/-- A message in a receive queue (10 R177). -/
structure Msg where
  line : Bool
  data : Line
deriving DecidableEq, Repr

/-- A receive queue: its messages, how many at its front are popped and not freed, and the first flit of a line that is
still arriving, by source (10 R177, R180, R182). -/
structure RQueue where
  msgs : List Msg
  popped : Nat
  partials : List (BitVec 7 × BitVec 512)
deriving DecidableEq, Repr

/-- One end of a crossing port (20 R365 to R370). -/
structure Port where
  cfg : BitVec 64
  /-- weight table: W[ph][t] at 16·ph + t, default 0 -/
  xw : Tab Lane32
  /-- FIFO: lines received, oldest first, and how many at its front a read has taken; those stay until the next commit, so
  that a rollback gives them back (R369) -/
  fifo : List Line
  popped : Nat
  /-- INTERP: the stamps of all lines received -/
  stamps : List (BitVec 64)
  /-- newest lines by stamp, newest first: HOLD keeps one, INTERP 32 -/
  hist : List (BitVec 64 × Line)
  lastTaken : Line
  /-- stamp returned by the previous XRD -/
  lastStamp : Option (BitVec 64)
  stale : Bool
  lost : Bool
  /-- XRD number, position and ratio estimate, in 1/65,536 -/
  j : Nat
  pos : Nat
  est : Nat
  /-- reader samples of the estimator's present window -/
  window : Nat
  /-- writer end: lines written, and the cycles in which those that have not yet entered it enter it (R366) -/
  written : Nat
  enters : List Nat
  /-- what has been learned of the other end, with the web cycle in which it held, newest first (R370) -/
  facts : List (Nat × PortFacts)
deriving DecidableEq, Repr

/-- An EXA element: value and tag (04 R78): 0 valid, 1 invalid, 2 overflowed. -/
structure Exa where
  v : BitVec 256
  tag : BitVec 2
deriving DecidableEq, Repr

/-- A write to a tile on its way (15 R280, R281). -/
inductive TileOp where
  /-- MCLR, MANC: clear, and set the anchor -/
  | clear (anchor : Option (BitVec 16))
  /-- MWRX: a chunk of a row -/
  | chunk (row : BitVec 5) (c : BitVec 4) (data : Line)
deriving DecidableEq, Repr

/-- A tile write in flight. -/
structure TileWrite where
  due : Nat
  tile : BitVec 1
  op : TileOp
deriving DecidableEq, Repr

/-- The scales of one residue block in the scale queue (15 R265). -/
structure ScaleEntry where
  ea : List Byte
  eb : List Byte
deriving DecidableEq, Repr

/-- A matrix block in flight (15 R266 to R274). -/
structure Block where
  seq : Nat
  tile : BitVec 1
  /-- MMAZ -/
  z : Bool
  prof : BitVec 6
  /-- the cycle whose visible scratchpad the A fetch reads -/
  readAt : Nat
  /-- scratchpad offset of each A row, and of the 32 scale bytes -/
  rows : List Nat
  scaleAt : Option Nat
  /-- A[m][k] once read, as element codes; B[k][n] by column n, captured at issue -/
  a : List (List Lane32)
  ea : List Byte
  b : List (List Lane32)
  eb : List Byte
  /-- columns that are void or malformed -/
  bad : List Bool
  /-- WCBE and what else the fetch raised -/
  flg : BitVec 9
  /-- cycles of the queue allocation, the port (residue only) and the landing -/
  allocAt : Nat
  portAt : Nat
  landAt : Nat
  /-- what the port gave it: the removed entry and the bias of the MSC it met -/
  scale : Option (ScaleEntry × BitVec 8)
  /-- its slot word, and the late fault of its A operand, taken at its landing (21 R380) -/
  word : SlotWord
  late : Option FaultInfo
deriving DecidableEq, Repr

/-- The matrix engine (15 R265). -/
structure Matrix where
  /-- tiles: element (row, col) of tile t at 1024t + 32·row + col, default zero and valid -/
  tile : Tab Exa
  anchor : Vector (BitVec 16) 2
  scaleq : List ScaleEntry
  blocks : List Block
  writes : List TileWrite
  /-- next free issue cycle of the residue array and of the float tree -/
  resFree : Nat
  fltFree : Nat
  /-- bias of an MSC performed in this cycle -/
  msc : Option (BitVec 8)
deriving DecidableEq, Repr

/-- The values of one upward pass (16 R297). -/
structure Stash where
  num : BitVec 6
  shape : BitVec 64
  sp32 : Bool
  /-- leaf and node values with their valid bits -/
  leaves : List (Lane32 × Bool)
  nodes : List (Lane32 × Bool)
  weights : List Lane32
deriving DecidableEq, Repr

/-- An upward pass in flight until its leaves are read (16 R288, R297). -/
structure SpPass where
  seq : Nat
  tree : BitVec 3
  num : BitVec 6
  shape : BitVec 64
  sp32 : Bool
  weights : List Lane32
  /-- leaf addresses, the cycle each is read, and its value once read -/
  leaves : List (BitVec 12 × Nat × Option Lane32)
  row : BitVec 8
  toLatch : Bool
  landAt : Nat
  /-- an SPSC or SPCL of its tree was issued after it -/
  noStash : Bool
deriving DecidableEq, Repr

/-- A stash to be recorded or emptied at a pass's landing (16 R297). -/
structure StashSet where
  due : Nat
  seq : Nat
  tree : BitVec 3
  stash : Option Stash
deriving DecidableEq, Repr

/-- A pending bank-file write (16 R290). -/
structure BankWrite where
  req : Nat
  /-- tree number, or 8 for SPLD and SPCV -/
  rank : Nat
  seq : Nat
  /-- place within its instruction -/
  ord : Nat
  addr : BitVec 12
  val : Lane32
  /-- accumulate in the mode (true: SP32) -/
  acc : Option Bool
deriving DecidableEq, Repr

/-- A row of an SPCV still to be read (16 R302). -/
structure SpConv where
  at_ : Nat
  seq : Nat
  row : Nat
  toSp : Bool
  /-- the cycle at which the flags of the SPCV land -/
  flagAt : Nat
deriving DecidableEq, Repr

/-- The sum-product engine (16 R286). -/
structure SumProd where
  /-- bank file by address, default 0 -/
  bank : Tab Lane32
  /-- shape table, default 0 -/
  shape : Tab (BitVec 64)
  /-- weight sets: tree·30 + 2·node (+1 for wb), default 0 -/
  weight : Tab Lane32
  /-- SP32 mode of each tree -/
  mode : Vector Bool 8
  stash : Vector (Option Stash) 8
  busy : Nat
  passes : List SpPass
  sets : List StashSet
  writes : List BankWrite
  convs : List SpConv
  /-- landing cycle of the most recent SPU of each tree -/
  last : Vector Nat 8
deriving DecidableEq, Repr

/-- Overlay status (08 R148). -/
structure Ovs where
  nb : BitVec 11
  cause : BitVec 4
  fs : Bool
  st : BitVec 2
deriving DecidableEq, Repr

/-- One logical core. -/
structure Core where
  r : Regs
  lat : Latches
  seq : Seq
  /-- sticky flags, special register 0x041 (04 R64) -/
  fstat : BitVec 9
  /-- the cycle, plus 1, in which flags were last set, and those flags (00 R10) -/
  flagAt : Nat
  flagNew : BitVec 9
  /-- region cycles since launch, special register 0x000 (18 R339) -/
  cyc : Nat
  tix : BitVec 11
  sheet : BitVec 5
  /-- slip counter (19 R351) -/
  slip : BitVec 32
  /-- overlay status, special register 0x010 (08 R148) -/
  ovs : Ovs
  /-- the slip counter as it stood before the present cycle, which SRD reads (19 R351) -/
  slipSeen : BitVec 32
  /-- snapc bits 7, 6:4 and 63:32 (21 R389) -/
  snapTrg : Bool
  /-- the moment, plus 1, of the last trigger (00 R10) -/
  trgAt : Nat
  snapSrc : BitVec 3
  snapSeq : BitVec 32
  /-- violation log vlog0 to vlog7 (21 R384) -/
  vlog : Vector Word 8
  /-- the launch entry's privilege and trap-resume policy (19 R343) -/
  priv : Bool
  tres : Bool
  run : Run
  /-- the fault that has stopped the core -/
  fault : Option FaultInfo
  /-- the last fault was late: the core has rolled back (21 R379) -/
  late : Bool
  /-- cycle at which a precise fault, a trap or a debug halt stopped issue -/
  stopAt : Option Nat
  /-- a group switch has been made and the first bundle of the new group has not issued: that bundle reads zero latches
  (11 R202) -/
  newGroup : Bool
  /-- the bundle at the PC is held by a queue's room, by a reload of the mirror, or by an empty head whose message came late over a
  SLIPPED link, and the slip of that hold is counted (19 R350, 10 R191) -/
  capHeld : Bool
  reloadHeld : Bool
  headHeld : Bool
  /-- dead cycles still owed after a taken transfer (18 R328) -/
  dead : Nat
  wait : Wait
  held : Held
  taken : Option Taken
  /-- cycles since the last PS bundle (21 R386) -/
  psCount : Nat
  /-- per predicate, the landing cycle of its last performed write, if any was issued (18 R332) -/
  known : Vector (Option Nat) 8
  /-- the next issue follows a resumption and counts one slip (19 R350) -/
  slipOnIssue : Bool
  /-- single-bundle step in progress (22 R403) -/
  stepOnce : Bool
  /-- pre-emption request seen (21 R387) -/
  preReq : Bool
  /-- number of the next result or access in issue order -/
  seqNo : Nat
  land : List Landing
  loads : List Load
  stores : List Store
  atoms : List AtomAccess
  /-- remote and HBM atomics and QATs whose old value has not landed, counted in `lcnt` (17 R309) -/
  awaiting : List Await
  /-- the last cycle in which each issued store or local atomic counts in `scnt`, and the web cycle in which each HBM or remote
  atomic that has left performs (17 R309) -/
  scntUntil : List Nat
  scntWeb : List Nat
  /-- per bank, the first cycle free for a load phase and for a store phase (07 R125, 17 R305) -/
  ldFree : Vector Nat 32
  stFree : Vector Nat 32
  /-- MARK: the last w of a queued store and the last e of a load, and the bounds they set (17 R308) -/
  lastW : Nat
  lastE : Nat
  minB0 : Nat
  minW : Nat
  /-- gate buffer, oldest first (21 R377) -/
  gate : List GateEntry
  /-- entries of the interval in the undo log (21 R377) -/
  undo : Nat
  mark : Mark
  /-- what bars a rollback to the entry bundle has happened (21 R379) -/
  acted : Bool
  /-- the fault record (21 R376): four doublewords -/
  frec : Vector Word 4
  trapRec : Option TrapRecord
  /-- late faults to be taken, with the cycle in which each arose -/
  lateDue : List (Nat × FaultInfo)
  /-- 2 halves of 1,024 bundles at key 1024·half + index, default 0 (08 R143) -/
  istore : Tab Bundle
  /-- rotation pointer of NXT (18 R335) -/
  tctr : BitVec 2
  /-- the tile walker: next tile and end of the slice, and the counts and kinds of the loop table (19 R348, R349) -/
  walk : Nat
  walkEnd : Nat
  loopTab : Vector (BitVec 32) 6
  /-- number of the sample in which the last WSAMP ended (20 R363) -/
  lw : BitVec 64
  /-- the scratchpad (07 R122), as an access of the present cycle sees it -/
  scratch : Memory
  /-- the scratchpad as accesses of the last cycles saw it, newest first (07 R131) -/
  hist : List Image
  /-- the weight buffer (15 R265) -/
  wbuf : Memory
  /-- poisoned 32-byte granules: scratchpad granule numbers, the quire's from 2^20 up, the weight buffer's from 2^21 up, and
  bundles of the instruction store, by key, from 2^22 up (21 R382) -/
  poison : List Nat
  /-- translation table: entry i at key i, default 0 (05 R96) -/
  xlat : Tab (BitVec 128)
  /-- capability table, default 0 (10 R174) -/
  caps : Tab (BitVec 64)
  /-- copy engine: outstanding commands in start order, the next id (07 R130) -/
  cmds : List Cmd
  nextCmd : Nat
  /-- cycle of the last local beat of a local command (07 R131) -/
  localEnd : Nat
  /-- F of the last overlay that has finished (08 R149) -/
  ovlEnd : Nat
  engW : List EngWrite
  /-- the moment, plus 1, of the last engine writes; the scratchpad after those of ports 0 to 2 in it, and those of the other ports (07
  R124) -/
  preAt : Nat
  pre : Memory
  later : List EngWrite
  /-- the region's crossing buffer, in order of arrival (07 R124, 20 R362) -/
  inbound : List Inbound
  raises : List Raise
  raised : List Raised
  slotsHeld : List SlotHold
  /-- slots that groups would have had if the region had not been frozen: channel and start (07 R141) -/
  idealSlots : List (Nat × Nat)
  /-- slots of this web cycle that have been used or lost: channel and start (05 R94) -/
  usedSlots : List (Nat × Nat)
  turn : List Turn
  feltQ : List FeltItem
  /-- web cycle of the last packet sent, plus 2 -/
  feltLast : Nat
  /-- web cycles of packets, and of flits, that have left the queues unknown to a region outside the fabric group (20 R362) -/
  feltGone : List Nat
  sendGone : List Nat
  /-- web cycle of the end of a mirror reload, which such a region does not know yet (20 R362) -/
  reloadEnd : Option Nat
  sendQ : List SendItem
  /-- web cycles of arrival of the flits that have left and not arrived (17 R312) -/
  outgoing : List Nat
  /-- flits sent in the present revolution, by capability (10 R176) -/
  sentRev : List (BitVec 8 × Nat)
  /-- web cycle by which the core's packets on ream links are pushed at the peers (10 R189) -/
  reamAt : Nat
  rq : Vector RQueue 32
  /-- messages that the gateway has forwarded to the core and that are not pushed: queue, and whether their link is SLIPPED (10 R191) -/
  forwarded : List (BitVec 5 × Bool)
  /-- messages pushed and visible to bundles after this cycle: cycle, port rank, queue, message (10 R180) -/
  pushes : List (Nat × Nat × BitVec 5 × Msg)
  heads : Vector (Option (BitVec 5)) 4
  xp : Vector Port 4
  /-- lines on their way between two ends of this core: cycle of arrival, port, line, stamp (20 R366) -/
  xline : List (Nat × BitVec 2 × Line × BitVec 64)
  mx : Matrix
  sp : SumProd
deriving DecidableEq, Repr

/-- A combine cell of the sheet's gateway (09 R165). -/
structure GwCell where
  /-- 0 idle, 1 collecting, 2 emitting -/
  st : BitVec 2
  n : Nat
  got : Nat
  anchor : BitVec 16
  /-- 32 sums, exact until the cycle's contributions are all in, and their tags -/
  sums : List (Int × BitVec 2)
  dest : Word
  ream : Bool
  /-- the capability that a ream destination names, and whether this core set the cell -/
  cap : BitVec 64
  mine : Bool
  /-- packets not yet sent, and the web cycle at which the cell is idle again once none is left -/
  left : Nat
  idleAt : Nat
deriving DecidableEq, Repr

/-- A setting on its way to a cell (09 R166): `dest` is aN. -/
structure GwSet where
  due : Nat
  /-- the web cycle in which it has crossed to the gateway, once it is due (20 R362) -/
  at_ : Option Nat
  cell : BitVec 5
  n : Nat
  dest : Word
  ream : Bool
  info : FaultInfo
deriving DecidableEq, Repr

/-- A contribution of this core on its way to a cell (09 R167). -/
structure GwAdd where
  due : Nat
  at_ : Option Nat
  cell : BitVec 5
  con : Contribution
  info : FaultInfo
deriving DecidableEq, Repr

/-- The sheet's gateway (09 R165 to R168). -/
structure Gateway where
  cells : Vector GwCell 32
  sets : List GwSet
  adds : List GwAdd
  /-- send queue: entry web cycle, cell, packet -/
  q : List (Nat × BitVec 5 × FeltPacket)
  last : Nat
deriving DecidableEq, Repr

/-- The state of a ream link (10 R188). -/
inductive LinkSt where
  | down | train | timed | slipped
deriving DecidableEq, Repr

/-- A ream message held by the destination gateway (10 R189). -/
structure GwMessage where
  /-- web cycle from which it is forwarded -/
  due : Nat
  dtix : BitVec 11
  /-- its web flits not yet forwarded -/
  flits : List Flit
deriving DecidableEq, Repr

/-- A ream link (10 R186 to R191). -/
structure Link where
  lat : BitVec 20
  st : LinkSt
  rpl : BitVec 16
  miss : BitVec 16
  rtr : BitVec 16
  /-- the web cycle, plus 1, of the last counts of RPL, MISS and RTR, and those counts (00 R10) -/
  newAt : Nat
  new : Vector (BitVec 16) 3
  /-- next SEQ to send, and next SEQ to accept -/
  seqTx : BitVec 16
  seqRx : BitVec 16
  /-- replay buffer, oldest first, and packets that wait for room in it or for the link -/
  replay : List ReamPacket
  /-- each with whether this core has sent it -/
  waiting : List (Bool × ReamPacket)
  /-- flits of the oldest waiting packet that the partition's share has allowed (19 R340) -/
  paid : Nat
  /-- SEQs of this core's packets that are not acknowledged -/
  own : List (BitVec 16)
  /-- messages of the receiving side -/
  recv : List GwMessage
  /-- first flits of lines still arriving at the source gateway, with the positions they come from -/
  gather : List (BitVec 7 × BitVec 11 × BitVec 5 × BitVec 512)
  /-- a message was cut short: the cycle at which it would have been held -/
  cut : Option Nat
  /-- it trains again after an unscheduled retrain (R191) -/
  unsched : Bool
deriving DecidableEq, Repr

/-- The synthesiser's states (20 R358), coded as STATE of RCLK. -/
inductive Synth where
  | off | acq | track | limit | hold | frozen | relock
deriving DecidableEq, Repr

/-- The core's region: clock, sample counters, voltage (20, 22). -/
structure Region where
  rclk : BitVec 64
  rnom : BitVec 64
  /-- RVREG (22 R391) -/
  rv : BitVec 64
  st : Synth
  /-- the clock is gated: the budget has ended and no edge has come -/
  gated : Bool
  /-- the kernel waits for its first sample boundary (19 R347) -/
  fresh : Bool
  /-- pulses have been swallowed and the lag is not gone: the region is out of step with the web (20 R372, R374) -/
  lag : Bool
  /-- web cycle of a boundary of sources 8 and 9 -/
  base : Nat
  /-- an edge is pending (R357) -/
  pending : Bool
  /-- lock is achieved, in ACQ or RELOCK -/
  locked : Bool
  /-- sample number, budget, cycles of the sample gone by (R355, R356) -/
  smpc : Nat
  bud : Nat
  cis : Nat
  /-- ovrc: PHEV, MISS, DROP, OVR (R364) -/
  phev : BitVec 16
  miss : BitVec 16
  drop : BitVec 16
  ovr : BitVec 16
  /-- the web cycle, plus 1, of the last counts of these four, and those counts (00 R10) -/
  newAt : Nat
  new : Vector (BitVec 16) 4
  /-- the web cycle in which the last budget ended (R357) -/
  ended : Nat
  /-- pulses still to be swallowed for a correctable error (21 R382) -/
  swallow : Nat
  /-- pulse phase under fast throttle, 0 to 3 (22 R393) -/
  phase : BitVec 2
  /-- a fast throttle stands until it is released (22 R393) -/
  fast : Bool
  /-- DIV of the throttle that a peer's pace message asks for (20 R374) -/
  peer : BitVec 2
  /-- outside the fabric timing group: web cycles up to the region's next pulse, and the part of a web cycle, in 2^-20, by which that
  pulse comes after the start of its web cycle (20 R357) -/
  gap : Nat
  frac : Nat
  /-- the region cycle that `cyc` numbers has begun -/
  begun : Bool
  /-- SRC at the last lock (21 R388) -/
  lockSrc : BitVec 4
deriving DecidableEq, Repr

/-- A parked context (21 R388): the core, the number of the sample in which the region parked, the launch entry, and the tables and
lists of the kernel's placement, with the map of failed cores under which it was placed. -/
structure Parked where
  core : Core
  smpc : Nat
  entry : BitVec 3
  cores : BitVec 11
  kernelLinks : BitVec 16
  feltTab : Tab (BitVec 32)
  webTab : Tab (BitVec 8)
  hbmTab : Tab (BitVec 16)
  gw : Gateway
  place : Tab (BitVec 16)
  active : List (BitVec 10)
  inactive : List (BitVec 10)
  deadExt : List (BitVec 10)
  followExt : List (BitVec 10)
  saved : Memory
  savedExt : List (BitVec 10)
  mapUsed : Tab Word
  homeTab : Tab (BitVec 128)
deriving DecidableEq, Repr

/-- The partition: launch entries and registers (19, 21 R387, 22 R394, R398). -/
structure Partition where
  /-- 8 entries of 16 doublewords, entry e doubleword d at 16e + d, default 0 (19 R343) -/
  entry : Tab Word
  /-- state of each entry: 0 EMPTY, 1 PEND, 2 RUN, 3 DONE, 4 ABORTED -/
  st : Vector (BitVec 3) 8
  sub : Vector Nat 8
  nextSub : Nat
  /-- per entry, the web cycle of its last SUB bit, and that of the last setting of TF, each plus 1 (00 R10) -/
  subAt : Vector Nat 8
  tfAt : Nat
  credits : Nat
  resident : Option (BitVec 3)
  cause : BitVec 5
  tcode : BitVec 9
  tf : Bool
  /-- PPRE PARKED, the context in shadow storage, and the contexts that the mill cores have moved to memory, newest first -/
  parked : Bool
  shadow : Option Parked
  moved : List Parked
  capw : BitVec 16
  /-- PENG in units of 2^-10 µJ -/
  eng : Nat
  /-- shares: frame ranges and quire ranges as (first byte, bytes), gateway cells as (first, number) (R340) -/
  frames : List (Nat × Nat)
  quireShare : List (Nat × Nat)
  cells : Nat × Nat
  /-- the most data slots of a channel wheel, and the most felt slots, that it may own (R340, R341) -/
  hbmShare : Nat
  feltShare : Nat
  /-- logical cores − 1 of the resident kernel (R343) -/
  cores : BitVec 11
  /-- links that a capability of some core of the resident kernel names (R345) -/
  kernelLinks : BitVec 16
  number : BitVec 8
  /-- web flits of each link that the partition may send in a revolution, plus 1, or 0 where it has the whole link; those sent in
  the present revolution, and in the one before (R340, R15) -/
  reamShare : Tab Nat
  reamSent : Tab Nat
  reamPast : Tab Nat
  /-- RCLK, RNOM, XPCFG and XW of the partition's other logical regions, by doubleword of the partition block (05 R89) -/
  regs : Tab Word
deriving DecidableEq, Repr

/-- What the module sends to the outside. -/
inductive Sent where
  /-- a flit that left on the web; a copy beat that does not perform after all, and one whose data have erred on their way -/
  | flit (fl : Flit)
  | withdrawn (fl : Flit)
  | poisoned (fl : Flit)
  /-- a packet on a ream link -/
  | ream (lk : BitVec 4) (fls : List LinkFlit)
  /-- a line at the writer end of a crossing port -/
  | line (port : BitVec 2) (ln : Line) (stamp : BitVec 64)
  /-- a record to the runtime -/
  | trap (r : TrapRecord)
  | fault (r : List Word)
  /-- a pace message on every link the partition uses, with the DIV of the throttle -/
  | pace (div : BitVec 2)
  /-- a signed SPDM response: what was signed, and the signature -/
  | spdm (body : List Byte) (sig : BitVec 512)
  /-- the boot failure report over SMBus -/
  | bootFailure
  /-- what a mill core's read of a device register returned -/
  | value (x : Word)
  /-- what a register access of the debug unit returned -/
  | bits (x : Line)
  /-- the refusal of a beat by the felt master -/
  | refusal (beat : Nat)
  /-- the report that packets in flight on a link are lost -/
  | lost (lk : BitVec 4) (pks : List ReamPacket)
deriving DecidableEq, Repr

/-- Where boot has got to (22 R400). -/
inductive Boot where
  /-- no power-good yet -/
  | off
  /-- both flashes failed: mill cores in reset -/
  | failed
  /-- the image of a flash copy runs: 0 A, 1 B, 2 through the PCIe endpoint -/
  | runs (copy : BitVec 2)
deriving DecidableEq, Repr

/-- The rest of the device (05 R89, 06, 22). -/
structure Device where
  /-- DENG in units of 2^-10 µJ -/
  deng : Nat
  mcap : BitVec 16
  /-- error counters 0 to 6 (05 R89) -/
  err : Vector Word 7
  /-- base-die violation log: newest first, entry and partition (21 R384) -/
  vlogB : List (Word × BitVec 8)
  /-- entries logged there since reset, and in the thermal log -/
  vlogN : Nat
  thlogN : Nat
  /-- thermal log: newest first (22 R397) -/
  thlog : List (Word × Word)
  /-- timing faults logged: link numbers, newest first (10 R191) -/
  tlog : List (BitVec 4)
  /-- heat level of each stack, and levels that take effect at the next slot 0 (22 R396) -/
  htl : Vector (BitVec 2) 12
  htlNext : List (BitVec 4 × BitVec 2)
  /-- sleeping sheets (22 R399) -/
  asleep : Vector Bool 24
  /-- web cycle until which the mirror of a sheet that woke reloads, default 0 (09 R170) -/
  waking : Tab Nat
  /-- beats of other parties that the felt master has refused (09 R157) -/
  refused : List Nat
  /-- the web cycle in which the snapshot registers latch, and what they hold (21 R389) -/
  snapAt : List Nat
  snap : Tab Word
  /-- resource map (06 R110), word q of physical quadrant q: failed cores [17:0], fmax in Hz [49:18] or 0 when it is not
  lowered, thermal grade [51:50], and bit 52 when the quadrant is not the partition's; default 0; and the map as the last launch
  captured it (R109) -/
  rmap : Tab Word
  mapUsed : Tab Word
  /-- placement (06 R109): at key j the physical sheet of logical sheet j plus 1, or 0 for sheet j; at 32 + j the
  automorphism of logical sheet j -/
  place : Tab (BitVec 16)
  /-- access history of extent e on physical sheet s at 32·e + s (06 R109) -/
  histAcc : Tab (BitVec 32)
  /-- the driver's lists of extents (05 R107) -/
  active : List (BitVec 10)
  inactive : List (BitVec 10)
  deadExt : List (BitVec 10)
  /-- extents homed by follow, whose accesses are best effort (06 R116) -/
  followExt : List (BitVec 10)
  /-- page homes: the translation entry of each extent of the last launch with its frame and its state, whichever cores map it (06 R109,
  R119) -/
  homeTab : Tab (BitVec 128)
  /-- a kernel has run since the driver last scanned the access counters (05 R107) -/
  scanDue : Bool
  /-- contents that evictions have saved, at 2^40 times the extent's entry plus the offset, and the extents they belong to
  (05 R107) -/
  saved : Memory
  savedExt : List (BitVec 10)
  /-- boot: flash contents, fuses, outcome (22 R400) -/
  flashA : List Byte
  flashB : List Byte
  fuseHash : BitVec 256
  fuseMin : BitVec 32
  boot : Boot
  /-- image that runs: its digest and version -/
  image : Option (BitVec 256 × BitVec 32)
  debugOpen : Bool
  /-- low doublewords of translation entries written and not yet in effect, each with bit 64 set (05 R89), and the entries that take effect at the end
  of the present web cycle (R104) -/
  xlatLow : Tab (BitVec 65)
  xlatNew : List (BitVec 10 × BitVec 128)
  /-- poisoned granules of the base die's mirror, numbered from 2^20 up (21 R382) -/
  basePoison : List Nat
  /-- entries whose ACC a driver has cleared in this web cycle (00 R10) -/
  accNew : List (BitVec 10)
  /-- what has been sent, newest first -/
  sent : List Sent
deriving DecidableEq, Repr

/-- The machine. -/
structure State where
  core : Core
  /-- web cycles since the initialisation of the web clock (01 R17) -/
  web : Nat
  /-- web cycles in which the last four region cycles started, newest first (20 R362) -/
  starts : List Nat
  /-- the last web cycle in which a flit came through the core's web port, and through its gateway port, plus 1 (10 R172, R173) -/
  webPort : Nat
  gwPort : Nat
  /-- the reference the web clock is locked to, 8 or 9 (01 R17) -/
  webRef : BitVec 4
  /-- external events not yet taken, oldest first -/
  inputs : List Instr
  /-- number of the next free value (assumption 2) -/
  fresh : Nat
  /-- physical memory: HBM and staging SRAM (05 R88) -/
  hbm : Memory
  /-- the base die's quire mirror, and the sheet's mirror as a load sees it (09 R153, R161) -/
  quire : Memory
  mirror : Memory
  /-- packets sent and not yet visible to a load, in beat order (09 R160) -/
  felt : List FeltSent
  /-- engine writes of the web side on their way to the core, with the web cycle at which they arrive (07 R131) -/
  arriving : List (Nat × EngWrite)
  /-- events of the module due at web cycles -/
  agenda : List (Nat × Instr)
  /-- the mirror reloads until this web cycle (09 R170) -/
  reload : Option Nat
  /-- felt slot table (09 R154): bit 30 gateway, [10:0] tix or [4:0] sheet, with bit 31 set; default 0, no owner -/
  feltTab : Tab (BitVec 32)
  /-- web slot table (10 R172): key 256·source + slot; destination plus 1, default 0 none -/
  webTab : Tab (BitVec 8)
  /-- HBM slot tables (05 R92): key 512·channel + slot; bit 15 owned, bit 14 write, [10:0] tix; default 0 -/
  hbmTab : Tab (BitVec 16)
  gw : Gateway
  /-- web cycle, plus 1, in which the gateway last forwarded a flit (10 R189) -/
  gwSent : Nat
  links : Vector Link 16
  region : Region
  part : Partition
  dev : Device
deriving DecidableEq, Repr

/-- Why the machine stops. -/
inductive Fault where
  /-- An event is given in a state in which the spec says that it does not happen; raised by the meanings of events.
  Safe: the machine stops where the hardware has no such step. -/
  | notDue
deriving DecidableEq, Repr

/-- Why an instruction has no meaning. -/
inductive Refusal where
  /-- The instruction of this mnemonic has no meaning in the model yet; raised by `exec`.  Safe. -/
  | notModelled (mnemonic : String)
deriving DecidableEq, Repr

/-- The launch values of the registers (11 R196, 10 R178, 21 R386, R389). -/
def Regs.launch : Regs :=
  { a := Vector.replicate 32 0, m := Vector.replicate 32 0, v := Vector.replicate 16 0,
    p := Vector.replicate 8 false, k := Vector.replicate 8 0, plane := [], st := Vector.replicate 16 0,
    tc := Vector.replicate 4 { t := Vector.replicate 6 0, v := false }, fmode := 0, eflt := false, esnap := true,
    preb := 65536, qcap := Vector.replicate 32 16, qmin := Vector.replicate 32 0 }

/-- Latches that hold zero (11 R202). -/
def Latches.zero : Latches :=
  { lx0 := 0, lx1 := 0, ly0 := 0, ly1 := 0, la := 0, lb := 0, lda := 0, ldb := 0, lsp := 0, lmx := 0, lcx := 0 }

/-- The matrix engine at launch (15 R265). -/
def Matrix.launch : Matrix :=
  { tile := [], anchor := Vector.replicate 2 0, scaleq := [], blocks := [], writes := [], resFree := 0, fltFree := 0,
    msc := none }

/-- The sum-product engine at launch (16 R286). -/
def SumProd.launch : SumProd :=
  { bank := [], shape := [], weight := [], mode := Vector.replicate 8 false, stash := Vector.replicate 8 none,
    busy := 0, passes := [], sets := [], writes := [], convs := [], last := Vector.replicate 8 0 }

/-- A crossing port that is not configured (20 R365). -/
def Port.reset : Port :=
  { cfg := 0, xw := [], fifo := [], popped := 0, stamps := [], hist := [], lastTaken := 0, lastStamp := none, stale := false,
    lost := false, j := 0, pos := 0, est := 0, window := 0, written := 0, enters := [], facts := [] }

/-- The PC (0, 0) with an empty loop stack; a launch sets ENTRY (assumption 3). -/
def Seq.reset : Seq := { half := 0, index := 0, loops := [] }

/-- No restart point in force (21 R377). -/
def Mark.reset : Mark :=
  { inForce := false, cyc := 0, regs := .launch, seq := .reset, fstat := 0, tctr := 0, walk := 0, lw := 0,
    heads := Vector.replicate 4 none, ports := [], known := Vector.replicate 8 none, snap := [] }

/-- A core with no kernel: every register at its launch value (assumptions 3, 4, 5). -/
def Core.reset : Core :=
  { r := .launch, lat := .zero, seq := .reset, fstat := 0, flagAt := 0, flagNew := 0, cyc := 0, tix := 0, sheet := 0, slip := 0, slipSeen := 0,
    ovs := { nb := 0, cause := 0, fs := false, st := 0 }, snapTrg := false, trgAt := 0, snapSrc := 0, snapSeq := 0,
    vlog := Vector.replicate 8 0, priv := false, tres := false, run := .idle, fault := none, late := false,
    stopAt := none, newGroup := false, capHeld := false, reloadHeld := false, headHeld := false, dead := 0, wait := .none, held := .none, taken := none, psCount := 0,
    known := Vector.replicate 8 none, slipOnIssue := false, stepOnce := false, preReq := false, seqNo := 0,
    land := [], loads := [], stores := [], atoms := [], awaiting := [], scntUntil := [], scntWeb := [], ldFree := Vector.replicate 32 0,
    stFree := Vector.replicate 32 0, lastW := 0, lastE := 0, minB0 := 0, minW := 0, gate := [], undo := 0,
    mark := .reset, acted := false, frec := Vector.replicate 4 0, trapRec := none, lateDue := [], istore := [],
    tctr := 0, walk := 0, walkEnd := 0, loopTab := Vector.replicate 6 0, lw := 0, scratch := [], hist := [],
    wbuf := [], poison := [], xlat := [], caps := [], cmds := [], nextCmd := 0, localEnd := 0, ovlEnd := 0, engW := [], preAt := 0, pre := [], later := [], inbound := [],
    raises := [], raised := [], slotsHeld := [], idealSlots := [], usedSlots := [], turn := [], feltQ := [], feltLast := 0, feltGone := [], sendGone := [], reloadEnd := none,
    sendQ := [], outgoing := [], sentRev := [], reamAt := 0,
    rq := Vector.replicate 32 { msgs := [], popped := 0, partials := [] }, forwarded := [], pushes := [], heads := Vector.replicate 4 none,
    xp := Vector.replicate 4 .reset, xline := [], mx := .launch, sp := .launch }

/-- The sheet's gateway with idle cells. -/
def Gateway.reset : Gateway :=
  { cells := Vector.replicate 32 { st := 0, n := 0, got := 0, anchor := 0, sums := [], dest := 0, ream := false,
                                   cap := 0, mine := false, left := 0, idleAt := 0 },
    sets := [], adds := [], q := [], last := 0 }

/-- A ream link that is DOWN (10 R188). -/
def Link.reset : Link :=
  { lat := 0, st := .down, rpl := 0, miss := 0, rtr := 0, newAt := 0, new := Vector.replicate 3 0, seqTx := 0, seqRx := 0, replay := [], waiting := [], paid := 0, own := [], recv := [],
    gather := [], cut := none, unsched := false }

/-- The region with its synthesiser OFF and SLK 16 (20 R354, 22 R391). -/
def Region.reset : Region :=
  { rclk := 0, rnom := 0, rv := BitVec.ofNat 64 (16 * 2 ^ 48), st := .off, gated := false, fresh := false, lag := false,
    base := 0, pending := false, locked := false, smpc := 0, bud := 0, cis := 0, phev := 0, miss := 0, drop := 0, ovr := 0, newAt := 0, new := Vector.replicate 4 0, ended := 0, swallow := 0,
    phase := 0, fast := false, peer := 0, gap := 0, frac := 0, begun := true, lockSrc := 0 }

/-- A partition with empty launch entries that holds every share: no register sets the shares (19 R340, R343, R345;
assumption 3). -/
def Partition.reset : Partition :=
  { entry := [], st := Vector.replicate 8 0, sub := Vector.replicate 8 0, nextSub := 0, subAt := Vector.replicate 8 0, tfAt := 0, credits := 0,
    resident := none, cause := 0, tcode := 0, tf := false, parked := false, shadow := none, moved := [], capw := 0, eng := 0,
    frames := [(0, Config.hbmEnd)], quireShare := [(0, Config.quireBytes)], cells := (0, 32), hbmShare := 464, feltShare := 64, cores := 0, kernelLinks := 0, number := 0, reamShare := [], reamSent := [], reamPast := [], regs := [] }

/-- The rest of the device before power-good (05 R89, 22 R400; assumption 3). -/
def Device.reset : Device :=
  { deng := 0, mcap := 0, err := Vector.replicate 7 0, vlogB := [], vlogN := 0, thlogN := 0, thlog := [], tlog := [],
    htl := Vector.replicate 12 0, htlNext := [], asleep := Vector.replicate 24 false, waking := [], refused := [], snapAt := [], snap := [],
    rmap := [], mapUsed := [], place := [], histAcc := [], active := [], inactive := [], deadExt := [], followExt := [], homeTab := [], scanDue := false, saved := [], savedExt := [], flashA := [], flashB := [],
    fuseHash := 0, fuseMin := 0, boot := .off, image := none, debugOpen := false, xlatLow := [], xlatNew := [], basePoison := [], accNew := [], sent := [] }

/-- The machine right after reset: no kernel is resident and every field holds the value that the spec states for reset
or that notes/assumptions/3.md to 5.md name. -/
def State.reset : State :=
  { core := .reset, web := 0, starts := [], webPort := 0, gwPort := 0, webRef := 9, inputs := [], fresh := 0, hbm := [], quire := [], mirror := [], felt := [],
    arriving := [], agenda := [], reload := none, feltTab := [], webTab := [], hbmTab := [], gw := .reset, gwSent := 0, links := Vector.replicate 16 .reset,
    region := .reset, part := .reset, dev := .reset }

end Sys2Proof.Machine
end

