-- ==== Sys2Proof/Machine/Ops.lean ====
section
/-! DEFINITION. The operations over sparse tables, memory and registers; results in flight and their landing; taking a
fault and returning from it. -/

namespace Sys2Proof.Machine

/-- The outcome of a meaning. -/
abbrev Out := Host.Outcome State Fault Refusal

/-! ## Sparse tables and memory -/

/-- The value at a key; `d` where the table lists none. -/
def Tab.get {α : Type} (d : α) : Tab α → Nat → α
  | [], _ => d
  | (k, x) :: t, n => if k = n then x else Tab.get d t n

/-- The table with a key's value replaced, in canonical form. -/
def Tab.put {α : Type} [DecidableEq α] (d : α) : Tab α → Nat → α → Tab α
  | [], n, x => if x = d then [] else [(n, x)]
  | (k, y) :: t, n, x =>
    if n < k then (if x = d then (k, y) :: t else (n, x) :: (k, y) :: t)
    else if n = k then (if x = d then t else (n, x) :: t)
    else (k, y) :: Tab.put d t n x

/-- The canonical form: keys above `lo` and strictly rising, no value equal to the default. -/
def Tab.okAbove {α : Type} [DecidableEq α] (d : α) (lo : Nat) : Tab α → Bool
  | [] => true
  | (k, x) :: t => decide (lo ≤ k) && decide (x ≠ d) && Tab.okAbove d (k + 1) t

/-- A memory in canonical form: addresses strictly rising, no byte equal to zero, which an unlisted byte reads as. -/
def Memory.wf (m : Memory) : Bool := Tab.okAbove (0 : Byte) 0 m

/-- One byte of memory; a byte that nothing has written reads zero (assumption 5). -/
def Memory.byte (m : Memory) (a : Nat) : Byte := Tab.get 0 m a

/-- Write one byte. -/
def Memory.setByte (m : Memory) (a : Nat) (x : Byte) : Memory := Tab.put 0 m a x

/-- n bytes from address a, little-endian (00 R3). -/
def Memory.readNat (m : Memory) (a : Nat) : Nat → Nat
  | 0 => 0
  | n + 1 => (Memory.byte m a).toNat + 256 * Memory.readNat m (a + 1) n

/-- The low n bytes of a number to address a, little-endian (00 R3). -/
def Memory.writeNat (m : Memory) (a : Nat) : Nat → Nat → Memory
  | 0, _ => m
  | n + 1, x => Memory.writeNat (Memory.setByte m a (BitVec.ofNat 8 x)) (a + 1) n (x / 256)

/-- Write cells one after another. -/
def Memory.writeCells (m : Memory) : List Host.Cell → Memory
  | [] => m
  | (a, x) :: cs => Memory.writeCells (Memory.setByte m a x) cs

/-- The bytes of a number as cells from address a up. -/
def cellsOf (a : Nat) : Nat → Nat → List Host.Cell
  | 0, _ => []
  | n + 1, x => (a, BitVec.ofNat 8 x) :: cellsOf (a + 1) n (x / 256)

/-! ## Bits, lanes and elements -/

/-- Bits [lo+n−1:lo]. -/
def bitsAt {w : Nat} (x : BitVec w) (lo n : Nat) : BitVec n := BitVec.ofNat n (x.toNat / 2 ^ lo)

/-- Bit i as a truth value. -/
def bitAt {w : Nat} (x : BitVec w) (i : Nat) : Bool := x.toNat / 2 ^ i % 2 == 1

/-- A truth value as a number. -/
def b2n (b : Bool) : Nat := if b then 1 else 0

/-- Element i of width w (03 R59, Lane). -/
def elem {n : Nat} (x : BitVec n) (w i : Nat) : BitVec w := BitVec.ofNat w (x.toNat / 2 ^ (w * i))

/-- Lane i of a line (11 R194). -/
def lane (x : Line) (i : Nat) : Lane32 := elem x 32 i

/-- The number that n elements of width w make, element 0 lowest. -/
def elemsNat (w : Nat) (f : Nat → Nat) : Nat → Nat
  | 0 => 0
  | n + 1 => elemsNat w f n + f n % 2 ^ w * 2 ^ (w * n)

/-- A line from its lanes. -/
def ofLanes (f : Nat → Lane32) : Line := BitVec.ofNat 1024 (elemsNat 32 (fun i => (f i).toNat) 32)

/-- A line from n elements of width w; the bits above are zero. -/
def ofElems (w n : Nat) (f : Nat → Nat) : Line := BitVec.ofNat 1024 (elemsNat w f n)

/-- All bits of the lanes that a predicate names. -/
def laneSel (p : Nat → Bool) : Line := ofLanes fun i => if p i then 0xFFFFFFFF else 0

/-- The same 32 bits in every lane (03 R37). -/
def splat (x : Lane32) : Line := ofLanes fun _ => x

/-- Write the selected bits of a value over an old one. -/
def mergeBits {n : Nat} (old val sel : BitVec n) : BitVec n := (old &&& ~~~sel) ||| (val &&& sel)

/-- Sign extension of the low w bits of a number to 64 bits (03 R59). -/
def sext64 (w x : Nat) : Word := (BitVec.ofNat w x).signExtend 64

/-- A list's element, with a default. -/
def nth {α : Type} (d : α) : List α → Nat → α
  | [], _ => d
  | x :: _, 0 => x
  | _ :: t, n + 1 => nth d t n

/-- Update one element of a list. -/
def setNth {α : Type} (x : α) : List α → Nat → List α
  | [], _ => []
  | _ :: t, 0 => x :: t
  | y :: t, n + 1 => y :: setNth x t n

/-- The largest of a list of numbers, at least `lo`. -/
def maxOf (lo : Nat) : List Nat → Nat
  | [] => lo
  | x :: t => maxOf (Nat.max lo x) t

/-- Insert in rising order of a measure, after its equals. -/
def insertBy {α : Type} (le : α → α → Bool) (x : α) : List α → List α
  | [] => [x]
  | y :: t => if le y x then y :: insertBy le x t else x :: y :: t

/-- Remove repetitions, keeping first occurrences in order. -/
def distinct : List Nat → List Nat
  | [] => []
  | x :: t => x :: (distinct t).filter (· ≠ x)

/-! ## Registers -/

/-- Read aN; a0 reads zero (11 R195). -/
def Regs.readA (r : Regs) (n : BitVec 5) : Word := if n = 0 then 0 else r.a[n.toNat]

/-- Read mN (11 R195). -/
def Regs.readM (r : Regs) (n : BitVec 5) : Word := if n = 0 then 0 else r.m[n.toNat]

/-- Read vN (11 R194). -/
def Regs.readV (r : Regs) (n : BitVec 4) : Line := r.v[n.toNat]

/-- Read pN; p0 reads 1 (11 R196). -/
def Regs.readP (r : Regs) (n : BitVec 3) : Bool := if n = 0 then true else r.p[n.toNat]

/-- Read kN; k0 reads all ones (11 R196). -/
def Regs.readK (r : Regs) (n : BitVec 3) : Lane32 := if n = 0 then 0xFFFFFFFF else r.k[n.toNat]

/-- Read stN (11 R197). -/
def Regs.readSt (r : Regs) (n : BitVec 4) : BitVec 512 := r.st[n.toNat]

/-- The element that lane k of a plane line names: a key of the plane table (11 R192, 03 R39). -/
def planeKey (spec : BitVec 10) (k : Nat) : Nat :=
  let pl := spec.toNat / 128
  let i := spec.toNat % 32
  let rc := match spec.toNat / 32 % 4 with
    | 0 => (i, k)
    | 1 => (k, i)
    | 2 => (k, (k + i) % 32)
    | _ => (k, (i + 32 - k) % 32)
  1024 * pl + 32 * rc.1 + rc.2

/-- Read a plane line (11 R192). -/
def Regs.readPlane (r : Regs) (spec : BitVec 10) : Line := ofLanes fun k => Tab.get 0 r.plane (planeKey spec k)

/-- Write the selected bits of the first n lanes of a plane line. -/
def planeWrite (t : Tab Lane32) (spec : BitVec 10) (val sel : Line) : Nat → Tab Lane32
  | 0 => t
  | n + 1 =>
    let t := planeWrite t spec val sel n
    if lane sel n = 0 then t
    else Tab.put 0 t (planeKey spec n) (mergeBits (Tab.get 0 t (planeKey spec n)) (lane val n) (lane sel n))

/-- A tile coordinate register from 97 bits: t0 lowest, V in bit 96 (11 R199). -/
def TileCoord.ofBits (x : Line) : TileCoord :=
  { t := Vector.ofFn fun i => elem x 16 i.val, v := bitAt x 96 }

/-- The registers after a write of the selected bits of a value (11 R192 to R199).  Writes to a0, m0, p0 and k0 are
discarded before they come here (`State.push`). -/
def Regs.write (r : Regs) (f : RegFile) (dst : BitVec 10) (val sel : Line) : Regs :=
  let n := dst.toNat
  match f with
  | .a => { r with a := r.a.setIfInBounds n (mergeBits (r.a[n]?.getD 0) (bitsAt val 0 64) (bitsAt sel 0 64)) }
  | .m => { r with m := r.m.setIfInBounds n (mergeBits (r.m[n]?.getD 0) (bitsAt val 0 64) (bitsAt sel 0 64)) }
  | .v => { r with v := r.v.setIfInBounds n (mergeBits (r.v[n]?.getD 0) val sel) }
  | .p => { r with p := r.p.setIfInBounds n (bitAt val 0) }
  | .k => { r with k := r.k.setIfInBounds n (mergeBits (r.k[n]?.getD 0) (bitsAt val 0 32) (bitsAt sel 0 32)) }
  | .plane => { r with plane := planeWrite r.plane dst val sel 32 }
  | .st => { r with st := r.st.setIfInBounds n (mergeBits (r.st[n]?.getD 0) (bitsAt val 0 512) (bitsAt sel 0 512)) }
  | .tc => { r with tc := r.tc.setIfInBounds (n - 16) (TileCoord.ofBits val) }
  | .special =>
    if n = 0x40 then { r with fmode := bitsAt val 0 2 }
    else if n = 0xC0 then { r with eflt := bitAt val 2, esnap := bitAt val 1 }
    else if n = 0x100 then { r with preb := bitsAt val 0 32 }
    else if 0x120 ≤ n ∧ n < 0x140 then
      { r with qcap := r.qcap.setIfInBounds (n - 0x120) (bitsAt val 16 10),
               qmin := r.qmin.setIfInBounds (n - 0x120) (bitsAt val 0 10) }
    else r

/-! ## Results in flight -/

/-- A latch takes a result (11 R201). -/
def Latches.take (l : Latches) (t : Latch) (val sel : Line) : Latches :=
  match t with
  | .none => l
  | .la => { l with la := bitsAt val 0 64 }
  | .lb => { l with lb := bitsAt val 0 64 }
  | .lda => { l with lda := mergeBits l.lda val sel }
  | .ldb => { l with ldb := mergeBits l.ldb val sel }
  | .x => { l with lx1 := l.lx0, lx0 := mergeBits l.lx0 val sel }
  | .y => { l with ly1 := l.ly0, ly0 := mergeBits l.ly0 val sel }
  | .lsp => { l with lsp := bitsAt val 0 32 }
  | .lmx => { l with lmx := val }
  | .lcx => { l with lcx := val }

/-- The late faults to be taken, with one more that arises in the present cycle (21 R380). -/
def Core.raiseLate (c : Core) (bad : Option FaultInfo) : List (Nat × FaultInfo) :=
  match bad with
  | some i => c.lateDue ++ [(c.cyc, i)]
  | none => c.lateDue

/-- Flags are set in the present cycle (04 R64). -/
def Core.setFlags (c : Core) (f : BitVec 9) : Core :=
  { c with fstat := c.fstat ||| f, flagAt := c.cyc + 1, flagNew := (if c.flagAt = c.cyc + 1 then c.flagNew else 0) ||| f }

/-- Flags that a write of `fstat` clears; those that the present cycle has set stay (00 R10). -/
def Core.clearFlags (c : Core) (f : BitVec 9) : Core :=
  { c with fstat := c.fstat &&& ~~~(if c.flagAt = c.cyc + 1 then f &&& ~~~c.flagNew else f) }

/-- One result lands (03 R59).  A write to `fstat` clears the bits written as one, but for flags of the same cycle (00 R10). -/
def Core.landOne (c : Core) (l : Landing) : Core :=
  let c := Core.setFlags { c with lat := c.lat.take l.latch l.lval l.lsel, lateDue := c.raiseLate l.bad } l.flg
  match l.file with
  | none => c
  | some f =>
    let c := { c with r := c.r.write f l.dst l.val l.sel }
    if f = .special ∧ l.dst = 0x41 then c.clearFlags (bitsAt l.val 0 9)
    else if f = .special ∧ l.dst = 0xC0 ∧ bitAt l.val 7 then { c with snapTrg := false }
    else c

/-- All results of a list land, in the order given. -/
def Core.landAll (c : Core) : List Landing → Core
  | [] => c
  | l :: t => Core.landAll (c.landOne l) t

/-- Results that meet on a destination are taken by slot and then in issue order (11 R206). -/
def Landing.le (x y : Landing) : Bool := decide (x.slot < y.slot) || (x.slot == y.slot && decide (x.seq ≤ y.seq))

/-- The pipelines are frozen at the start of cycle n: a fault, a trap or a debug halt stopped issue before it
(21 R381). -/
def Core.frozen (c : Core) (n : Nat) : Bool :=
  match c.stopAt with
  | some f => decide (f < n)
  | none => false

/-- Everything due by the present cycle lands; while a fault or debug halt has frozen the pipelines nothing does
(21 R381). -/
def Core.landDue (c : Core) : Core :=
  if c.frozen c.cyc then c
  else
    let (now, later) := c.land.partition fun l => decide (l.due ≤ c.cyc)
    Core.landAll { c with land := later } now

/-- Writes to a0, m0, p0 and k0 are discarded (03 R38). -/
def discards (f : RegFile) (dst : BitVec 10) : Bool :=
  dst == 0 && (f == .a || f == .m || f == .p || f == .k)

/-- A result takes its issue number, and an undo entry when it writes a register, `fstat` aside (21 R377); the look-ahead remembers
when a predicate's write lands (18 R332). -/
def State.stamp (s : State) (l : Landing) : Landing × State :=
  let c := s.core
  let file := match l.file with
    | some f => if discards f l.dst then none else some f
    | none => none
  ({ l with seq := c.seqNo, file := file },
   { s with core := { c with
      seqNo := c.seqNo + 1
      undo := c.undo + (if file.isSome && !(file == some .special && l.dst == 0x41) then 1 else 0)
      known := if file = some .p then
          c.known.setIfInBounds l.dst.toNat (some (Nat.max l.due ((c.known[l.dst.toNat]?.getD none).getD 0)))
        else c.known } })

/-- A stamped result goes on its way. -/
def State.fly (s : State) (l : Landing) : State :=
  { s with core := { s.core with land := insertBy Landing.le l s.core.land } }

/-- A result is stamped and goes on its way. -/
def State.push (s : State) (l : Landing) : State := (s.stamp l).2.fly (s.stamp l).1

/-- A result that lands n cycles from now in a register of up to 64 bits and in a latch. -/
def State.push64 (s : State) (slot n : Nat) (f : Option RegFile) (dst : BitVec 10) (x : Word) (t : Latch) : State :=
  s.push { due := s.core.cyc + n, seq := 0, slot := slot, file := f, dst := dst, val := BitVec.ofNat 1024 x.toNat,
           sel := BitVec.allOnes 1024, flg := 0, latch := t, lval := BitVec.ofNat 1024 x.toNat,
           lsel := BitVec.allOnes 1024 }

/-- A result that lands n cycles from now in lanes of a register and of a latch, with flags. -/
def State.pushLine (s : State) (slot n : Nat) (f : Option RegFile) (dst : BitVec 10) (x sel : Line) (flg : BitVec 9)
    (t : Latch) : State :=
  s.push { due := s.core.cyc + n, seq := 0, slot := slot, file := f, dst := dst, val := x, sel := sel, flg := flg,
           latch := t, lval := x, lsel := sel }

/-! ## Free values, guards, counters -/

/-- A field of 16 bits counts n events; it stays at its highest value. -/
def count16 (x : BitVec 16) (n : Nat) : BitVec 16 := BitVec.ofNat 16 (Nat.min (x.toNat + n) 0xFFFF)

/-- What some counters have counted in a web cycle after a change from old values to new ones: `at_` and `old` tell of the changes
before it (00 R10). -/
def newCounts {n : Nat} (at_ web : Nat) (old : Vector (BitVec 16) n) (was now : List (BitVec 16)) : Vector (BitVec 16) n :=
  Vector.ofFn fun i => (if at_ = web + 1 then old[i] else 0) + ((now[i.val]?).getD 0 - (was[i.val]?).getD 0)

/-- Events are counted in the fields of `ovrc`; `web` is the moment of the count (20 R364). -/
def Region.count (r : Region) (web phev miss drop ovr : Nat) : Region :=
  let u := { r with phev := count16 r.phev phev, miss := count16 r.miss miss, drop := count16 r.drop drop, ovr := count16 r.ovr ovr }
  if phev + miss + drop + ovr = 0 then r
  else { u with newAt := web + 1, new := newCounts r.newAt web r.new [r.phev, r.miss, r.drop, r.ovr] [u.phev, u.miss, u.drop, u.ovr] }

/-- The four counts of `ovrc` (20 R364). -/
def Region.counts (r : Region) : List (BitVec 16) := [r.phev, r.miss, r.drop, r.ovr]

/-- The counts that a moment has added so far (00 R10). -/
def Region.fresh_ (r : Region) (web : Nat) : Vector (BitVec 16) 4 := if r.newAt = web + 1 then r.new else Vector.replicate 4 0

/-- The counts of `ovrc` after a read that resets them: those of the present moment stay (00 R10, 20 R364). -/
def Region.uncount (r : Region) (web : Nat) : Region :=
  let n := r.fresh_ web
  { r with phev := n[0], miss := n[1], drop := n[2], ovr := n[3] }

/-- Draw the next free value (assumption 2). -/
def State.draw (s : State) : Nat × State := (Config.freeNat s.fresh, { s with fresh := s.fresh + 1 })

/-- Draw a free value from 0 to n − 1. -/
def State.drawBelow (s : State) (n : Nat) : Nat × State := (Config.freeNat s.fresh % n, { s with fresh := s.fresh + 1 })

/-- A guard: bit 3 negates, bits 2:0 select the predicate (03 R35). -/
def State.guardOn (s : State) (g : BitVec 4) : Bool :=
  s.core.r.readP (BitVec.ofNat 3 g.toNat) != bitAt g 3

/-- An operation is performed when its guard is true (03 R35). -/
def guarded (g : BitVec 4) (s : State) (k : State → Out) : Out := if s.guardOn g then k s else .next s

/-- Charge n slip events to the core, saturating (19 R351). -/
def State.slips (s : State) (n : Nat) : State :=
  { s with core := { s.core with slip := BitVec.ofNat 32 (Nat.min (s.core.slip.toNat + n) 0xFFFFFFFF) } }

/-- The bundle at the PC holds for a cause (19 R350). -/
def State.hold (s : State) (h : Held) : State := { s with core := { s.core with held := h } }

/-- The bundle at the PC (08 R143). -/
def Core.bundle (c : Core) : Bundle := Tab.get 0 c.istore (1024 * c.seq.half.toNat + c.seq.index.toNat)

/-- The word of slot k of the bundle at the PC. -/
def Core.slotWord (c : Core) (k : Nat) : SlotWord := c.bundle.slot k

/-- The region is locked to the reference of the web clock (01 R18). -/
def State.onWebRef (s : State) : Bool := bitsAt s.region.rclk 59 4 == s.webRef

/-- N and D of the region (20 R354). -/
def Region.num (r : Region) : Nat := (bitsAt r.rclk 39 20).toNat + 1
/-- D. -/
def Region.den (r : Region) : Nat := (bitsAt r.rclk 27 12).toNat + 1

/-- The ratio has the value 27 (01 R18). -/
def State.ratio27 (s : State) : Bool := s.region.num == 27 * s.region.den

/-- Whether the core's region shares the web's cycles: it belongs to the fabric timing group and no throttle has put it out
of step (01 R18, 20 R374). -/
def State.inFabric (s : State) : Bool :=
  s.onWebRef && s.ratio27 && !s.region.lag && bitsAt s.region.rv 0 2 == 0

/-- The region's clock has no pulses: it is FROZEN, or relocks after that (07 R141, 20 R358, R359). -/
def Region.still (r : Region) : Bool := r.st == .frozen || r.st == .relock

/-- The web cycle and the region's cycle number in one moment: two cycles of the region in one web cycle differ in it (00 R10). -/
def State.moment (s : State) : Nat := s.web + s.core.cyc

/-- At the start of a region cycle: an item that the web side made available at τ is seen in it.  In the fabric group it is once τ
has come; otherwise it is not before τ, it is from the second cycle after the first that starts at τ + 6 or later, and in
between it may be, a free value (20 R362; assumption 7). -/
def State.crossed (s : State) (τ : Nat) : Bool × State :=
  if s.web < τ then (false, s)
  else if s.inFabric then (true, s)
  else match s.starts[2]? with
    | some t => if τ + 6 ≤ t then (true, s) else let (x, s) := s.drawBelow 2; (x == 1, s)
    | none => let (x, s) := s.drawBelow 2; (x == 1, s)

/-- An item of τ that is seen only in the present region cycle is later than its bound: in a region that keeps the fabric group's
ratio the first cycle that starts at τ or later, in any other the bound of R362 (07 R124, 20 R362, R374; assumption 75). -/
def State.overdue (s : State) (τ : Nat) : Bool :=
  if s.onWebRef && s.ratio27 then s.starts.head?.any fun t => decide (τ < t) else s.starts[3]?.any fun t => decide (τ + 6 ≤ t)

/-- A wait within the crossing bound: the cycle after `τ` at which the other side sees an item (20 R362): in the fabric
group at once, otherwise any cycle up to ρ + 2, a free value (assumption 7). -/
def State.cross (s : State) (τ : Nat) : Nat × State :=
  if s.inFabric then (τ, s) else
  let (d, s) := s.drawBelow 9
  (τ + d, s)

/-- The region sees an item of the felt that has come at τ; one without pulses, whose engine side goes on, at once (20 R359, R362). -/
def State.seesFelt (s : State) (τ : Nat) : Bool × State := if s.region.still then (decide (τ ≤ s.web), s) else s.crossed τ

/-- The mirror reloads, as far as the region knows (09 R170, 20 R362). -/
def State.reloads (s : State) : Bool := s.reload.isSome || s.core.reloadEnd.isSome

/-- The web cycle whose state a read of the web side returns: the present one in the fabric timing group, otherwise some
instant from six web cycles and two cycles of the region back (20 R362; assumption 7). -/
def State.pastWeb (s : State) : Nat × State :=
  if s.inFabric then (s.web, s)
  else
    let (d, s) := s.drawBelow (s.web - (s.starts[2]?).getD 0 + 7)
    (s.web - d, s)

/-! ## Snapshot triggers and violations -/

/-- A snapshot trigger: the snapshot registers latch in web cycle T + 24, unless a snapshot is held (21 R389). -/
def State.trigger (s : State) (src : BitVec 3) : State :=
  if s.core.snapTrg then s
  else { s with core := { s.core with snapTrg := true, snapSrc := src, trgAt := s.moment + 1 },
                dev := { s.dev with snapAt := s.dev.snapAt ++ [s.web + 24] } }

/-- A core within its region, a square of four by four logical cores of the eight by eight of a sheet, row by row (01 R13, R16;
assumption 111). -/
def Core.inRegion (c : Core) : Nat := 4 * (c.tix.toNat / 8 % 4) + c.tix.toNat % 4

/-- The entry of a violation (21 R384). -/
def violationEntry (s : State) (i : FaultInfo) : Word :=
  BitVec.ofNat 64 (2 ^ 63 + i.vkind.toNat * 2 ^ 60 + s.core.inRegion * 2 ^ 56 + i.va.toNat)

/-- An entry goes to the region's violation log and to the base-die log (21 R384). -/
def State.logEntry (s : State) (e : Word) : State :=
  { s with
    core := { s.core with vlog := Vector.ofFn fun k => if k.val = 0 then e else s.core.vlog[k.val - 1]?.getD 0 }
    dev := { s.dev with vlogB := ((e, s.part.number) :: s.dev.vlogB).take 256, vlogN := s.dev.vlogN + 1 } }

/-- A violation of this core is logged (21 R384). -/
def State.logViolation (s : State) (i : FaultInfo) : State := s.logEntry (violationEntry s i)

/-! ## Taking a fault -/

/-- PND of an entry goes up by one when an access passes its check, and down when it performs (05 R96, R104).  Beyond 1,023 pending
accesses it stays there and still goes down by one for each that performs (assumption 86). -/
def Core.pend (c : Core) (k : Nat) (up : Bool) : Core :=
  let e := Tab.get 0 c.xlat k
  let n := (bitsAt e 117 10).toNat
  if up then
    if n < 1023 then { c with xlat := Tab.put 0 c.xlat k (BitVec.ofNat 128 (e.toNat + 2 ^ 117)) } else c
  else if 0 < n then { c with xlat := Tab.put 0 c.xlat k (BitVec.ofNat 128 (e.toNat - 2 ^ 117)) } else c

/-- Accesses that have been cancelled leave PND: they will never perform. -/
def Core.forget (c : Core) (es : List Nat) : Core := es.foldl (fun c k => c.pend k false) c

/-- The entry under which a gated or waiting HBM atomic, QWR or QAT was checked. -/
def effEnts (e : Eff) : List Nat :=
  match e with
  | .atmHbm _ _ _ ent _ _ => [ent.toNat]
  | .felt _ _ ent => [ent.toNat]
  | _ => []

/-- The entries of the accesses that hold a slot. -/
def holdEnts (h : SlotHold) : List Nat :=
  match h.grp, h.atm with
  | some (_, gs), _ => (gs.map fun g => g.ents.map (·.1)).flatten
  | none, some e => effEnts e
  | none, none => []

/-- The entries of a write in the crossing buffer. -/
def inEnts (x : Inbound) : List Nat :=
  match x.item with
  | .write y => y.ents.map (·.1)
  | _ => []

/-- What the copy engine has under way for the commands that a test names is given up (07 R140). -/
def Core.dropCmds (c : Core) (gone : Nat → Bool) : Core :=
  let w := fun (x : EngWrite) => (x.cmd.map fun y => gone y.1).getD false
  let h := fun (x : SlotHold) => (x.grp.map fun y => gone y.1).getD false
  let f := fun (x : FeltItem) => (x.beat.map fun y => gone y.1).getD false
  let inb := fun (x : Inbound) => match x.item with
    | .write y => w y
    | _ => false
  let es := ((c.engW.filter w).map fun x => x.ents.map (·.1)).flatten ++ ((c.inbound.filter inb).map inEnts).flatten ++ ((c.slotsHeld.filter h).map holdEnts).flatten
    ++ (c.feltQ.filter f).filterMap (·.ent)
  Core.forget { c with
    engW := c.engW.filter fun x => !w x
    inbound := c.inbound.filter fun x => !inb x
    slotsHeld := c.slotsHeld.filter fun x => !h x
    feltQ := c.feltQ.filter fun x => !f x
    sendQ := c.sendQ.filter fun x => !((x.beat.map fun y => gone y.1).getD false) } es

/-- KIND of the record (21 R375). -/
def FaultKind.code : FaultKind → Nat
  | .illegalBundle => 1
  | .illegalOperation => 2
  | .misalignment => 3
  | .outOfTable => 4
  | .permission => 5
  | .residency => 6
  | .capability => 7
  | .copyCommand => 8
  | .gateway => 9
  | .feltSlot => 10
  | .stash => 11
  | .markOverflow => 12
  | .watchdog => 13
  | .uncorrectableData => 14
  | .violation => 15
  | .timing => 16

/-- A fault that names no address (21 R376). -/
def FaultInfo.plain (k : FaultKind) (slot : Nat) : FaultInfo :=
  { kind := k, slot := slot, word := 0, acc := 0, entry := 0, va := 0, vkind := 0, resumes := false }

/-- The four doublewords of the record (21 R376). -/
def faultRecord (i : FaultInfo) (late : Bool) (q : Seq) (cyc : Nat) : Vector Word 4 :=
  #v[BitVec.ofNat 64 (i.word.toNat * 2 ^ 32 + b2n late * 2 ^ 11 + i.slot * 2 ^ 8 + i.kind.code),
     BitVec.ofNat 64 (q.half.toNat * 2 ^ 10 + q.index.toNat),
     BitVec.ofNat 64 (i.acc.toNat * 2 ^ 58 + i.entry.toNat * 2 ^ 48 + i.va.toNat),
     BitVec.ofNat 64 cyc]

/-- An entry becomes PEND and takes the next submission number (19 R345). -/
def Partition.submit (p : Partition) (e : Nat) : Partition :=
  { p with st := p.st.setIfInBounds e 1, sub := p.sub.setIfInBounds e p.nextSub, nextSub := p.nextSub + 1 }

/-- The kernel of a RUN entry ends in a web cycle with a state; a SUB bit written for the entry in that cycle takes effect instead (00
R10, 19 R346). -/
def Partition.finish (p : Partition) (web e : Nat) (st : BitVec 3) : Partition :=
  if (p.subAt[e]?).getD 0 = web + 1 then p.submit e else { p with st := p.st.setIfInBounds e st }

/-- The kernel is aborted: every core stops, gated writes are discarded, and the entry becomes ABORTED (19 R345, R347).  Entries of
the gate buffer that have been committed are gated no more, and leave it when there is room (21 R378). -/
def State.abortKernel (s : State) (cause : BitVec 5) : State :=
  let part := match s.part.resident with
    | some e => s.part.finish s.web e.toNat 4
    | none => s.part
  { s with
    core := { s.core.forget (((s.core.gate.filter fun g => !g.committed).map fun g => effEnts g.eff).flatten) with
      run := .aborted, gate := s.core.gate.filter (·.committed), wait := .none, held := .none }
    part := { part with cause := cause, resident := none } }

/-- What every fault does once its record is written: the log of a violation, the snapshot trigger of EFLT, and the
kernel's abort unless the runtime resumes the core (21 R375, R384, R389). -/
def State.afterFault (s : State) (i : FaultInfo) : State :=
  let s := { s with dev := { s.dev with sent := .fault s.core.frec.toList :: s.dev.sent } }
  let s := if i.kind = .violation then s.logViolation i else s
  let s := if s.core.r.eflt then s.trigger 1 else s
  if i.resumes then s else s.abortKernel 3

/-- Take a precise fault found at the issue of the bundle at the PC (21 R375, R376, 03 R57): the record is written, the
results in flight freeze into the snapshot buffer (R381), and issue stops. -/
def State.takePrecise (s : State) (i : FaultInfo) : State :=
  let c := s.core
  let i := { i with word := c.slotWord i.slot }
  State.afterFault { s with core := { c with
      frec := faultRecord i false c.seq c.cyc
      fault := some i
      late := false
      stopAt := some c.cyc
      held := .none
      wait := .none
      taken := none
      run := .faulted } } i

/-- Ports as a rollback restores them (20 R369). -/
def Port.restore (p : Port) (m : PortMark) : Port :=
  { p with popped := 0, lastTaken := m.lastTaken, lastStamp := m.lastStamp, stale := m.stale, j := m.j, pos := m.pos,
           est := m.est }

/-- The ports after a rollback. -/
def restorePorts (xp : Vector Port 4) (ms : List PortMark) : Vector Port 4 :=
  Vector.ofFn fun i => match ms[i.val]? with
    | some m => (xp[i.val]).restore m
    | none => { (xp[i.val]) with popped := 0 }

/-- Whether a late fault can roll back: to a restart mark always, to the entry bundle only when nothing has acted and
the log has not overflowed (21 R379). -/
def Core.canRollBack (c : Core) : Bool := c.mark.inForce || (!c.acted && decide (c.undo ≤ 256))

/-- The image without the stores that it already shows and that have not performed, newest first (21 R379). -/
def Core.unstore (c : Core) : List Store → Memory
  | [] => c.scratch
  | x :: t =>
    if x.applied ∧ c.cyc < x.w then
      Core.unstore { c with scratch := x.old.foldl (fun m o =>
        if x.bytes.any (fun b => b.1 == o.1 && b.2 == Memory.byte m o.1) then Memory.setByte m o.1 o.2 else m) c.scratch } t
    else Core.unstore c t

/-- A result of the sum-product engine's own state: a root or flags of a pass or of a conversion, which a rollback discards while it is
on its way (16 R304, 21 R381). -/
def Landing.ofPass (l : Landing) : Bool := l.slot == 6 && l.file.isNone

/-- Roll the core back to its restart point; a pass that was on its way when the mark committed and has landed since lands again (21 R379,
15 R284, 16 R304). -/
def Core.rollBack (c : Core) : Core :=
  let m := c.mark
  let stays := fun (k : Cmd) => m.inForce && decide (k.start < m.cyc) && !k.stopped
  let c := c.dropCmds fun id => !(c.cmds.any fun k => k.id == id && stays k)
  let c := c.forget ((c.gate.filter fun g => !g.committed).map fun g => effEnts g.eff).flatten
  let c := if m.inForce then c else c.forget ((c.slotsHeld.map holdEnts).flatten ++ c.feltQ.filterMap (·.ent))
  { c with
    mark := { m with snap := m.snap.filter fun l => !(l.ofPass && c.land.any fun x => x.seq == l.seq && x.ofPass) }
    r := m.regs
    seq := m.seq
    fstat := m.fstat
    flagAt := 0
    tctr := m.tctr
    walk := m.walk
    lw := m.lw
    known := m.known
    heads := m.heads
    xp := restorePorts c.xp m.ports
    rq := c.rq.map fun q => { q with popped := 0 }
    land := []
    loads := if m.inForce then c.loads.filter fun l => l.markRem.isSome else []
    scratch := if m.inForce then c.scratch else c.unstore c.stores.reverse
    stores := if m.inForce then c.stores else []
    atoms := if m.inForce then c.atoms else []
    gate := c.gate.filter (·.committed)
    undo := (m.snap.filter fun l => l.file.isSome).length
      + (c.loads.filter fun l => m.inForce && l.markRem.isSome && !l.done && l.land.file.isSome).length
    wait := .none
    held := .none
    taken := none
    dead := 0
    mx := { c.mx with blocks := [], writes := [], scaleq := [], msc := none }
    sp := { c.sp with passes := [], sets := [], writes := [], convs := [],
                      last := c.sp.last.map fun n => if n ≤ c.cyc then n else 0 }
    cmds := if m.inForce then c.cmds.map fun k => { k with stopped := !stays k, finish := if stays k then k.finish else none } else []
    engW := if m.inForce then c.engW else c.engW.filter fun w => w.port != 4
    slotsHeld := if m.inForce then c.slotsHeld else []
    feltQ := if m.inForce then c.feltQ else []
    sendQ := if m.inForce then c.sendQ else c.sendQ.filter (·.first)
    awaiting := if m.inForce then c.awaiting else []
    scntUntil := if m.inForce then c.scntUntil else []
    scntWeb := if m.inForce then c.scntWeb else [] }

/-- Take a late fault in the present cycle (21 R379, R380): the core rolls back and its record names the restart bundle;
with no restart point to return to, the kernel is aborted, and the record names a free bundle (21 R376 gives none). -/
def State.takeLate (s : State) (i : FaultInfo) : State :=
  let c := s.core
  let ok := c.canRollBack
  let c' := if ok then c.rollBack else c
  let (x, s) := if ok then (0, s) else s.drawBelow 2048
  let at' := if ok then c'.seq else { c'.seq with half := BitVec.ofNat 1 (x / 1024), index := BitVec.ofNat 10 (x % 1024) }
  State.afterFault { s with core := { c' with
      frec := faultRecord i true at' c.cyc
      fault := some i
      late := true
      stopAt := some c.cyc
      run := .faulted } } { i with resumes := i.resumes && ok }

/-! ## Returning -/

/-- A group switch sets every latch to zero, and the first bundle of the new group reads them so (11 R202). -/
def Core.groupSwitch (c : Core) : Core := { c with lat := .zero, newGroup := true }

/-- Results frozen at cycle f go on from cycle t at their remaining counts (21 R381, 15 R284, 16 R304). -/
def Core.thaw (c : Core) (f t : Nat) : Core :=
  let k := t - f
  let mv := fun n => if n > f then n + k else n
  let mf := fun n => if n ≥ f then n + k else n
  { c with
    land := c.land.map fun l => { l with due := mv l.due }
    loads := c.loads.map fun l => match l.form with
      | .wbuf _ => l
      | _ => { l with land := { l.land with due := mv l.land.due }, until_ := mv l.until_ }
    atoms := c.atoms.map fun a => { a with due := mv a.due }
    awaiting := c.awaiting.map fun a => { a with due := a.due.map mv }
    known := c.known.map fun o => o.map mv
    mx := { c.mx with
      blocks := c.mx.blocks.map fun b => { b with readAt := mf b.readAt, allocAt := mf b.allocAt, portAt := mf b.portAt, landAt := mv b.landAt }
      writes := c.mx.writes.map fun w => { w with due := mv w.due }
      resFree := mv c.mx.resFree
      fltFree := mv c.mx.fltFree }
    sp := { c.sp with
      busy := mv c.sp.busy
      passes := c.sp.passes.map fun p => { p with
        leaves := p.leaves.map (fun x => (x.1, mf x.2.1, x.2.2)), landAt := mv p.landAt }
      sets := c.sp.sets.map fun x => { x with due := mv x.due }
      writes := c.sp.writes.map fun x => { x with req := mv x.req }
      convs := c.sp.convs.map fun x => { x with at_ := mf x.at_, flagAt := mv x.flagAt }
      last := c.sp.last.map mv } }

/-- After a rollback to a mark, the results of the mark snapshot go on from cycle t, a load of before the mark lands at
its remaining count, and the commands of the interval restart with S = t (21 R379, R381, 07 R140). -/
def Core.restartAt (c : Core) (t web : Nat) : Core :=
  let m := c.mark
  let mine := c.cmds.filter (·.stopped)
  let others := c.cmds.filter fun k => !k.stopped
  { c with
    land := m.snap.map fun l => { l with due := t + (l.due - m.cyc) }
    known := c.known.map fun o => o.map fun n => if m.cyc < n then t + (n - m.cyc) else n
    loads := c.loads.map fun l => match l.markRem, l.form with
      | _, .wbuf _ => l
      | some n, _ => { l with land := { l.land with due := t + n } }
      | none, _ => l
    nextCmd := c.nextCmd + mine.length
    localEnd := maxOf 0 (others.map (·.localLast))
    cmds := others ++ (mine.zipIdx.map fun x => { x.1 with
      id := c.nextCmd + x.2, start := t, startWeb := web, raw := none, checked := false, stopped := false, localBase := 0, localLast := 0,
      old := x.1.id :: x.1.old, next := 0, kind := .local_, took := [], ideal := none, webLate := false, shifted := false, done := [], feltWait := [], lastSlot := none, waits := false, stagingEnd := 0, stall := 0, stalled := false, began := none, fetched := [], fetchEnd := 0,
      finish := none }) }

/-- Return from a fault, a trap, a service call or a debug halt: a group switch, after which the bundle at the PC issues
in the present cycle or later (21 R379, R381, 11 R202).  Its first issue counts one slip (19 R350). -/
def State.returnFrom (s : State) : State :=
  let c := s.core
  let t := c.cyc
  let c := match c.stopAt with
    | none => c
    | some f => if c.late then c.restartAt t s.web else c.thaw f t
  let dead := s.core.stopAt.getD t - t
  let stepped := s.core.stepOnce && s.core.run == .trapped
  { s with core := { c.groupSwitch with
      run := if stepped then .debugHalted else .running, stepOnce := s.core.stepOnce && !stepped, fault := none, late := false,
      stopAt := if stepped then some (t + dead) else none, dead := if stepped then 0 else dead, held := .none,
      capHeld := false, reloadHeld := false, headHeld := false,
      psCount := 0, slipOnIssue := true } }

end Sys2Proof.Machine
end

