-- ==== Sys2Proof/Machine/Sequence.lean ====
section
/-! DEFINITION. What the sequencer decides from its own state: loop steps, the look-ahead, and when a wait is over
(18 R323 to R334, 19 R350). -/

namespace Sys2Proof.Machine

/-- The loop step at index i: the index of the next bundle, possibly 1,024, and the levels left (18 R326). -/
def loopStep (i : Nat) : List Level → Nat × List Level
  | [] => (i + 1, [])
  | l :: t =>
    if l.stop.toNat = i then
      if l.opn ∨ 0 < l.rem.toNat then
        (l.start.toNat, { l with rem := if l.opn then l.rem else l.rem - 1, idx := l.idx + 1 } :: t)
      else loopStep i t
    else (i + 1, l :: t)

/-- The sequencer state after a bundle with no taken transfer (18 R324). -/
def Seq.advance (q : Seq) : Seq :=
  let r := loopStep q.index.toNat q.loops
  { q with index := BitVec.ofNat 10 r.1, loops := r.2 }

/-- The successor would be index 1,024 (18 R324). -/
def Seq.fallsOff (q : Seq) : Bool := decide (1024 ≤ (loopStep q.index.toNat q.loops).1)

/-- The bundle is the END of an active level: the innermost, since levels nest (18 R326, R334). -/
def Seq.atEnd (q : Seq) : Bool :=
  match q.loops with
  | l :: _ => l.stop == q.index
  | [] => false

/-- The bundle is at an iteration boundary (21 R385). -/
def Seq.atBoundary (q : Seq) : Bool :=
  match q.loops with
  | l :: _ => l.start == q.index
  | [] => true

/-- The levels whose body contains an index, after a taken branch to it (18 R328). -/
def keepLevels (target : Nat) (ls : List Level) : List Level :=
  ls.filter fun l => decide (l.start.toNat ≤ target ∧ target ≤ l.stop.toNat)

/-- A guard code is known false at fetch (18 R332). -/
def State.knownFalse (s : State) (g : BitVec 4) : Bool :=
  let n := BitVec.ofNat 3 g.toNat
  let fixed := n == 0 || (match s.core.known[n.toNat] with
    | none => true
    | some t => decide (t + 3 ≤ s.core.cyc))
  fixed && !s.guardOn g

/-- The guard of slot k's word (03 R33, R34). -/
def guardOf (k : Nat) (w : SlotWord) : BitVec 4 := if k = 0 then fld w 20 4 else fld w 28 4

/-- Slot k's word is NOP; slot 0's header bits do not count (03 R43). -/
def isNop (k : Nat) (w : SlotWord) : Bool := if k = 0 then controlBits w == 0 else w == 0

/-- A bundle is nullified (18 R333). -/
def State.nullified (s : State) (b : Bundle) : Bool :=
  let ks := (List.range 8).filter fun k => !isNop k (b.slot k)
  !ks.isEmpty && ks.all fun k => s.knownFalse (guardOf k (b.slot k))

/-- A contribution or write is in flight to a tile (15 R276). -/
def Matrix.busy (m : Matrix) (t : BitVec 1) : Bool :=
  m.blocks.any (fun b => b.tile == t) || m.writes.any fun w => w.tile == t

/-- A contribution or write is in flight to either tile (15 R276). -/
def Matrix.inFlight (m : Matrix) : Bool := m.busy 0 || m.busy 1

/-- Free the popped entries of a receive queue (10 R182). -/
def RQueue.free (q : RQueue) : RQueue := { q with msgs := q.msgs.drop q.popped, popped := 0 }

/-- The cycle up to which results have landed: the present one, or that in which a precise fault, a trap or a debug halt stopped
them; what was on its way before a late fault lands at its stated cycle (17 R309, 21 R381). -/
def Core.landedTo (c : Core) : Nat := if c.frozen c.cyc && !c.late then c.stopAt.getD c.cyc else c.cyc

/-- Outstanding loads: those whose results have not landed (17 R309). -/
def Core.lcnt (c : Core) : Nat :=
  let now := c.landedTo
  (c.loads.filter fun l => decide (now < l.until_)).length
    + (c.atoms.filter fun a => decide (now < a.due)).length
    + (c.awaiting.filter fun a => a.due.all fun t => decide (now < t)).length

/-- Outstanding stores (17 R309); the HBM and remote atomics that have not performed count through `slotsHeld` and
`sendQ`. -/
def Core.scnt (c : Core) : Nat :=
  (c.scntUntil.filter fun n => decide (c.cyc ≤ n)).length + c.scntWeb.length
    + (c.slotsHeld.filter fun h => h.atm.isSome).length
    + (c.sendQ.filter fun f => match f.fl.body with
        | .atm .. => true
        | _ => false).length

/-- Every overlay that has started has finished, by cycle t (08 R151). -/
def Core.overlaysDone (c : Core) (t : Nat) : Bool := !(c.cmds.any fun k => k.ovl) && decide (c.ovlEnd ≤ t)

/-- A watermark word satisfies a wait (07 R139). -/
def genReached (gen : Nat) (g : BitVec 9) : Bool := decide ((gen + 512 - g.toNat) % 512 < 256)

/-- The generation field of the watermark word at an offset (07 R133). -/
def State.wordGen (s : State) (q : Bool) (off : Nat) : Nat :=
  Memory.readNat (if q then s.mirror else s.core.scratch) (off + 8) 4 % 512

/-- The wait that holds issue, if any: `some none` while it lasts, and the event that ends it in this cycle. -/
def State.waitEnd (s : State) : Option (Option Instr) :=
  let c := s.core
  match c.wait with
  | .none => none
  | .wmw q _ _ since =>
    if q && s.reloads then some none
    else match since with
      | some n => some (if n + 3 ≤ c.cyc then some .wmwResume else none)
      | none => some none
  | .waitc .. => some none
  | .wsamp => some (if c.lw.toNat ≤ s.region.smpc then some .wsampResume else none)
  | .ifence _ => some (if c.overlaysDone c.cyc then some .ifenceResume else none)
  | .fenced _ => some (if c.overlaysDone (c.cyc - 1) then some .ifenceResume else none)
  | .bswap _ => some (if c.overlaysDone c.cyc then some .ifenceResume else none)

/-- The cycle in which a raise or write that satisfies a wait performs is remembered: the present one, or n later for a
store, which the image shows n cycles before it performs (07 R126, R139). -/
def State.waitSee (s : State) (n : Nat) : State :=
  match s.core.wait with
  | .wmw q off g none =>
    if genReached (s.wordGen q off) g then
      { s with core := { s.core with wait := .wmw q off g (some (s.core.cyc + n)) } }
    else s
  | _ => s

/-- The drain of a pre-emption has ended (21 R387). -/
def State.drained (s : State) : Bool :=
  let c := s.core
  c.land.isEmpty && (c.loads.all fun l => decide (l.land.due ≤ c.cyc)) && c.stores.isEmpty && c.atoms.isEmpty && c.cmds.isEmpty && c.feltQ.isEmpty
    && c.sendQ.isEmpty && c.gate.isEmpty && c.awaiting.isEmpty && c.engW.isEmpty && c.slotsHeld.isEmpty
    && !c.mx.inFlight && c.sp.passes.isEmpty && c.sp.writes.isEmpty && c.sp.sets.isEmpty && c.sp.convs.isEmpty

end Sys2Proof.Machine
end

