-- ==== Sys2Proof/Machine/Access.lean ====
section
/-! DEFINITION. Reaching memory: translation, the checks of an access, bank phases, and the load and store queues
(05, 07 R122 to R126, 12 R214, R215, 17 R305 to R309). -/

namespace Sys2Proof.Machine

/-! ## Translation -/

/-- Where a virtual address leads (05 R97, 07 R123). -/
inductive Target where
  /-- the local window, at this offset -/
  | pad (off : Nat)
  /-- a physical address, through this entry -/
  | phys (ent : Nat) (e : BitVec 128) (pa : Nat)
  | none
deriving DecidableEq, Repr

/-- The page size of an entry; PSZ 3 matches no address (05 R96, R97). -/
def pageSize (e : BitVec 128) : Nat :=
  match (bitsAt e 5 2).toNat with
  | 0 => 0x40000
  | 1 => 0x1000000
  | 2 => 0x40000000
  | _ => 0

/-- The physical address that an entry gives a virtual address it matches (05 R97). -/
def entryMatch (e : BitVec 128) (va : Nat) : Option Nat :=
  let vb := (bitsAt e 7 30).toNat * 0x40000
  if bitAt e 127 ∧ vb ≤ va ∧ va < vb + ((bitsAt e 59 22).toNat + 1) * pageSize e then
    some ((bitsAt e 37 22).toNat * 0x40000 + (va - vb))
  else none

/-- The lowest-numbered entry that matches (05 R97). -/
def xlatFind : Tab (BitVec 128) → Nat → Target
  | [], _ => .none
  | (k, e) :: t, va =>
    match entryMatch e va with
    | some pa => .phys k e pa
    | none => xlatFind t va

/-- Translate a virtual address; the local window takes precedence (07 R123). -/
def Core.translate (c : Core) (va : Nat) : Target :=
  if va < Config.scratchBytes then .pad va
  else if va < 2 ^ 48 then xlatFind c.xlat va
  else .none

/-- The quire window offset of a physical address. -/
def quireOff (pa : Nat) : Option Nat :=
  if Config.quireBase ≤ pa ∧ pa < Config.quireBase + Config.quireBytes then some (pa - Config.quireBase) else none

/-- The place of a watermark word: the local window, or the quire window through the translation table (07 R136,
R139). -/
def Core.wordPlace (c : Core) (va : Nat) : Option (Bool × Nat) :=
  match c.translate va with
  | .pad off => some (false, off)
  | .phys _ _ pa => (quireOff pa).map fun off => (true, off)
  | .none => none

/-- A physical address in HBM (05 R88). -/
def isHbm (pa : Nat) : Bool := decide (pa < Config.hbmEnd)

/-- A physical address in the staging SRAM (05 R88). -/
def isStaging (pa : Nat) : Bool := decide (Config.stagingBase ≤ pa ∧ pa < Config.stagingBase + Config.stagingBytes)

/-- A range lies within one of a list of ranges (first, number). -/
def within (rs : List (Nat × Nat)) (a n : Nat) : Bool := rs.any fun r => decide (r.1 ≤ a ∧ a + n ≤ r.1 + r.2)

/-- What an access does, for the permission and state checks (05 R99, R100). -/
inductive Doing where
  | read | write | atomic
deriving DecidableEq, Repr

/-- ACC of the fault record (21 R376). -/
def Doing.code : Doing → BitVec 2
  | .read => 0
  | .write => 1
  | .atomic => 2

/-- The fault of an access at an address. -/
def accessFault (k : FaultKind) (slot : Nat) (d : Doing) (ent : Nat) (va : Nat) : FaultInfo :=
  { FaultInfo.plain k slot with acc := d.code, entry := BitVec.ofNat 10 ent, va := BitVec.ofNat 48 va,
                                resumes := k == .residency }

/-- The permission check (05 R99). -/
def permits (e : BitVec 128) : Doing → Bool
  | .read => bitAt e 0
  | .write => bitAt e 1
  | .atomic => bitAt e 0 && bitAt e 1

/-- The state check: RESIDENT, or DISCARD for a read (05 R100). -/
def stateAllows (e : BitVec 128) (d : Doing) : Bool :=
  let st := (bitsAt e 3 2).toNat
  st == 1 || (st == 2 && d == .read)

/-- The entry is in state DISCARD. -/
def isDiscard (e : BitVec 128) : Bool := (bitsAt e 3 2).toNat == 2

/-- Count an access in an entry's ACC, and in DZC when it is served under DISCARD; both saturate (05 R96, R103). -/
def countAccess (e : BitVec 128) (disc : Bool) : BitVec 128 :=
  let acc := (bitsAt e 97 16).toNat
  let dzc := (bitsAt e 81 16).toNat
  let e := if acc < 0xFFFF then BitVec.ofNat 128 (e.toNat + 2 ^ 97) else e
  if disc ∧ dzc < 0xFFFF then BitVec.ofNat 128 (e.toNat + 2 ^ 81) else e

/-- Count an access through entry k. -/
def Core.touch (c : Core) (k : Nat) (disc : Bool) : Core :=
  { c with xlat := Tab.put 0 c.xlat k (countAccess (Tab.get 0 c.xlat k) disc) }

/-! ## Bank phases -/

/-- The distinct 32-byte granules of a list of addresses; granule g lies in bank g mod 32 (07 R122). -/
def granulesOf (as : List Nat) : List Nat := distinct (as.map (· / 32))

/-- The granules of n bytes from an address. -/
def granulesFrom (a n : Nat) : List Nat := (List.range ((a + n - 1) / 32 - a / 32 + 1)).map (· + a / 32)

/-- The demand d: the largest number of rows wanted from one bank (07 R125). -/
def demand (gs : List Nat) : Nat :=
  maxOf 1 ((List.range 32).map fun b => (gs.filter fun g => g % 32 == b).length)

/-- b0: the first cycle at or after a bound that is free on every bank of the access (07 R125). -/
def phaseStart (free : Vector Nat 32) (gs : List Nat) (lo : Nat) : Nat :=
  maxOf lo (gs.map fun g => (free[g % 32]?).getD 0)

/-- The banks of an access are taken through cycle b0 + d − 1 (07 R125). -/
def occupy (free : Vector Nat 32) (gs : List Nat) (stop : Nat) : Vector Nat 32 :=
  gs.foldl (fun v g => v.setIfInBounds (g % 32) stop) free

/-- A load phase on some granules: b0 and d, and the core with its banks taken (07 R125, 17 R305, R308). -/
def Core.loadPhase (c : Core) (gs : List Nat) : Nat × Nat × Core :=
  let d := demand gs
  let b0 := phaseStart c.ldFree gs (Nat.max (c.cyc + 4) c.minB0)
  (b0, d, { c with ldFree := occupy c.ldFree gs (b0 + d), lastE := Nat.max c.lastE (b0 + d - 1) })

/-- The load phase of an engine's fetch: b0 and d, and the core with its banks taken.  MARK neither delays it nor counts it
(15 R268, R282, 17 R305, R311). -/
def Core.enginePhase (c : Core) (gs : List Nat) : Nat × Nat × Core :=
  let d := demand gs
  let b0 := phaseStart c.ldFree gs (c.cyc + 4)
  (b0, d, { c with ldFree := occupy c.ldFree gs (b0 + d) })

/-- A store phase: w, and the core with its banks taken (17 R305, R308). -/
def Core.storePhase (c : Core) (gs : List Nat) : Nat × Core :=
  let d := demand gs
  let b0 := phaseStart c.stFree gs (Nat.max (c.cyc + 4) (c.minW + 1 - d))
  (b0 + d - 1, { c with stFree := occupy c.stFree gs (b0 + d), lastW := Nat.max c.lastW (b0 + d - 1) })

/-- A fenced atomic's phase counts as both kinds, with a MARK before it and after it (17 R318, R319). -/
def Core.fencedPhase (c : Core) (gs : List Nat) : Nat × Nat × Core :=
  let d := demand gs
  let lo := Nat.max (c.cyc + 4) (Nat.max (Nat.max c.minB0 (c.minW + 1 - d)) (Nat.max (c.lastW + 1) (c.lastE + 2 - d)))
  let b0 := Nat.max (phaseStart c.ldFree gs lo) (phaseStart c.stFree gs lo)
  let w := b0 + d - 1
  (b0, d, { c with
    ldFree := occupy c.ldFree gs (b0 + d), stFree := occupy c.stFree gs (b0 + d)
    lastW := Nat.max c.lastW w, lastE := Nat.max c.lastE w
    minB0 := Nat.max c.minB0 (w + 1), minW := Nat.max c.minW (w + 1) })

/-! ## Loads -/

/-- The result of an access that was issued before the restart mark: it lands, and the mark snapshot takes it (21 R381).
Atomics under a restart point are gated, so that while one is in force every atomic under way was issued before it. -/
def State.flyOld (s : State) (l : Landing) : State :=
  let s := s.fly l
  let m := s.core.mark
  if m.inForce then { s with core := { s.core with mark := { m with snap := insertBy Landing.le l m.snap } } } else s

/-- A load enters the load queue: its reading cycle, landing and undo entry are fixed (07 R125, 17 R309, 21 R377). -/
def State.pushLoad (s : State) (readAt : Nat) (bytes : List (Nat × Nat)) (quire zeros poison : Bool) (form : LoadForm)
    (l : Landing) : State :=
  let (l, s) := s.stamp l
  { s with core := { s.core with
      loads := s.core.loads ++ [{ seq := l.seq, readAt := readAt, bytes := bytes, quire := quire, zeros := zeros,
                                  poison := poison, form := form, land := l, word := s.core.slotWord l.slot, markRem := none
                                  done := false, until_ := l.due }] } }

/-- The poison pattern (21 R382). -/
def poisonByte (a : Nat) : Byte :=
  match a % 4 with
  | 2 => 0xC0
  | 3 => 0x7F
  | _ => 0

/-- Poison granule number of a scratchpad or quire offset; the weight buffer's begin at 2^21, the instruction store's bundles at
2^22. -/
def poisonGran (quire : Bool) (off : Nat) : Nat := off / 32 + (if quire then 2 ^ 20 else 0)

/-- The byte that a load reads: the poison pattern for a violation, zeros under DISCARD, the image, or the poison pattern of a
poisoned granule (05 R100, 21 R382, R383). -/
def State.loadByte (s : State) (l : Load) (a : Nat) : Byte :=
  if l.poison then poisonByte a
  else if l.zeros then 0
  else if s.core.poison.contains (poisonGran l.quire a) then poisonByte a
  else Memory.byte (if l.quire then s.mirror else s.core.scratch) a

/-- The bytes of a load at their places, as one number. -/
def loadNat (f : Nat → Byte) : List (Nat × Nat) → Nat
  | [] => 0
  | (p, a) :: t => (f a).toNat * 2 ^ (8 * p) + loadNat f t

/-- Some byte of a load lies in a poisoned granule (21 R382). -/
def State.loadPoisoned (s : State) (l : Load) : Bool :=
  !l.zeros && !l.poison && l.bytes.any fun b => s.core.poison.contains (poisonGran l.quire b.2)

/-! ## Stores -/

/-- A store enters the store queue in the present cycle (17 R305 to R309). -/
def State.enterStore (s : State) (seq : Nat) (bytes : List Host.Cell) : State :=
  let gs := granulesOf (bytes.map (·.1))
  let (w, c) := s.core.storePhase gs
  { s with core := { c with
      stores := c.stores ++ [{ seq := seq, w := w, bytes := bytes, applied := false, old := [] }]
      scntUntil := w :: c.scntUntil } }

/-- The scratchpad as an access of cycle n saw it (07 R126, R131). -/
def Core.imageAt (c : Core) (n : Nat) : Memory :=
  match c.hist.find? fun x => x.cyc == n with
  | some x => x.mem
  | none => c.scratch

/-- The scratchpad as the web side sees it n web cycles ago: in the fabric group as an access of that cycle did, otherwise as at
some instant within the crossing bound before (07 R131, 20 R362; assumption 7). -/
def State.webImage (s : State) (n : Nat) : Memory × State :=
  if s.inFabric then (s.core.imageAt (s.core.cyc - n), s)
  else
    let (d, s) := s.drawBelow 9
    ((match s.core.hist.find? fun x => decide (x.web + n + d ≤ s.web) with
      | some x => x.mem
      | none => (s.core.hist.getLast?.map (·.mem)).getD s.core.scratch), s)

/-- n bytes of the weight buffer are written; granules that they cover whole are poisoned no more (15 R282, 21 R382). -/
def Core.writeWbuf (c : Core) (off n x : Nat) : Core :=
  { c with
    wbuf := Memory.writeNat c.wbuf off n x
    poison := if c.poison.isEmpty then [] else c.poison.filter fun g =>
      !decide (2 ^ 21 + (off + 31) / 32 ≤ g ∧ g < 2 ^ 21 + (off + n) / 32) }

/-- Every poisoned granule that some bytes cover whole is cleared (21 R382). -/
def clearPoison (ps : List Nat) (quire : Bool) (as : List Nat) : List Nat :=
  ps.filter fun g => !((granulesOf as).any fun x =>
    poisonGran quire (32 * x) == g && ((List.range 32).all fun i => as.contains (32 * x + i)))

/-- Some bytes are written to the scratchpad. -/
def Core.writePad (c : Core) (cells : List Host.Cell) : Core :=
  { c with scratch := Memory.writeCells c.scratch cells,
           poison := if c.poison.isEmpty then [] else clearPoison c.poison false (cells.map (·.1)) }

/-! ## Watermark words -/

/-- A raise of b bytes on a watermark word at an address of a memory (07 R134). -/
def raiseWord (m : Memory) (a b : Nat) : Memory :=
  let tgt := Memory.readNat m a 4
  let cnt := Memory.readNat m (a + 4) 4 + b
  let flg := Memory.readNat m (a + 12) 4
  let ovf := decide (2 ^ 32 - 1 < cnt)
  let cnt := if ovf then 2 ^ 32 - 1 else cnt
  let flg := if ovf ∧ flg % 2 = 0 then flg + 1 else flg
  if tgt = 0 then
    let flg := if flg / 2 % 2 = 0 then flg + 2 else flg
    Memory.writeNat (Memory.writeNat m (a + 4) 4 cnt) (a + 12) 4 flg
  else
    let gen := (Memory.readNat m (a + 8) 4 + cnt / tgt) % 2 ^ 32
    Memory.writeNat (Memory.writeNat (Memory.writeNat m (a + 4) 4 (cnt % tgt)) (a + 8) 4 gen) (a + 12) 4 flg

/-- WMS: TGT set, CNT, GEN and FLG cleared (07 R138). -/
def setWord (m : Memory) (a : Nat) (tgt : BitVec 32) : Memory := Memory.writeNat m a 16 tgt.toNat

/-! ## The checks of an address-slot access -/

/-- What an address-slot access found (12 R214). -/
inductive Checked where
  /-- the scratchpad, at this offset -/
  | pad (off : Nat)
  /-- the quire window: entry, offset, DISCARD, and a violation of the share (21 R383) -/
  | quire (ent off : Nat) (zeros : Bool) (viol : Bool)
  | bad (i : FaultInfo)
deriving DecidableEq, Repr

/-- The checks of R214 after the fields: alignment, then the address, then permission and state.  A store to the quire
window raises the permission fault (09 R159). -/
def State.checkAccess (s : State) (slot : Nat) (va : Word) (n align : Nat) (d : Doing) : Checked :=
  if va.toNat % align ≠ 0 then .bad (accessFault .misalignment slot d 0 va.toNat)
  else
    match s.core.translate va.toNat with
    | .pad off => if off + n ≤ Config.scratchBytes then .pad off else .bad (accessFault .outOfTable slot d 0 va.toNat)
    | .none => .bad (accessFault .outOfTable slot d 0 va.toNat)
    | .phys k e pa =>
      match quireOff pa with
      | none => .bad (accessFault .outOfTable slot d k va.toNat)
      | some off =>
        if d ≠ .read ∨ !permits e d then .bad (accessFault .permission slot d k va.toNat)
        else if !stateAllows e d then .bad (accessFault .residency slot d k va.toNat)
        else .quire k off (isDiscard e) (!within s.part.quireShare off n)

end Sys2Proof.Machine
end

