-- ==== Sys2Proof/Machine/Effects.lean ====
section
/-! DEFINITION. The effects that a restart point gates, the gate buffer, and its commit (21 R377, R378). -/

namespace Sys2Proof.Machine

/-! ## Positions, slots of the tables -/

/-- The core's logical position in its sheet (10 R172). -/
def Core.pos (c : Core) : BitVec 7 := BitVec.ofNat 7 (c.tix.toNat % 64)

/-- Nothing is on its way to the core: no arrival, no message and no returned value (10 R177, 21 R387). -/
def State.allArrived (s : State) : Bool :=
  s.core.pushes.isEmpty && s.core.inbound.isEmpty && s.core.raises.isEmpty && s.arriving.isEmpty
    && s.agenda.all fun e => match e.2 with
      | .webFlitArrival f => f.dst != s.core.pos
      | .remoteAtmReturn .. => false
      | _ => true

/-- The physical torus position of a logical position of the core's sheet, under its automorphism (06 R111, 09 R156). -/
def State.torusOf (s : State) (p : Nat) : Nat :=
  let g := Tab.get 0 s.dev.place (32 + s.core.tix.toNat / 64)
  let move := fun (flip shift : Nat) (x : Nat) => ((if bitAt g flip then 7 - x else x) + (if bitAt g shift then 4 else 0)) % 8
  8 * move 1 3 (p / 8 % 8) + move 0 2 (p % 8)

/-- The physical torus position of the core. -/
def State.torusPos (s : State) : Nat := s.torusOf s.core.tix.toNat

/-- The physical quadrant of a logical position of the core's sheet (06 R110). -/
def State.quadOf (s : State) (p : Nat) : Nat :=
  let t := s.torusOf p
  4 * s.core.sheet.toNat + t % 8 / 4 + 2 * (t / 32)

/-- A logical position of the core's sheet lies in a region of the partition (19 R340). -/
def State.inPartition (s : State) (p : Nat) : Bool := !bitAt (Tab.get 0 s.dev.rmap (s.quadOf p)) 52

/-- A kind 0 capability whose endpoint lies outside the partition: a violation of a valid entry that permits the operation (21 R383;
assumption 93). -/
def State.capOutside (s : State) (e : BitVec 64) : Bool :=
  bitAt e 63 && bitsAt e 60 3 == 0 && bitAt e 59 && !s.inPartition (bitsAt e 22 6).toNat

/-- The violation of a capability: KIND 3 and its index (21 R383, R384). -/
def capViolation (cap : BitVec 8) (d : Doing) : FaultInfo := { accessFault .violation 7 d 0 cap.toNat with vkind := 3 }

/-- Failed cores of a physical quadrant (06 R110). -/
def Device.failed (d : Device) (q : Nat) : List Nat := (List.range 18).filter fun i => bitAt (Tab.get 0 d.rmap q) i

/-- Failed cores of a physical quadrant as the last launch captured them: the spare map stays until the next (06 R109, R113,
R121). -/
def Device.failedUsed (d : Device) (q : Nat) : List Nat := (List.range 18).filter fun i => bitAt (Tab.get 0 d.mapUsed q) i

/-- The physical core that presents the core's position: its own, or the spare of a failed one; 18 to a quadrant, spares last
(06 R113, 05 R89; the numbering within a sheet is assumption 11). -/
def State.physCore (s : State) : Nat :=
  let p := s.torusPos
  let q := p % 8 / 4 + 2 * (p / 32)
  let i := 4 * (p / 8 % 4) + p % 4
  let bad := s.dev.failedUsed (4 * s.core.sheet.toNat + q)
  let spares := [16, 17].filter fun k => !bad.contains k
  let rank := (bad.filter (· < i)).length
  72 * s.core.sheet.toNat + 18 * q + (if bad.contains i then (spares[rank]?).getD i else i)

/-- Folded-torus hops between two logical positions (10 R171). -/
def hops (p q : Nat) : Nat :=
  let ax := fun a b => let d := Nat.max a b - Nat.min a b; Nat.min d (8 - d)
  ax (p % 8) (q % 8) + ax (p / 8) (q / 8)

/-- The pair (source, destination) owns web slot t (10 R172). -/
def State.pairOwns (s : State) (src dst : BitVec 7) (web : Nat) : Bool :=
  (Tab.get 0 s.webTab (256 * src.toNat + web % 256)).toNat == dst.toNat + 1

/-- The pair owns some slot. -/
def State.pairExists (s : State) (src dst : BitVec 7) : Bool := (List.range 256).any fun t => s.pairOwns src dst t

/-- The core owns felt slot k (09 R154). -/
def State.ownsFelt (s : State) (k : Nat) : Bool :=
  let e := Tab.get 0 s.feltTab (k % 64)
  bitAt e 31 && !bitAt e 30 && e.toNat % 2 ^ 11 == s.core.tix.toNat

/-- The sheet's gateway owns felt slot k (09 R154). -/
def State.gatewayOwns (s : State) (k : Nat) : Bool :=
  let e := Tab.get 0 s.feltTab (k % 64)
  bitAt e 31 && bitAt e 30 && e.toNat % 2 ^ 5 == s.core.sheet.toNat

/-- The core owns some felt slot (09 R163). -/
def State.ownsAnyFelt (s : State) : Bool := (List.range 64).any s.ownsFelt

/-- The core owns slot k of a channel in a direction (05 R92). -/
def State.ownsHbm (s : State) (ch : Nat) (write : Bool) (k : Nat) : Bool :=
  let e := Tab.get 0 s.hbmTab (512 * ch + k % 512)
  bitAt e 15 && bitAt e 14 == write && e.toNat % 2 ^ 11 == s.core.tix.toNat

/-- Data slots of a revolution that heat leaves (22 R396). -/
def activeSlots (htl : BitVec 2) : Nat :=
  match htl.toNat with
  | 2 => 360
  | 3 => 240
  | _ => 480

/-- The heat level of a channel's stack (05 R87, 22 R396). -/
def State.heatOf (s : State) (ch : Nat) : BitVec 2 := (s.dev.htl[ch / 32]?).getD 0

/-- A data slot (05 R91). -/
def dataSlot (k : Nat) : Bool := k % 32 != 31 && k % 32 != 15

/-- The entry of the HBM slot table for slot k of a channel (05 R92). -/
def State.hbmEntry (s : State) (ch k : Nat) : BitVec 16 := Tab.get 0 s.hbmTab (512 * ch + k % 512)

/-- The data slots of a channel whose entries satisfy a test. -/
def State.slotsWith (s : State) (ch : Nat) (p : BitVec 16 → Bool) : List Nat :=
  (List.range 512).filter fun k => dataSlot k && p (s.hbmEntry ch k)

/-- Heat leaves the first part of some slots of a channel and withholds the others, slot k among them (22 R397). -/
def State.heatTakes (s : State) (ch : Nat) (mine : List Nat) (k : Nat) : Bool :=
  mine.contains (k % 512)
    && decide (mine.length * activeSlots (s.heatOf ch) / 480 ≤ (mine.filter (· < k % 512)).length)

/-- Heat withholds slot k of the core's slots of one direction on a channel (22 R397). -/
def State.withheld (s : State) (ch : Nat) (write : Bool) (k : Nat) : Bool :=
  s.heatTakes ch ((List.range 512).filter (s.ownsHbm ch write)) k

/-- A slot of a channel is held by a group or an atomic, or has been used or lost in this web cycle (05 R94, 07 R131). -/
def Core.slotHeld (c : Core) (ch start : Nat) : Bool :=
  c.usedSlots.contains (ch, start) || c.slotsHeld.any fun h => !h.best && h.channel == ch && h.start == start

/-- The first slot start at or after a web cycle, among n slots, that satisfies a test. -/
def firstSlot (p : Nat → Bool) : Nat → Nat → Option Nat
  | 0, _ => none
  | n + 1, start => if p start then some start else firstSlot p n (start + Config.slotCycles)

/-- The slot of a group or of an HBM atomic, and whether it is best effort: the first owned slot of its direction that starts at or
after a web cycle and that nothing holds; a request for a best-effort slot from that web cycle on when the core owns none, or when
the extent is homed by follow (07 R131, 05 R92, 17 R318, 06 R116). -/
def State.chooseSlot (s : State) (ch : Nat) (write : Bool) (ent : Option Nat) (lo : Nat) : Nat × Bool :=
  let start := (lo + Config.slotCycles - 1) / Config.slotCycles * Config.slotCycles
  if (List.range 512).any (s.ownsHbm ch write) && !(ent.any fun e => s.dev.followExt.contains (BitVec.ofNat 10 e)) then
    let ok := fun t => s.ownsHbm ch write (t / Config.slotCycles) && !s.core.slotHeld ch t
    ((firstSlot ok (512 * (s.core.slotsHeld.length + s.core.usedSlots.length + 2)) start).getD start, false)
  else (start, true)

/-! ## What an effect does when it takes effect -/

/-- A CPY or OVL starts: S is the present cycle (07 R130). -/
def State.startCmd (s : State) (ovl : Bool) (desc : Nat) (wm : Word) (word : SlotWord) (half : BitVec 1) : State :=
  let c := s.core
  let k : Cmd := { id := c.nextCmd, old := [], ovl := ovl, desc := desc, wm := wm, word := word, start := c.cyc, startWeb := s.web, raw := none,
                   checked := false, stopped := false, localBase := 0, localLast := 0, beats := 0, next := 0, kind := .local_, took := [], ideal := none, webLate := false, shifted := false, done := [],
                   counted := [], feltWait := [], lastSlot := none, waits := false, stagingEnd := 0, stall := 0, stalled := false, half := half, began := none, fetched := [], fetchEnd := 0,
                   finish := none }
  { s with core := { c with nextCmd := c.nextCmd + 1, cmds := c.cmds ++ [k] } }

/-- Flits of a SEND (10 R183, R189). -/
def sendFlits (c : Core) (cap : BitVec 64) (line : Bool) (data : Line) : List Flit :=
  let kind := (bitsAt cap 60 3).toNat
  let qn := bitsAt cap 45 5
  let wm := if bitAt cap 44 then some (bitsAt cap 28 16) else none
  let body := fun h => if kind = 2 then FlitBody.ream (bitsAt cap 18 4) (bitsAt cap 7 11) qn line h
                       else FlitBody.msg qn line h wm
  let dst : BitVec 7 := if kind = 2 then 64 else BitVec.ofNat 7 (bitsAt cap 22 6).toNat
  let one := fun h => ({ src := c.pos, dst := dst, body := body h, data := elem data 512 (b2n h) } : Flit)
  if line then [one false, one true] else [one false]

/-- A SEND enters the send queue (10 R183). -/
def State.enterSend (s : State) (cap : BitVec 8) (line : Bool) (data : Line) : State :=
  let (w, s) := s.cross s.web
  let e := Tab.get 0 s.core.caps cap.toNat
  let items := (sendFlits s.core e line data).map fun f =>
    ({ fl := f, ready := w + 2, cap := cap, first := false, beat := none, delayed := false, displaced := false, kept := false } : SendItem)
  { s with core := { s.core with sendQ := s.core.sendQ ++ items } }

/-- A packet enters the felt send queue (09 R158). -/
def State.enterFelt (s : State) (pk : FeltPacket) (qat : Bool) (ent : BitVec 10) (seq : Nat) : State :=
  let (w, s) := s.cross s.web
  let c := s.core
  { s with core := { c with
      feltQ := c.feltQ ++ [{ pk := pk, entry := w, qat := qat, beat := none, wm := none, ent := some ent.toNat, seq := seq }]
      awaiting := c.awaiting ++ (if qat then [{ seq := seq, src := .felt, due := none }] else []) } }

/-- A local ATM or ABN enters both queues with its fence (17 R318, R319). -/
def State.enterAtom (s : State) (seq : Nat) (e : Eff) (off n : Nat) (lands : Bool) : State :=
  let (b0, d, c) := s.core.fencedPhase (granulesFrom off n)
  { s with core := { c with
      atoms := c.atoms ++ [{ seq := seq, at_ := b0 - 3, eff := e, w := b0 + d - 1, due := if lands then b0 + d + 9 else 0 }]
      scntUntil := (b0 + d - 1) :: c.scntUntil } }

/-- An HBM ATM takes its write slot (17 R318). -/
def State.enterHbmAtom (s : State) (seq : Nat) (e : Eff) (pa : Nat) : State :=
  let ch := pa / Config.channelBytes
  let (t, best) := s.chooseSlot ch true (effEnts e).head? (s.web + 8)
  let c := s.core
  { s with core := { c with
      slotsHeld := c.slotsHeld ++ [{ channel := ch, start := t, best := best, write := true, grp := none,
                                     atm := some e, seq := seq }]
      awaiting := c.awaiting ++ [{ seq := seq, src := .hbm, due := none }] } }

/-- A remote ATM enters the send queue as one flit (17 R318). -/
def State.enterRemoteAtom (s : State) (seq : Nat) (op : BitVec 3) (i64 : Bool) (cap : BitVec 8) (off : Nat) (x cmp : Word) : State :=
  let (w, s) := s.cross s.web
  let c := s.core
  let e := Tab.get 0 c.caps cap.toNat
  let f : Flit := { src := c.pos, dst := BitVec.ofNat 7 (bitsAt e 22 6).toNat, body := .atm op i64 off x cmp, data := 0 }
  { s with core := { c with
      sendQ := c.sendQ ++ [{ fl := f, ready := w + 2, cap := cap, first := false, beat := none, delayed := false, displaced := false, kept := false }]
      awaiting := c.awaiting ++ [{ seq := seq, src := .core f.dst, due := none }] } }

/-- The poison pattern in place of an old value (21 R383). -/
def poisonOld (i64 : Bool) : Word := if i64 then 0x7FC000007FC00000 else 0x7FC00000

/-- A remote ATM to an endpoint outside the partition sends nothing: the poison pattern lands at a free time, no sooner than a reply
from the nearest core could, with the late fault (21 R383; assumption 93). -/
def State.refuseAtom (s : State) (seq : Nat) (i64 : Bool) (i : FaultInfo) : State :=
  let (d, s) := s.draw
  let t := s.web + 8 + d
  let w : EngWrite := { due := 0, port := 0, place := .away, data := 0, cmd := none, wm := none, wms := none, bad := some i,
                        atm := none, ents := [] }
  { s with
    core := { s.core with awaiting := s.core.awaiting ++ [{ seq := seq, src := .hbm, due := none }] }
    arriving := s.arriving ++ [(t, w)]
    agenda := s.agenda ++ [(t, .remoteAtmReturn seq (poisonOld i64))] }

/-- A row of a tile and its anchor as a contribution (09 R167, 04 R81). -/
def Matrix.row (m : Matrix) (tile : BitVec 1) (row : BitVec 5) : Contribution :=
  { anchor := m.anchor[tile.toNat]
    els := (List.range 32).map fun j =>
      let e := Tab.get { v := 0, tag := 0 } m.tile (1024 * tile.toNat + 32 * row.toNat + j)
      (e.v, e.tag)
    own := true }

/-- The logical region of the core of an index (01 R13). -/
def regionOf (t : Nat) : Nat := 4 * (t / 64) + t % 8 / 4 + 2 * (t / 8 % 8 / 4)

/-- The logical region of the core (01 R13). -/
def Core.region (c : Core) : Nat := regionOf c.tix.toNat

/-- The cores of the kernel in a logical region (01 R13, 19 R343). -/
def Partition.coresIn (p : Partition) (r : Nat) : List Nat :=
  ((List.range 64).map fun i => 64 * (r / 4) + i).filter fun t => regionOf t == r && decide (t ≤ p.cores.toNat)

/-- The reader end that a writer end of this core leads to, when it is an end of this core as well (20 R365). -/
def Core.loopPort (c : Core) (cfg : BitVec 64) : Option (BitVec 2) :=
  let q : BitVec 2 := bitsAt cfg 31 2
  let other := c.xp[q.toNat].cfg
  if (bitsAt cfg 33 7).toNat = c.region ∧ bitAt other 63 ∧ bitAt other 62 ∧ bitsAt other 40 11 = c.tix then some q else none

/-- The effect of a gated operation, as if it had issued in the present cycle, with its captured operands (21 R378). -/
def State.applyEff (s : State) (seq : Nat) (e : Eff) : State :=
  let c := s.core
  match e with
  | .store bytes => s.enterStore seq bytes
  | .cpy desc wm word => s.startCmd false desc wm word 0
  | .ovl desc word half => s.startCmd true desc 0 word half
  | .wms off tgt =>
    let w : EngWrite := { due := c.cyc + 1, port := 4, place := .pad off, data := 0, cmd := none, wm := none,
                          wms := some tgt, bad := none, atm := none, ents := [] }
    { s with core := { c with engW := c.engW ++ [w] } }
  | .send cap line data => s.enterSend cap line data
  | .felt pk qat ent => s.enterFelt pk qat ent seq
  | .atmLocal _ i64 off _ _ => s.enterAtom seq e off (if i64 then 8 else 4) true
  | .atmHbm _ _ pa _ _ _ => s.enterHbmAtom seq e pa
  | .atmRemote op i64 cap off x cmp => s.enterRemoteAtom seq op i64 cap off x cmp
  | .atmPoison _ pa _ => s.enterHbmAtom seq e pa
  | .atmOutside i64 i => s.refuseAtom seq i64 i
  | .abn off _ => s.enterAtom seq e off 64 false
  | .xwr port ln stamp =>
    let p := c.xp[port.toNat]
    let p' := { p with written := p.written + 1, enters := (p.enters.filter fun t => decide (c.cyc < t)) ++ [c.cyc + 2] }
    let s := { s with core := { c with xp := c.xp.set port.toNat p' } }
    match c.loopPort p.cfg with
    | some q => { s with core := { s.core with xline := s.core.xline ++ [(c.cyc + 2, q, ln, stamp)] } }
    | none => { s with dev := { s.dev with sent := .line port ln stamp :: s.dev.sent } }
  | .gcs cell n dest ream word =>
    let i := { FaultInfo.plain .gateway 7 with word := word }
    let g : GwSet := { due := c.cyc + 6, at_ := none, cell := cell, n := n.toNat + 1, dest := dest, ream := ream, info := i }
    { s with gw := { s.gw with sets := s.gw.sets ++ [g] } }
  | .gcm cell tile row word =>
    let i := { FaultInfo.plain .gateway 7 with word := word }
    let g : GwAdd := { due := c.cyc + 14, at_ := none, cell := cell, con := c.mx.row tile row, info := i }
    { s with gw := { s.gw with adds := s.gw.adds ++ [g] } }

/-- Commands outstanding: each up to the cycle in which its last beat performs (07 R130). -/
def Core.outstanding (c : Core) : Nat := (c.cmds.filter fun k => k.finish.isNone).length

/-- Flits in the send queue; copy beats and returned values are not of its 16 (10 R183). -/
def Core.sendCount (c : Core) : Nat := (c.sendQ.filter fun f => f.beat.isNone && !f.first).length

/-- Room for an effect in its queue; what a region outside the fabric group does not know to have left takes room (21 R378, 07 R130, 09
R158, 10 R183, 20 R362). -/
def Core.room (c : Core) (e : Eff) : Bool :=
  match e with
  | .cpy .. | .ovl .. => decide (c.outstanding < 8)
  | .send _ line _ => decide (c.sendCount + c.sendGone.length + (if line then 2 else 1) ≤ 16)
  | .atmRemote .. => decide (c.sendCount + c.sendGone.length + 1 ≤ 16)
  | .felt .. => decide (c.feltQ.length + c.feltGone.length < 8)
  | _ => true

/-- An operation that a restart point gates must hold: the buffer is physically full, or with no restart point its queue
has no room (21 R377). -/
def State.blocked (s : State) (e : Eff) : Bool :=
  if s.core.mark.inForce then decide (64 ≤ s.core.gate.length) && s.core.gate.any (·.committed)
  else !s.core.room e

/-- An operation that a restart point gates is performed: it enters the gate buffer with its captured operands, or takes
effect at once when no restart point is in force (21 R377). -/
def State.enact (s : State) (slot : Nat) (e : Eff) : State :=
  let c := s.core
  if c.mark.inForce then
    let g : GateEntry := { seq := c.seqNo, slot := slot, eff := e, committed := false, waited := false }
    { s with core := { c with seqNo := c.seqNo + 1, gate := c.gate ++ [g] } }
  else State.applyEff { s with core := { c with seqNo := c.seqNo + 1 } } c.seqNo e

/-- Hold or perform. -/
def State.perform (s : State) (slot : Nat) (e : Eff) : Out :=
  if s.blocked e then .next (s.hold .queueCap) else .next (s.enact slot e)

/-- The committed entries wait in the gate buffer; each counts one slip (21 R378). -/
def State.gateWaits (s : State) : State :=
  let new := s.core.gate.filter fun (e : GateEntry) => e.committed && !e.waited
  let gate := s.core.gate.map fun (e : GateEntry) => { e with waited := e.waited || e.committed }
  State.slips { s with core := { s.core with gate := gate } } new.length

/-- Committed entries leave in order while their queues have room; when one has none it and those behind it wait
(21 R378). -/
def State.releaseGate : Nat → State → State
  | 0, s => s
  | n + 1, s =>
    match s.core.gate with
    | [] => s
    | e :: t =>
      if !e.committed then s
      else if s.core.room e.eff then
        State.releaseGate n (State.applyEff { s with core := { s.core with gate := t } } e.seq e.eff)
      else s.gateWaits

/-- The entries of the gate buffer are committed and leave in order (21 R378). -/
def State.commitEntries (s : State) : State :=
  let s := { s with core := { s.core with gate := s.core.gate.map fun (e : GateEntry) => { e with committed := true } } }
  s.releaseGate s.core.gate.length

/-- What a restart point keeps of the ports (20 R369). -/
def portMarks (xp : Vector Port 4) : List PortMark :=
  xp.toList.map fun p => { lastTaken := p.lastTaken, lastStamp := p.lastStamp, stale := p.stale, j := p.j, pos := p.pos, est := p.est }

/-- Commit of the gate buffer by RM, HALT or pre-emption: entries leave in order, popped queue entries are freed, the
undo log is emptied, and the restart point and the mark snapshot become those of the bundle at the PC (21 R378). -/
def State.commitGate (s : State) : State :=
  let s := s.commitEntries
  let c := s.core
  let m := c.cyc
  let flying := (c.land.filter fun l => l.file.isSome).length
    + (c.loads.filter fun l => !l.done && l.land.file.isSome).length
  { s with core := { c with
      rq := c.rq.map RQueue.free
      xp := c.xp.map fun (p : Port) => { p with fifo := p.fifo.drop p.popped, popped := 0 }
      undo := flying
      loads := (c.loads.filter fun l => decide (m < l.land.due)).map fun l => { l with markRem := some (l.land.due - m) }
      mark := { inForce := true, cyc := m, regs := c.r, seq := c.seq, fstat := c.fstat, tctr := c.tctr, walk := c.walk,
                lw := c.lw, heads := c.heads, known := c.known, snap := c.land
                ports := portMarks c.xp } } }

/-! ## Reading and performing in the queues -/

/-- The old value's operation of an atomic (09 R162, 17 R317): code, width in bits, old, x, compare. -/
def atomicNew (op : BitVec 3) (w old x cmp : Nat) : Nat :=
  let sg := fun n => if n < 2 ^ (w - 1) then (n : Int) else (n : Int) - 2 ^ w
  match op.toNat with
  | 0 => (old + x) % 2 ^ w
  | 1 => if sg old ≤ sg x then old else x
  | 2 => if sg old ≤ sg x then x else old
  | 3 => Nat.min old x
  | 4 => Nat.max old x
  | 5 => x
  | _ => if old = cmp then x else old

end Sys2Proof.Machine
end

