-- ==== Sys2Proof/Machine/Operands.lean ====
section
/-! DEFINITION. Operand forms: sources of the address and vector slots, latches and queue heads, modifiers, line
specifiers, lane selections and stream registers (03 R37 to R41, 10 R181, 11, 12). -/

namespace Sys2Proof.Machine

/-! ## Latches and queue heads -/

/-- The messages of a queue that a head can present: those not yet popped (10 R181, R182). -/
def RQueue.visible (q : RQueue) : List Msg := q.msgs.drop q.popped

/-- The queue bound to a head, if any (10 R181). -/
def Core.headQueue (c : Core) (h : BitVec 2) : Option RQueue :=
  (c.heads[h.toNat]).map fun q => c.rq[q.toNat]

/-- What a head presents: the message at the head of its queue, or zero (10 R181). -/
def Core.readHead (c : Core) (h : BitVec 2) : Line :=
  match c.headQueue h with
  | some q => match q.visible with
    | m :: _ => m.data
    | [] => 0
  | none => 0

/-- A head is bound and its queue has no message to present (10 R181). -/
def Core.headEmpty (c : Core) (h : BitVec 2) : Bool :=
  match c.headQueue h with
  | some q => q.visible.isEmpty
  | none => false

/-- A latch by its code, as an address source takes it from bits [63:0] (03 R37); of `lsp`, which has 32, the others read zero
(assumption 114). -/
def Core.latchLine (c : Core) (code : Nat) : Line :=
  match code with
  | 0 => c.lat.lx0
  | 1 => c.lat.lx1
  | 2 => c.lat.ly0
  | 3 => c.lat.ly1
  | 4 => BitVec.ofNat 1024 c.lat.la.toNat
  | 5 => BitVec.ofNat 1024 c.lat.lb.toNat
  | 6 => c.lat.lda
  | 7 => c.lat.ldb
  | 8 => BitVec.ofNat 1024 c.lat.lsp.toNat
  | 9 => c.lat.lmx
  | 10 => c.lat.lcx
  | n => c.readHead (BitVec.ofNat 2 n)

/-- A 6-bit address source (03 R37). -/
def State.srcA (s : State) (x : BitVec 6) : Word :=
  if x.toNat < 32 then s.core.r.readA (BitVec.ofNat 5 x.toNat) else bitsAt (s.core.latchLine (x.toNat % 16)) 0 64

/-- A 5-bit vector source; la, lb and lsp fill every lane with their bits [31:0] (03 R37). -/
def State.srcV (s : State) (x : BitVec 5) : Line :=
  if x.toNat < 16 then s.core.r.readV (BitVec.ofNat 4 x.toNat)
  else
    let code := x.toNat % 16
    let l := s.core.latchLine code
    if code = 4 ∨ code = 5 ∨ code = 8 then splat (lane l 0) else l

/-- An address source names an empty bound queue head, which holds issue (10 R181). -/
def State.waitsA (s : State) (x : BitVec 6) : Bool :=
  decide (44 ≤ x.toNat ∧ x.toNat < 48) && s.core.headEmpty (BitVec.ofNat 2 x.toNat)

/-- A vector source names an empty bound queue head (10 R181). -/
def State.waitsV (s : State) (x : BitVec 5) : Bool :=
  decide (28 ≤ x.toNat) && s.core.headEmpty (BitVec.ofNat 2 x.toNat)

/-! ## Slots, latches and destinations -/

/-- The slot of address unit A (0) or B (1) (03 R32). -/
def addrSlot (u : BitVec 1) : Nat := 1 + u.toNat

/-- The ALU latch and the load latch of an address unit (03 R32). -/
def aluLatch (u : BitVec 1) : Latch := if u = 0 then .la else .lb
/-- The load latch. -/
def loadLatch (u : BitVec 1) : Latch := if u = 0 then .lda else .ldb

/-- The slot of vector slot X (0) or Y (1), and its latch (03 R32). -/
def vecSlot (u : BitVec 1) : Nat := 3 + u.toNat
/-- The latch of a vector slot. -/
def vecLatch (u : BitVec 1) : Latch := if u = 0 then .x else .y

/-- A destination file unless the result is for the latch only (03 R38). -/
def destOf (w : BitVec 1) (f : RegFile) : Option RegFile := if w = 0 then some f else none

/-! ## Lanes -/

/-- The first lane and the number of lanes of a width code (03 R40). -/
def lanesOfWidth (z : BitVec 3) : Nat × Nat :=
  match z.toNat with
  | 0 => (0, 8)
  | 1 => (8, 8)
  | 2 => (16, 8)
  | 3 => (24, 8)
  | 4 => (0, 16)
  | 5 => (16, 16)
  | _ => (0, 32)

/-- Lane i takes part at a width under a lane mask (03 R40, R41). -/
def takesPart (z : BitVec 3) (k : Lane32) (i : Nat) : Bool :=
  decide ((lanesOfWidth z).1 ≤ i ∧ i < (lanesOfWidth z).1 + (lanesOfWidth z).2) && bitAt k i

/-! ## Modifiers -/

/-- Reversal of the low n bits (11 R195, Rev). -/
def revBits : Nat → Nat → Nat
  | 0, _ => 0
  | n + 1, x => x % 2 * 2 ^ n + revBits n (x / 2)

/-- The update of an address under a modifier; none where an access that uses it raises the illegal-operation fault
(11 R195). -/
def modUpdate (m a : Word) : Option Word :=
  let inc := (bitsAt m 0 32).toInt
  let len := (bitsAt m 32 24).toNat
  let n := (bitsAt m 32 5).toNat
  match (bitsAt m 62 2).toNat with
  | 0 => some (a + BitVec.ofInt 64 inc)
  | 1 =>
    if len = 0 then some (a + BitVec.ofInt 64 inc)
    else
      let o := a.toNat % len
      some (BitVec.ofInt 64 ((a.toNat - o : Nat) + ((o : Int) + inc) % len))
  | 2 =>
    if n = 0 ∨ 24 < n then none
    else
      let low := a.toNat % 2 ^ n
      let r := (((revBits n low : Int) + inc) % 2 ^ n).toNat
      some (BitVec.ofNat 64 (a.toNat - low + revBits n r))
  | _ => none

/-- The update of [aN]+ lands at c+1 and writes no latch; with a0 nothing is updated (12 R216). -/
def State.bump (s : State) (slot : Nat) (n : BitVec 5) (x : Word) : State :=
  if n = 0 then s else s.push64 slot 1 (some .a) (BitVec.ofNat 10 n.toNat) x .none

/-- The new base of an access: none where its modifier is bad; the base itself when there is no update (12 R216). -/
def State.newBase (s : State) (n : BitVec 5) (m : BitVec 1) : Option (Option Word) :=
  if m = 0 then some none
  else match modUpdate (s.core.r.readM n) (s.core.r.readA n) with
    | some x => some (some x)
    | none => none

/-- Apply the update of an access's base. -/
def State.bumpBase (s : State) (slot : Nat) (n : BitVec 5) (nb : Option Word) : State :=
  match nb with
  | some x => s.bump slot n x
  | none => s

/-! ## Line specifiers -/

/-- A source line: a plane line, or vN (03 R49). -/
def State.srcLine (s : State) (t : BitVec 1) (sp : BitVec 10) : Line :=
  if t = 0 then s.core.r.readPlane sp else s.core.r.readV (BitVec.ofNat 4 sp.toNat)

/-- The file and number of a destination line (03 R49). -/
def lineFile (t : BitVec 1) : RegFile := if t = 0 then .plane else .v

/-! ## Streams -/

/-- BASE of a descriptor (11 R197). -/
def stBase (d : BitVec 512) : Nat := (bitsAt d 0 48).toNat
/-- FMT (11 R197). -/
def stFmt (d : BitVec 512) : Nat := (bitsAt d 48 4).toNat
/-- GEOM (11 R197). -/
def stGeom (d : BitVec 512) : Nat := (bitsAt d 52 4).toNat
/-- SBASE (11 R197). -/
def stSBase (d : BitVec 512) : Nat := (bitsAt d 64 48).toNat
/-- SSTR, signed (11 R197). -/
def stSStr (d : BitVec 512) : Int := (bitsAt d 112 16).toInt
/-- N of dimension k, from 1 (11 R197). -/
def stCount (d : BitVec 512) (k : Nat) : Nat := (bitsAt d (128 + 16 * k) 16).toNat + 1
/-- Index of dimension k (11 R197). -/
def stIdx (d : BitVec 512) (k : Nat) : Nat := (bitsAt d (224 + 16 * k) 16).toNat
/-- Stride of dimension k, signed (11 R197). -/
def stStride (d : BitVec 512) (k : Nat) : Int := (bitsAt d (320 + 32 * k) 32).toInt

/-- The element size in bits (12 R221). -/
def fmtBits (f : Nat) : Nat :=
  match f with
  | 0 | 3 | 4 => 32
  | 1 | 2 | 5 => 16
  | 6 | 7 => 8
  | 8 => 4
  | _ => 32

/-- The address of the current element (12 R221). -/
def stAddr (d : BitVec 512) : Nat :=
  let off := ((List.range 5).map fun k => (stIdx d (k + 1) : Int) * stStride d (k + 1)).foldl (· + ·) 0
  (((stBase d : Int) + (stIdx d 0 * fmtBits (stFmt d) / 8 : Nat) + off) % 2 ^ 48).toNat

/-- The indices after an advance by n steps at dimension d: a list of the six indices.  An index whose carry is zero stays as it
stands, one past its count as well (12 R221). -/
def advanceIdx (cnt : Nat → Nat) (idx : Nat → Nat) (start : Nat) : Nat → Nat → Nat → List Nat
  | 0, _, _ => []
  | fuel + 1, d, carry =>
    if d < start ∨ carry = 0 then idx d :: advanceIdx cnt idx start fuel (d + 1) carry
    else
      let t := idx d + carry
      t % cnt d :: advanceIdx cnt idx start fuel (d + 1) (t / cnt d)

/-- The IDX field of a descriptor from six indices. -/
def idxField (l : List Nat) : Nat := elemsNat 16 (fun k => nth 0 l k) 6

/-- The bits of the IDX field. -/
def idxSel : Line := BitVec.ofNat 1024 ((2 ^ 96 - 1) * 2 ^ 224)

/-- The value that an advance writes in the IDX field, which is one destination (12 R225, R228; assumption 8). -/
def stAdvanced (d : BitVec 512) (dim n : Nat) : Line :=
  BitVec.ofNat 1024 (idxField (advanceIdx (stCount d) (stIdx d) dim 6 0 n) * 2 ^ 224)

/-- An advance lands at c+1 and writes no latch (12 R208). -/
def State.pushStream (s : State) (slot : Nat) (st : BitVec 4) (val sel : Line) : State :=
  s.push { due := s.core.cyc + 1, seq := 0, slot := slot, file := some .st, dst := BitVec.ofNat 10 st.toNat, val := val,
           sel := sel, flg := 0, latch := .none, lval := 0, lsel := 0 }

end Sys2Proof.Machine
end

