-- ==== Sys2Proof/Machine/Copy.lean ====
section
/-! DEFINITION. The copy engine and the overlay loader: CPY, WMS, OVL, and what the engine does in each cycle (07 R127 to
R142, 08 R144 to R149, 05 R91 to R104). -/

namespace Sys2Proof.Machine

/-! ## Descriptors -/

/-- Doubleword i of a command's descriptor (07 R127, 08 R146). -/
def Cmd.dw (k : Cmd) (i : Nat) : Nat :=
  match k.raw with
  | some r => (elem r 64 i).toNat
  | none => 0

/-- n bits of a number from bit lo up. -/
def natBits (x lo n : Nat) : Nat := x / 2 ^ lo % 2 ^ n

/-- The 32 bits of a doubleword from bit lo up, signed. -/
def sbits32 (x lo : Nat) : Int := (BitVec.ofNat 32 (x / 2 ^ lo)).toInt

/-- Destination kind (07 R127). -/
def Cmd.dKind (k : Cmd) : Nat := natBits (k.dw 0) 52 4
/-- SRC, of a copy or an overlay. -/
def Cmd.src (k : Cmd) : Nat := natBits (k.dw 0) 0 48
/-- DST. -/
def Cmd.dst (k : Cmd) : Nat := natBits (k.dw 1) 0 48
/-- The count of dimension d. -/
def Cmd.count (k : Cmd) (d : Nat) : Nat :=
  if d < 4 then natBits (k.dw 2) (16 * d) 16 + 1 else natBits (k.dw 3) (16 * (d - 4)) 16 + 1
/-- Source stride of dimension d = 1 to 5. -/
def Cmd.srcStride (k : Cmd) (d : Nat) : Int := sbits32 (k.dw (3 + d)) 0
/-- Destination stride of dimension d = 1 to 5. -/
def Cmd.dstStride (k : Cmd) (d : Nat) : Int := sbits32 (k.dw (3 + d)) 32

/-- LEN, DSTB and the ring of an overlay descriptor (08 R146). -/
def Cmd.len (k : Cmd) : Nat := natBits (k.dw 1) 0 32
/-- First bundle index. -/
def Cmd.dstb (k : Cmd) : Nat := natBits (k.dw 1) 32 16
/-- The source is a ring. -/
def Cmd.ring (k : Cmd) : Bool := natBits (k.dw 2) 63 1 == 1
/-- Ring base. -/
def Cmd.rbase (k : Cmd) : Nat := natBits (k.dw 2) 0 48
/-- Ring size. -/
def Cmd.rsize (k : Cmd) : Nat := natBits (k.dw 3) 0 32

/-- Where the stream begins within its source: an offset within the ring, or the address itself. -/
def Cmd.from_ (k : Cmd) : Nat := if k.ring then k.src - k.rbase else k.src

/-- The beats of a command (07 R127, 08 R149): an overlay's are the 64-byte blocks that hold its stream and CRC.  A stream that wraps in a
ring fetches the blocks again, but a ring of one block is one beat; the spec gives no number of beats for it (assumption 103). -/
def Cmd.beatCount (k : Cmd) : Nat :=
  if k.ovl then
    (if k.ring ∧ k.rsize = 64 then 1 else (k.from_ + k.len + 3) / 64 - k.from_ / 64 + 1)
  else k.count 0 * k.count 1 * k.count 2 * k.count 3 * k.count 4 * k.count 5

/-- The index in dimension d of beat n (07 R128). -/
def Cmd.index (k : Cmd) (n d : Nat) : Nat :=
  let below := ((List.range d).map k.count).foldl (· * ·) 1
  n / below % k.count d

/-- Σ of index times stride over dimensions 1 to 5. -/
def Cmd.offset (k : Cmd) (stride : Nat → Int) (n : Nat) : Int :=
  ((List.range 5).map fun d => (k.index n (d + 1) : Int) * stride (d + 1)).foldl (· + ·) 0

/-- The source address of beat n (07 R128, 08 R149).  A sum that is negative or passes 2^48 is no address: its 64 bits, which no
entry translates, stand for it. -/
def Cmd.beatSrc (k : Cmd) (n : Nat) : Nat :=
  if k.ovl then
    (if k.ring then k.rbase + (k.from_ / 64 * 64 + 64 * n) % k.rsize else k.src / 64 * 64 + 64 * n)
  else (((k.src + 64 * k.index n 0 : Nat) + k.offset k.srcStride n) % 2 ^ 64).toNat

/-- The destination address or offset of beat n, as `Cmd.beatSrc` gives its source (07 R128). -/
def Cmd.beatDst (k : Cmd) (n : Nat) : Nat :=
  (((k.dst + 64 * k.index n 0 : Nat) + k.offset k.dstStride n) % 2 ^ 64).toNat

/-- The lowest and one past the highest byte of the destination (07 R137). -/
def Cmd.extent (k : Cmd) : Int × Int :=
  let part := fun (f : Int → Int) => ((List.range 5).map fun d =>
    f (k.dstStride (d + 1) * ((k.count (d + 1) : Int) - 1))).foldl (· + ·) 0
  (k.dst + part (fun x => if x < 0 then x else 0),
   ((k.dst + 64 * k.count 0 : Nat) : Int) + part (fun x => if x < 0 then 0 else x))

/-- The command names a watermark (07 R136). -/
def Cmd.hasWm (k : Cmd) : Bool := !k.ovl && fld k.word 12 5 != 0

/-! ## Sides and rows -/

/-- The memory that an address leads to. -/
inductive Side where
  | pad | hbm | quire | staging | reserved | none
deriving DecidableEq, Repr

/-- The side of a physical address (05 R88); a translated sum at 2^40 or above is reserved (05 R97; assumption 99). -/
def sideOf (pa : Nat) : Side :=
  if isHbm pa then .hbm else if (quireOff pa).isSome then .quire else if isStaging pa then .staging else .reserved

/-- The side of a virtual address, as it translates now. -/
def Core.side (c : Core) (va : Nat) : Side :=
  match c.translate va with
  | .pad _ => .pad
  | .phys _ _ pa => sideOf pa
  | .none => .none

/-- The sides of beat n; the weight buffer and the loader count as local destinations (07 R129, R131). -/
def Core.sides (c : Core) (k : Cmd) (n : Nat) : Side × Side :=
  (c.side (k.beatSrc n), if k.ovl || k.dKind != 0 then .pad else c.side (k.beatDst n))

/-- The cycle from which a command's offsets count: S, or L for an overlay (07 R131, 08 R149). -/
def Cmd.base (k : Cmd) : Option Nat := if k.ovl then k.began else some k.start

/-- A side that a beat cannot reach (05 R97). -/
def Side.lost (a : Side) : Bool := a == .reserved || a == .none

/-- The row of beat n by the kinds of its two sides, when both can be reached (07 R131). -/
def Core.rowOf (c : Core) (k : Cmd) (n : Nat) : Option Row :=
  if !k.ovl && k.dKind == 1 then some .remote
  else
    let (a, b) := c.sides k n
    if a.lost || b.lost then none
    else if b = .quire then some .quireDst
    else if a = .hbm ∨ b = .hbm then some .hbm
    else if a = .staging ∨ b = .staging then some .staging
    else if a = .quire then some .quireSrc
    else some .local_

/-- The row under which a beat that no longer translates is taken, and faults: that of the command's beat 0 while its cycle there is
still to come, else the order of the HBM groups; a beat already taken is not taken again (05 R97, 21 R380; assumption 91). -/
def Core.lostRow (c : Core) (k : Cmd) (n : Nat) : Row :=
  let b := k.base.getD 0
  let ahead := match k.kind with
    | .local_ => decide (c.cyc + 2 ≤ k.localBase + n)
    | .quireSrc => decide (c.cyc ≤ b + 8 + n + k.stall)
    | .staging => decide (c.cyc ≤ b + 44 + n)
    | .quireDst => decide (c.cyc ≤ b + 4 + n) || k.feltWait.contains n
    | .remote => true
    | .hbm => false
  if ahead then k.kind else if k.took.contains n then .local_ else .hbm

/-- The row of beat n (07 R131). -/
def Core.row (c : Core) (k : Cmd) (n : Nat) : Row := (c.rowOf k n).getD (c.lostRow k n)

/-! ## Translation of a beat -/

/-- One side of a beat, translated and checked. -/
structure Reach where
  side : Side
  /-- offset in the scratchpad or quire window, or physical address -/
  addr : Nat
  ent : Option Nat
  zeros : Bool
  viol : Option FaultInfo
deriving DecidableEq, Repr

/-- Translate and check one side of a beat: a physical address outside the partition's frames is a violation whatever the entry
says (05 R97 to R102, 07 R123). -/
def State.reach (s : State) (va : Nat) (d : Doing) : Except FaultInfo Reach :=
  match s.core.translate va with
  | .pad off => .ok { side := .pad, addr := off, ent := none, zeros := false, viol := none }
  | .none => .error (accessFault .outOfTable 7 d 0 va)
  | .phys k e pa =>
    let sd := sideOf pa
    let addr := (quireOff pa).getD pa
    let ok := fun (viol : Option FaultInfo) =>
      Except.ok { side := sd, addr := addr, ent := some k, zeros := isDiscard e, viol := viol }
    if sd = .reserved then .error (accessFault .outOfTable 7 d k va)
    else if sd = .hbm ∧ !within s.part.frames pa 64 then ok (some { accessFault .violation 7 d k va with vkind := 0 })
    else if !permits e d then .error (accessFault .permission 7 d k va)
    else if !stateAllows e d then .error (accessFault .residency 7 d k va)
    else ok (if sd = .quire ∧ !within s.part.quireShare addr 64 then
        some { accessFault .violation 7 d k addr with vkind := 1 } else none)

/-- The pairing of a beat is allowed, with the conditions on the quire window (07 R129, R137).  A ring beat that runs into the local window
has no allowed pairing: it is the late copy-command fault (08 R147; assumption 105). -/
def State.pairOk (s : State) (k : Cmd) (a b : Side) : Bool :=
  if k.ovl then a != .pad
  else if k.dKind ≠ 0 then a == .pad
  else
    let quireWm := k.hasWm && (match s.core.wordPlace k.wm.toNat with
      | some (q, _) => q
      | none => false)
    (a == .pad || b == .pad) && !(quireWm && b != .quire) && !(b == .quire && !s.ownsAnyFelt)

/-- The copy-command fault (07 R137). -/
def commandFault : FaultInfo := FaultInfo.plain .copyCommand 7

/-- Both sides of beat n (07 R129, R131). -/
def State.reachBeat (s : State) (k : Cmd) (n : Nat) : Except FaultInfo (Reach × Reach) :=
  match s.reach (k.beatSrc n) .read with
  | .error i => .error i
  | .ok a =>
    let dest : Except FaultInfo Reach :=
      if k.ovl ∨ k.dKind ≠ 0 then .ok { side := .pad, addr := k.beatDst n, ent := none, zeros := false, viol := none }
      else s.reach (k.beatDst n) .write
    match dest with
    | .error i => .error i
    | .ok b =>
      if !s.pairOk k a.side b.side then .error commandFault
      else match b.viol with
        | some i => .error i
        | none => .ok (a, b)

/-- A beat counts in the entry of each translated side (05 R103). -/
def reachEnts (a b : Reach) : List (Nat × Bool) :=
  ([a, b].filterMap fun r => r.ent.map fun e => (e, r.zeros))

/-- Accesses that have passed their check under some entries (05 R104). -/
def Core.pendAll (c : Core) (es : List (Nat × Bool)) : Core := es.foldl (fun c e => c.pend e.1 true) c

/-- Accesses that have performed (05 R103, R104). -/
def Core.performAll (c : Core) (es : List (Nat × Bool)) : Core :=
  es.foldl (fun c e => (c.touch e.1 e.2).pend e.1 false) c

/-! ## The state of a command -/

/-- The command with an id. -/
def Core.cmd (c : Core) (id : Nat) : Option Cmd := c.cmds.find? fun k => k.id == id

/-- Change a command. -/
def Core.setCmd (c : Core) (id : Nat) (f : Cmd → Cmd) : Core :=
  { c with cmds := c.cmds.map fun k => if k.id = id then f k else k }

/-- A late fault of a command stops it before its next beat; it is taken in this cycle (07 R140, 21 R380).  Its HBM slots
and beats that have not been sent are given up. -/
def State.stopCmd (s : State) (k : Cmd) (i : FaultInfo) : State :=
  let c := (s.core.setCmd k.id fun k => { k with stopped := true, finish := none }).dropCmds (· == k.id)
  { s with core := { c with lateDue := c.lateDue ++ [(c.cyc, { i with slot := 7, word := k.word })] } }

/-- Beat n has performed; the word of the command in the local window is raised by 64 unless the beat was counted before
(07 R134, R135, R140). -/
def Core.beatDone (c : Core) (id n : Nat) (wm : Option Nat) : Core :=
  match c.cmd id with
  | none => c
  | some k =>
    let c := c.setCmd id fun k => { k with done := n :: k.done, counted := if k.counted.contains n then k.counted else n :: k.counted }
    let c := { c with acted := true }
    match wm with
    | some off =>
      if k.counted.contains n then c else { c with raises := c.raises ++ [{ due := c.cyc, off := off, bytes := 64 }] }
    | none => c

/-- The local watermark word of a command, if it names one (07 R135). -/
def Core.localWm (c : Core) (k : Cmd) : Option Nat :=
  if !k.hasWm then none
  else match c.wordPlace k.wm.toNat with
    | some (false, off) => some off
    | _ => none

/-- The quire watermark word of a command, if it names one (07 R135). -/
def Core.quireWm (c : Core) (k : Cmd) : Option Nat :=
  if !k.hasWm then none
  else match c.wordPlace k.wm.toNat with
    | some (true, off) => some off
    | _ => none

/-! ## CPY, WMS, OVL -/

/-- CPY: start a copy command, or gate it (07 R136). -/
def execCpy (g : BitVec 4) (n m : BitVec 5) (s : State) : Out :=
  guarded g s fun s =>
    let a := (s.core.r.readA n).toNat
    let wm := s.core.r.readA m
    let e := Eff.cpy a wm (s.core.slotWord 7)
    let dk := natBits (Memory.readNat s.core.scratch a 8) 52 4
    if s.blocked e then .next (s.hold .queueCap)
    else if a % 128 ≠ 0 then .next (s.takePrecise (accessFault .misalignment 7 .read 0 a))
    else if m ≠ 0 ∧ wm.toNat % 16 ≠ 0 then .next (s.takePrecise (accessFault .misalignment 7 .read 0 wm.toNat))
    else if Config.scratchBytes ≤ a then .next (s.takePrecise (accessFault .outOfTable 7 .read 0 a))
    else if m ≠ 0 ∧ (dk = 0 ∨ dk = 2) ∧ (s.core.wordPlace wm.toNat).isNone then
      .next (s.takePrecise (accessFault .outOfTable 7 .read 0 wm.toNat))
    else .next (s.enact 7 e)

/-- WMS: set the target of a watermark word and clear the rest, at c+1 (07 R138). -/
def execWms (g : BitVec 4) (n : BitVec 5) (sf : BitVec 1) (t : BitVec 16) (s : State) : Out :=
  guarded g s fun s =>
    let a := (s.core.r.readA n).toNat
    let e := Eff.wms a (BitVec.ofNat 32 (if sf = 1 then 64 * t.toNat else t.toNat))
    if s.blocked e then .next (s.hold .queueCap)
    else if a % 16 ≠ 0 then .next (s.takePrecise (accessFault .misalignment 7 .write 0 a))
    else if Config.scratchBytes ≤ a then .next (s.takePrecise (accessFault .outOfTable 7 .write 0 a))
    else .next (s.enact 7 e)

/-- The first bytes of the pages that n bytes from an address touch, in steps of the smallest page (05 R90). -/
def pageStarts (a n : Nat) : List Nat :=
  a :: ((List.range ((a + n - 1) / 0x40000 - a / 0x40000)).map fun i => (a / 0x40000 + i + 1) * 0x40000)

/-- The check of an overlay's source at issue: each byte translates through an entry, with EX and RD (08 R147, R149).  A byte that
leads to a reserved range faults when its beat is fetched (05 R97). -/
def Core.overlaySource (c : Core) (va : Nat) : Option FaultInfo :=
  match c.translate va with
  | .none => some (accessFault .outOfTable 7 .read 0 va)
  | .pad _ => some (accessFault .permission 7 .read 0 va)
  | .phys k e _ =>
    if !bitAt e 2 ∨ !bitAt e 0 then some (accessFault .permission 7 .read k va)
    else none

/-- OVL: start an overlay, or gate it; of several bytes that cannot be fetched the lowest gives the fault (08 R149; assumption 115). -/
def execOvl (g : BitVec 4) (n : BitVec 5) (s : State) : Out :=
  guarded g s fun s =>
    let a := (s.core.r.readA n).toNat
    let e := Eff.ovl a (s.core.slotWord 7) (~~~s.core.seq.half)
    let dw := fun i => Memory.readNat s.core.scratch (a + 8 * i) 8
    let src := natBits (dw 0) 0 48
    let bytes := if natBits (dw 2) 63 1 = 1 then 1 else natBits (dw 1) 0 32 + 4
    if s.blocked e then .next (s.hold .queueCap)
    else if a % 128 ≠ 0 then .next (s.takePrecise (accessFault .misalignment 7 .read 0 a))
    else if Config.scratchBytes ≤ a then .next (s.takePrecise (accessFault .outOfTable 7 .read 0 a))
    else match (pageStarts src bytes).filterMap s.core.overlaySource with
      | i :: _ => .next (s.takePrecise i)
      | [] => .next (s.enact 7 e)

/-! ## The start of a command -/

/-- The check of an overlay descriptor at S+1 (08 R146, R149). -/
def Cmd.ovlFault (k : Cmd) : Option FaultInfo :=
  let high := fun i lo n => natBits (k.dw i) lo n != 0
  if high 0 48 16 || high 1 48 16 || high 2 48 15 || high 3 32 32 || (List.range 12).any (fun i => k.dw (i + 4) != 0)
    || decide (1023 < k.dstb) || decide (k.len < 1 ∨ 65535 < k.len) || decide (k.rbase % 64 ≠ 0)
    || decide (k.rsize % 64 ≠ 0 ∨ k.rsize < 64 ∨ 2 ^ 31 < k.rsize)
    || (k.ring && decide (k.src < k.rbase ∨ k.rbase + k.rsize ≤ k.src))
  then some commandFault else none

/-- A kind 0 capability names a core of the kernel (10 R174). -/
def State.namesCore (s : State) (e : BitVec 64) : Bool :=
  decide (s.core.tix.toNat / 64 * 64 + (bitsAt e 22 6).toNat ≤ s.part.cores.toNat)

/-- A side that no copy may reach (05 R97, 07 R129). -/
def Core.sideFault (c : Core) (va : Nat) (d : Doing) : Option FaultInfo :=
  match c.translate va with
  | .pad _ => none
  | .none => some (accessFault .outOfTable 7 d 0 va)
  | .phys k _ pa => if sideOf pa = .reserved then some (accessFault .outOfTable 7 d k va) else none

/-- The first fault of a list of checks. -/
def firstSome {α : Type} : List (Option α) → Option α
  | [] => none
  | some x :: _ => some x
  | none :: t => firstSome t

/-- A condition that raises the copy-command fault. -/
def faultIf (b : Bool) : Option FaultInfo := if b then some commandFault else none

/-- The check of a copy descriptor at S+1 (07 R137); a named watermark in neither window is found here too, as an out-of-table fault
(assumption 101). -/
def State.cpyFault (s : State) (k : Cmd) : Option FaultInfo :=
  let c := s.core
  let dk := k.dKind
  let odd := fun (x : Int) => decide (x % 64 ≠ 0)
  let sides := c.sides k 0
  let cap := Tab.get 0 c.caps (natBits (k.dw 0) 56 8)
  let ext := k.extent
  let outside := fun (n : Nat) => decide (ext.1 < 0 ∨ (n : Int) < ext.2)
  firstSome [
    faultIf (decide (2 < dk) || natBits (k.dw 0) 48 4 != 0 || natBits (k.dw 1) 48 16 != 0 || natBits (k.dw 3) 32 32 != 0
      || (List.range 7).any (fun i => k.dw (i + 9) != 0)
      || odd k.src || odd k.dst || (List.range 5).any (fun d => odd (k.srcStride (d + 1)) || odd (k.dstStride (d + 1)))
      || decide (2 ^ 32 < k.beatCount)),
    c.sideFault k.src .read,
    if dk = 0 then c.sideFault k.dst .write else none,
    faultIf (decide (dk ≠ 0) && sides.1 != .pad),
    faultIf (decide (dk = 0) && sides.1 != .pad && sides.2 != .pad),
    faultIf (decide (dk = 0) && sides.2 == .quire && !s.ownsAnyFelt),
    if dk = 1 ∧ s.capOutside cap then some (capViolation (BitVec.ofNat 8 (natBits (k.dw 0) 56 8)) .write) else none,
    faultIf (decide (dk = 1) && (!bitAt cap 63 || (bitsAt cap 60 3).toNat != 0 || !bitAt cap 59 || !s.namesCore cap)),
    faultIf (decide (dk = 1) && outside Config.scratchBytes),
    faultIf (decide (dk = 2) && outside Config.wbufBytes),
    if dk ≠ 1 ∧ k.hasWm ∧ (c.wordPlace k.wm.toNat).isNone then some (accessFault .outOfTable 7 .read 0 k.wm.toNat) else none,
    faultIf (decide (dk ≠ 1) && (c.quireWm k).isSome && !(decide (dk = 0) && sides.2 == .quire))]

/-- The highest beat below n of the local row. -/
def Core.lastLocal (c : Core) (k : Cmd) : Nat → Option Nat
  | 0 => none
  | n + 1 => if c.row k n = .local_ then some n else Core.lastLocal c k n

/-- A checked command takes its place in the local pipeline (07 R131). -/
def Core.planCmd (c : Core) (k : Cmd) (base : Nat) : Core :=
  let kind := (c.rowOf k 0).getD .hbm
  let c := c.setCmd k.id fun k => { k with kind := kind }
  match c.lastLocal { k with kind := kind } k.beatCount with
  | none => c
  | some n =>
    let p := Nat.max (base + 6) (c.localEnd + 1)
    { (c.setCmd k.id fun k => { k with localBase := p, localLast := p + n }) with localEnd := p + n }

/-- An overlay's loader begins: STATE is busy and NB is 0 (08 R149). -/
def State.beginLoad (s : State) (k : Cmd) : State :=
  let c := s.core.setCmd k.id fun k => { k with began := some s.core.cyc, startWeb := s.web }
  { s with core := { c with ovs := { c.ovs with nb := 0, st := 1 } } }

/-- The first overlay in start order. -/
def Core.firstOvl (c : Core) : Option Cmd := c.cmds.find? fun k => k.ovl

/-- 64 bytes of the scratchpad as one number, poisoned granules as the poison pattern (21 R382). -/
def Core.padData (c : Core) (m : Memory) (off : Nat) : BitVec 512 :=
  BitVec.ofNat 512 (elemsNat 8 (fun i =>
    (if c.poison.contains (poisonGran false (off + i)) then poisonByte i else Memory.byte m (off + i)).toNat) 64)

/-- Some granule of n bytes of the scratchpad is poisoned (21 R382). -/
def Core.padPoisoned (c : Core) (off n : Nat) : Bool := (granulesFrom off n).any fun g => c.poison.contains g

/-- The poison pattern over 64 bytes (21 R382). -/
def poison512 : BitVec 512 := BitVec.ofNat 512 (elemsNat 32 (fun _ => 0x7FC00000) 16)

/-- The uncorrectable-data fault of a poisoned granule: the kernel is aborted (21 R382). -/
def poisonFault (d : Doing) (va : Nat) : FaultInfo := accessFault .uncorrectableData 7 d 0 va

/-- An overlay that has been checked and is first begins now: those before it were given up.  One that a late fault has stopped keeps its
place until the core resumes and it goes to the end (07 R140, 08 R149; assumption 116). -/
def Core.waitsToLoad (c : Core) (k : Cmd) : Bool :=
  k.ovl && k.checked && !k.stopped && k.began.isNone && c.firstOvl.map (·.id) == some k.id

/-- A command starts at S: its descriptor is read, and an overlay that is first begins; at S+1 it is checked (07 R130,
R137, 08 R149).  A poisoned descriptor is the uncorrectable-data fault (21 R382). -/
def execCopyCommandStart (id : Nat) (s : State) : Out :=
  match s.core.cmd id with
  | none => .fault .notDue
  | some k =>
    if k.stopped then .fault .notDue
    else if k.checked then
      (if s.core.waitsToLoad k then
        let s := s.beginLoad k
        .next { s with core := s.core.planCmd k s.core.cyc }
      else .fault .notDue)
    else match k.raw with
      | none =>
        if s.core.cyc < k.start then .fault .notDue
        else if s.core.padPoisoned k.desc 128 then .next (s.stopCmd k (poisonFault .read k.desc))
        else
          let raw := BitVec.ofNat 1024 (Memory.readNat s.core.scratch k.desc 128)
          let s := { s with core := s.core.setCmd id fun k => { k with raw := some raw } }
          .next (if k.ovl ∧ (s.core.firstOvl.map (·.id)) = some id then s.beginLoad k else s)
      | some _ =>
        if s.core.cyc < k.start + 1 then .fault .notDue
        else match (if k.ovl then k.ovlFault else s.cpyFault k) with
          | some i => .next (s.stopCmd k i)
          | none =>
            let c := s.core.setCmd id fun k => { k with checked := true, beats := k.beatCount }
            .next { s with core := match k.base with
              | some b => c.planCmd k b
              | none => c }

/-! ## The movement of a beat -/

/-- What a beat reads from its source, and the fault that lands with it (07 R131, 21 R382, R383). -/
def State.beatData (s : State) (a : Reach) (va : Nat) : BitVec 512 × Option FaultInfo :=
  match a.viol with
  | some i => (poison512, some i)
  | none =>
    if a.zeros then (0, none)
    else match a.side with
      | .pad =>
        (s.core.padData s.core.scratch a.addr, if s.core.padPoisoned a.addr 64 then some (poisonFault .read va) else none)
      | .quire =>
        let bad := s.core.poison.contains (poisonGran true a.addr) || s.core.poison.contains (poisonGran true (a.addr + 32))
        (if bad then poison512 else BitVec.ofNat 512 (Memory.readNat s.mirror a.addr 64),
         if bad then some (poisonFault .read va) else none)
      | _ => (BitVec.ofNat 512 (Memory.readNat s.hbm a.addr 64), none)

/-- Where a beat goes. -/
def Cmd.place (k : Cmd) (n : Nat) (b : Reach) : Place :=
  if k.ovl then .loader n
  else if k.dKind = 2 then .wbuf b.addr
  else match b.side with
    | .pad => .pad b.addr
    | _ => .phys b.addr

/-- A beat of the local, staging or quire source rows reads its source now and performs n cycles later (07 R131). -/
def State.transfer (s : State) (k : Cmd) (n delay : Nat) : State :=
  match s.reachBeat k n with
  | .error i => s.stopCmd k i
  | .ok (a, b) =>
    let (x, bad) := s.beatData a (k.beatSrc n)
    let es := reachEnts a b
    let w : EngWrite := { due := s.core.cyc + delay, port := 3, place := k.place n b, data := x, cmd := some (k.id, n),
                          wm := s.core.localWm k, wms := none, bad := bad.map fun i => { i with word := k.word }, atm := none
                          ents := es }
    let c := (s.core.pendAll es).setCmd k.id fun k => { k with took := n :: k.took }
    { s with core := { c with engW := c.engW ++ [w] } }

/-- A staging beat is best effort: it performs after a free further delay, in order (07 R131; assumption 2). -/
def State.stagingBeat (s : State) (k : Cmd) (n : Nat) : State :=
  let (d, s) := s.draw
  let due := Nat.max (s.core.cyc + 4 + d) (k.stagingEnd + 1)
  let s := if s.core.cyc + 4 < due then s.slips 1 else s
  let s := { s with core := s.core.setCmd k.id fun k => { k with stagingEnd := due } }
  s.transfer k n (due - s.core.cyc)

/-- The packet of a copy beat into the quire window; its payload is read at the send beat (07 R131, 09 R156, R158).  The payload of
a beat into the last 64 bytes of the window begins 64 bytes below it, so that it ends with the window; the mask enables the beat's
bytes alone (assumption 106). -/
def State.feltBeat (s : State) (k : Cmd) (n : Nat) : State :=
  match s.reachBeat k n with
  | .error i => s.stopCmd k i
  | .ok (a, b) =>
    let c := s.core
    let fresh := !k.counted.contains n
    let high := decide (Config.quireBytes ≤ b.addr + 64)
    let pk : FeltPacket := {
      party := 0, wme := (c.quireWm k).isSome && fresh, wma := BitVec.ofNat 17 ((c.quireWm k).getD 0 / 16), sz := false,
      aux := 0, op := 0, mask := if high then 0xFFFF0000 else 0xFFFF
      addr := BitVec.ofNat 17 ((if high then b.addr - 64 else b.addr) / 16), payload := 0 }
    let (w, s) := s.cross s.web
    let c := (s.core.pendAll (reachEnts a b)).setCmd k.id fun k => { k with took := n :: k.took }
    let f : FeltItem := { pk := pk, entry := w, qat := false, beat := some (k.id, n, a.addr), wm := if fresh then c.localWm k else none,
                          ent := b.ent, seq := c.seqNo }
    { s with core := { c with feltQ := c.feltQ ++ [f] } }

/-- A beat into the quire window enters the felt send queue, or waits for room; each wait counts a slip (09 R158). -/
def State.quireBeat (s : State) (k : Cmd) (n : Nat) : State :=
  let room := decide (s.core.feltQ.length + s.core.feltGone.length < 8)
  match k.feltWait with
  | m :: t =>
    if m = n then
      (if room then State.feltBeat { s with core := s.core.setCmd k.id fun k => { k with feltWait := t } } k n else s)
    else State.slips { s with core := s.core.setCmd k.id fun k => { k with feltWait := k.feltWait ++ [n] } } 1
  | [] =>
    if room then s.feltBeat k n
    else State.slips { s with core := s.core.setCmd k.id fun k => { k with feltWait := [n] } } 1

/-- Insert a copy beat in the send queue by readiness, after SEND flits that are ready with it (10 R183). -/
def insertBeat (x : SendItem) : List SendItem → List SendItem
  | [] => [x]
  | y :: t => if x.ready < y.ready then x :: y :: t else y :: insertBeat x t

/-- A remote beat will be ready for its pair's slots at S+4+n; its source is read two cycles before its slot (07 R131, 10 R183).  In
the fabric group it enters two cycles before it is ready, so that a slot at S+4+n finds its source read.  A watermark offset past the
end of the remote scratchpad is sent as it stands (07 R136; assumption 102).  One that follows beats which a freeze has kept from their
slots is late too (07 R141). -/
def State.remoteBeat (s : State) (k : Cmd) (n : Nat) : State :=
  let cap := BitVec.ofNat 8 (natBits (k.dw 0) 56 8)
  let e := Tab.get 0 s.core.caps cap.toNat
  let (w, s) := if s.inFabric then (s.web + 2, s) else s.cross s.web
  let wm := if k.hasWm ∧ !k.counted.contains n then some k.wm.toNat else none
  let f : Flit := { src := s.core.pos, dst := BitVec.ofNat 7 (bitsAt e 22 6).toNat, body := .beat (k.beatDst n) wm, data := 0 }
  let x : SendItem := { fl := f, ready := w, cap := cap, first := false, beat := some (k.id, n), delayed := false, displaced := false, kept := k.webLate }
  let s := s.slips (b2n k.webLate)
  let c := s.core.setCmd k.id fun k => { k with took := n :: k.took }
  { s with core := { c with sendQ := insertBeat x c.sendQ } }

/-- A quire source beat, which stalls while the mirror reloads (07 R131). -/
def State.quireSource (s : State) (k : Cmd) (n : Nat) : State :=
  if s.reloads then
    let s := if k.stalled then s else s.slips 1
    { s with core := s.core.setCmd k.id fun k => { k with stall := k.stall + 1, stalled := true } }
  else State.transfer { s with core := s.core.setCmd k.id fun k => { k with stalled := false } } k n 2

/-! ## HBM groups -/

/-- The first HBM beat at or after n, among m beats, that has not been taken. -/
def Core.nextHbm (c : Core) (k : Cmd) : Nat → Nat → Option Nat
  | 0, _ => none
  | m + 1, n => if c.row k n = .hbm && !k.took.contains n then some n else Core.nextHbm c k m (n + 1)

/-- The HBM beat that begins the command's next group: in beat order, but where a translation entry has been written since S a beat
before the last group may have become one (07 R131, 05 R104; assumption 91). -/
def Core.hbmBeat (c : Core) (k : Cmd) : Option Nat :=
  if k.shifted then c.nextHbm k k.beats 0 else c.nextHbm k (k.beats - k.next) k.next

/-- The HBM-side address of beat n and whether the group reads HBM. -/
def Core.hbmSide (c : Core) (k : Cmd) (n : Nat) : Nat × Bool :=
  if (c.sides k n).1 = .hbm then (k.beatSrc n, true) else (k.beatDst n, false)

/-- The beats of the group that begins with beat n: a maximal run of consecutive beats within one 256-byte block (07 R131). -/
def Core.groupBeats (c : Core) (k : Cmd) (n : Nat) : List Nat :=
  let head := c.hbmSide k n
  let same := fun m => decide (m < k.beats) && c.row k m == .hbm && !k.took.contains m && (c.hbmSide k m).2 == head.2
    && (c.hbmSide k m).1 / 256 == head.1 / 256
  let rec run : Nat → Nat → List Nat
    | 0, _ => []
    | f + 1, m => if same m then m :: run f (m + 1) else []
  run (k.beats - n) n

/-- Translate the beats of a group (21 R380). -/
def State.groupReach (s : State) (k : Cmd) : List Nat → Except FaultInfo (List GroupBeat)
  | [] => .ok []
  | n :: t =>
    match s.reachBeat k n with
    | .error i => .error i
    | .ok (a, b) =>
      match State.groupReach s k t with
      | .error i => .error i
      | .ok gs =>
        let read := a.side == .hbm
        let g : GroupBeat := {
          n := n, pa := if read then a.addr else b.addr, place := if read then k.place n b else .pad a.addr
          zeros := a.zeros, bad := a.viol.map fun i => { i with word := k.word }, ents := reachEnts a b }
        .ok (g :: gs)

/-- The web cycle that a command's first group may not start before: S+8, which in the fabric group is the cycle of the core of that
number, and otherwise 8 web cycles after S starts (07 R131). -/
def State.groupFrom (s : State) (k : Cmd) : Nat := if s.inFabric then s.web else Nat.max (k.startWeb + 8) s.web

/-- The slot that a group of a command would take if the region had not been frozen since S: the first owned one after that of the
command's group before it that no other group holds (07 R141; assumption 122). -/
def State.idealSlot (s : State) (k : Cmd) (ch : Nat) (write : Bool) (before : Nat × Nat) : Nat :=
  let lo := Nat.max (k.startWeb + 8) (if before.1 = ch then before.2 + 1 else before.2)
  let start := (lo + Config.slotCycles - 1) / Config.slotCycles * Config.slotCycles
  let ok := fun t => s.ownsHbm ch write (t / Config.slotCycles) && !s.core.idealSlots.contains (ch, t)
    && !s.core.slotsHeld.any fun h => !h.best && h.ideal.isNone && h.channel == ch && h.start == t
  (firstSlot ok (512 * (s.core.slotsHeld.length + s.core.idealSlots.length + 2)) start).getD start

/-- A group of a command that a freeze may have delayed has taken the slot at t: where it would be otherwise, which for a best-effort
request that comes late is free (07 R141; assumption 122). -/
def State.idealOf (s : State) (k : Cmd) (ch : Nat) (write best : Bool) (t : Nat) : Option (Nat × Nat) × State :=
  match k.ideal with
  | none => (none, s)
  | some p =>
    if !best then
      let i := s.idealSlot k ch write p
      (some (ch, i), { s with core := { s.core with idealSlots := (ch, i) :: s.core.idealSlots } })
    else
      let i := Nat.max (k.startWeb + 8) p.2
      let (x, s) := if i < t then s.drawBelow 2 else (0, s)
      (some (ch, if x = 1 then i else t), s)

/-- The group that begins with beat n is translated and takes its slot (07 R131, 21 R380). -/
def State.chooseGroup (s : State) (k : Cmd) (n : Nat) : State :=
  let ns := s.core.groupBeats k n
  let read := (s.core.hbmSide k n).2
  match s.groupReach k ns with
  | .error i => s.stopCmd k i
  | .ok gs =>
    let ch := (match gs with
      | g :: _ => g.pa
      | [] => 0) / Config.channelBytes
    let lo := Nat.max (s.groupFrom k) (match k.lastSlot with
      | some (c', st) => if c' = ch then st + 1 else st
      | none => 0)
    let es := (gs.map (·.ents)).flatten
    let (t, best) := s.chooseSlot ch (!read) (es.head?.map (·.1)) lo
    let (ideal, s) := s.idealOf k ch (!read) best t
    let c := s.core.pendAll es
    let c := c.setCmd k.id fun k => { k with next := n + ns.length, took := ns ++ k.took, lastSlot := some (ch, t), waits := best, ideal := ideal }
    { s with core := { c with
        slotsHeld := c.slotsHeld ++ [{ channel := ch, start := t, best := best, write := !read, grp := some (k.id, gs), atm := none, seq := 0
                                       ideal := (ideal.map (·.2)).filter (· < t) }] } }

/-- The cycle in which the next HBM group of a command is chosen has come: S+8, or the start of the last group's slot (21 R380, 07
R131). -/
def State.groupReady (s : State) (k : Cmd) : Bool :=
  !k.waits && (match k.lastSlot with
    | some (_, t) => decide (t ≤ s.web)
    | none => if s.inFabric then k.base.any fun b => decide (b + 8 ≤ s.core.cyc) else decide (k.startWeb + 8 ≤ s.web))

/-- The next HBM group of a command is chosen: a frozen region chooses none (07 R141). -/
def State.groupDue (s : State) (k : Cmd) : Bool := s.groupReady k && !s.region.still

/-- The command moves beats: it has begun, it is checked, and no fault has stopped it. -/
def Cmd.moves (k : Cmd) : Bool := k.base.isSome && k.checked && !k.stopped

/-- From a web cycle in which the region has no pulses, a command keeps account of the slots that its groups would have had (07
R141). -/
def Core.markFrozen (c : Core) : Core :=
  { c with cmds := c.cmds.map fun k =>
      if k.stopped || k.ideal.isSome then k else { k with ideal := some (k.lastSlot.getD (384, 0)) } }

/-- Once no command is left that a freeze may have delayed, the slots that groups would have had are of no account. -/
def Core.dropIdeals (c : Core) : Core := if c.cmds.any (·.ideal.isSome) then c else { c with idealSlots := [] }

/-! ## What is due -/

/-- The cycle of beat n has passed, by its row, and it has not been taken: its addresses have come to lead to memory of another kind (05
R104; assumption 91). -/
def State.beatLate (s : State) (k : Cmd) (b n : Nat) : Bool :=
  let c := s.core
  !k.took.contains n && match c.row k n with
    | .local_ => decide (k.localBase + n < c.cyc + 2)
    | .quireSrc => decide (b + 8 + n + k.stall < c.cyc)
    | .staging => decide (b + 44 + n < c.cyc)
    | .quireDst => decide (b + 4 + n < c.cyc) && !k.feltWait.contains n
    | .remote | .hbm => false

/-- The first such beat at or after n, among m beats. -/
def State.lateFrom (s : State) (k : Cmd) (b : Nat) : Nat → Nat → Option Nat
  | 0, _ => none
  | m + 1, n => if s.beatLate k b n then some n else State.lateFrom s k b m (n + 1)

/-- The beat that is taken at once, one in a cycle, because its cycle has passed (05 R104; assumption 91). -/
def State.lateBeat (s : State) (k : Cmd) : Option Nat :=
  if !k.shifted then none
  else match k.base with
    | none => none
    | some b => s.lateFrom k b k.beats 0

/-- Beat n of a command is due in this cycle, under its row (07 R131). -/
def State.beatDue (s : State) (k : Cmd) (n : Nat) : Option Row :=
  match k.base with
  | none => none
  | some b =>
    let c := s.core
    if k.stopped ∨ !k.checked ∨ k.beats ≤ n ∨ k.took.contains n then none
    else
      let r := c.row k n
      let due := match r with
        | .local_ => c.cyc + 2 == k.localBase + n
        | .quireSrc => c.cyc == b + 8 + n + k.stall
        | .staging => c.cyc == b + 44 + n
        | .quireDst => c.cyc == b + 4 + n || k.feltWait.contains n
        | .remote => c.cyc + (if s.inFabric then 2 else 0) == b + 4 + n
        | .hbm => s.groupDue k && c.hbmBeat k == some n
      if due || s.lateBeat k == some n then some r else none

/-- A copy or overlay beat, or the group that begins with it, is taken by the engine in this cycle (07 R131). -/
def execCopyBeat (id n : Nat) (s : State) : Out :=
  match s.core.cmd id with
  | none => .fault .notDue
  | some k =>
    match s.beatDue k n with
    | none => .fault .notDue
    | some .local_ => .next (s.transfer k n 2)
    | some .quireSrc => .next (s.quireSource k n)
    | some .staging => .next (s.stagingBeat k n)
    | some .quireDst => .next (s.quireBeat k n)
    | some .remote => .next (s.remoteBeat k n)
    | some .hbm => .next (s.chooseGroup k n)

/-- The events of a command that are due in this region cycle; its HBM groups follow the web's cycles. -/
def State.cmdEvents (s : State) (k : Cmd) : List Instr :=
  if k.stopped then []
  else if k.raw.isNone then (if k.start ≤ s.core.cyc then [.copyCommandStart k.id] else [])
  else if !k.checked then (if k.start + 1 ≤ s.core.cyc then [.copyCommandStart k.id] else [])
  else match k.base with
    | none => if s.core.waitsToLoad k then [.copyCommandStart k.id] else []
    | some b =>
      let t := s.core.cyc
      let near := [(t + 2, k.localBase), (t, b + 8 + k.stall), (t, b + 44), (t, b + 4), (t + 2, b + 4)].filterMap fun x =>
        if x.2 ≤ x.1 ∧ x.1 - x.2 < k.beats then some (x.1 - x.2) else none
      (distinct (k.feltWait.take 1 ++ (s.lateBeat k).toList ++ near)).filterMap fun n =>
        match s.beatDue k n with
        | none => none
        | some .hbm => none
        | some _ => some (.copyBeat k.id n)

/-- The HBM group of a command that is chosen in this web cycle (07 R131, 21 R380). -/
def State.groupEvent (s : State) (k : Cmd) : Option Instr :=
  if !k.moves || !s.groupDue k then none
  else (s.core.hbmBeat k).map fun n => .copyBeat k.id n

/-! ## Channel slots -/

/-- The write data of a group: the scratchpad as visible at s−8 (07 R131). -/
def State.slotData (s : State) (off : Nat) : BitVec 512 × State :=
  let (m, s) := s.webImage 8
  (s.core.padData m off, s)

/-- Bytes from the slot's start to the landing of block position 0 (05 R93). -/
def State.hbmLatency (s : State) (ch : Nat) : Nat := if ch / 16 = s.core.sheet.toNat then 160 else 184

/-- A read group: each beat is read now and lands later (05 R93, R94). -/
def State.readGroup (s : State) (ch id : Nat) (gs : List GroupBeat) : State :=
  let wm := (s.core.cmd id).bind s.core.localWm
  { s with arriving := s.arriving ++ gs.map fun g =>
      (s.web + s.hbmLatency ch + g.pa % 256 / 64,
       ({ due := 0, port := 0, place := g.place
          data := if g.bad.isSome then poison512 else if g.zeros then 0 else BitVec.ofNat 512 (Memory.readNat s.hbm g.pa 64)
          cmd := some (id, g.n), wm := wm, wms := none, bad := g.bad, atm := none, ents := g.ents } : EngWrite)) }

/-- A beat of a write group performs now: its core counts it, raises its word and takes the fault of a poisoned source when that
has crossed (05 R94, 07 R131, R135, 20 R362, 21 R382). -/
def State.writeBeat (id : Nat) (s : State) (g : GroupBeat) : State :=
  let off := match g.place with
    | .pad o => o
    | _ => 0
  let (x, s) := s.slotData off
  let k := s.core.cmd id
  let bad := if s.core.padPoisoned off 64 then k.map fun k => { poisonFault .read (k.beatSrc g.n) with word := k.word } else none
  let w : EngWrite := { due := 0, port := 6, place := .away, data := 0, cmd := some (id, g.n), wm := k.bind s.core.localWm, wms := none,
                        bad := bad, atm := none, ents := g.ents }
  { s with hbm := Memory.writeNat s.hbm g.pa 64 x.toNat, core := { s.core with acted := true }, arriving := s.arriving ++ [(s.web, w)] }

/-- A write group: each beat performs now (05 R94, 07 R131). -/
def State.writeGroup (id : Nat) (gs : List GroupBeat) (s : State) : State := gs.foldl (State.writeBeat id) s

/-- An HBM atomic performs: one read-modify-write; its old value lands later (17 R318). -/
def State.hbmAtom (s : State) (ch seq : Nat) (e : Eff) : State :=
  match e with
  | .atmHbm op i64 pa ent x cmp =>
    let n := if i64 then 8 else 4
    let w := 8 * n
    let old := Memory.readNat s.hbm pa n
    let new := atomicNew op w old (x.toNat % 2 ^ w) (cmp.toNat % 2 ^ w)
    { s with
      hbm := Memory.writeNat s.hbm pa n new
      core := { (s.core.pend ent.toNat false) with acted := true, scntWeb := s.web :: s.core.scntWeb }
      agenda := s.agenda ++ [(s.web + s.hbmLatency ch, .remoteAtmReturn seq (BitVec.ofNat 64 old))] }
  | .atmPoison i64 _ i =>
    let t := s.web + s.hbmLatency ch
    let w : EngWrite := { due := 0, port := 0, place := .away, data := 0, cmd := none, wm := none, wms := none, bad := some i,
                          atm := none, ents := [] }
    { s with
      core := { s.core with scntWeb := s.web :: s.core.scntWeb }
      arriving := s.arriving ++ [(t, w)]
      agenda := s.agenda ++ [(t, .remoteAtmReturn seq (poisonOld i64))] }
  | _ => s

/-- The slot that a moved group takes: the first one after a web cycle that the core owns in its direction and nothing holds, one
that heat leaves when there is any (07 R142, 22 R397). -/
def State.nextOwn (s : State) (h : SlotHold) (after : Nat) : Nat :=
  let own := fun w => s.ownsHbm h.channel h.write (w / Config.slotCycles) && !s.core.slotHeld h.channel w
  let lo := (after / Config.slotCycles + 1) * Config.slotCycles
  match firstSlot (fun w => own w && !s.withheld h.channel h.write (w / Config.slotCycles)) 1536 lo with
  | some w => w
  | none => (firstSlot own (512 * (s.core.slotsHeld.length + s.core.usedSlots.length + 2)) lo).getD lo

/-- A group moves to another slot: one slip for a move that heat causes; one that a frozen region causes makes its beats late when they
perform (07 R141, R142). -/
def State.moveGroup (s : State) (h : SlotHold) (new : Nat) (heat : Bool) : State :=
  let s := s.slips (b2n heat)
  let first := !heat && h.ideal.isNone && h.grp.isSome
  let c := { s.core with
    idealSlots := if first then (h.channel, h.start) :: s.core.idealSlots else s.core.idealSlots
    slotsHeld := s.core.slotsHeld.map fun x =>
      if x = h then { h with start := new, ideal := if first then some h.start else h.ideal } else x }
  { s with core := match h.grp with
    | some (id, _) => c.setCmd id fun k => if k.lastSlot = some (h.channel, h.start) then { k with lastSlot := some (h.channel, new) } else k
    | none => c }

/-- The later groups of the core on the channel move behind a moved one, in order (07 R142). -/
def State.moveBehind (heat : Bool) : List SlotHold → Nat → State → State
  | [], _, s => s
  | h :: t, last, s =>
    if last < h.start then State.moveBehind heat t h.start s
    else
      let new := s.nextOwn h last
      State.moveBehind heat t new (s.moveGroup h new heat)

/-- A slot of a channel carries an access, or is lost: nothing else takes it (05 R94). -/
def Core.useUp (c : Core) (ch start : Nat) : Core := { c with usedSlots := (ch, start) :: c.usedSlots }

/-- A slot of this core is lost, to heat or to a frozen region: its group and the later ones move (07 R141, R142), and a slot lost
to heat goes to the thermal log (22 R397).  An atomic that loses its slot moves alone (assumption 92). -/
def State.loseSlot (s : State) (h : SlotHold) (heat : Bool) : State :=
  let log := (BitVec.ofNat 64 (h.channel + h.start / Config.slotCycles % 512 * 2 ^ 16
      + s.physCore * 2 ^ 32), BitVec.ofNat 64 (h.start / 4608))
  let s := if heat then { s with dev := { s.dev with thlog := (log :: s.dev.thlog).take 256, thlogN := s.dev.thlogN + 1 } } else s
  let s := { s with core := s.core.useUp h.channel h.start }
  let later := (s.core.slotsHeld.filter fun x => h.grp.isSome && !x.best && x.channel == h.channel && x.grp.isSome && decide (h.start < x.start)).foldl
    (fun l x => insertBy (fun (a b : SlotHold) => decide (a.start ≤ b.start)) x l) []
  let new := s.nextOwn h h.start
  State.moveBehind heat later new (s.moveGroup h new heat)

/-- What holds a slot, or has been given one, performs (05 R94); each beat that a freeze has delayed counts one slip (07 R141). -/
def State.performHold (s : State) (h : SlotHold) : State :=
  let beats := match h.grp with
    | some (_, gs) => gs.length
    | none => 0
  let s := s.slips (if h.ideal.any fun i => decide (i < s.web) then beats else 0)
  let s := { s with core := { (s.core.useUp h.channel s.web) with slotsHeld := s.core.slotsHeld.filter fun x => !(x == h) } }
  match h.grp, h.atm with
  | some (id, gs), _ => if h.write then s.writeGroup id gs else s.readGroup h.channel id gs
  | none, some e => s.hbmAtom h.channel h.seq e
  | none, none => s

/-- A held slot is withheld by heat at its start: it carries nothing (22 R397). -/
def State.slotWithheld (s : State) (h : SlotHold) : Bool :=
  s.withheld h.channel h.write (h.start / Config.slotCycles)

/-- A held slot comes to its start: its access is performed, unless the slot is withheld or the region is frozen (05 R94, 07 R141,
R142). -/
def State.useSlot (s : State) (h : SlotHold) : State :=
  if s.slotWithheld h then s.loseSlot h true
  else if s.region.still ∧ h.grp.isSome then s.loseSlot h false
  else s.performHold h

/-- A held slot carries its access at its start: one of a DISCARD group carries none (05 R92, R100). -/
def State.slotCarries (s : State) (h : SlotHold) : Bool :=
  !s.slotWithheld h && match h.grp with
    | some (_, gs) => !s.region.still && !gs.all (·.zeros)
    | none => true

/-! ## Best effort -/

/-- The most other partitions there can be: each has one of the 96 regions that are not this partition's (05 R89, 19 R340). -/
def State.otherPartitions (s : State) : Nat :=
  ((List.range 96).filter fun q => bitAt (Tab.get 0 s.dev.rmap q) 52).length

/-- The slots of a channel that no partition owns in a revolution, 16 at least: those that this partition does not own, less those that
other partitions own, which only they know (19 R341; assumption 2). -/
def State.unassigned (s : State) (ch : Nat) : List Nat :=
  let idle := s.slotsWith ch fun x => !bitAt x 15
  let left := if s.otherPartitions = 0 then idle else idle.filter fun k => (Config.idleOwned ch (s.web / 4608)).testBit k
  if left.length < 16 then idle.take 16 else left

/-- Slot k of a channel, which starts now, serves best effort: a thermal-reserve slot that refresh does not
claim; an owned slot that heat leaves and whose owner presents no request; an unassigned slot that heat leaves.  What other cores
present in their slots, those of other partitions among them, is free (05 R92, R100, 19 R341, R352, 22 R397; assumption 2). -/
def State.servesBest (s : State) (ch k : Nat) (carried : Bool) : Bool × State :=
  let e := s.hbmEntry ch k
  let free := let (x, s) := s.drawBelow 2; ((x == 1, s) : Bool × State)
  if k % 32 = 31 ∨ carried then (false, s)
  else if k % 32 = 15 then (s.heatOf ch == 0, s)
  else if !bitAt e 15 then
    let open_ := s.unassigned ch
    if open_.contains (k % 512) then (!s.heatTakes ch open_ k, s) else free
  else if s.heatTakes ch (s.slotsWith ch fun x => x == e) k then (false, s)
  else if e.toNat % 2 ^ 11 = s.core.tix.toNat then (true, s)
  else free

/-- The most requesters that can be served before this core: the other cores of its partition, those of other partitions, and the
mill cores (19 R352). -/
def State.otherRequesters (s : State) : Nat := s.part.cores.toNat + 16 * s.otherPartitions + 1

/-- Whether this core is served in a slot that serves best effort while it has a request pending there: partitions take turns from
the one after the partition served last, and within a partition its cores in the same way; which of those before this one have
requests pending is free, the mill cores after the 96 partitions among them.  No more are served before this core than there are
other requesters (19 R342, R352; assumption 2). -/
def State.takesTurn (s : State) (t : Turn) : Bool × Turn × State :=
  let mine := s.part.number.toNat % 96
  let m := s.otherPartitions
  let before := if t.left = 0 ∨ t.most = 0 then []
    else ((List.range ((mine + 96 - t.part) % 97)).map fun i => (t.part + 1 + i) % 97).filter fun p => m != 0 || p == 96
  let (k, s) := s.drawBelow (before.length + 1)
  match before[k]? with
  | some p => (false, { t with part := p, left := t.left - 1, most := t.most - 1 }, s)
  | none =>
    let n := s.part.cores.toNat + 1
    let before := if t.most = 0 then 0 else (s.core.tix.toNat + n - 1 - t.core % n) % n
    let (j, s) := s.drawBelow (before + 1)
    let t := { t with part := mine, left := m + 1 }
    if j = before then (true, { t with core := s.core.tix.toNat, most := s.otherRequesters }, s)
    else (false, { t with core := (t.core + 1 + j) % n, most := t.most - 1 }, s)

/-- The best-effort request of this core on a channel that is presented first, when one is pending; a frozen region presents none
for its groups (19 R342, 07 R141; assumption 79). -/
def State.request (s : State) (ch : Nat) : Option SlotHold :=
  s.core.slotsHeld.find? fun h => h.best && h.channel == ch && decide (h.start ≤ s.web) && (!s.region.still || h.grp.isNone)

/-- Whose turn it is on a channel in a slot that starts now; before the first request there it is free (19 R342; assumption 2). -/
def State.turnOn (s : State) (ch : Nat) : Turn × State :=
  match s.core.turn.find? fun t => t.channel == ch with
  | some t =>
    (t, s)
  | none =>
    let (p, s) := s.drawBelow 97
    let (c, s) := s.drawBelow (s.part.cores.toNat + 1)
    ({ channel := ch, part := p, core := c, web := s.web, left := s.otherPartitions + 1, most := s.otherRequesters }, s)

/-- The best-effort request of a group that a frozen region keeps back (07 R141). -/
def State.keptRequest (s : State) (ch : Nat) : Option SlotHold :=
  if s.region.still then s.core.slotsHeld.find? fun h => h.best && h.channel == ch && decide (h.start ≤ s.web) && h.ideal.isNone else none

/-- A slot that would have served such a request: the group is late by it (07 R141; assumption 122). -/
def State.missBest (s : State) (ch : Nat) (carried : Bool) : State :=
  match s.keptRequest ch with
  | none => s
  | some h =>
    if s.core.turn.any fun t => t.channel == ch && t.web == s.web then s
    else
      let (t, s) := s.turnOn ch
      let (best, s) := s.servesBest ch (s.web / Config.slotCycles) carried
      let (mine, _, s) := if best then s.takesTurn t else (false, t, s)
      let rest := s.core.turn.filter fun x => x.channel != ch
      { s with core := { s.core with
          turn := { t with web := s.web } :: rest
          slotsHeld := if mine then s.core.slotsHeld.map fun x => if x = h then { h with ideal := some s.web } else x else s.core.slotsHeld } }

/-- A slot of a channel may serve a best-effort request of this core, or of another requester, which uses it up (05 R92, R94, 19
R342). -/
def State.serveBest (s : State) (ch : Nat) (carried : Bool) : State :=
  match s.request ch with
  | none => s.missBest ch carried
  | some h =>
    if s.core.turn.any fun t => t.channel == ch && t.web == s.web then s
    else
      let (t, s) := s.turnOn ch
      let (best, s) := s.servesBest ch (s.web / Config.slotCycles) carried
      let (mine, t, s) := if best then s.takesTurn t else (false, t, s)
      let s := if mine then
          let c := match h.grp with
            | some (id, _) => s.core.setCmd id fun k => { k with
                lastSlot := some (ch, s.web), waits := false, ideal := k.ideal.map fun _ => (ch, h.ideal.getD s.web) }
            | none => s.core
          State.performHold { s with core := c } h
        else if best then { s with core := s.core.useUp ch s.web }
        else s
      let rest := s.core.turn.filter fun x => x.channel != ch
      { s with core := { s.core with turn := { t with web := s.web } :: rest } }

/-- Channels on which this core no longer has a best-effort request have no turn to keep. -/
def Core.dropTurns (c : Core) (web : Nat) : Core :=
  { c with turn := c.turn.filter fun t => t.web == web || c.slotsHeld.any fun h => h.best && h.channel == t.channel }

/-- A slot of a channel starts: what this core holds there is performed, or a request of this core for a best-effort slot when
it is its turn; a refresh slot does nothing (05 R91 to R95). -/
def execHbmSlot (ch : BitVec 9) (s : State) : Out :=
  if s.web % Config.slotCycles ≠ 0 ∨ 384 ≤ ch.toNat then .fault .notDue
  else
    let mine := s.core.slotsHeld.filter fun h => !h.best && h.channel == ch.toNat && h.start == s.web
    .next ((mine.foldl State.useSlot s).serveBest ch.toNat (mine.any s.slotCarries))

/-! ## The overlay image -/

/-- One step of CRC-32 by bits: reflected, polynomial 0x04C11DB7 (08 R144; the polynomial is that of the standard the
spec names, assumption 10). -/
def crcBit (x : BitVec 32) : BitVec 32 := if x.toNat % 2 = 1 then (x >>> 1) ^^^ 0xEDB88320 else x >>> 1

/-- CRC-32 after one more byte. -/
def crcByte (x : BitVec 32) (b : Byte) : BitVec 32 :=
  (List.range 8).foldl (fun x _ => crcBit x) (x ^^^ BitVec.ofNat 32 b.toNat)

/-- The CRC-32 of IEEE 802.3 over some bytes (08 R144). -/
def crc32 (bs : List Byte) : BitVec 32 := ~~~(bs.foldl crcByte 0xFFFFFFFF)

/-- Byte j of the stream, or of the CRC after it (08 R146). -/
def Cmd.streamByte (k : Cmd) (j : Nat) : Byte :=
  let p := k.from_ + j
  let blk := if k.ring ∧ k.rsize = 64 then 0 else p / 64 - k.from_ / 64
  match k.fetched.find? fun x => x.1 == blk with
  | some (_, d) => elem d 8 (p % 64)
  | none => 0

/-- The bits set in a mask byte, in rising order (08 R144). -/
def maskSlots (m : Byte) : List Nat := (List.range 8).filter fun i => bitAt m i

/-- A bundle from a packet's words (08 R144). -/
def packetBundle (slots : List Nat) (word : Nat → Nat) : Bundle :=
  BitVec.ofNat 256 ((slots.zipIdx.map fun x => word x.2 * 2 ^ (32 * x.1)).foldl (· + ·) 0)

/-- Parse a stream from byte i: the bundles of its complete packets, and the cause of a framing failure (08 R144, R145). -/
def Cmd.parse (k : Cmd) : Nat → Nat → Nat → List Bundle × Nat
  | 0, _, _ => ([], 0)
  | f + 1, i, at_ =>
    if k.len ≤ i then ([], 0)
    else
      let ss := maskSlots (k.streamByte i)
      if k.len - i - 1 < 4 * ss.length then ([], 1)
      else if 1023 < at_ then ([], 2)
      else
        let word := fun w => elemsNat 8 (fun j => (k.streamByte (i + 1 + 4 * w + j)).toNat) 4
        let r := Cmd.parse k f (i + 1 + 4 * ss.length) (at_ + 1)
        (packetBundle ss word :: r.1, r.2)

/-- The bundles of an image and the cause of its failure, 0 for none (08 R145). -/
def Cmd.image (k : Cmd) : List Bundle × Nat :=
  let (bs, cause) := k.parse (k.len + 1) 0 k.dstb
  let stored := elemsNat 8 (fun j => (k.streamByte (k.len + j)).toNat) 4
  if cause = 0 ∧ (crc32 ((List.range k.len).map k.streamByte)).toNat ≠ stored then (bs, 3) else (bs, cause)

/-- The finish F of an overlay whose last beat has performed (08 R149). -/
def Cmd.finishAt (k : Cmd) : Nat :=
  Nat.max k.fetchEnd ((k.began.getD 0) + 4 + k.image.1.length) + 2

/-- Write bundles to consecutive indices of a half (08 R144). -/
def writeBundles (t : Tab Bundle) (base : Nat) : List Bundle → Tab Bundle
  | [] => t
  | b :: bs => writeBundles (Tab.put 0 t base b) (base + 1) bs

/-- An overlay finishes at F: its bundles are in the idle half, all of them from F on (assumption 104), and are poisoned no more; STATE,
CAUSE, NB and FS are set, and the next overlay begins (08 R149, 21 R382). -/
def execOverlayFinish (id : Nat) (s : State) : Out :=
  match s.core.cmd id with
  | none => .fault .notDue
  | some k =>
    match k.finish with
    | none => .fault .notDue
    | some f =>
      if k.stopped ∨ s.core.cyc < f then .fault .notDue
      else
        let (bs, cause) := k.image
        let c := s.core
        let c := { c with
          istore := writeBundles c.istore (1024 * k.half.toNat + k.dstb) bs
          poison := let first := 2 ^ 22 + 1024 * k.half.toNat + k.dstb
            c.poison.filter fun g => !decide (first ≤ g ∧ g < first + bs.length)
          cmds := c.cmds.filter fun x => x.id != id
          ovlEnd := f
          ovs := { nb := BitVec.ofNat 11 bs.length, cause := BitVec.ofNat 4 cause, fs := c.ovs.fs || cause != 0
                   st := if cause = 0 then 2 else 3 } }
        let s := { s with core := c }
        match c.firstOvl with
        | some n =>
          let s := s.beginLoad n
          .next (if n.checked then { s with core := s.core.planCmd n s.core.cyc } else s)
        | none => .next s

/-- After the engine's work of a cycle: a copy whose beats have all performed is no longer outstanding, and an overlay
whose last beat has performed gets its finish (07 R130, 08 R149). -/
def Core.retire (c : Core) : Core :=
  let full := fun (k : Cmd) => k.checked && !k.stopped && k.done.length == k.beats
  { c with
    cmds := (c.cmds.filter fun k => k.ovl || !full k).map fun k =>
      if k.ovl && full k && k.finish.isNone then { k with finish := some k.finishAt } else k }

end Sys2Proof.Machine
end

