-- ==== Sys2Proof/Machine/Flags.lean ====
section
/-! DEFINITION. The bits of `fstat`, and numbers with the flags they raise (04 R64, R65). -/

namespace Sys2Proof.Machine

/-- A set of `fstat` bits. -/
abbrev FFlags := BitVec 9

/-- NV, invalid (04 R64). -/
def nvFlag : FFlags := 0x001
/-- DZ, divide-by-zero. -/
def dzFlag : FFlags := 0x002
/-- OF, overflow. -/
def ofFlag : FFlags := 0x004
/-- UF, underflow. -/
def ufFlag : FFlags := 0x008
/-- NX, inexact. -/
def nxFlag : FFlags := 0x010
/-- SPR, a reserved SP32 encoding was read. -/
def sprFlag : FFlags := 0x020
/-- XLL, a contribution to an EXA tile lost bits below its window. -/
def xllFlag : FFlags := 0x040
/-- MSS, missed scale. -/
def mssFlag : FFlags := 0x080
/-- WCBE, a malformed weight-compressed block. -/
def wcbeFlag : FFlags := 0x100

/-- A flag raised under a condition. -/
def flagIf (b : Bool) (f : FFlags) : FFlags := if b then f else 0

/-- The flags of a list, ORed (04 R65). -/
def orFlags : List FFlags → FFlags
  | [] => 0
  | f :: t => f ||| orFlags t

/-- A result in bits, with the flags it raises. -/
structure Flagged where
  v : Nat
  f : FFlags
deriving DecidableEq, Repr

/-- A result that raises no flag. -/
def quiet (v : Nat) : Flagged := { v := v, f := 0 }

end Sys2Proof.Machine
end

