-- ==== Sys2Proof/Machine/Float.lean ====
section
/-! DEFINITION. Floating-point numbers as exact dyadics, and the rounding of an exact value into a format (03 R59,
04 R60 to R63, R67, R86). -/

namespace Sys2Proof.Machine

/-- A floating-point format: precision with the hidden bit, and exponent bits (04 R60). -/
structure Fmt where
  p : Nat
  eb : Nat
deriving DecidableEq, Repr

/-- FP32 (04 R60). -/
def fp32 : Fmt := { p := 24, eb := 8 }
/-- BF16 (04 R60). -/
def bf16 : Fmt := { p := 8, eb := 8 }
/-- FP16 (04 R60). -/
def fp16 : Fmt := { p := 11, eb := 5 }

/-- The formats by their type code: 0 FP32, 1 BF16, 2 FP16 (03 R50). -/
def fmtOf (t : Nat) : Fmt :=
  match t with
  | 1 => bf16
  | 2 => fp16
  | _ => fp32

/-- The exponent bias (04 R60). -/
def Fmt.bias (f : Fmt) : Nat := 2 ^ (f.eb - 1) - 1

/-- The exponent of the last place of a subnormal (04 R60). -/
def Fmt.qmin (f : Fmt) : Int := 2 - (f.bias : Int) - f.p

/-- The sign bit as a number. -/
def Fmt.signBit (f : Fmt) (neg : Bool) : Nat := if neg then 2 ^ (f.p - 1 + f.eb) else 0

/-- +∞ (04 R60). -/
def Fmt.inf (f : Fmt) : Nat := (2 ^ f.eb - 1) * 2 ^ (f.p - 1)

/-- The canonical NaN (04 R60). -/
def Fmt.nan (f : Fmt) : Nat := f.inf + 2 ^ (f.p - 2)

/-- A value: NaN, an infinity, or (−1)^neg·m·2^e exactly; zeros have m = 0. -/
inductive Fp where
  | nan
  | inf (neg : Bool)
  | num (neg : Bool) (m : Nat) (e : Int)
deriving DecidableEq, Repr

/-- The value of a word in a format (04 R60, R61). -/
def Fmt.decode (f : Fmt) (x : Nat) : Fp :=
  let frac := x % 2 ^ (f.p - 1)
  let ex := x / 2 ^ (f.p - 1) % 2 ^ f.eb
  let neg := x / 2 ^ (f.p - 1 + f.eb) % 2 == 1
  if ex = 2 ^ f.eb - 1 then (if frac = 0 then .inf neg else .nan)
  else if ex = 0 then .num neg frac f.qmin
  else .num neg (2 ^ (f.p - 1) + frac) (f.qmin + ex - 1)

/-- The value of an FP32 lane. -/
def fp32Of (x : Lane32) : Fp := fp32.decode x.toNat

/-- Whether a magnitude that lies between r and r + 1 (r with remainder rem of den) rounds up in a direction:
0 RNE, 1 RTZ, 2 RUP, 3 RDN (03 R59). -/
def roundsUp (mode : Nat) (neg : Bool) (r rem den : Nat) : Bool :=
  match mode with
  | 0 => decide (den < 2 * rem) || (decide (2 * rem = den) && r % 2 == 1)
  | 1 => false
  | 2 => decide (0 < rem) && !neg
  | _ => decide (0 < rem) && neg

/-- The magnitude m·2^e in units of 2^q, rounded to an integer, and whether it was inexact. -/
def roundUnits (mode : Nat) (neg : Bool) (m : Nat) (e q : Int) : Nat × Bool :=
  if q ≤ e then (m * 2 ^ (e - q).toNat, false)
  else
    let den := 2 ^ (q - e).toNat
    let r := m / den
    let rem := m % den
    (if roundsUp mode neg r rem den then r + 1 else r, decide (rem ≠ 0))

/-- The exponent of a nonzero magnitude m·2^e: the floor of its base-2 logarithm. -/
def magExp (m : Nat) (e : Int) : Int := e + Nat.log2 m

/-- Overflow gives infinity where the direction runs away from zero, else the largest finite value (03 R59). -/
def overflowAway (mode : Nat) (neg : Bool) : Bool :=
  match mode with
  | 0 => true
  | 1 => false
  | 2 => !neg
  | _ => neg

/-- Round of a nonzero exact value into a format (03 R59). -/
def Fmt.roundNum (f : Fmt) (mode : Nat) (neg : Bool) (m : Nat) (e : Int) : Flagged :=
  let sb := f.signBit neg
  let q0 := magExp m e - (f.p - 1)
  let tiny := decide (q0 < f.qmin)
  let q := if tiny then f.qmin else q0
  let (r, nx) := roundUnits mode neg m e q
  let bits := (q - f.qmin).toNat * 2 ^ (f.p - 1) + r
  if f.inf ≤ bits then
    { v := sb + (if overflowAway mode neg then f.inf else f.inf - 1), f := ofFlag ||| nxFlag }
  else { v := sb + bits, f := flagIf nx nxFlag ||| flagIf (tiny && nx) ufFlag }

/-- Round(x, fmt, m) of a value (03 R59); NaN gives the canonical NaN, and infinities and zeros stay. -/
def Fmt.round (f : Fmt) (mode : Nat) (x : Fp) : Flagged :=
  match x with
  | .nan => quiet f.nan
  | .inf neg => quiet (f.signBit neg + f.inf)
  | .num neg m e => if m = 0 then quiet (f.signBit neg) else f.roundNum mode neg m e

/-- Negation of a value. -/
def Fp.neg : Fp → Fp
  | .nan => .nan
  | .inf n => .inf !n
  | .num n m e => .num (!n) m e

/-- The exact product; true with NaN for 0 × ∞, which is invalid (13 R233, R234). -/
def Fp.mul (x y : Fp) : Fp × Bool :=
  match x, y with
  | .nan, _ => (.nan, false)
  | _, .nan => (.nan, false)
  | .inf a, .inf b => (.inf (a != b), false)
  | .inf a, .num b m _ => if m = 0 then (.nan, true) else (.inf (a != b), false)
  | .num a m _, .inf b => if m = 0 then (.nan, true) else (.inf (a != b), false)
  | .num a m e, .num b n f => (.num (a != b) (m * n) (e + f), false)

/-- A signed integer times a power of two as a value; zero takes the sign given. -/
def Fp.ofInt (i : Int) (e : Int) (zneg : Bool) : Fp := .num (if i = 0 then zneg else decide (i < 0)) i.natAbs e

/-- The signed significand of a finite value. -/
def signedMag (neg : Bool) (m : Nat) : Int := if neg then -(m : Int) else m

/-- The exact sum of two finite values: significand and exponent. -/
def exactSum (a : Bool) (m : Nat) (e : Int) (b : Bool) (n : Nat) (f : Int) : Int × Int :=
  let q := if e ≤ f then e else f
  (signedMag a (m * 2 ^ (e - q).toNat) + signedMag b (n * 2 ^ (f - q).toNat), q)

/-- The exact sum; true with NaN for (+∞) + (−∞), which is invalid.  `z` is the sign of an exactly zero sum of operands
that are not zeros of one sign (13 R233). -/
def Fp.add (z : Bool) (x y : Fp) : Fp × Bool :=
  match x, y with
  | .nan, _ => (.nan, false)
  | _, .nan => (.nan, false)
  | .inf a, .inf b => if a = b then (.inf a, false) else (.nan, true)
  | .inf a, .num .. => (.inf a, false)
  | .num .., .inf b => (.inf b, false)
  | .num a m e, .num b n f =>
    if m = 0 ∧ n = 0 then (.num (if a = b then a else z) 0 0, false)
    else
      let s := exactSum a m e b n f
      (Fp.ofInt s.1 s.2 z, false)

/-- Round a value that an exact operation gave, with NV where it was invalid. -/
def Fmt.finish (f : Fmt) (mode : Nat) (r : Fp × Bool) : Flagged :=
  let x := f.round mode r.1
  { x with f := x.f ||| flagIf r.2 nvFlag }

/-- The sign of an exactly zero sum of opposite operands in a mode: minus under RDN (13 R233). -/
def zeroSign (mode : Nat) : Bool := mode == 3

/-- a + b in FP32, rounded (13 R233). -/
def fadd32 (mode : Nat) (a b : Lane32) : Flagged :=
  fp32.finish mode (Fp.add (zeroSign mode) (fp32Of a) (fp32Of b))

/-- a − b in FP32, rounded (13 R233). -/
def fsub32 (mode : Nat) (a b : Lane32) : Flagged :=
  fp32.finish mode (Fp.add (zeroSign mode) (fp32Of a) (fp32Of b).neg)

/-- a × b in FP32, rounded (13 R233). -/
def fmul32 (mode : Nat) (a b : Lane32) : Flagged := fp32.finish mode (Fp.mul (fp32Of a) (fp32Of b))

/-- The fused form ±(a × b) ± c with one rounding (13 R234). -/
def fma32 (mode : Nat) (negProd negAdd : Bool) (a b c : Lane32) : Flagged :=
  let p := Fp.mul (fp32Of a) (fp32Of b)
  let prod := if negProd then p.1.neg else p.1
  let add := if negAdd then (fp32Of c).neg else fp32Of c
  let s := Fp.add (zeroSign mode) prod add
  fp32.finish mode (s.1, s.2 || p.2)

/-- A node sum of a reduction: an exactly zero sum is −0 only when both operands are −0 (04 R86). -/
def redAdd32 (mode : Nat) (a b : Lane32) : Flagged := fp32.finish mode (Fp.add false (fp32Of a) (fp32Of b))

/-- An FP32 word is a NaN (04 R60). -/
def isNan32 (x : Lane32) : Bool := decide (0x7F800000 < x.toNat % 2 ^ 31)

/-- The order of FP32 words that are no NaN, with −0 below +0 (13 R235). -/
def order32 (x : Lane32) : Int := if x.toNat < 2 ^ 31 then x.toNat else -((x.toNat % 2 ^ 31 : Nat) : Int) - 1

/-- The smaller operand, −0 below +0; a NaN gives the canonical NaN (13 R235). -/
def fmin32 (a b : Lane32) : Lane32 :=
  if isNan32 a || isNan32 b then 0x7FC00000 else if order32 a ≤ order32 b then a else b

/-- The larger operand, −0 below +0; a NaN gives the canonical NaN (13 R235). -/
def fmax32 (a b : Lane32) : Lane32 :=
  if isNan32 a || isNan32 b then 0x7FC00000 else if order32 a ≤ order32 b then b else a

/-- Bit 31 cleared; a NaN gives the canonical NaN (13 R235). -/
def fabs32 (a : Lane32) : Lane32 := if isNan32 a then 0x7FC00000 else a &&& 0x7FFFFFFF

/-- The numeric order with −0 equal to +0: the sign and magnitude as an integer (13 R236). -/
def value32 (x : Lane32) : Int := if x.toNat < 2 ^ 31 then x.toNat else -((x.toNat % 2 ^ 31 : Nat) : Int)

/-- The conditions of VFCMP: 0 eq, 1 ne, 2 lt, 3 ge, 4 le, 5 gt, 6 un, 7 ord (13 R236). -/
def fcmp32 (c : Nat) (a b : Lane32) : Bool × FFlags :=
  let un := isNan32 a || isNan32 b
  let x := value32 a
  let y := value32 b
  let r := match c with
    | 0 => !un && decide (x = y)
    | 1 => un || decide (x ≠ y)
    | 2 => !un && decide (x < y)
    | 3 => !un && decide (y ≤ x)
    | 4 => !un && decide (x ≤ y)
    | 5 => !un && decide (y < x)
    | 6 => un
    | _ => !un
  (r, flagIf (un && decide (2 ≤ c ∧ c ≤ 5)) nvFlag)

/-- The range of an integer type of w bits (04 R67). -/
def intRange (w : Nat) (uns : Bool) : Int × Int :=
  if uns then (0, 2 ^ w - 1) else (-(2 ^ (w - 1)), 2 ^ (w - 1) - 1)

/-- Round to an integer type with saturation: NaN gives 0, and NaN and saturation raise NV; NX when an unsaturated result
is inexact (13 R241, 04 R67). -/
def toIntW (mode w : Nat) (uns : Bool) (x : Fp) : Flagged :=
  let (lo, hi) := intRange w uns
  match x with
  | .nan => { v := 0, f := nvFlag }
  | .inf neg => { v := ((if neg then lo else hi) % 2 ^ w).toNat, f := nvFlag }
  | .num neg m e =>
    let (r, nx) := roundUnits mode neg m e 0
    let i := signedMag neg r
    if i < lo then { v := (lo % 2 ^ w).toNat, f := nvFlag }
    else if hi < i then { v := (hi % 2 ^ w).toNat, f := nvFlag }
    else { v := (i % 2 ^ w).toNat, f := flagIf nx nxFlag }

/-- The value of an integer word of w bits (04 R67). -/
def intValue (w : Nat) (uns : Bool) (x : Nat) : Int :=
  if uns || decide (x % 2 ^ w < 2 ^ (w - 1)) then ((x % 2 ^ w : Nat) : Int) else ((x % 2 ^ w : Nat) : Int) - 2 ^ w

/-- A floating-point lane as a word. -/
def Flagged.lane (x : Flagged) : Lane32 := BitVec.ofNat 32 x.v

end Sys2Proof.Machine
end

