-- ==== Sys2Proof/Machine/Web.lean ====
section
/-! DEFINITION. The web, receive queues and ream links: SEND, CHB, CHU, the slots of the core's pairs and of the gateway,
what arrives, and the state of a link (10 R171 to R191, 17 R312, R318). -/

namespace Sys2Proof.Machine

/-! ## SEND, CHB, CHU -/

/-- The capability fault, which names the capability (10 R183, R184, 21 R376). -/
def capFault (cap : BitVec 8) : FaultInfo :=
  { FaultInfo.plain .capability 7 with va := BitVec.ofNat 48 cap.toNat }

/-- An entry of the capability table (10 R174). -/
def Core.cap (c : Core) (cap : BitVec 8) : BitVec 64 := Tab.get 0 c.caps cap.toNat

/-- A ream link. -/
def State.link_ (s : State) (lk : BitVec 4) : Link := s.links[lk.toNat]

/-- Change a ream link. -/
def State.setLink (s : State) (lk : BitVec 4) (f : Link → Link) : State :=
  { s with links := s.links.set lk.toNat (f s.links[lk.toNat]) }

/-- A capability does not permit a SEND (10 R183). -/
def State.sendBarred (s : State) (cap : BitVec 8) : Bool :=
  let e := s.core.cap cap
  let kind := (bitsAt e 60 3).toNat
  !bitAt e 63 || (kind != 0 && kind != 2) || !bitAt e 59
    || (kind == 2 && (s.link_ (bitsAt e 18 4)).st == .down) || (kind == 0 && !s.namesCore e)

/-- A message is sent through a capability, or gated (10 R183). -/
def State.sendOut (s : State) (cap : BitVec 8) (line : Bool) (data : Line) : Out :=
  let e := Eff.send cap line data
  if s.blocked e then .next (s.hold .queueCap)
  else if s.capOutside (s.core.cap cap) then .next (s.takePrecise (capViolation cap .write))
  else if s.sendBarred cap then .next (s.takePrecise (capFault cap))
  else .next (s.enact 7 e)

/-- SEND of a scalar (10 R183). -/
def execSend (g : BitVec 4) (c : BitVec 8) (n : BitVec 5) (s : State) : Out :=
  guarded g s fun s => s.sendOut c false (BitVec.ofNat 1024 (s.core.r.readA n).toNat)

/-- SEND of a line (10 R183). -/
def execSendLine (g : BitVec 4) (c : BitVec 8) (v : BitVec 4) (s : State) : Out :=
  guarded g s fun s => s.sendOut c true (s.core.r.readV v)

/-- A head cannot be bound through a capability (10 R184). -/
def Core.bindBarred (c : Core) (cap : BitVec 8) (h : BitVec 2) : Bool :=
  let e := c.cap cap
  !bitAt e 63 || (bitsAt e 60 3).toNat != 1 || !bitAt e 58 || (c.heads[h.toNat]).isSome
    || c.heads.toList.any (· == some (bitsAt e 45 5))

/-- CHB: bind a head to a local queue, after the bundle's POP mask (10 R184). -/
def execChb (g : BitVec 4) (c : BitVec 8) (h : BitVec 2) (s : State) : Out :=
  guarded g s fun s =>
    if s.core.bindBarred c h then .next (s.takePrecise (capFault c))
    else .next { s with core := { s.core with heads := s.core.heads.set h.toNat (some (bitsAt (s.core.cap c) 45 5)) } }

/-- CHU: unbind a head, after the bundle's POP mask (10 R185). -/
def execChu (g : BitVec 4) (h : BitVec 2) (s : State) : Out :=
  guarded g s fun s => .next { s with core := { s.core with heads := s.core.heads.set h.toNat none } }

/-! ## Room in a receive queue -/

/-- A flit bound for a receive queue of the core. -/
def flitFor (f : Flit) (q : Nat) : Bool :=
  match f.body with
  | .msg qn .. => qn.toNat == q
  | _ => false

/-- Entries of queue q: its messages, popped ones included, the first flits of lines, what has been pushed, and what has
entered at the start of its slot and is on its way (10 R177, R179). -/
def State.queueCount (s : State) (q : Nat) : Nat :=
  let c := s.core
  let size := fun (m : Msg) => if m.line then 2 else 1
  let held := match c.rq[q]? with
    | some r => (r.msgs.map size).foldl (· + ·) 0 + r.partials.length
    | none => 0
  held + ((c.pushes.filter fun p => p.2.2.1.toNat == q).map fun p => size p.2.2.2).foldl (· + ·) 0
    + (s.core.inbound.map fun x => match x.item with
        | .msg qn line _ _ => if qn.toNat = q then (if line then 2 else 1) else 0
        | _ => 0).foldl (· + ·) 0
    + (s.agenda.filter fun e => match e.2 with
        | .webFlitArrival f => flitFor f q
        | _ => false).length

/-- A flit may enter queue i (10 R179). -/
def State.queueTakes (s : State) (i : Nat) : Bool :=
  let r := s.core.r
  let cap := fun (q : Nat) => ((r.qcap[q]?).getD 0).toNat
  let min := fun (q : Nat) => ((r.qmin[q]?).getD 0).toNat
  let used : Nat := ((List.range 32).map fun q => Nat.max (s.queueCount q) (min q)).foldl (· + ·) 0
  decide (s.queueCount i < cap i) && (decide (s.queueCount i < min i) || decide (used < 512))

/-! ## Leaving -/

/-- The destination of the core's slot in this web cycle (10 R172). -/
def State.slotDst (s : State) : Option (BitVec 7) :=
  let e := (Tab.get 0 s.webTab (256 * s.core.pos.toNat + s.web % 256)).toNat
  if e = 0 then none else some (BitVec.ofNat 7 (e - 1))

/-- Web cycles from a slot to the arrival (10 R172). -/
def flitTime (src dst : BitVec 7) : Nat :=
  if src = 64 ∨ dst = 64 then 5 else 2 * hops src.toNat dst.toNat + 3

/-- The destination takes a flit at the start of this slot: the core's own queue by its count, another core's stop line or
a link's credit as they happen to be (10 R179, R190). -/
def State.mayEnter (s : State) (f : Flit) : Bool × State :=
  match f.body with
  | .msg qn .. =>
    if f.dst = s.core.pos then (s.queueTakes qn.toNat, s)
    else let (x, s) := s.drawBelow 2; (x == 0, s)
  | .ream .. => let (x, s) := s.drawBelow 2; (x == 0, s)
  | _ => (true, s)

/-- Flits sent through a capability in this revolution (10 R176). -/
def Core.sentThrough (c : Core) (cap : BitVec 8) : Nat :=
  match c.sentRev.find? fun x => x.1 == cap with
  | some x => x.2
  | none => 0

/-- Count a flit against its capability's allowance. -/
def Core.countSent (c : Core) (cap : BitVec 8) : Core :=
  { c with sentRev := (cap, c.sentThrough cap + 1) :: c.sentRev.filter fun x => x.1 != cap }

/-- A flit is beyond its capability's allowance for this revolution (10 R176). -/
def Core.beyond (c : Core) (cap : BitVec 8) : Bool :=
  let alw := (bitsAt (c.cap cap) 50 8).toNat
  decide (0 < alw ∧ alw ≤ c.sentThrough cap)

/-- The web flits that the partition may send on a link in a revolution, when it has not the whole link (19 R340). -/
def Partition.shareOf (p : Partition) (lk : BitVec 4) : Option Nat :=
  match Tab.get 0 p.reamShare lk.toNat with
  | 0 => none
  | n + 1 => some n

/-- A web flit after n that were sent goes beyond the partition's share of a link, and waits for a revolution; how a packet of several
flits waits is the model's choice (19 R340, 01 R15; assumption 113). -/
def Partition.exceeds (p : Partition) (lk : BitVec 4) (sent : Nat) : Bool := (p.shareOf lk).any fun share => decide (share ≤ sent)

/-- The web flits, of n, that the partition's share of a link still allows in this revolution (19 R340). -/
def Partition.allows (p : Partition) (lk : BitVec 4) (n : Nat) : Nat :=
  match p.shareOf lk with
  | none => n
  | some share => Nat.min n (share - Tab.get 0 p.reamSent lk.toNat)

/-- Count web flits against the partition's share of a link. -/
def Partition.countReam (p : Partition) (lk : BitVec 4) (n : Nat) : Partition :=
  { p with reamSent := Tab.put 0 p.reamSent lk.toNat (Tab.get 0 p.reamSent lk.toNat + n) }

/-- The flit of another core of the partition that reaches the source gateway in a web cycle left 5 cycles before: it counts in the
revolution of that slot, within the share (10 R172, 19 R340). -/
def Partition.countMate (p : Partition) (lk : BitVec 4) (web : Nat) : Option Partition :=
  let past := decide (web % 256 < 5)
  let sent := Tab.get 0 (if past then p.reamPast else p.reamSent) lk.toNat
  if p.exceeds lk sent then none
  else if past then some { p with reamPast := Tab.put 0 p.reamPast lk.toNat (sent + 1) }
  else some (p.countReam lk 1)

/-- The link that a flit goes to. -/
def flitLink (f : Flit) : Option (BitVec 4) :=
  match f.body with
  | .ream lk .. => some lk
  | _ => none

/-- Another core of the partition stands on this sheet, whose flits reach the source gateway as this core's do. -/
def State.matesHere (s : State) : Bool := (List.range 64).any fun p => p != s.core.pos.toNat && s.inPartition p

/-- A flit is beyond what its capability, or its partition on a link, may send in this revolution.  Of a share of a link, what other cores
have sent and has not reached the gateway, one flit in each of the last 5 web cycles at most, is free (10 R172, R176, 19 R340;
assumption 2). -/
def State.overAllowance (s : State) (f : SendItem) : Bool × State :=
  if s.core.beyond f.cap then (true, s)
  else match flitLink f.fl with
    | none => (false, s)
    | some lk =>
      if (s.part.shareOf lk).isNone then (false, s)
      else
        let sent := Tab.get 0 s.part.reamSent lk.toNat
        let (d, s) := if s.matesHere then s.drawBelow (Nat.min 5 (s.web % 256) + 1) else (0, s)
        (s.part.exceeds lk (sent + d), s)

/-- Copy beats that a SEND keeps from their slot count one slip each, and so do those that such a beat keeps from theirs
(10 R183). -/
def State.displace (s : State) (f : SendItem) : State :=
  if f.first ∨ (f.beat.isSome ∧ !f.displaced) then s
  else
    let hit := fun (x : SendItem) =>
      x.beat.isSome && !x.displaced && x.fl.dst == f.fl.dst && decide (x.ready ≤ s.web)
    let n := (s.core.sendQ.filter hit).length
    State.slips { s with core := { s.core with
      sendQ := s.core.sendQ.map fun x => if hit x then { x with displaced := true } else x } } n

/-- A flit with its data: a copy beat takes those that were visible two cycles ago (07 R131), with the fault of a poisoned
granule (21 R382). -/
def State.loadFlit (s : State) (f : SendItem) : Flit × Option FaultInfo × State :=
  match f.beat with
  | none => (f.fl, none, s)
  | some (id, n) =>
    match s.core.cmd id with
    | none => (f.fl, none, s)
    | some k =>
      let off := k.beatSrc n
      let (m, s) := s.webImage 2
      ({ f.fl with data := s.core.padData m off }, if s.core.padPoisoned off 64 then some { poisonFault .read off with word := k.word } else none, s)

/-- What a copy beat on the web does here when it arrives: it performs for its command, in this scratchpad when the core sends to
itself (07 R131). -/
def beatWrite (own : Bool) (f : SendItem) (fl : Flit) (bad : Option FaultInfo) : EngWrite :=
  let w : EngWrite := { due := 0, port := 6, place := .remote fl, data := fl.data, cmd := f.beat, wm := none, wms := none, bad := bad,
                        atm := none, ents := [] }
  match fl.body with
  | .beat off wm => if own then { w with port := 2, place := .pad off, wm := wm } else w
  | _ => w

/-- The fault of a copy beat's source (07 R129, R137). -/
def State.beatFault (s : State) (f : SendItem) : Option (Cmd × FaultInfo) :=
  match f.beat with
  | none => none
  | some (id, n) =>
    match s.core.cmd id with
    | none => none
    | some k => match s.reachBeat k n with
      | .error i => some (k, i)
      | .ok _ => none

/-- A flit leaves in the present slot (10 R172, R183, 17 R309). -/
def State.depart (s : State) (f : SendItem) : State :=
  let at_ := s.web + flitTime f.fl.src f.fl.dst
  let own := f.fl.dst == s.core.pos
  let (fl, bad, s) := s.loadFlit f
  let s := State.displace { s with core := { s.core with sendQ := s.core.sendQ.erase f } } f
  let gone := if s.inFabric || f.first || f.beat.isSome then [] else [s.web]
  let c := { s.core with acted := true, sendGone := s.core.sendGone ++ gone }
  let c := if f.first then c else c.countSent f.cap
  let c := match fl.body with
    | .atm .. => { c with scntWeb := at_ :: c.scntWeb }
    | _ => c
  let s := { s with core := { c with outgoing := at_ :: c.outgoing }
                    part := match flitLink fl with
                      | some lk => s.part.countReam lk 1
                      | none => s.part }
  let s := match f.beat with
    | some _ => { s with arriving := s.arriving ++ [(at_, beatWrite own f fl bad)] }
    | none =>
      if own ∨ fl.dst = 64 then { s with agenda := s.agenda ++ [(at_, .webFlitArrival fl)] } else s
  if own ∨ fl.dst = 64 then s else { s with dev := { s.dev with sent := .flit fl :: s.dev.sent } }

/-- The first flit of those that go to a destination; a region without pulses keeps its copy beats back, so that a SEND behind them
leaves (20 R359, 07 R141). -/
def State.headTo (s : State) (dst : BitVec 7) : Option SendItem :=
  s.core.sendQ.find? fun f => !f.first && f.fl.dst == dst && !(f.beat.isSome && s.region.still)

/-- A returned value that takes this slot (17 R318). -/
def State.returning (s : State) (dst : BitVec 7) : Option SendItem :=
  s.core.sendQ.find? fun f => f.first && f.fl.dst == dst && decide (f.ready ≤ s.web)

/-- Copy beats in a region without pulses take no new slot: each that is ready for one counts one slip, and so does each later one of
its command, which then takes a slot after its own (07 R131, R141, 20 R359). -/
def State.keepBeats (s : State) (dst : BitVec 7) : State :=
  let hit := fun (x : SendItem) => x.beat.isSome && !x.kept && x.fl.dst == dst && decide (x.ready ≤ s.web)
  let n := (s.core.sendQ.filter hit).length
  State.slips { s with core := { s.core with
    sendQ := s.core.sendQ.map fun x => if hit x then { x with kept := true } else x
    cmds := s.core.cmds.map fun k =>
      if s.core.sendQ.any fun x => hit x && x.beat.any (·.1 == k.id) then { k with webLate := true } else k } } n

/-- The first element that a test accepts is changed. -/
def mapFirst {α : Type} (p : α → Bool) (f : α → α) : List α → List α
  | [] => []
  | x :: t => if p x then f x :: t else x :: mapFirst p f t

/-- The head of the pair's flits is offered the present slot: it leaves unless its allowance is used up or its destination stops it;
each such delay counts a slip (10 R176, R179).  A copy beat whose source faults
stops its command (07 R137). -/
def State.offer (s : State) (f : SendItem) : State :=
  let (excess, s) := s.overAllowance f
  if excess then
    if f.delayed then s
    else State.slips { s with core := { s.core with
      sendQ := mapFirst (· == f) (fun x => { x with delayed := true }) s.core.sendQ } } 1
  else match s.beatFault f with
    | some (k, i) => s.stopCmd k i
    | none =>
      let (ok, s) := s.mayEnter f.fl
      if ok then s.depart f else s.slips 1

/-- A flit would have taken the present slot (17 R318). -/
def State.wouldLeave (s : State) (f : SendItem) : Bool × State :=
  if s.web < f.ready then (false, s)
  else
    let (excess, s) := s.overAllowance f
    if excess then (false, s) else s.mayEnter f.fl

/-- The core's slot of this web cycle; a returned old value that takes it counts a slip for the flit that it displaces (10 R172, R183,
17 R318). -/
def State.webSlot (s : State) : State :=
  match s.slotDst with
  | none => s
  | some dst =>
    let s := if s.region.still then s.keepBeats dst else s
    match s.returning dst, s.headTo dst with
    | some f, some h =>
      let (hit, s) := s.wouldLeave h
      State.depart (if hit then s.slips 1 else s) f
    | some f, none => s.depart f
    | none, some h => if h.ready ≤ s.web then s.offer h else s
    | none, none => s

/-- Something waits for the core's slot of this web cycle. -/
def State.slotWanted (s : State) : Bool :=
  match s.slotDst with
  | none => false
  | some dst => (s.returning dst).isSome || s.core.sendQ.any fun f => f.fl.dst == dst && decide (f.ready ≤ s.web)

/-- A queued flit is offered its pair's slot (10 R183). -/
def execWebFlitSend (s : State) : Out := if s.slotWanted then .next s.webSlot else .fault .notDue

/-- A remote copy beat that leaves two cycles from now has its source read and checked in this cycle (07 R131, 21 R380). -/
def State.remoteSource (s : State) : State :=
  if s.core.sendQ.all fun f => f.beat.isNone then s
  else
    let later := { State.webSlot { s with web := s.web + 1 } with web := s.web + 2 }
    let head := later.slotDst.bind fun dst =>
      if (later.returning dst).isSome then none else later.headTo dst
    match head.bind (·.beat) with
    | none => s
    | some (id, n) =>
      match s.core.cmd id with
      | none => s
      | some k =>
        match s.reachBeat k n with
        | .error i => s.stopCmd k i
        | .ok _ => s

/-! ## Arriving -/

/-- Something reaches the region's crossing buffer in this web cycle (20 R362, 07 R124). -/
def State.receive (s : State) (port : Nat) (x : InItem) : State :=
  { s with core := { s.core with inbound := s.core.inbound ++ [{ tau := s.web, port := port, item := x }] } }

/-- The port rank of a flit's source (07 R124). -/
def flitPort (f : Flit) : Nat := if f.src = 64 then 1 else 2

/-- A flit of a message arrives: the first of a line waits for the second, and the last brings the message, which is pushed and
raises the word of its capability once it has crossed to the region (10 R180). -/
def State.arriveMsg (s : State) (fl : Flit) (qn : BitVec 5) (line half : Bool) (wm : Option (BitVec 16)) : State :=
  let q := s.core.rq[qn.toNat]
  let rest := q.partials.filter fun p => p.1 != fl.src
  let put := fun (c : Core) (ps : List (BitVec 7 × BitVec 512)) => { c with rq := c.rq.set qn.toNat { q with partials := ps } }
  if line ∧ !half then { s with core := put s.core (rest ++ [(fl.src, fl.data)]) }
  else
    let lo := match q.partials.find? fun p => p.1 == fl.src with
      | some p => p.2
      | none => 0
    let m : Msg := if line then { line := true, data := BitVec.ofNat 1024 (fl.data.toNat * 2 ^ 512 + lo.toNat) }
      else { line := false, data := BitVec.ofNat 1024 (elem fl.data 64 0).toNat }
    State.receive { s with core := put s.core rest } (flitPort fl) (.msg qn m.line m.data wm)

/-- The old value of an atomic that the core issued under a number lands in `lda` (17 R317, R318, 11 R206). -/
def State.landOld (s : State) (num : Nat) (old : Word) : State :=
  let c := { s.core with awaiting := s.core.awaiting.map fun x => if x.seq = num then { x with due := some s.core.cyc } else x }
  State.flyOld { s with core := c }
    { due := c.cyc, seq := num, slot := 7, file := none, dst := 0, val := 0, sel := 0, flg := 0, latch := .lda,
      lval := BitVec.ofNat 1024 old.toNat, lsel := BitVec.allOnes 1024 }

/-- The old value of an atomic that the core issued under a number arrives; a QAT's has crossed to the region with its packet (17
R318, 09 R161, R164). -/
def execRemoteAtmReturn (num : Nat) (old : BitVec 64) (s : State) : Out :=
  match s.core.awaiting.find? fun a => a.seq == num && a.due.isNone with
  | none => .fault .notDue
  | some a => .next (if a.src = .felt then s.landOld num old else s.receive 5 (.old num old))

/-- An item enters the region in the present cycle (07 R124, 10 R180). -/
def State.takeIn (s : State) (x : Inbound) : State :=
  let c := s.core
  match x.item with
  | .write w => { s with core := { c with engW := c.engW ++ [{ w with due := c.cyc }] } }
  | .msg qn line data wm =>
    let c := { c with pushes := c.pushes ++ [(c.cyc, x.port, qn, { line := line, data := data })] }
    { s with core := match wm with
      | some w => { c with raises := c.raises ++ [{ due := c.cyc, off := 16 * w.toNat, bytes := if line then 128 else 8 }] }
      | none => c }
  | .old num old => s.landOld num old

/-- The kind of an item that a port takes one of in a region cycle; the core's own accounts and returned values are of none (07 R124,
10 R180). -/
def Inbound.kind (x : Inbound) : Nat :=
  match x.item with
  | .write _ => if x.port ≤ 2 then 1 else 0
  | .msg .. => 2
  | .old .. => 0

/-- An item with a stated cycle of arrival: the accounts that the core keeps itself have none. -/
def Inbound.isStated (x : Inbound) : Bool :=
  match x.item with
  | .write _ => decide (x.port ≤ 2)
  | _ => true

/-- Something whose stated cycle in the fabric group has passed is seen only now, in a region with pulses: one slip (20 R374). -/
def State.lateSlip (s : State) (tau : Nat) : State := if !s.region.still && s.overdue tau then s.slips 1 else s

/-- The items of the crossing buffer in order of arrival: one enters when those before it from its port have entered, its port
takes it in this cycle, and it has crossed, or the engine side of a region without pulses takes it at once.  One that enters later than its
bound counts a slip (07 R124, 10 R180, 17 R312, 20 R359, R362). -/
def State.admitAll : List Inbound → List Nat → List (Nat × Nat) → State → State
  | [], _, _, s => s
  | x :: t, shut, used, s =>
    let keep := fun (s : State) => ({ s with core := { s.core with inbound := s.core.inbound ++ [x] } } : State)
    if shut.contains x.port ∨ (x.kind ≠ 0 ∧ used.contains (x.port, x.kind)) then
      State.admitAll t (x.port :: shut) used (keep s)
    else
      let (now, s) := if s.region.still then (true, s) else s.crossed x.tau
      if now then
        let s := if x.isStated then s.lateSlip x.tau else s
        State.admitAll t shut ((x.port, x.kind) :: used) (s.takeIn x)
      else State.admitAll t (x.port :: shut) used (keep s)

/-- What enters the region in this cycle. -/
def State.takeInbound (s : State) : State :=
  if s.core.inbound.isEmpty then s
  else State.admitAll s.core.inbound [] [] { s with core := { s.core with inbound := [] } }

/-! ## Ream links: the sending side -/

/-- Web flits in a list of packets. -/
def flitsOf (ps : List ReamPacket) : Nat := (ps.map fun p => p.flits.length).foldl (· + ·) 0

/-! ### Link flits -/

/-- The data and end flits of a packet: each web flit in two halves (10 R187). -/
def packetHalves (p : ReamPacket) : List (BitVec 256) := (p.flits.map fun f => [elem f 256 0, elem f 256 1]).flatten

/-- CRC-32 over some 32-byte flits (10 R187, 08 R144). -/
def flitCrc (fs : List (BitVec 256)) : BitVec 32 := crc32 ((fs.map fun f => (List.range 32).map fun i => elem f 8 i).flatten)

/-- The header flit of a packet (10 R187). -/
def packetHeader (p : ReamPacket) : BitVec 256 :=
  BitVec.ofNat 256 (p.seq.toNat + (p.dtix.toNat + p.qn.toNat * 2 ^ 11) * 2 ^ 16 + (p.flits.length - 1) % 16 * 2 ^ 32
    + b2n p.gline * 2 ^ 36 + b2n p.scalar * 2 ^ 40 + (flitCrc (packetHalves p)).toNat * 2 ^ 224)

/-- Data flits, the last of them an end flit (10 R187). -/
def dataFlits : List (BitVec 256) → List LinkFlit
  | [] => []
  | [x] => [{ type := 3, data := x }]
  | x :: y :: t => { type := 2, data := x } :: dataFlits (y :: t)

/-- A packet as the link carries it (10 R187). -/
def packetWire (p : ReamPacket) : List LinkFlit := { type := 1, data := packetHeader p } :: dataFlits (packetHalves p)

/-- Web flits from their halves. -/
def joinHalves : List (BitVec 256) → List (BitVec 512)
  | x :: y :: t => BitVec.ofNat 512 (x.toNat + y.toNat * 2 ^ 256) :: joinHalves t
  | _ => []

/-- The packet that some link flits carry; none when its end flit is missing, its header is malformed or its CRC fails (10 R187,
R191). -/
def readWire : List LinkFlit → Option ReamPacket
  | [] => none
  | h :: ds =>
    let x := h.data
    let p : ReamPacket := { seq := bitsAt x 0 16, dtix := bitsAt x 16 11, qn := bitsAt x 27 5, gline := bitAt x 36, scalar := bitAt x 40
                            flits := joinHalves (ds.map (·.data)) }
    if h.type = 1 ∧ p.flits ≠ [] ∧ p.flits.length ≤ 16 ∧ packetWire p = h :: ds then some p else none

/-- A link carries traffic, and its replay buffer, of 512 web flits without headers, has room for a packet (10 R187, R188; assumption
120). -/
def State.linkTakes (s : State) (lk : BitVec 4) (pk : ReamPacket) : Bool :=
  let l := s.link_ lk
  decide ((l.st = .timed ∨ l.st = .slipped) ∧ flitsOf l.replay + pk.flits.length ≤ 512)

/-- The flits of a gateway's own packet that the partition's share of the link has not allowed yet: a sum counts where it leaves, any
other message was counted at its core (19 R340). -/
def unpaid (l : Link) (pk : ReamPacket) : Nat := if pk.gline then pk.flits.length - l.paid else 0

/-- A packet goes out with the next SEQ (10 R187). -/
def State.transmit (s : State) (lk : BitVec 4) (mine : Bool) (pk : ReamPacket) : State :=
  let l := s.link_ lk
  let pk := { pk with seq := l.seqTx }
  let s := s.setLink lk fun l => { l with
    seqTx := l.seqTx + 1, replay := l.replay ++ [pk], paid := 0, own := if mine then pk.seq :: l.own else l.own }
  { s with dev := { s.dev with sent := .ream lk (packetWire pk) :: s.dev.sent }
           core := if mine then { s.core with reamAt := Nat.max s.core.reamAt (s.web + l.lat.toNat + 5) } else s.core }

/-- The oldest packet that waits on a link goes out when the link takes it and the share has allowed each of its flits; those beyond the
share wait for the next revolution, and the packet leaves whole with the last of them (10 R187, 19 R340, 01 R15; assumption 113). -/
def State.pumpLink (s : State) (lk : BitVec 4) : State :=
  match (s.link_ lk).waiting with
  | [] => s
  | (mine, pk) :: t =>
    if !s.linkTakes lk pk then s
    else
      let left := unpaid (s.link_ lk) pk
      let n := s.part.allows lk left
      let s := { s with part := if n = 0 then s.part else s.part.countReam lk n }
      if n < left then s.setLink lk fun l => { l with paid := l.paid + n }
      else (s.transmit lk mine pk).setLink lk fun l => { l with waiting := t }

/-- A whole message has reached the source gateway: its packet goes out, or waits.  A wait for the link counts one slip of its sender, and
each flit beyond the share one (10 R176, R187, R189, 19 R340). -/
def State.sendPacket (s : State) (lk : BitVec 4) (mine : Bool) (pk : ReamPacket) : State :=
  let first := (s.link_ lk).waiting.isEmpty
  let excess := if first && s.linkTakes lk pk then unpaid (s.link_ lk) pk - s.part.allows lk (unpaid (s.link_ lk) pk) else 1
  let s := s.setLink lk fun l => { l with waiting := l.waiting ++ [(mine, pk)] }
  let s := if first then s.pumpLink lk else s
  s.slips (if mine then excess else 0)

/-- A web flit bound for a link reaches the source gateway from a position: the second of a line joins the first from there (10
R189). -/
def State.gatherFlit (s : State) (lk : BitVec 4) (src : BitVec 7) (dtix : BitVec 11) (qn : BitVec 5) (line half : Bool) (d : BitVec 512) :
    State :=
  if line ∧ !half then s.setLink lk fun l => { l with gather := l.gather ++ [(src, dtix, qn, d)] }
  else
    let mine := fun (x : BitVec 7 × BitVec 11 × BitVec 5 × BitVec 512) => x.1 == src && x.2.1 == dtix && x.2.2.1 == qn
    let lo := match (s.link_ lk).gather.find? mine with
      | some x => x.2.2.2
      | none => 0
    let s := s.setLink lk fun l => { l with gather := l.gather.filter fun x => !mine x }
    s.sendPacket lk (src == s.core.pos) { seq := 0, dtix := dtix, qn := qn, gline := false, scalar := !line,
                                          flits := if line then [lo, d] else [d] }

/-- A web flit bound for a link reaches the source gateway: this core's own was counted against the partition's share as it left; one
of another core of the partition counts now, and does not come beyond the share (10 R189, 19 R340). -/
def State.bringFlit (s : State) (fl : Flit) (lk : BitVec 4) (dtix : BitVec 11) (qn : BitVec 5) (line half : Bool) : Out :=
  if fl.src = s.core.pos ∨ !s.inPartition fl.src.toNat then .next (s.gatherFlit lk fl.src dtix qn line half fl.data)
  else match s.part.countMate lk s.web with
    | none => .fault .notDue
    | some p => .next (State.gatherFlit { s with part := p } lk fl.src dtix qn line half fl.data)

/-- A flit comes through the core's web port, or through its gateway port, which each take one in a web cycle (10 R172, R173). -/
def State.throughPort (s : State) (src : BitVec 7) : State :=
  if src = 64 then { s with gwPort := s.web + 1 } else { s with webPort := s.web + 1 }

/-- The port that a flit from a position comes through has had its flit of this web cycle. -/
def State.portTaken (s : State) (src : BitVec 7) : Bool := (if src = 64 then s.gwPort else s.webPort) == s.web + 1

/-- A web flit arrives at this core or at the sheet's gateway (10 R172, R173, R180, 17 R312, R318). -/
def execWebFlitArrival (fl : Flit) (s : State) : Out :=
  if fl.dst = 64 then
    match fl.body with
    | .ream lk dtix qn line half => s.bringFlit fl lk dtix qn line half
    | _ => .fault .notDue
  else if fl.dst ≠ s.core.pos ∨ s.core.run = .parked ∨ s.portTaken fl.src then .fault .notDue
  else
    let s := s.throughPort fl.src
    let w : EngWrite := { due := 0, port := flitPort fl, place := .away, data := fl.data, cmd := none, wm := none, wms := none,
                          bad := none, atm := none, ents := [] }
    match fl.body with
    | .msg qn line half wm => .next (s.arriveMsg fl qn line half wm)
    | .beat off wm => .next (s.receive w.port (.write { w with place := .pad off, wm := wm }))
    | .atm op i64 off x cmp => .next (s.receive w.port (.write { w with place := .pad off, atm := some (op, i64, x, cmp, fl.src) }))
    | .atmRet old =>
      match s.core.awaiting.find? fun a => a.src == .core fl.src && a.due.isNone
          && !s.core.inbound.any fun x => match x.item with
            | .old num _ => num == a.seq
            | _ => false with
      | some a => .next (s.receive w.port (.old a.seq old))
      | none => .fault .notDue
    | .ream .. => .fault .notDue

/-! ## Ream links: the receiving side -/

/-- The web flits of a packet for its destination core: a scalar, a line, or the eight lines of a gateway's sum.  Its header has no
field for a watermark, and it raises no word (10 R187, R189; assumption 121). -/
def packetFlits (pk : ReamPacket) : List Flit :=
  pk.flits.zipIdx.map fun x =>
    { src := 64, dst := BitVec.ofNat 7 (pk.dtix.toNat % 64), body := .msg pk.qn (!pk.scalar) (x.2 % 2 == 1) none, data := x.1 }

/-- Web flits that a link's receiving side holds (10 R190). -/
def Link.held (l : Link) : Nat := (l.recv.map fun m => m.flits.length).foldl (· + ·) 0

/-- An acknowledgement frees the packets of the replay buffer that it covers (10 R187). -/
def Link.acknowledged (l : Link) (seq : BitVec 16) : Link :=
  match l.replay.findIdx? fun p => p.seq == seq with
  | some n => { l with replay := l.replay.drop (n + 1)
                       own := l.own.filter fun x => (l.replay.drop (n + 1)).any fun p => p.seq == x }
  | none => l

/-- Link flits arrive, padded to LAT: an idle flit acknowledges; a whole packet that is next in SEQ order is held for its destination
from this cycle; one that was cut short, which may be found while the link trains again, leaves nothing but the time at which it
would have been held; every other packet is discarded (10 R187, R189, R190, R191). -/
def execReamPacketReceive (lk : BitVec 4) (fls : List LinkFlit) (s : State) : Out :=
  let l := s.link_ lk
  let up := l.st = .timed ∨ l.st = .slipped
  let kind : Nat := match fls with
    | [] => 2
    | f :: _ => f.type.toNat
  match readWire fls with
  | some pk =>
    if ¬up ∨ 64 < l.held + pk.flits.length then .fault .notDue
    else if pk.seq ≠ l.seqRx then .next s
    else
      let s := s.setLink lk fun l => { l with
        seqRx := l.seqRx + 1, recv := l.recv ++ [{ due := s.web, dtix := pk.dtix, flits := packetFlits pk }] }
      .next { s with dev := { s.dev with sent := .ream lk [{ type := 0, data := BitVec.ofNat 256 pk.seq.toNat }] :: s.dev.sent } }
  | none =>
    if kind = 0 then
      (if up ∧ fls.length = 1 then .next (s.setLink lk fun l => fls.foldl (fun l f => l.acknowledged (bitsAt f.data 0 16)) l)
       else .fault .notDue)
    else if kind = 1 ∧ (up ∨ (l.st = .train ∧ l.unsched)) then .next (s.setLink lk fun l => { l with cut := some s.web })
    else .fault .notDue

/-- The receive queue of a flit that completes a message. -/
def lastOf (f : Flit) : List (BitVec 5) :=
  match f.body with
  | .msg qn line half _ => if line ∧ !half then [] else [qn]
  | _ => []

/-- The destination gateway forwards a flit of the oldest message of a link: in a slot of its own to the destination, when
the queue there takes it (10 R179, R189). -/
def execGatewayForward (lk : BitVec 4) (s : State) : Out :=
  match (s.link_ lk).recv with
  | [] => .fault .notDue
  | m :: t =>
    match m.flits with
    | [] => .fault .notDue
    | f :: fs =>
      let here := m.dtix.toNat / 64 == s.core.tix.toNat / 64
      if s.web < m.due ∨ (here ∧ (!s.pairOwns 64 f.dst s.web ∨ s.gwSent = s.web + 1)) then .fault .notDue
      else
        let own := m.dtix == s.core.tix
        let (ok, s) := if own ∧ s.core.run = .parked then (false, s)
          else if own then s.mayEnter f
          else let (x, s) := s.drawBelow 2; (x == 0, s)
        if !ok then .next s
        else
          let s := s.setLink lk fun l => { l with recv := if fs.isEmpty then t else { m with flits := fs } :: t }
          let s := if here then { s with gwSent := s.web + 1 } else s
          let late := decide ((s.link_ lk).st = .slipped)
          .next (if own then
              { s with agenda := s.agenda ++ [(s.web + 5, .webFlitArrival f)]
                       core := { s.core with forwarded := s.core.forwarded ++ (lastOf f).map fun qn => (qn, late) } }
            else { s with dev := { s.dev with sent := .flit f :: s.dev.sent } })

/-! ## The state of a link -/

/-- Replays, missed arrivals and retrains are counted in a web cycle (10 R188). -/
def Link.count (l : Link) (web rpl miss rtr : Nat) : Link :=
  let u := { l with rpl := count16 l.rpl rpl, miss := count16 l.miss miss, rtr := count16 l.rtr rtr }
  { u with newAt := web + 1, new := newCounts l.newAt web l.new [l.rpl, l.miss, l.rtr] [u.rpl, u.miss, u.rtr] }

/-- The counts that a web cycle has added so far (00 R10). -/
def Link.fresh_ (l : Link) (web : Nat) : Vector (BitVec 16) 3 := if l.newAt = web + 1 then l.new else Vector.replicate 3 0

/-- A link goes DOWN, and what is in flight on it is lost; so is what the source gateway has not sent (10 R188; assumption 118). -/
def Link.goDown (l : Link) : Link :=
  { l with st := .down, replay := [], waiting := [], paid := 0, own := [], gather := [], cut := none, unsched := false }

/-- The mill cores initialise a link: DOWN to TRAIN; its SEQ goes on from where it was (10 R188; assumption 119). -/
def execLinkInitialisation (lk : BitVec 4) (s : State) : Out :=
  if (s.link_ lk).st = .down then .next (s.setLink lk fun l => { l with st := .train }) else .fault .notDue

/-- A link has trained: after an unscheduled retrain it is SLIPPED and the replay buffer goes out again; otherwise it is
TIMED when its latency is within LAT, and stays in TRAIN, logged, when not (10 R188, R191). -/
def execLinkTrained (lk : BitVec 4) (lat : BitVec 20) (s : State) : Out :=
  let l := s.link_ lk
  if l.st ≠ .train then .fault .notDue
  else if l.unsched then
    let s := s.setLink lk fun l => { l.count s.web l.replay.length 0 0 with st := .slipped, unsched := false }
    .next { s with dev := { s.dev with sent := (l.replay.map fun p => Sent.ream lk (packetWire p)).reverse ++ s.dev.sent } }
  else if lat.toNat ≤ l.lat.toNat then .next (s.setLink lk fun l => { l with st := .timed })
  else .next { s with dev := { s.dev with tlog := (lk :: s.dev.tlog) } }

/-- No training, or no end of a retrain, within 50 µs: TRAIN to DOWN, and the packets in flight are reported lost (10 R188). -/
def execTrainingTimeout (lk : BitVec 4) (s : State) : Out :=
  let l := s.link_ lk
  if l.st ≠ .train then .fault .notDue
  else
    let s := s.setLink lk Link.goDown
    .next (if l.replay.isEmpty then s else { s with dev := { s.dev with sent := .lost lk l.replay :: s.dev.sent } })

/-- A kernel of which some core holds a kind 2 capability on a link is resident (10 R188, 19 R345). -/
def State.linkInUse (s : State) (lk : BitVec 4) : Bool := s.part.resident.isSome && bitAt s.part.kernelLinks lk.toNat

/-- A retrain inside a retrain window: TIMED to TRAIN (10 R188). -/
def execRetrain (lk : BitVec 4) (s : State) : Out :=
  if (s.link_ lk).st = .timed ∧ !s.linkInUse lk then .next (s.setLink lk fun l => { l with st := .train })
  else .fault .notDue

/-- An unscheduled retrain: it is counted, and the timing fault is logged in the base-die log and, when the resident kernel uses the
link, in its launch status (19 R345), without stopping a core (10 R188, R191). -/
def execUnscheduledRetrain (lk : BitVec 4) (s : State) : Out :=
  let l := s.link_ lk
  if l.st ≠ .timed ∧ l.st ≠ .slipped then .fault .notDue
  else
    let s := s.setLink lk fun l => { l.count s.web 0 0 1 with st := .train, unsched := true }
    let part := if s.linkInUse lk then { s.part with tf := true, tfAt := s.web + 1 } else s.part
    .next { s with part := part, dev := { s.dev with tlog := lk :: s.dev.tlog } }

/-- The cycle has come at which a message that was cut short would have been held: a missed arrival (10 R191). -/
def execMissedArrival (lk : BitVec 4) (s : State) : Out :=
  match (s.link_ lk).cut with
  | none => .fault .notDue
  | some t =>
    if s.web < t then .fault .notDue
    else .next (s.setLink lk fun l => { l.count s.web 0 1 0 with cut := none })

/-- The next launch on both modules of a kernel that uses the link: SLIPPED to TIMED (10 R188). -/
def execSynchronisationPoint (lk : BitVec 4) (s : State) : Out :=
  if (s.link_ lk).st = .slipped then .next (s.setLink lk fun l => { l with st := .timed }) else .fault .notDue

/-- STATE of LINKST (10 R188). -/
def LinkSt.code : LinkSt → Nat
  | .down => 0
  | .train => 1
  | .timed => 2
  | .slipped => 3

/-- LINKST as a read in a web cycle returns it: its counters as they stood before the counts of that cycle (10 R188, 00 R10). -/
def Link.status (l : Link) (web : Nat) : Nat :=
  let n := l.fresh_ web
  (l.rpl - n[0]).toNat * 2 ^ 48 + (l.miss - n[1]).toNat * 2 ^ 32 + (l.rtr - n[2]).toNat * 2 ^ 16 + l.st.code

/-- A read of LINKST returns it and resets its three counters, but for the counts of the present web cycle (10 R188, 00 R10). -/
def execLinkstRead (lk : BitVec 4) (s : State) : Out :=
  let x := BitVec.ofNat 64 ((s.link_ lk).status s.web)
  let s := s.setLink lk fun l => { l with rpl := (l.fresh_ s.web)[0], miss := (l.fresh_ s.web)[1], rtr := (l.fresh_ s.web)[2] }
  .next { s with dev := { s.dev with sent := .value x :: s.dev.sent } }

end Sys2Proof.Machine
end

