-- ==== Sys2Proof/Machine/Atomics.lean ====
section
/-! DEFINITION. ATM, ABN and BFOLD, and the accesses of fenced atomics in their bank cycles (17 R317 to R320, 04 R82 to
R84). -/

namespace Sys2Proof.Machine

/-! ## ATM -/

/-- A remote target: the effect, or the fault; an endpoint outside the partition is a violation, which lets the bundle complete (17
R318, 21 R383; assumption 93). -/
def State.atmRemote (s : State) (op : BitVec 3) (i64 : Bool) (va x cmp : Word) : Except FaultInfo Eff :=
  let cap : BitVec 8 := bitsAt va 56 8
  let off := va.toNat % 2 ^ 20
  let e := s.core.cap cap
  let dst : BitVec 7 := BitVec.ofNat 7 (bitsAt e 22 6).toNat
  if off % (if i64 then 8 else 4) ≠ 0 then .error (accessFault .misalignment 7 .atomic 0 va.toNat)
  else if (bitsAt va 20 36).toNat ≠ 0 ∨ Config.scratchBytes ≤ off then .error (accessFault .outOfTable 7 .atomic 0 va.toNat)
  else if s.capOutside e then .ok (.atmOutside i64 { capViolation cap .atomic with word := s.core.slotWord 7 })
  else if !bitAt e 63 || (bitsAt e 60 3).toNat != 0 || !bitAt e 59 || !s.namesCore e || !s.pairExists dst s.core.pos then
    .error (capFault cap)
  else .ok (.atmRemote op i64 cap off x cmp)

/-- A target without `.rem`: the scratchpad or HBM; outside the partition's frames it is a violation whatever the entry says
(17 R318, 05 R102). -/
def State.atmHere (s : State) (op : BitVec 3) (i64 : Bool) (va x cmp : Word) : Except FaultInfo Eff :=
  if va.toNat % (if i64 then 8 else 4) ≠ 0 then .error (accessFault .misalignment 7 .atomic 0 va.toNat)
  else match s.core.translate va.toNat with
    | .pad off => .ok (.atmLocal op i64 off x cmp)
    | .none => .error (accessFault .outOfTable 7 .atomic 0 va.toNat)
    | .phys k e pa =>
      if (quireOff pa).isSome then .error (accessFault .permission 7 .atomic k va.toNat)
      else if !isHbm pa then .error (accessFault .outOfTable 7 .atomic k va.toNat)
      else if !within s.part.frames pa (if i64 then 8 else 4) then
        .ok (.atmPoison i64 pa { accessFault .violation 7 .atomic k va.toNat with word := s.core.slotWord 7 })
      else if !permits e .atomic then .error (accessFault .permission 7 .atomic k va.toNat)
      else if !stateAllows e .atomic then .error (accessFault .residency 7 .atomic k va.toNat)
      else .ok (.atmHbm op i64 pa (BitVec.ofNat 10 k) x cmp)

/-- ATM: one read-modify-write at its target; the old value lands in `lda` (17 R317, R318). -/
def execAtm (g : BitVec 4) (n m k : BitVec 5) (o : BitVec 3) (sf r : BitVec 1) (s : State) : Out :=
  guarded g s fun s =>
    let c := s.core
    let va := c.r.readA n
    let i64 := sf == 1
    let probe := if r = 1 then Eff.atmRemote o i64 0 0 0 0 else .atmLocal o i64 0 0 0
    if 6 < o.toNat ∨ (o ≠ 6 ∧ k ≠ 0) then .next (s.takePrecise (.plain .illegalOperation 7))
    else if s.blocked probe then .next (s.hold .queueCap)
    else match (if r = 1 then s.atmRemote o i64 va (c.r.readA m) (c.r.readA k)
                else s.atmHere o i64 va (c.r.readA m) (c.r.readA k)) with
      | .error i => .next (s.takePrecise i)
      | .ok e => .next (State.enact { s with core := (effEnts e).foldl (fun c k => c.pend k true) c } 7 e)

/-! ## BIN sets -/

/-- Word b of a BIN set as a number. -/
def binWord (set : BitVec 512) (b : Nat) : Nat := (elem set 64 b).toNat

/-- The parts of an addend: its magnitude in units of 2^(E−224), and whether bits below that were dropped (04 R83). -/
def binUnits (m : Nat) (e anchor : Int) : Nat × Bool :=
  let sh := e + 224 - anchor
  if 0 ≤ sh then (m * 2 ^ sh.toNat, false)
  else (m / 2 ^ (-sh).toNat, decide (m % 2 ^ (-sh).toNat ≠ 0))

/-- The flags of word 7 that an addend sets, with those of its magnitude (04 R83). -/
def binFlags (x : BitVec 32) (v : Fp) (u : Nat) (trn bov : Bool) : Nat :=
  let f := fun (b : Bool) (i : Nat) => if b then 2 ^ i else 0
  f true 21 ||| f (x != 0x80000000) 22
    ||| (match v with
      | .nan => 2 ^ 17
      | .inf false => 2 ^ 18
      | .inf true => 2 ^ 19
      | .num .. => f trn 16 ||| f (bov || decide (2 ^ 224 ≤ u)) 20)

/-- Bins 0 to n − 1 after the addition of their parts, as words, and whether a bin left the int64 range; the value of such a
bin is free (04 R82, R83; assumption 9). -/
def binAddTo (set : BitVec 512) (neg : Bool) (u : Nat) : Nat → State → List Nat × Bool × State
  | 0, s => ([], false, s)
  | n + 1, s =>
    let (ws, bov, s) := binAddTo set neg u n s
    let part : Nat := u / 2 ^ (32 * (6 - n)) % 2 ^ 32
    let sum := (elem set 64 n).toInt + (if neg then -(part : Int) else part)
    if sum < -2 ^ 63 ∨ 2 ^ 63 - 1 < sum then
      let (x, s) := s.draw
      (ws ++ [x % 2 ^ 64], true, s)
    else (ws ++ [(sum % 2 ^ 64).toNat], bov, s)

/-- ABN's addition into a BIN set (04 R83). -/
def State.binAdd (s : State) (set : BitVec 512) (x : BitVec 32) : BitVec 512 × State :=
  let v := fp32Of x
  let anchor := (BitVec.ofNat 16 (binWord set 7)).toInt
  let (neg, u, trn) := match v with
    | .num neg m e => let r := binUnits m e anchor; (neg, r.1, r.2)
    | _ => (false, 0, false)
  let (ws, bov, s) := binAddTo set neg (u % 2 ^ 224) 7 s
  let w7 := binWord set 7 ||| binFlags x v u trn bov
  (BitVec.ofNat 512 (elemsNat 64 (fun b => if b < 7 then nth 0 ws b else w7) 8), s)

/-- The exact sum of a BIN set in units of 2^(E−224) (04 R82). -/
def binSum (set : BitVec 512) : Int :=
  ((List.range 7).map fun b => (elem set 64 b).toInt * 2 ^ (32 * (6 - b))).foldl (· + ·) 0

/-- The fold of a BIN set into FP32 (04 R84). -/
def binFold (set : BitVec 512) (mode : Nat) : Flagged :=
  let w7 := binWord set 7
  let f := fun i => w7 / 2 ^ i % 2 == 1
  let sum := binSum set
  if f 17 || f 20 || (f 18 && f 19) then { v := fp32.nan, f := nvFlag }
  else if f 18 then quiet fp32.inf
  else if f 19 then quiet (2 ^ 31 + fp32.inf)
  else if sum = 0 then quiet (if f 21 && !f 22 then 2 ^ 31 else 0)
  else fp32.roundNum mode (decide (sum < 0)) sum.natAbs ((BitVec.ofNat 16 w7).toInt - 224)

/-- The place of a BIN set, or the fault (17 R319). -/
def State.binPlace (s : State) (n : BitVec 5) (d : Doing) : Except FaultInfo Nat :=
  let va := (s.core.r.readA n).toNat
  if va % 64 ≠ 0 then .error (accessFault .misalignment 7 d 0 va)
  else if Config.scratchBytes ≤ va then .error (accessFault .outOfTable 7 d 0 va)
  else .ok va

/-- ABN: an exact addition into a BIN set (17 R319). -/
def execAbn (g : BitVec 4) (n m : BitVec 5) (s : State) : Out :=
  guarded g s fun s =>
    let x : BitVec 32 := bitsAt (s.core.r.readA m) 0 32
    if s.blocked (.abn 0 x) then .next (s.hold .queueCap)
    else match s.binPlace n .atomic with
      | .error i => .next (s.takePrecise i)
      | .ok off => .next (s.enact 7 (.abn off x))

/-- BFOLD: the fold of a BIN set into aM and `lda` (17 R320). -/
def execBfold (g : BitVec 4) (n m : BitVec 5) (e : BitVec 2) (s : State) : Out :=
  guarded g s fun s =>
    match s.binPlace n .read with
    | .error i => .next (s.takePrecise i)
    | .ok off =>
      let (b0, d, c) := s.core.fencedPhase (granulesFrom off 64)
      let l : Landing := { due := b0 + d + 11, seq := 0, slot := 7, file := some .a, dst := BitVec.ofNat 10 m.toNat, val := 0,
                           sel := BitVec.allOnes 1024, flg := 0, latch := .lda, lval := 0, lsel := BitVec.allOnes 1024 }
      .next ({ s with core := c }.pushLoad (b0 - 4) ((List.range 64).map fun i => (i, off + i)) false false false (.bfold e) l)

/-! ## Performing -/

/-- Bytes of the image as an atomic reads them: a poisoned granule reads as the poison pattern (21 R382). -/
def Core.padNat (c : Core) (off n : Nat) : Nat :=
  elemsNat 8 (fun i => (if c.poison.contains (poisonGran false (off + i)) then poisonByte (off + i)
    else Memory.byte c.scratch (off + i)).toNat) n

/-- The fault of an atomic that reads a poisoned granule (21 R382). -/
def Core.atomPoison (c : Core) (off n : Nat) : Option FaultInfo :=
  if c.padPoisoned off n then some (poisonFault .atomic off) else none

/-- A fenced atomic writes the image; until its bank phase ends the write counts as one that has not performed (17 R318,
R319, 21 R379). -/
def Core.atomWrite (c : Core) (a : AtomAccess) (cells : List Host.Cell) : Core :=
  let old := cells.map fun x => (x.1, Memory.byte c.scratch x.1)
  { c.writePad cells with stores := c.stores ++ [{ seq := a.seq, w := a.w, bytes := cells, applied := true, old := old }] }

/-- A fenced atomic acts on the image of its bank cycle; the fault of a poisoned granule is taken when its old value lands,
and that of ABN at once (17 R318, R319, 21 R380). -/
def State.atomAct (s : State) (a : AtomAccess) : State :=
  match a.eff with
  | .atmLocal op i64 off x cmp =>
    let n := if i64 then 8 else 4
    let w := 8 * n
    let old := s.core.padNat off n
    let bad := s.core.atomPoison off n
    let c := s.core.atomWrite a (cellsOf off n (atomicNew op w old (x.toNat % 2 ^ w) (cmp.toNat % 2 ^ w)))
    State.flyOld { s with core := c }
      { due := a.due, seq := a.seq, slot := 7, file := none, dst := 0, val := 0, sel := 0, flg := 0, latch := .lda,
        lval := BitVec.ofNat 1024 old, lsel := BitVec.allOnes 1024, bad := bad }
  | .abn off x =>
    let bad := s.core.atomPoison off 64
    let (set, s) := s.binAdd (BitVec.ofNat 512 (s.core.padNat off 64)) x
    { s with core := { s.core.atomWrite a (cellsOf off 64 set.toNat) with lateDue := s.core.raiseLate bad } }
  | _ => s

/-- A remote atomic acts when it arrives, after the core's own accesses; its old value goes back in the first slot of the
reverse pair from four cycles later that no earlier return holds, once it has crossed to the send queue.  This core takes the fault of a poisoned granule (17 R318, 20 R362,
21 R382; assumption 95). -/
def State.atomRemote (s : State) (off : Nat) (a : BitVec 3 × Bool × Word × Word × BitVec 7) : State :=
  let (op, i64, x, cmp, src) := a
  let n := if i64 then 8 else 4
  let w := 8 * n
  let old := s.core.padNat off n
  let (at_, s) := s.cross s.web
  let c := s.core.writePad (cellsOf off n (atomicNew op w old (x.toNat % 2 ^ w) (cmp.toNat % 2 ^ w)))
  let f : Flit := { src := c.pos, dst := src, body := .atmRet (BitVec.ofNat 64 old), data := 0 }
  { s with core := { c with
      lateDue := c.raiseLate (s.core.atomPoison off n)
      sendQ := c.sendQ ++ [{ fl := f, ready := at_ + 4, cap := 0, first := true, beat := none, delayed := false, displaced := false, kept := false }] } }

end Sys2Proof.Machine
end

