-- ==== Sys2Proof/Machine/Control.lean ====
section
/-! DEFINITION. The instructions of the control slot that direct issue (18 R324 to R337, 07 R139, 08 R151, R152, 17 R310,
20 R363, 21 R390), the header's actions, and the events that end a hold (19 R350). -/

namespace Sys2Proof.Machine

/-- The illegal-operation fault of the control slot (03 R46, R57). -/
def State.illegal (s : State) : Out := .next (s.takePrecise (.plain .illegalOperation 0))

/-! ## Taken transfers -/

/-- The bundle takes a control transfer to an index of the executing half, when it is in range (18 R324, 03 R46). -/
def State.goTo (s : State) (target : Int) (loops : Nat → List Level) : Out :=
  if 0 ≤ target ∧ target < 1024 then
    let t := target.toNat
    .next { s with core := { s.core with taken := some { half := s.core.seq.half, index := t, loops := loops t } } }
  else s.illegal

/-- The link: a31 takes the index of the next bundle at c+1, with no latch (18 R329). -/
def State.link (s : State) : State :=
  s.push64 0 1 (some .a) 31 (BitVec.ofNat 64 (s.core.seq.index.toNat + 1)) .none

/-- Levels after a branch: those whose body contains the target stay (18 R328). -/
def State.keep (s : State) (t : Nat) : List Level := keepLevels t s.core.seq.loops

/-- The target of a displacement form (18 R328). -/
def State.near (s : State) (d : BitVec 14) : Int := (s.core.seq.index.toNat : Int) + d.toInt

/-- The target of a register form: aN plus the immediate (18 R328). -/
def State.far (s : State) (n : BitVec 5) (im : BitVec 9) : Int := (s.core.r.readA n).toInt + im.toInt

/-- BR (18 R328). -/
def execBr (g : BitVec 4) (d : BitVec 14) (s : State) : Out :=
  guarded g s fun s => s.goTo (s.near d) s.keep

/-- BRI (18 R328). -/
def execBri (g : BitVec 4) (n : BitVec 5) (im : BitVec 9) (s : State) : Out :=
  guarded g s fun s => s.goTo (s.far n im) s.keep

/-- A call is illegal while a loop level is active (18 R329). -/
def State.callTo (s : State) (target : Int) : Out :=
  if s.core.seq.loops.isEmpty then s.link.goTo target fun _ => [] else s.illegal

/-- CALL (18 R329). -/
def execCall (g : BitVec 4) (d : BitVec 14) (s : State) : Out :=
  guarded g s fun s => s.callTo (s.near d)

/-- CALLI (18 R329). -/
def execCalli (g : BitVec 4) (n : BitVec 5) (im : BitVec 9) (s : State) : Out :=
  guarded g s fun s => s.callTo (s.far n im)

/-- RET: to a31, popping every level (18 R329). -/
def execRet (g : BitVec 4) (s : State) : Out :=
  guarded g s fun s => s.goTo (s.core.r.readA 31).toInt fun _ => []

/-- BRK: past the end of the innermost level, which is popped (18 R330). -/
def execBrk (g : BitVec 4) (s : State) : Out :=
  guarded g s fun s =>
    match s.core.seq.loops with
    | [] => s.illegal
    | l :: t => s.goTo (l.stop.toNat + 1) fun _ => t

/-! ## Loops -/

/-- The body of a new level fits: within the half and within the innermost level, of which this bundle is not the END
(18 R327). -/
def State.bodyFits (s : State) (stop : Nat) : Bool :=
  decide (stop ≤ 1023) &&
    (match s.core.seq.loops with
     | [] => true
     | l :: _ => decide (stop ≤ l.stop.toNat) && l.stop != s.core.seq.index)

/-- A level is pushed (18 R325); a seventh is illegal (R327). -/
def State.pushLevel (s : State) (stop : Nat) (rem : BitVec 32) (opn : Bool) : Out :=
  let q := s.core.seq
  if s.bodyFits stop && decide (q.loops.length < 6) then
    let l : Level := { start := q.index + 1, stop := BitVec.ofNat 10 stop, rem := rem, idx := 0, opn := opn }
    .next { s with core := { s.core with seq := { q with loops := l :: q.loops } } }
  else s.illegal

/-- The END of a loop's body: L bundles on, where l holds L − 1 (18 R325). -/
def State.loopEnd (s : State) (l : BitVec 6) : Nat := s.core.seq.index.toNat + l.toNat + 1

/-- LOOP: n iterations, where c holds n − 1 (18 R325). -/
def execLoop (g : BitVec 4) (c : BitVec 7) (l : BitVec 6) (s : State) : Out :=
  guarded g s fun s => s.pushLevel (s.loopEnd l) (BitVec.ofNat 32 c.toNat) false

/-- LOOPA: aN iterations; none transfer past the body (18 R325). -/
def execLoopa (g : BitVec 4) (n : BitVec 5) (l : BitVec 6) (s : State) : Out :=
  guarded g s fun s =>
    let x := s.core.r.readA n
    if 2 ^ 32 ≤ x.toNat then s.illegal
    else if x = 0 then (if s.bodyFits (s.loopEnd l) then s.goTo (s.loopEnd l + 1) s.keep else s.illegal)
    else s.pushLevel (s.loopEnd l) (BitVec.ofNat 32 (x.toNat - 1)) false

/-- LOOPN: aN iterations, or without bound when aN is 0, where REM ← count − 1 is all ones in its 32 bits (18 R325). -/
def execLoopn (g : BitVec 4) (n : BitVec 5) (l : BitVec 6) (s : State) : Out :=
  guarded g s fun s =>
    let x := s.core.r.readA n
    if 2 ^ 32 ≤ x.toNat then s.illegal
    else s.pushLevel (s.loopEnd l) (BitVec.ofInt 32 (x.toInt - 1)) (x == 0)

/-! ## Predicates and tiles -/

/-- A predicate result from the control slot lands n cycles from now, with no latch (18 R331, R335). -/
def State.pushPred (s : State) (slot n : Nat) (d : BitVec 3) (b : Bool) : State :=
  s.push64 slot n (some .p) (BitVec.ofNat 10 d.toNat) (if b then 1 else 0) .none

/-- The operations of PLOG (18 R331). -/
def plogOp (o : BitVec 3) (x y : Bool) : Bool :=
  match o.toNat with
  | 0 => x && y
  | 1 => x || y
  | _ => x != y

/-- PLOG; op codes 3 to 7 are illegal (18 R331). -/
def execPlog (g : BitVec 4) (d o : BitVec 3) (a b : BitVec 4) (s : State) : Out :=
  guarded g s fun s =>
    if 2 < o.toNat then s.illegal else .next (s.pushPred 0 1 d (plogOp o (s.guardOn a) (s.guardOn b)))

/-- PSET (18 R331). -/
def execPset (g : BitVec 4) (d : BitVec 3) (v : BitVec 1) (s : State) : Out :=
  guarded g s fun s => .next (s.pushPred 0 1 d (v == 1))

/-- Kind and count of a level of the loop table (19 R348). -/
def loopKind (w : BitVec 32) : Nat := w.toNat / 2 ^ 30
/-- The count of a level. -/
def loopCount (w : BitVec 32) : Nat := w.toNat % 2 ^ 16

/-- The levels of a kind, from the lowest number up. -/
def levelsOf (tab : Vector (BitVec 32) 6) (k : Nat) : List Nat :=
  (List.range 6).filter fun l => loopKind ((tab[l]?).getD 0) == k

/-- The level order from the least significant digit up: temporal, cores, dies, each from the lowest level up (19
R349). -/
def levelOrder (tab : Vector (BitVec 32) 6) : List Nat := levelsOf tab 0 ++ levelsOf tab 1 ++ levelsOf tab 2

/-- The coordinates of a tile: its mixed-radix digits (19 R349). -/
def tileDigits (tab : Vector (BitVec 32) 6) : List Nat → Nat → Nat → Nat
  | [], _, _ => 0
  | l :: t, n, want =>
    let c := loopCount ((tab[l]?).getD 0)
    if l = want then n % c else tileDigits tab t (n / c) want

/-- The 97 bits of a tile register for tile n: t0 lowest, V above t5 (11 R199). -/
def tileBits (tab : Vector (BitVec 32) 6) (n : Nat) : Line :=
  BitVec.ofNat 1024 (elemsNat 16 (tileDigits tab (levelOrder tab) n) 6 + 2 ^ 96)

/-- NXT: the next tile of the slice, or null, in the tile register of the rotation pointer at c+24 (18 R335). -/
def execNxt (g : BitVec 4) (d : BitVec 3) (s : State) : Out :=
  guarded g s fun s =>
    let c := s.core
    let more := decide (c.walk < c.walkEnd)
    let x := if more then tileBits c.loopTab c.walk else 0
    let s := s.push { due := c.cyc + 24, seq := 0, slot := 0, file := some .tc, dst := BitVec.ofNat 10 (16 + c.tctr.toNat),
                      val := x, sel := BitVec.allOnes 1024, flg := 0, latch := .none, lval := 0, lsel := 0 }
    let s := s.pushPred 0 24 d more
    .next { s with core := { s.core with tctr := c.tctr + 1, walk := c.walk + b2n more } }

/-! ## Waits -/

/-- The next bundle waits. -/
def State.await (s : State) (w : Wait) : State := { s with core := { s.core with wait := w } }

/-- WAITC: until the counter is at most n (17 R310). -/
def execWaitc (g : BitVec 4) (c : BitVec 1) (n : BitVec 9) (s : State) : Out :=
  guarded g s fun s => .next (s.await (.waitc (c == 1) n))

/-- WMW: until the generation of a watermark word is reached; a word in a poisoned granule is read again when the next bundle is due,
with its fault (07 R139, 21 R382; assumption 95). -/
def execWmw (g : BitVec 4) (n : BitVec 5) (e : BitVec 9) (s : State) : Out :=
  guarded g s fun s =>
    let va := (s.core.r.readA n).toNat
    if va % 16 ≠ 0 then .next (s.takePrecise (accessFault .misalignment 0 .read 0 va))
    else match s.core.wordPlace va with
      | none => .next (s.takePrecise (accessFault .outOfTable 0 .read 0 va))
      | some (q, off) =>
        if q && s.reloads then .next (State.slips (s.await (.wmw q off e none)) 1)
        else if genReached (s.wordGen q off) e && !s.core.poison.contains (poisonGran q off) then .next s
        else .next (s.await (.wmw q off e none))

/-- WSAMP: until the next sample, or an overrun counted (20 R363). -/
def execWsamp (g : BitVec 4) (s : State) : Out :=
  guarded g s fun s =>
    let k := s.region.smpc
    let lw := s.core.lw.toNat
    if k = lw then .next (State.await { s with core := { s.core with lw := BitVec.ofNat 64 (k + 1) } } .wsamp)
    else .next { s with core := { s.core with lw := BitVec.ofNat 64 k }, region := s.region.count s.moment 0 0 0 (k - lw) }

/-- What IFENCE reports: the last overlay is ok and none has failed since the last IFENCE (08 R151). -/
def Core.fenceOk (c : Core) : Bool := c.ovs.st == 2 && !c.ovs.fs

/-- IFENCE: until the started overlays have finished (08 R151). -/
def execIfence (g : BitVec 4) (p : BitVec 3) (s : State) : Out :=
  guarded g s fun s =>
    .next { s with core := { s.core with wait := .ifence p, undo := s.core.undo + b2n (p != 0) } }

/-- BSWAP: the other half, after the started overlays have finished, those of its own bundle among them; illegal while a level
is active (08 R152). -/
def execBswap (g : BitVec 4) (im : BitVec 10) (s : State) : Out :=
  guarded g s fun s =>
    if !s.core.seq.loops.isEmpty then s.illegal else .next (s.await (.bswap im))

/-! ## Snapshots, traps and halting -/

/-- SNAP: a snapshot trigger when ESNAP is set (21 R390). -/
def execSnap (g : BitVec 4) (s : State) : Out :=
  guarded g s fun s => .next (if s.core.r.esnap then s.trigger 0 else s)

/-- Issue stops after this bundle with a record for the runtime, which `endBundle` completes (18 R336). -/
def State.stopWith (s : State) (sysc : Bool) (n : BitVec 5) (c : BitVec 9) : State :=
  let r : TrapRecord := { sysc := sysc, code := c, arg := s.core.r.readA n, half := s.core.seq.half, index := s.core.seq.index }
  { s with core := { s.core with run := .trapped, trapRec := some r } }

/-- TRAP (18 R336). -/
def execTrap (g : BitVec 4) (n : BitVec 5) (c : BitVec 9) (s : State) : Out :=
  guarded g s fun s => .next (s.stopWith false n c)

/-- SYSC (18 R336). -/
def execSysc (g : BitVec 4) (n : BitVec 5) (c : BitVec 9) (s : State) : Out :=
  guarded g s fun s => .next (s.stopWith true n c)

/-- HALT: the gate buffer commits, and issue stops (18 R337). -/
def execHalt (g : BitVec 4) (s : State) : Out :=
  guarded g s fun s => let s := s.commitGate
    .next { s with core := { s.core with run := .halted } }

/-! ## The header -/

/-- An RM bundle commits before its own slots act; it holds while a tile is busy (21 R378, 15 R276). -/
def execRestartMark (s : State) : Out :=
  if s.core.mx.inFlight then .next (s.hold .busyBit) else .next s.commitGate

/-- A queue advances by one message, if it has one to present (10 R181). -/
def RQueue.pop1 (q : RQueue) : RQueue := if q.visible.isEmpty then q else { q with popped := q.popped + 1 }

/-- Advance the queue of a head. -/
def Core.popHead (c : Core) (h : Nat) : Core :=
  match (c.heads[h]?).getD none with
  | some q => { c with rq := c.rq.set q.toNat (c.rq[q.toNat]).pop1 }
  | none => c

/-- POP: each bound queue named by the mask advances by one message (10 R181, 03 R36). -/
def execPop (q : BitVec 4) (s : State) : Out :=
  .next { s with core := (List.range 4).foldl (fun c h => if bitAt q h then c.popHead h else c) s.core }

/-! ## The ends of holds -/

/-- The wait is over. -/
def State.endWait (s : State) : State := s.await .none

/-- A WMW wait ends 3 cycles after the write that satisfied it performed (07 R139). -/
def execWmwResume (s : State) : Out :=
  match s.core.wait with
  | .wmw q _ _ (some n) =>
    if n + 3 ≤ s.core.cyc ∧ !(q && s.reloads) then .next s.endWait else .fault .notDue
  | _ => .fault .notDue

/-- A WAITC wait ends in the first cycle in which its counter is low enough (17 R310). -/
def execWaitcResume (s : State) : Out :=
  match s.core.wait with
  | .waitc st n =>
    if (if st then s.core.scnt else s.core.lcnt) ≤ n.toNat then .next s.endWait else .fault .notDue
  | _ => .fault .notDue

/-- The swap of a BSWAP: a group switch to the other half, with a dead cycle after it (08 R152). -/
def Core.swapTo (c : Core) (t : BitVec 10) : Core :=
  { c.groupSwitch with wait := .none, dead := 1, seq := { half := ~~~c.seq.half, index := t, loops := [] } }

/-- The result of an IFENCE for its predicate; its undo entry was taken at issue (08 R151, 21 R377). -/
def State.fenceResult (s : State) (p : BitVec 3) : State :=
  if p = 0 then s
  else
    let c := s.core
    let x := BitVec.ofNat 1024 (b2n c.fenceOk)
    let l : Landing := { due := c.cyc, seq := c.seqNo, slot := 0, file := some .p, dst := BitVec.ofNat 10 p.toNat, val := x,
                         sel := BitVec.allOnes 1024, flg := 0, latch := .none, lval := x, lsel := BitVec.allOnes 1024 }
    State.fly { s with core := { c with
      seqNo := c.seqNo + 1
      known := c.known.set p.toNat (some (Nat.max c.cyc ((c.known[p.toNat]).getD 0))) } } l

/-- An IFENCE wait ends at the cycle after the last finish F, when FS is cleared (08 R151). -/
def State.fenceOver (s : State) : State := { s with core := { s.core with wait := .none, ovs := { s.core.ovs with fs := false } } }

/-- The predicate of an IFENCE lands with `ovs` at the last finish F, with the other results that do, or in the cycle after the
IFENCE when F is past (08 R151, 11 R206, 24 R405); the wait ends at F + 1, unless another overlay has started.  A BSWAP wait ends at the
finish itself (08 R152). -/
def execIfenceResume (s : State) : Out :=
  let c := s.core
  match c.wait with
  | .ifence p =>
    if !c.overlaysDone c.cyc then .fault .notDue
    else if c.overlaysDone (c.cyc - 1) then .next (s.fenceResult p).fenceOver
    else .next ((s.fenceResult p).await (.fenced p))
  | .fenced p => .next (if c.overlaysDone (c.cyc - 1) then s.fenceOver else s.await (.ifence p))
  | .bswap t => if c.overlaysDone c.cyc then .next { s with core := c.swapTo t } else .fault .notDue
  | _ => .fault .notDue

/-- A WSAMP hold ends in the first cycle of the next sample, which LW numbers since the hold began; the core resumes, and its count towards `preb`
starts again (20 R363, 21 R386, 25 R406; assumption 97). -/
def execWsampResume (s : State) : Out :=
  match s.core.wait with
  | .wsamp =>
    if s.core.lw.toNat ≤ s.region.smpc then
      .next { s with core := { s.core with wait := .none, psCount := 0 } }
    else .fault .notDue
  | _ => .fault .notDue

/-- A hold of the bundle at the PC ends (19 R350). -/
def State.endHold (s : State) (ok : Bool) : Out :=
  if ok then .next { s with core := { s.core with held := .none } } else .fault .notDue

/-- The hold of an empty queue head ends (10 R181). -/
def execQueueHeadResume (s : State) : Out := s.endHold (s.core.held == .queueHead)

/-- The hold of a busy tile or data path ends (15 R275, R276). -/
def execBusyBitResume (s : State) : Out := s.endHold (s.core.held == .busyBit)

/-- The hold of a full queue, or of a load while its mirror reloads, ends (07 R130, 09 R158, R161, 10 R183, 21 R377). -/
def execQueueCapResume (s : State) : Out := s.endHold (s.core.held == .queueCap || s.core.held == .mirrorReload)

/-- The hold of a sum-product bank extension ends (16 R289). -/
def execBankExtensionResume (s : State) : Out := s.endHold (s.core.held == .bankExtension)

/-- The oldest committed entry of the gate buffer leaves when its queue has room (21 R378). -/
def execGateEntryRelease (s : State) : Out :=
  match s.core.gate with
  | e :: t =>
    if e.committed ∧ s.core.room e.eff then
      .next (State.applyEff { s with core := { s.core with gate := t } } e.seq e.eff)
    else .fault .notDue
  | [] => .fault .notDue

/-- The watchdog fault, when the core has passed its bound since the last PS bundle (21 R386). -/
def execWatchdog (s : State) : Out :=
  if s.core.r.preb ≠ 0 ∧ s.core.r.preb.toNat ≤ s.core.psCount then .next (s.takePrecise (.plain .watchdog 0))
  else .fault .notDue

end Sys2Proof.Machine
end

