-- ==== Sys2Proof/Machine/Sp32.lean ====
section
/-! DEFINITION. SP32, the scaled-probability format (04 R75 to R77). -/

namespace Sys2Proof.Machine

/-- An SP32 value: m·2^e for a finite one (04 R75). -/
inductive Sp where
  | zero | sat | nan
  | num (m : Nat) (e : Int)
deriving DecidableEq, Repr

/-- The value of an SP32 word; a reserved word reads as zero and raises SPR (04 R75). -/
def spDecode (x : Lane32) : Sp × FFlags :=
  let e : Nat := x.toNat / 2 ^ 16
  let f := x.toNat % 2 ^ 16
  if e = 0 then (.zero, flagIf (f ≠ 0) sprFlag)
  else if e = 65535 then (if f = 0 then .sat else .nan, 0)
  else (.num (2 ^ 16 + f) ((e : Int) - 32783), 0)

/-- Round a nonzero magnitude m·2^e to SP32 (04 R76). -/
def roundSp (mode m : Nat) (e : Int) : Flagged :=
  let q := magExp m e - 16
  let (r, nx) := roundUnits mode false m e q
  let t : Int := (q + 32783) * 65536 + r - 65536
  if t < 65536 then { v := 0, f := ufFlag ||| nxFlag }
  else if 65535 * 65536 ≤ t then { v := 0xFFFF0000, f := ofFlag ||| nxFlag }
  else { v := t.toNat, f := flagIf nx nxFlag }

/-- The canonical NaN (04 R75). -/
def spNan : Nat := 0xFFFFFFFF

/-- A value as a word; a finite one is rounded RNE, which leaves 17-bit significands as they are. -/
def Sp.encode : Sp → Flagged
  | .zero => quiet 0
  | .sat => quiet 0xFFFF0000
  | .nan => quiet spNan
  | .num m e => if m = 0 then quiet 0 else roundSp 0 m e

/-- The sum of two SP32 words (04 R76). -/
def spAdd (x y : Lane32) : Flagged :=
  let a := spDecode x
  let b := spDecode y
  let r : Flagged := match a.1, b.1 with
    | .nan, _ => quiet spNan
    | _, .nan => quiet spNan
    | .sat, _ => quiet 0xFFFF0000
    | _, .sat => quiet 0xFFFF0000
    | .zero, v => v.encode
    | v, .zero => v.encode
    | .num m e, .num n f =>
      let s := exactSum false m e false n f
      roundSp 0 s.1.toNat s.2
  { r with f := r.f ||| a.2 ||| b.2 }

/-- The product of two SP32 words (04 R76). -/
def spMul (x y : Lane32) : Flagged :=
  let a := spDecode x
  let b := spDecode y
  let r : Flagged := match a.1, b.1 with
    | .nan, _ => quiet spNan
    | _, .nan => quiet spNan
    | .sat, .zero => { v := spNan, f := nvFlag }
    | .zero, .sat => { v := spNan, f := nvFlag }
    | .sat, _ => quiet 0xFFFF0000
    | _, .sat => quiet 0xFFFF0000
    | .zero, _ => quiet 0
    | _, .zero => quiet 0
    | .num m e, .num n f => roundSp 0 (m * n) (e + f)
  { r with f := r.f ||| a.2 ||| b.2 }

/-- An SP32 word as an operation reads it: reserved words as zero, NaNs as the canonical NaN (04 R75). -/
def spCanon (x : Lane32) : Flagged :=
  let a := spDecode x
  let r := a.1.encode
  { r with f := a.2 }

/-- The larger or smaller of two SP32 words by unsigned comparison; a NaN gives the canonical NaN (04 R75). -/
def spPick (larger : Bool) (x y : Lane32) : Flagged :=
  let a := spCanon x
  let b := spCanon y
  let v := if a.v = spNan ∨ b.v = spNan then spNan
    else if larger then Nat.max a.v b.v else Nat.min a.v b.v
  { v := v, f := a.f ||| b.f }

/-- FP32 to SP32 (04 R77). -/
def spOfFp32 (mode : Nat) (x : Lane32) : Flagged :=
  match fp32Of x with
  | .nan => quiet spNan
  | .inf neg => if neg then { v := spNan, f := nvFlag } else quiet 0xFFFF0000
  | .num neg m e =>
    if m = 0 then quiet 0
    else if neg then { v := spNan, f := nvFlag }
    else roundSp mode m e

/-- SP32 to FP32 (04 R77). -/
def fp32OfSp (mode : Nat) (x : Lane32) : Flagged :=
  let a := spDecode x
  let r := match a.1 with
    | .zero => quiet 0
    | .sat => quiet fp32.inf
    | .nan => quiet fp32.nan
    | .num m e => fp32.roundNum mode false m e
  { r with f := r.f ||| a.2 }

end Sys2Proof.Machine
end

