-- ==== Sys2Proof/Machine/Vector.lean ====
section
/-! DEFINITION. The common course of the vector instructions: widths, lane masks, destinations (13 R229 to R232). -/

namespace Sys2Proof.Machine

/-- The first physical lane of a width (13 R229). -/
def firstLane (z : BitVec 3) : Nat := (lanesOfWidth z).1

/-- Operation lane i of a line (13 R229). -/
def opLane (z : BitVec 3) (x : Line) (i : Nat) : Lane32 := lane x (firstLane z + i)

/-- Element i of w bits among the operation's bits (13 R240). -/
def opElem (z : BitVec 3) (x : Line) (w i : Nat) : Nat := x.toNat / 2 ^ (32 * firstLane z + w * i) % 2 ^ w

/-- What a vector operation lands. -/
structure VRes where
  val : Line
  sel : Line
  flg : FFlags
deriving DecidableEq, Repr

/-- The results of the lanes of a width, those that a lane mask excludes left out and unflagged (13 R232). -/
def lanesOut (z : BitVec 3) (k : Lane32) (f : Nat → Flagged) : VRes :=
  let b := firstLane z
  let rs := (List.range (lanesOf z)).map fun i => if bitAt k (b + i) then f i else quiet 0
  { val := BitVec.ofNat 1024 (elemsNat 32 (fun i => (nth (quiet 0) rs i).v) (lanesOf z) * 2 ^ (32 * b))
    sel := laneSel (takesPart z k)
    flg := orFlags (rs.map (·.f)) }

/-- The results of packed elements of w bits; the operation's bits above them are zero (13 R240). -/
def packedOut (z : BitVec 3) (w : Nat) (f : Nat → Flagged) : VRes :=
  let rs := (List.range (lanesOf z)).map f
  { val := BitVec.ofNat 1024 (elemsNat w (fun i => (nth (quiet 0) rs i).v) (lanesOf z) * 2 ^ (32 * firstLane z))
    sel := laneSel (takesPart z 0xFFFFFFFF)
    flg := orFlags (rs.map (·.f)) }

/-- A vector result lands in vD, unless write-back is suppressed, and in the slot's latch (13 R230). -/
def State.pushVec (s : State) (u w : BitVec 1) (d : BitVec 4) (n : Nat) (r : VRes) : State :=
  s.pushLine (vecSlot u) n (destOf w .v) (BitVec.ofNat 10 d.toNat) r.val r.sel r.flg (vecLatch u)

/-- A vector instruction of two sources: `f` gives what it lands from them (13 R232). -/
def vec2 (u : BitVec 1) (g : BitVec 4) (d : BitVec 4) (w : BitVec 1) (a b : BitVec 5) (n : Nat)
    (f : State → Line → Line → VRes) (s : State) : Out :=
  guarded g s fun s =>
    if s.waitsV a || s.waitsV b then .next (s.hold .queueHead)
    else .next (s.pushVec u w d n (f s (s.srcV a) (s.srcV b)))

/-- A vector instruction of one source (13 R232). -/
def vec1 (u : BitVec 1) (g : BitVec 4) (d : BitVec 4) (w : BitVec 1) (a : BitVec 5) (n : Nat)
    (f : State → Line → VRes) (s : State) : Out :=
  guarded g s fun s =>
    if s.waitsV a then .next (s.hold .queueHead)
    else .next (s.pushVec u w d n (f s (s.srcV a)))

/-- A lane operation of two sources under a write mask. -/
def lanes2 (u : BitVec 1) (g : BitVec 4) (d : BitVec 4) (w : BitVec 1) (a b : BitVec 5) (z : BitVec 3) (k : BitVec 3)
    (n : Nat) (f : Nat → Lane32 → Lane32 → Flagged) (s : State) : Out :=
  vec2 u g d w a b n (fun s x y =>
    lanesOut z (s.core.r.readK k) fun i => f s.core.r.fmode.toNat (opLane z x i) (opLane z y i)) s

/-- A lane operation of one source under a write mask. -/
def lanes1 (u : BitVec 1) (g : BitVec 4) (d : BitVec 4) (w : BitVec 1) (a : BitVec 5) (z : BitVec 3) (k : BitVec 3)
    (n : Nat) (f : Lane32 → Flagged) (s : State) : Out :=
  vec1 u g d w a n (fun s x => lanesOut z (s.core.r.readK k) fun i => f (opLane z x i)) s

/-- A lane operation of two integers, which raises no flag (13 R237). -/
def ints2 (u : BitVec 1) (g : BitVec 4) (d : BitVec 4) (w : BitVec 1) (a b : BitVec 5) (z : BitVec 3) (k : BitVec 3)
    (f : Lane32 → Lane32 → Lane32) (s : State) : Out :=
  lanes2 u g d w a b z k 2 (fun _ x y => quiet (f x y).toNat) s

/-- An immediate operation on every lane of a width (13 R239). -/
def intsImm (u : BitVec 1) (g : BitVec 4) (d : BitVec 4) (w : BitVec 1) (a : BitVec 5) (z : BitVec 3)
    (f : Lane32 → Lane32) (s : State) : Out :=
  vec1 u g d w a 2 (fun _ x => lanesOut z 0xFFFFFFFF fun i => quiet (f (opLane z x i)).toNat) s

/-- A mask result: bits of kD for the lanes of the width, and the latch's lanes all ones or zero, at c+2 (13 R236). -/
def State.pushMask (s : State) (u w : BitVec 1) (d : BitVec 3) (z : BitVec 3) (f : Nat → Bool) (flg : FFlags) : State :=
  let b := firstLane z
  let bs := (List.range (lanesOf z)).map f
  s.push { due := s.core.cyc + 2, seq := 0, slot := vecSlot u, file := destOf w .k, dst := BitVec.ofNat 10 d.toNat,
           val := BitVec.ofNat 1024 (elemsNat 1 (fun i => b2n (nth false bs i)) (lanesOf z) * 2 ^ b),
           sel := BitVec.ofNat 1024 ((2 ^ lanesOf z - 1) * 2 ^ b), flg := flg, latch := vecLatch u,
           lval := laneSel (fun i => decide (b ≤ i) && nth false bs (i - b)),
           lsel := laneSel (takesPart z 0xFFFFFFFF) }

/-- A mask instruction of two line sources (13 R236). -/
def mask2 (u : BitVec 1) (g : BitVec 4) (d : BitVec 3) (w : BitVec 1) (a b : BitVec 5) (z : BitVec 3)
    (f : Lane32 → Lane32 → Bool × FFlags) (s : State) : Out :=
  guarded g s fun s =>
    if s.waitsV a || s.waitsV b then .next (s.hold .queueHead)
    else
      let x := s.srcV a
      let y := s.srcV b
      let rs := (List.range (lanesOf z)).map fun i => f (opLane z x i) (opLane z y i)
      .next (s.pushMask u w d z (fun i => (nth (false, 0) rs i).1) (orFlags (rs.map (·.2))))

/-- A mask instruction of two lane masks (13 R248). -/
def maskK (u : BitVec 1) (g : BitVec 4) (d : BitVec 3) (w : BitVec 1) (a b : BitVec 3) (z : BitVec 3)
    (f : Bool → Bool → Bool) (s : State) : Out :=
  guarded g s fun s =>
    let x := s.core.r.readK a
    let y := s.core.r.readK b
    .next (s.pushMask u w d z (fun i => f (bitAt x (firstLane z + i)) (bitAt y (firstLane z + i))) 0)

end Sys2Proof.Machine
end

