-- ==== Sys2Proof/Machine/Convert.lean ====
section
/-! DEFINITION. The conversions of the vector slots (13 R240 to R243). -/

namespace Sys2Proof.Machine

/-- The bits of an integer type: 4 I32, 5 I16, 6 I8 (03 R50). -/
def intBits (t : Nat) : Nat :=
  match t with
  | 4 => 32
  | 5 => 16
  | _ => 8

/-- The bits of a floating-point type: 0 FP32, 1 BF16, 2 FP16 (03 R50). -/
def floatBits (t : Nat) : Nat := if t = 0 then 32 else 16

/-- A conversion of the elements of a line, at c+3 (13 R240). -/
def convert (u : BitVec 1) (g : BitVec 4) (d : BitVec 4) (w : BitVec 1) (a : BitVec 5) (z : BitVec 3) (wf wt : Nat)
    (f : Nat → Flagged) (s : State) : Out :=
  vec1 u g d w a 3 (fun _ x => packedOut z wt fun i => f (opElem z x wf i)) s

/-- VCFI: a float to an integer (13 R241). -/
def execVcfi (u : BitVec 1) (g : BitVec 4) (d : BitVec 4) (w : BitVec 1) (sf : BitVec 5) (f : BitVec 3) (t : BitVec 3) (z : BitVec 3) (r : BitVec 2) (ux : BitVec 1) (s : State) : Out :=
  convert u g d w sf z (floatBits f.toNat) (intBits t.toNat)
    (fun x => toIntW r.toNat (intBits t.toNat) (ux == 1) ((fmtOf f.toNat).decode x)) s

/-- VCIF: an integer to a float (13 R241). -/
def execVcif (u : BitVec 1) (g : BitVec 4) (d : BitVec 4) (w : BitVec 1) (sf : BitVec 5) (f : BitVec 3) (t : BitVec 3) (z : BitVec 3) (r : BitVec 2) (ux : BitVec 1) (s : State) : Out :=
  convert u g d w sf z (intBits f.toNat) (floatBits t.toNat)
    (fun x => (fmtOf t.toNat).round r.toNat (Fp.ofInt (intValue (intBits f.toNat) (ux == 1) x) 0 false)) s

/-- VCFN: FP32 to BF16 or FP16 (13 R241). -/
def execVcfn (u : BitVec 1) (g : BitVec 4) (d : BitVec 4) (w : BitVec 1) (sf : BitVec 5) (t : BitVec 3) (z : BitVec 3) (r : BitVec 2) (s : State) : Out :=
  convert u g d w sf z 32 16 (fun x => (fmtOf t.toNat).round r.toNat (fp32.decode x)) s

/-- VCNF: BF16 or FP16 to FP32, exactly (13 R241). -/
def execVcnf (u : BitVec 1) (g : BitVec 4) (d : BitVec 4) (w : BitVec 1) (sf : BitVec 5) (f : BitVec 3) (z : BitVec 3) (r : BitVec 2) (s : State) : Out :=
  convert u g d w sf z 16 32 (fun x => fp32.round r.toNat ((fmtOf f.toNat).decode x)) s

/-- VCFS: FP32 to SP32 (04 R77). -/
def execVcfs (u : BitVec 1) (g : BitVec 4) (d : BitVec 4) (w : BitVec 1) (sf : BitVec 5) (z : BitVec 3) (r : BitVec 2) (s : State) : Out :=
  convert u g d w sf z 32 32 (fun x => spOfFp32 r.toNat (BitVec.ofNat 32 x)) s

/-- VCSF: SP32 to FP32 (04 R77). -/
def execVcsf (u : BitVec 1) (g : BitVec 4) (d : BitVec 4) (w : BitVec 1) (sf : BitVec 5) (z : BitVec 3) (r : BitVec 2) (s : State) : Out :=
  convert u g d w sf z 32 32 (fun x => fp32OfSp r.toNat (BitVec.ofNat 32 x)) s

/-- The finite elements of a block as sign, significand and exponent; none when one is NaN or infinite (13 R242). -/
def finiteBlock : List Lane32 → Option (List (Bool × Nat × Int))
  | [] => some []
  | x :: t => match fp32Of x, finiteBlock t with
    | .num n m e, some l => some ((n, m, e) :: l)
    | _, _ => none

/-- The block exponent: the offset is 121 for Q8 and 125 for Q4 (13 R242). -/
def blockScale (off : Int) (xs : List Lane32) : Nat :=
  let m := maxOf 0 (xs.map fun x => x.toNat % 2 ^ 31)
  match fp32Of (BitVec.ofNat 32 m) with
  | .num _ sg e => if sg = 0 then 127 else
      let t := magExp sg e + off
      if t < 0 then 0 else if 254 < t then 254 else t.toNat
  | _ => 255

/-- One quantised value and whether it differs from its element (13 R242). -/
def quantise (mode : Nat) (lim : Int) (e : Nat) (x : Bool × Nat × Int) : Int × Bool :=
  let (r, nx) := roundUnits mode x.1 x.2.1 (x.2.2 + 127 - e) 0
  let i := signedMag x.1 r
  if i < -lim then (-lim, true) else if lim < i then (lim, true) else (i, nx)

/-- The values, the scale and the flags of a quantised block (13 R242). -/
def quantBlock (q4 : Bool) (mode : Nat) (xs : List Lane32) : List Int × Nat × FFlags :=
  match finiteBlock xs with
  | none => (List.replicate 32 0, 255, nvFlag)
  | some l =>
    let e := blockScale (if q4 then 125 else 121) xs
    let qs := l.map (quantise mode (if q4 then 7 else 127) e)
    (qs.map (·.1), e, flagIf (qs.any (·.2)) nxFlag)

/-- The bits of a quantised value. -/
def quantBits (q4 : Bool) : Nat := if q4 then 4 else 8

/-- VQNT: a block of 32 FP32 elements as Q8 or Q4 with its scale in the lane after them (13 R242). -/
def execVqnt (u : BitVec 1) (g : BitVec 4) (d : BitVec 4) (w : BitVec 1) (sf : BitVec 5) (r : BitVec 2) (ux : BitVec 1) (s : State) : Out :=
  vec1 u g d w sf 3 (fun _ x =>
    let q4 := ux == 1
    let n := quantBits q4
    let b := quantBlock q4 r.toNat ((List.range 32).map (lane x))
    { val := BitVec.ofNat 1024 (elemsNat n (fun i => (nth 0 b.1 i % 2 ^ n).toNat) 32 + b.2.1 * 2 ^ (32 * n))
      sel := BitVec.allOnes 1024
      flg := b.2.2 }) s

/-- VDQN: a Q8 or Q4 block as FP32; a void block gives NaNs and NV (13 R243). -/
def execVdqn (u : BitVec 1) (g : BitVec 4) (d : BitVec 4) (w : BitVec 1) (sf : BitVec 5) (r : BitVec 2) (ux : BitVec 1) (s : State) : Out :=
  vec1 u g d w sf 3 (fun _ x =>
    let n := quantBits (ux == 1)
    let e := (elem x 8 (4 * n)).toNat
    lanesOut 6 0xFFFFFFFF fun i =>
      if e = 255 then { v := fp32.nan, f := nvFlag }
      else fp32.round r.toNat (Fp.ofInt (intValue n false (elem x n i).toNat) ((e : Int) - 127) false)) s

end Sys2Proof.Machine
end

