-- ==== Sys2Proof/Machine/Crossing.lean ====
section
/-! DEFINITION. Crossing ports: XWR, XRD, XST, and what arrives from the other end (20 R365 to R371). -/

namespace Sys2Proof.Machine

/-! ## The fields of a port's configuration -/

/-- EN (20 R365). -/
def Port.en (p : Port) : Bool := bitAt p.cfg 63
/-- This is a reader end. -/
def Port.isReader (p : Port) : Bool := bitAt p.cfg 62
/-- MODE: 0 FIFO, 1 HOLD, 2 INTERP. -/
def Port.mode (p : Port) : Nat := (bitsAt p.cfg 60 2).toNat
/-- EST. -/
def Port.usesEst (p : Port) : Bool := bitAt p.cfg 59
/-- Taps of INTERP. -/
def Port.taps (p : Port) : Nat := (bitsAt p.cfg 55 4).toNat + 1
/-- DLY. -/
def Port.dly (p : Port) : Nat := (bitsAt p.cfg 51 4).toNat
/-- CORE. -/
def Port.user (p : Port) : BitVec 11 := bitsAt p.cfg 40 11
/-- P. -/
def Port.p (p : Port) : Nat := (bitsAt p.cfg 16 15).toNat
/-- Q, at least 1. -/
def Port.q (p : Port) : Nat := Nat.max 1 (bitsAt p.cfg 1 15).toNat

/-- Lines received and not taken (20 R367). -/
def Port.unread (p : Port) : List Line := p.fifo.drop p.popped

/-- The declared ratio in 16.16 fixed point, which E holds until it has been measured (20 R367). -/
def Port.declared (p : Port) : Nat := 65536 * p.p / p.q

/-- The port of a performed operation, unless it raises the illegal-operation fault (20 R371). -/
def State.portFor (s : State) (n : BitVec 2) (reader : Option Bool) : Option Port :=
  let p := s.core.xp[n.toNat]
  let role : Bool := match reader with
    | some b => p.isReader == b
    | none => true
  if p.en ∧ p.user = s.core.tix ∧ role then some p else none

/-! ## INTERP -/

/-- The first line index and the phase of the next read, and the position it leaves (20 R367). -/
def Port.aim (p : Port) : Int × Nat × Nat :=
  if p.usesEst then
    let pos := p.pos + p.est
    ((pos / 65536 : Nat) - (p.dly : Int), 64 * (pos % 65536) / 65536, pos)
  else
    let u := p.j * p.p
    ((u / p.q : Nat) - (p.dly : Int), 64 * (u % p.q) / p.q, p.pos)

/-- The newest line with a stamp below n; lines stand newest first. -/
def lineBelow (n : Nat) : List (BitVec 64 × Line) → Line
  | [] => 0
  | (k, x) :: t => if k.toNat < n then x else lineBelow n t

/-- The line that a read takes for an index, and whether that makes it stale (20 R367). -/
def Port.tap (p : Port) (i : Int) : Line × Bool :=
  if i < 0 then (0, false)
  else match p.hist with
    | [] => (0, true)
    | (top, x) :: _ =>
      let n := i.toNat
      if top.toNat < n then (x, true)
      else match p.hist.find? fun l => l.1.toNat == n with
        | some l => (l.2, false)
        | none => (lineBelow n p.hist, false)

/-- W[ph][t] (20 R365). -/
def Port.weight (p : Port) (ph t : Nat) : Lane32 := Tab.get 0 p.xw (16 * ph + t)

/-- One lane of an interpolation: products and sums fused and in order, rounded to nearest (20 R367). -/
def Port.interpLane (p : Port) (ph k : Nat) (ys : List Line) : Flagged :=
  let y := fun t => lane (nth 0 ys t) k
  (List.range (ys.length - 1)).foldl (fun (a : Flagged) t =>
    let r := fma32 0 false false (p.weight ph (t + 1)) (y (t + 1)) a.lane
    { v := r.v, f := a.f ||| r.f }) (fmul32 0 (p.weight ph 0) (y 0))

/-- What XRD reads, with its flags, and the port after it (20 R367, R369). -/
def Port.read (p : Port) : Line × FFlags × Port :=
  let next := { p with j := p.j + 1 }
  match p.mode with
  | 0 =>
    match p.unread with
    | x :: _ => (x, 0, { next with popped := p.popped + 1, lastTaken := x, stale := false })
    | [] => (p.lastTaken, 0, { next with stale := true })
  | 1 =>
    match p.hist with
    | (n, x) :: _ => (x, 0, { next with stale := p.lastStamp == some n, lastStamp := some n })
    | [] => (0, 0, { next with stale := true })
  | _ =>
    let (n, ph, pos) := p.aim
    let taps := (List.range p.taps).map fun (t : Nat) => p.tap (n + (t : Int))
    let rs := (List.range 32).map fun k => p.interpLane ph k (taps.map (·.1))
    (ofLanes fun k => (nth (quiet 0) rs k).lane, orFlags (rs.map (·.f)),
     { next with pos := pos, stale := taps.any (·.2) })

/-- `.avail` at the reader end (20 R370). -/
def Port.avail (p : Port) : Bool :=
  match p.mode with
  | 0 => !p.unread.isEmpty
  | 1 => match p.hist with
    | (n, _) :: _ => p.lastStamp != some n
    | [] => false
  | _ =>
    let n := p.aim.1
    (List.range p.taps).all fun t => decide (n + t < 0) || p.stamps.any fun k => decide ((k.toNat : Int) = n + t)

/-! ## The instructions -/

/-- XWR: a line into the writer end, with the sample number as its stamp (20 R366, R368). -/
def execXwr (g : BitVec 4) (p : BitVec 2) (v : BitVec 4) (s : State) : Out :=
  guarded g s fun s =>
    let e := Eff.xwr p (s.core.r.readV v) (BitVec.ofNat 64 s.region.smpc)
    if s.blocked e then .next (s.hold .queueCap)
    else match s.portFor p (some false) with
      | none => .next (s.takePrecise (.plain .illegalOperation 7))
      | some _ => .next (s.enact 7 e)

/-- XRD: a line into `lcx` at c+3; the port advances (20 R369). -/
def execXrd (g : BitVec 4) (p : BitVec 2) (s : State) : Out :=
  guarded g s fun s =>
    match s.portFor p (some true) with
    | none => .next (s.takePrecise (.plain .illegalOperation 7))
    | some q =>
      let (x, f, q) := q.read
      let s := { s with core := { s.core with xp := s.core.xp.set p.toNat q } }
      .next (s.pushLine 7 3 none 0 x (BitVec.allOnes 1024) f .lcx)

/-- PREG (20 R365). -/
def Port.partner (p : Port) : Nat := (bitsAt p.cfg 33 7).toNat

/-- Nothing is known of the other end: it has taken no line and nothing has happened there. -/
def noFacts : PortFacts := { avail := false, stale := false, lost := false, stopped := false, taken := 0 }

/-- What holds at the other end, as far as has been learned. -/
def Port.latest (p : Port) : PortFacts := (p.facts.head?.map (·.2)).getD noFacts

/-- The other end as this region knows it: as it is when the two ends lie in one region, and else as it was at some instant within
the crossing bound (20 R362, R370; assumption 7). -/
def State.partnerFacts (s : State) (p : Port) : PortFacts × State :=
  if p.partner = s.core.region then (p.latest, s)
  else
    let (w, s) := s.pastWeb
    (((p.facts.find? fun f => decide (f.1 ≤ w)).map (·.2)).getD noFacts, s)

/-- The region is in HOLD, FROZEN or RELOCK (20 R370). -/
def Region.stopped (r : Region) : Bool := r.st == .hold || r.st == .frozen || r.st == .relock

/-- The bit that XST selects at a reader end (20 R370). -/
def State.readerBit (s : State) (p : Port) (sel : Nat) : Bool × State :=
  match sel with
  | 0 => (p.avail, s)
  | 1 => (p.stale, s)
  | 2 => (p.mode == 0 && decide (16 ≤ p.unread.length), s)
  | 3 => if p.partner = s.core.region then (s.region.stopped, s) else ((s.partnerFacts p).1.stopped, (s.partnerFacts p).2)
  | _ => (p.lost, s)

/-- The bit that XST selects at a writer end (20 R370). -/
def State.writerBit (s : State) (p : Port) (sel : Nat) : Bool × State :=
  if sel = 3 then (s.region.stopped, s)
  else match s.core.loopPort p.cfg with
    | some q =>
      let r := s.core.xp[q.toNat]
      let transit := (s.core.xline.filter fun l => l.2.1 == q).length
      if sel = 2 then (r.mode == 0 && decide (16 ≤ r.unread.length + transit), s) else s.readerBit r sel
    | none =>
      let (f, s) := s.partnerFacts p
      (match sel with
        | 0 => f.avail
        | 1 => f.stale
        | 2 => p.mode == 0 && decide (16 ≤ p.written - f.taken)
        | _ => f.lost, s)

/-- XST: a status bit of a port into a predicate at c+1; select codes 5 to 7 are illegal (20 R370, R371). -/
def execXst (g : BitVec 4) (p : BitVec 2) (d : BitVec 3) (sf : BitVec 3) (s : State) : Out :=
  guarded g s fun s =>
    match s.portFor p none with
    | none => .next (s.takePrecise (.plain .illegalOperation 7))
    | some q =>
      if 4 < sf.toNat then .next (s.takePrecise (.plain .illegalOperation 7))
      else
        let (b, s) := if q.isReader then s.readerBit q sf.toNat else s.writerBit q sf.toNat
        .next (s.push64 7 1 (some .p) (BitVec.ofNat 10 d.toNat) (if b then 1 else 0) .none)

/-! ## Arrival -/

/-- A line takes its place by stamp, newest first, over an earlier one of the same stamp (20 R367). -/
def insertStamp (k : BitVec 64) (x : Line) : List (BitVec 64 × Line) → List (BitVec 64 × Line)
  | [] => [(k, x)]
  | (n, y) :: t =>
    if n.toNat < k.toNat then (k, x) :: (n, y) :: t
    else if n = k then (k, x) :: t
    else (n, y) :: insertStamp k x t

/-- A reader end receives a line (20 R367, R369). -/
def Port.receive (p : Port) (x : Line) (k : BitVec 64) : Port :=
  match p.mode with
  | 0 => if 16 ≤ p.unread.length then { p with lost := true } else { p with fifo := p.fifo ++ [x] }
  | 1 => { p with hist := [(k, x)] }
  | _ =>
    let h := insertStamp k x p.hist
    { p with hist := h.take 32, lost := p.lost || decide (32 < h.length), stamps := k :: p.stamps.filter (· != k) }

/-- A line reaches a reader end of this core: one of its own that is due, or one of another core (20 R366, R369). -/
def State.lineArrives (s : State) (pt : BitVec 2) (ln : BitVec 1024) (stamp : BitVec 64) : Out :=
  let p := s.core.xp[pt.toNat]
  if !p.en ∨ !p.isReader then .fault .notDue
  else
    let c := { s.core with xp := s.core.xp.set pt.toNat (p.receive ln stamp) }
    match c.xline.find? fun l => l.2 == (pt, ln, stamp) && decide (l.1 ≤ c.cyc) with
    | some l => .next { s with core := { c with xline := c.xline.erase l } }
    | none =>
      if p.partner = c.region ∧ c.xline.any (fun l => l.2.1 == pt) then .fault .notDue
      else .next { s with core := c }

/-- The lines of a writer end that have entered it by the present cycle (20 R366). -/
def Port.entered (p : Port) (cyc : Nat) : Nat := p.written - (p.enters.filter fun t => decide (cyc < t)).length

/-- What a reader end can be after what it was: it has taken lines that have entered the port, no fewer than before, and a loss
stays; a FIFO holds a line, and HOLD a new one, only when one has come that it had not taken (20 R367, R370). -/
def Port.factsFit (p : Port) (cyc : Nat) (f : PortFacts) : Bool :=
  let was := p.latest
  let n := p.entered cyc
  decide (was.taken ≤ f.taken ∧ f.taken ≤ n) && (!was.lost || f.lost) && (!f.lost || (p.mode != 1 && decide ((if p.mode = 0 then 16 else 32) < n)))
    && (!f.avail || p.mode == 2 || decide ((if p.mode = 0 then f.taken else 0) < n))

/-- A sample of the measurement: a freeze, a drop or a relock restarts it at a reader end (20 R367). -/
def Port.restarted (p : Port) : Port := if p.isReader then { p with window := 0 } else p

/-- What the other region brings to an end of a port: a written line, which a frozen end receives as well; what is so at the other
end; or, at a reader end, the news that the writer's samples have been interrupted (20 R366, R367, R369, R370). -/
def execCrossingLineArrival (pt : BitVec 2) (x : Crossing) (s : State) : Out :=
  let p := s.core.xp[pt.toNat]
  let put := fun (p : Port) => Host.Outcome.next ({ s with core := { s.core with xp := s.core.xp.set pt.toNat p } } : State)
  match x with
  | .line ln stamp => s.lineArrives pt ln stamp
  | .facts f =>
    if !p.en || (s.core.loopPort p.cfg).isSome || !(p.isReader || p.factsFit s.core.cyc f) then .fault .notDue
    else put { p with facts := (s.web, f) :: p.facts.filter fun y => y.1 != s.web }
  | .restart => if !p.en || !p.isReader then .fault .notDue else put p.restarted

/-! ## The ratio estimator -/

/-- A freeze, a drop or a relock of the region restarts the measurement of its reader ends (20 R367). -/
def Core.restartEstimators (c : Core) : Core :=
  { c with xp := c.xp.map Port.restarted }

/-- A sample boundary of the reader: after 256 samples E is what the estimator has measured, a free value (20 R367;
assumption 2). -/
def State.estimate (s : State) (n : Nat) : State :=
  match s.core.xp[n]? with
  | none => s
  | some p =>
    if !p.en || !p.isReader || p.mode != 2 || !p.usesEst then s
    else
      let p := { p with window := Nat.min 256 (p.window + 1) }
      let (e, s) := if p.window < 256 then (p.est, s) else s.drawBelow (2 ^ 32)
      { s with core := { s.core with xp := s.core.xp.setIfInBounds n { p with est := e } } }

/-- The estimators of all ports. -/
def State.estimators (s : State) : State := (List.range 4).foldl State.estimate s

end Sys2Proof.Machine
end

