-- ==== Sys2Proof/Machine/Exa.lean ====
section
/-! DEFINITION. The exact accumulator, BIN sets and the residue form (04 R72 to R74, R78 to R84). -/

namespace Sys2Proof.Machine

/-! ## EXA -/

/-- i·2^sh, floored to an integer, and whether the floor discarded a nonzero remainder (04 R79). -/
def floorShift (i sh : Int) : Int × Bool :=
  if 0 ≤ sh then (i * 2 ^ sh.toNat, false)
  else (i / 2 ^ (-sh).toNat, decide (i % 2 ^ (-sh).toNat ≠ 0))

/-- The element with an integer added to V: outside the range V keeps its low 256 bits and the tag becomes overflowed
unless it is invalid (04 R79). -/
def Exa.addInt (x : Exa) (n : Int) : Exa :=
  let t := x.v.toInt + n
  let past := decide (t < -(2 ^ 255)) || decide (2 ^ 255 ≤ t)
  { v := BitVec.ofInt 256 t, tag := if past && x.tag != 1 then 2 else x.tag }

/-- A finite contribution i·2^e to an element of a tile with anchor A, and whether it raises XLL (04 R79). -/
def Exa.addTerm (anchor : Int) (x : Exa) (i e : Int) : Exa × Bool :=
  let r := floorShift i (e + 128 - anchor)
  (x.addInt r.1, r.2)

/-- A NaN, an infinity or a void block (04 R79). -/
def Exa.spoil (x : Exa) : Exa := { x with tag := 1 }

/-- A tag as an instruction stores it: the reserved code as invalid (04 R78). -/
def storedTag (t : BitVec 2) : BitVec 2 := if t = 3 then 1 else t

/-- Readout of an element into a format code: 0 FP32, 1 BF16, 2 FP16, 3 I32 (04 R80). -/
def Exa.readout (anchor : Int) (fmt mode : Nat) (x : Exa) : Flagged :=
  let val := Fp.ofInt x.v.toInt (anchor - 128) false
  if fmt = 3 then
    if x.tag = 0 then toIntW mode 32 false val else { v := 0, f := nvFlag }
  else if x.tag = 0 then (fmtOf fmt).round mode val
  else { v := (fmtOf fmt).nan, f := nvFlag }

/-- The quire poison value P: bit 255 alone (09 R162). -/
def quirePoison : BitVec 256 := BitVec.ofNat 256 (2 ^ 255)

/-- A number's low w bits as a signed integer. -/
def signedOf (w x : Nat) : Int := if x % 2 ^ w < 2 ^ (w - 1) then ((x % 2 ^ w : Nat) : Int) else ((x % 2 ^ w : Nat) : Int) - 2 ^ w

/-! ## The residue form -/

/-- The channels of an integer modulo 255, 256 and 257 (04 R72). -/
structure Residue where
  c255 : Nat
  c256 : Nat
  c257 : Nat
deriving DecidableEq, Repr

/-- Forward conversion (04 R73). -/
def Residue.ofInt (i : Int) : Residue := { c255 := (i % 255).toNat, c256 := (i % 256).toNat, c257 := (i % 257).toNat }

/-- The sum, channel by channel (04 R73). -/
def Residue.add (x y : Residue) : Residue :=
  { c255 := (x.c255 + y.c255) % 255, c256 := (x.c256 + y.c256) % 256, c257 := (x.c257 + y.c257) % 257 }

/-- The product, channel by channel (04 R73). -/
def Residue.mul (x y : Residue) : Residue :=
  { c255 := x.c255 * y.c255 % 255, c256 := x.c256 * y.c256 % 256, c257 := x.c257 * y.c257 % 257 }

/-- The residue word (04 R72). -/
def Residue.word (x : Residue) : Nat := x.c257 * 2 ^ 18 + x.c256 * 2 ^ 9 + x.c255

/-- Reverse conversion (04 R74). -/
def Residue.value (r : Residue) : Int :=
  let a1 : Int := r.c256
  let a2 := ((r.c255 : Int) - a1) % 255
  let a3 := (((r.c257 : Int) - a1) * 256 - a2) * 128 % 257
  let x := a1 + 256 * a2 + 65280 * a3
  if 8388480 ≤ x then x - 16776960 else x

end Sys2Proof.Machine
end

