-- ==== Sys2Proof/Machine/Felt.lean ====
section
/-! DEFINITION. The felt, the mirrors of the quire window and the sheet's gateway: QWR, QAT, GCS, GCM, and what the felt
and the gateway do in each beat (09 R153 to R170). -/

namespace Sys2Proof.Machine

/-! ## QWR and QAT -/

/-- The checks of a packet's address: its entry and window offset, or the fault; `packet` gives the offset and size of the payload
that the packet carries for an operand (09 R156, R163, R164, 05 R99, R100, 21 R383). -/
def State.feltTarget (s : State) (va align span : Nat) (d : Doing) (packet : Nat → Nat × Nat) : Except FaultInfo (BitVec 10 × Nat) :=
  if va % align ≠ 0 then .error (accessFault .misalignment 7 d 0 va)
  else match s.core.translate va with
    | .pad _ => .error (accessFault .outOfTable 7 d 0 va)
    | .none => .error (accessFault .outOfTable 7 d 0 va)
    | .phys k e pa =>
      match quireOff pa with
      | none => .error (accessFault .outOfTable 7 d k va)
      | some off =>
        if Config.quireBytes < (packet off).1 + (packet off).2 then .error (accessFault .outOfTable 7 d k va)
        else if !permits e d then .error (accessFault .permission 7 d k va)
        else if !stateAllows e d then .error (accessFault .residency 7 d k va)
        else if !s.ownsAnyFelt then .error (accessFault .feltSlot 7 d k va)
        else if !within s.part.quireShare off span then .error { accessFault .violation 7 d k off with vkind := 1 }
        else .ok (BitVec.ofNat 10 k, off)

/-- A packet is sent, or gated; a full queue or buffer holds issue first (09 R158, R163, R164). -/
def State.sendFelt (s : State) (n : BitVec 5) (align span : Nat) (d : Doing) (qat : Bool) (packet : Nat → Nat × Nat)
    (mk : Nat → FeltPacket) : Out :=
  if s.blocked (.felt (mk 0) qat 0) then .next (s.hold .queueCap)
  else match s.feltTarget (s.core.r.readA n).toNat align span d packet with
    | .error i => .next (s.takePrecise i)
    | .ok (k, off) => .next (State.enact { s with core := s.core.pend k.toNat true } 7 (.felt (mk off) qat k))

/-- A packet with no watermark (09 R156). -/
def plainPacket (op : BitVec 4) (mask : Lane32) (off : Nat) (v : Line) : FeltPacket :=
  { party := 0, wme := false, wma := 0, sz := false, aux := 0, op := op, mask := mask, addr := BitVec.ofNat 17 (off / 16),
    payload := v }

/-- QWR, store (09 R163). -/
def execQwr (g : BitVec 4) (n : BitVec 5) (v : BitVec 4) (k : BitVec 3) (s : State) : Out :=
  guarded g s fun s =>
    s.sendFelt n 32 128 .write false (·, 128) fun off => plainPacket 0 (s.core.r.readK k) off (s.core.r.readV v)

/-- QWR, raise (09 R163). -/
def execQwrWm (g : BitVec 4) (n : BitVec 5) (v : BitVec 4) (s : State) : Out :=
  guarded g s fun s => s.sendFelt n 16 16 .write false (·, 16) fun off => plainPacket 1 0 off (s.core.r.readV v)

/-- The mask of an exact add: each element's eight bits are those of its first lane (09 R163). -/
def elementMask (k : Lane32) : Lane32 :=
  BitVec.ofNat 32 (elemsNat 8 (fun e => if bitAt k (8 * e) then 0xFF else 0) 4)

/-- QWR, exact add (09 R163). -/
def execQwrXadd (g : BitVec 4) (n : BitVec 5) (v : BitVec 4) (k : BitVec 3) (s : State) : Out :=
  guarded g s fun s =>
    s.sendFelt n 128 128 .write false (·, 128) fun off => plainPacket 2 (elementMask (s.core.r.readK k)) off (s.core.r.readV v)

/-- QAT: one atomic packet; its old value returns to `lda` (09 R164). -/
def execQat (g : BitVec 4) (n : BitVec 5) (v : BitVec 4) (o : BitVec 3) (sf : BitVec 1) (s : State) : Out :=
  guarded g s fun s =>
    if 6 < o.toNat then .next (s.takePrecise (.plain .illegalOperation 7))
    else
      let w := if sf = 1 then 8 else 4
      s.sendFelt n w w .atomic true (fun off => (off / 32 * 32, 128)) fun off =>
        { plainPacket 3 (BitVec.ofNat 32 ((if sf = 1 then 3 else 1) * 2 ^ (off % 32 / 4))) (off / 32 * 32) (s.core.r.readV v)
          with sz := sf == 1, aux := BitVec.ofNat 4 o.toNat }

/-! ## GCS and GCM -/

/-- A cell outside the partition's range (09 R165, 21 R383). -/
def State.cellViolation (s : State) (c : BitVec 5) : Option FaultInfo :=
  if s.part.cells.1 ≤ c.toNat ∧ c.toNat < s.part.cells.1 + s.part.cells.2 then none
  else some { accessFault .violation 7 .write 0 c.toNat with vkind := 4 }

/-- A setting or contribution leaves for the gateway, or is gated, unless its cell is outside the partition's range. -/
def State.toCell (s : State) (c : BitVec 5) (e : Eff) : Out :=
  if s.blocked e then .next (s.hold .queueCap)
  else match s.cellViolation c with
    | some i => .next (s.takePrecise i)
    | none => .next (s.enact 7 e)

/-- GCS for a felt destination: the cell collects from c+6 (09 R166). -/
def execGcs (g : BitVec 4) (c : BitVec 5) (n : BitVec 7) (a : BitVec 5) (s : State) : Out :=
  guarded g s fun s => s.toCell c (.gcs c n (s.core.r.readA a) false (s.core.slotWord 7))

/-- GCS for a ream capability (09 R166). -/
def execGcsReam (g : BitVec 4) (c : BitVec 5) (n : BitVec 7) (a : BitVec 5) (s : State) : Out :=
  guarded g s fun s => s.toCell c (.gcs c n (s.core.r.readA a) true (s.core.slotWord 7))

/-- GCM: a row of a tile to a cell, at c+14; it holds while the tile is busy (09 R167). -/
def execGcm (g : BitVec 4) (c : BitVec 5) (t : BitVec 1) (r : BitVec 5) (s : State) : Out :=
  guarded g s fun s =>
    if s.core.mx.busy t then .next (s.hold .busyBit) else s.toCell c (.gcm c t r (s.core.slotWord 7))

/-! ## What a mirror does -/

/-- An element after an exact add (09 R162). -/
def exactAdd (old x : Nat) (bad : Bool) : Nat :=
  let sum := (BitVec.ofNat 256 old).toInt + (BitVec.ofNat 256 x).toInt
  if old = quirePoison.toNat ∨ bad ∨ sum ≤ -2 ^ 255 ∨ 2 ^ 255 - 1 < sum then quirePoison.toNat else (sum % 2 ^ 256).toNat

/-- The lowest bit set in a mask. -/
def lowestSet (m : Lane32) : Nat := ((List.range 32).find? fun i => bitAt m i).getD 0

/-- The word or doubleword of an atomic packet: offset, width in bits, operand and compare value (09 R162). -/
def atomicOperand (pk : FeltPacket) : Nat × Nat × Nat × Nat :=
  let w := if pk.sz then 64 else 32
  (16 * pk.addr.toNat + 4 * lowestSet pk.mask, w, pk.payload.toNat % 2 ^ w, pk.payload.toNat / 2 ^ w % 2 ^ w)

/-- The old value of an atomic packet in a mirror (09 R164). -/
def atomicOld (m : Memory) (pk : FeltPacket) : Nat :=
  let (a, w, _, _) := atomicOperand pk
  Memory.readNat m a (w / 8)

/-- A mirror applies a packet (09 R162). -/
def applyPacket (pk : FeltPacket) (m : Memory) : Memory :=
  let a := 16 * pk.addr.toNat
  let lanes := (List.range 32).filter fun i => bitAt pk.mask i && decide (a + 4 * i + 4 ≤ Config.quireBytes)
  let els := (List.range 4).filter fun e => bitAt pk.mask (8 * e) && decide (a + 32 * e + 32 ≤ Config.quireBytes)
  let (m, nb) := match pk.op.toNat with
    | 0 => (lanes.foldl (fun m i => Memory.writeNat m (a + 4 * i) 4 (lane pk.payload i).toNat) m,
            4 * ((List.range 32).filter fun i => bitAt pk.mask i).length)
    | 1 => (raiseWord m a (lane pk.payload 0).toNat, 0)
    | 2 => (els.foldl (fun m e =>
              Memory.writeNat m (a + 32 * e) 32
                (exactAdd (Memory.readNat m (a + 32 * e) 32) (elem pk.payload 256 e).toNat (bitAt pk.aux e))) m,
            32 * els.length)
    | 3 =>
      let (b, w, x, cmp) := atomicOperand pk
      (Memory.writeNat m b (w / 8) (atomicNew (BitVec.ofNat 3 pk.aux.toNat) w (Memory.readNat m b (w / 8)) x cmp), 0)
    | _ => (m, 0)
  if pk.wme then raiseWord m (16 * pk.wma.toNat) nb else m

/-- The bytes that a store packet writes. -/
def packetBytes (pk : FeltPacket) : List Nat :=
  if pk.op = 0 then
    (((List.range 32).filter fun i => bitAt pk.mask i).map fun i =>
      (List.range 4).map fun j => 16 * pk.addr.toNat + 4 * i + j).flatten
  else []

/-! ## Sending -/

/-- The core's sheet is asleep: its slots stay idle (09 R169). -/
def State.sheetAsleep (s : State) : Bool := (s.dev.asleep[s.core.sheet.toNat]?).getD false

/-- A packet is on the felt in beat b, in the order of the beats (09 R160). -/
def State.onFelt (s : State) (b : Nat) (pk : FeltPacket) (own : Option FeltItem) (cell : Option (BitVec 5)) : State :=
  let f : FeltSent := { beat := b, pk := pk, own := own, cell := cell, applied := false, told := false }
  { s with felt := insertBy (fun x y => decide (x.beat ≤ y.beat)) f s.felt }

/-- A packet of the core as it goes out: a copy beat takes the bytes visible now.  Outside the fabric group they are those of the send
beat itself (07 R131, 09 R156; assumption 117). -/
def State.loadPacket (s : State) (f : FeltItem) : FeltPacket :=
  let p := { f.pk with party := BitVec.ofNat 12 (s.core.sheet.toNat * 128 + s.torusPos) }
  match f.beat with
  | none => p
  | some (_, _, off) =>
    let x := (s.core.padData s.core.scratch off).toNat
    { p with payload := BitVec.ofNat 1024 (if p.mask = 0xFFFF0000 then x * 2 ^ 512 else x) }

/-- The uncorrectable-data fault of a copy beat that reads a poisoned granule, taken when the beat performs (21 R380,
R382). -/
def State.feltPoison (s : State) (f : FeltItem) : Option FaultInfo :=
  match f.beat with
  | none => none
  | some (id, n, off) =>
    let p := s.core.poison
    if p.contains (poisonGran false off) || p.contains (poisonGran false (off + 32)) then
      (s.core.cmd id).map fun k => { poisonFault .read (k.beatSrc n) with word := k.word }
    else none

/-- The core may send the head of its queue in the beat that starts now (09 R154, R158). -/
def State.feltReady (s : State) : Option FeltItem :=
  match s.core.feltQ with
  | [] => none
  | f :: _ =>
    if s.web % 2 = 0 ∧ s.ownsFelt (s.web / 2) ∧ f.entry + 2 ≤ s.web ∧ s.core.feltLast ≤ s.web ∧ !s.sheetAsleep then some f
    else none

/-- Change the commands that have an id, or had it before a restart. -/
def Core.setFormer (c : Core) (id : Nat) (f : Cmd → Cmd) : Core :=
  { c with cmds := c.cmds.map fun k => if k.id = id ∨ k.old.contains id then f k else k }

/-- A copy beat that is sent will perform: its bytes are counted, whatever becomes of its command (07 R140; assumption 94). -/
def Core.countSentBeat (c : Core) (f : FeltItem) : Core :=
  match f.beat with
  | some (id, n, _) => c.setCmd id fun k => { k with counted := if k.counted.contains n then k.counted else n :: k.counted }
  | none => c

/-- A copy beat that carried its bytes has been refused: they are not counted (09 R157, 07 R140). -/
def Core.uncountBeat (c : Core) (f : FeltItem) : Core :=
  match f.beat with
  | some (id, n, _) => if f.pk.wme || f.wm.isSome then c.setFormer id fun k => { k with counted := k.counted.filter (· != n) } else c
  | none => c

/-- The head of the core's queue goes out (09 R158). -/
def State.feltCoreSend (s : State) (f : FeltItem) : State :=
  let pk := s.loadPacket f
  let gone := if s.inFabric then [] else [s.web]
  let c := { s.core.countSentBeat f with
    feltQ := s.core.feltQ.drop 1, feltLast := s.web + 2, feltGone := s.core.feltGone ++ gone, acted := true }
  State.onFelt { s with core := c } (s.web / 2) pk (some { f with pk := pk, bad := s.feltPoison f }) none

/-- The gateway may send the head of its queue in the beat that starts now (09 R154, R168). -/
def State.gatewayReady (s : State) : Option (Nat × BitVec 5 × FeltPacket) :=
  match s.gw.q with
  | [] => none
  | x :: _ =>
    if s.web % 2 = 0 ∧ s.gatewayOwns (s.web / 2) ∧ x.1 ≤ s.web ∧ s.gw.last ≤ s.web ∧ !s.sheetAsleep then some x else none

/-- Change a cell. -/
def State.setCell (s : State) (c : BitVec 5) (f : GwCell → GwCell) : State :=
  { s with gw := { s.gw with cells := s.gw.cells.set c.toNat (f s.gw.cells[c.toNat]) } }

/-- The head of the gateway's queue goes out; after its last packet the cell is idle in the next beat (09 R168). -/
def State.gatewaySend (s : State) (x : Nat × BitVec 5 × FeltPacket) : State :=
  let pk := { x.2.2 with party := BitVec.ofNat 12 (s.core.sheet.toNat * 128 + 64) }
  let s := { s with gw := { s.gw with q := s.gw.q.drop 1, last := s.web + 2 } }
  let s := s.setCell x.2.1 fun c => { c with left := c.left - 1, idleAt := s.web + 2 }
  s.onFelt (s.web / 2) pk none (some x.2.1)

/-- A packet of the core, or of its sheet's gateway, goes out in an owned slot (09 R158, R168). -/
def execFeltSend (gwy : Bool) (s : State) : Out :=
  if gwy then
    match s.gatewayReady with
    | some x => .next (s.gatewaySend x)
    | none => .fault .notDue
  else
    match s.feltReady with
    | some f => .next (s.feltCoreSend f)
    | none => .fault .notDue

/-! ## Applying -/

/-- A slot of this core or of its sheet's gateway is in a beat: no other party may send in it (09 R154). -/
def State.ownBeat (s : State) (b : Nat) : Bool := s.ownsFelt b || s.gatewayOwns b

/-- The base die's mirror applies a packet; a granule that it writes whole is poisoned no more (09 R160, 21 R382). -/
def State.baseTakes (s : State) (pk : FeltPacket) : State :=
  { s with quire := applyPacket pk s.quire
           dev := { s.dev with basePoison :=
             if s.dev.basePoison.isEmpty then [] else clearPoison s.dev.basePoison true (packetBytes pk) } }

/-- A sheet's mirror takes the contents of the base die's, with what is poisoned there (09 R170, 21 R382). -/
def State.takeMirror (s : State) : State :=
  { s with mirror := s.quire, felt := s.felt.filter fun f => !f.applied
           core := { s.core with poison := (s.core.poison.filter fun g => !decide (2 ^ 20 ≤ g ∧ g < 2 ^ 21)) ++ s.dev.basePoison } }

/-- Every mirror applies a packet in beat b+5: one that this model sent, or one of another party, sent in a slot of its own and not
refused, whose beat is then remembered until loads see it.  A QWR or QAT leaves PND (09 R154, R157, R160, R161, 05 R104). -/
def execFeltPacketApply (pk : FeltPacket) (s : State) : Out :=
  let b := s.web / 2 - 5
  match s.felt.find? fun f => f.beat == b with
  | some f =>
    if f.pk = pk ∧ !f.applied then
      let done : Option Nat := f.own.bind fun it => if it.beat.isNone then it.ent else none
      .next { s.baseTakes pk with
        felt := s.felt.map fun x => if x.beat = b then { x with applied := true } else x
        core := s.core.forget done.toList }
    else .fault .notDue
  | none =>
    if s.web < 10 ∨ s.ownBeat b ∨ s.dev.refused.contains b then .fault .notDue
    else
      let s := s.onFelt b pk none none
      .next { s.baseTakes pk with felt := s.felt.map fun x => if x.beat = b then { x with applied := true, told := true } else x }

/-- The effects of a sent copy beat on its core: it has performed, its watermark word in the local window is raised, and it
leaves its translation entry (07 R135, 05 R103, R104). -/
def State.tellSender (s : State) (f : FeltSent) : State :=
  let s := { s with felt := s.felt.map fun x => if x.beat = f.beat then { x with told := true } else x }
  match f.own with
  | none => s
  | some it =>
    match it.beat with
    | none => s
    | some (id, n, _) =>
      let c := match it.ent with
        | some k => (if it.bad.isSome then s.core else s.core.touch k false).pend k false
        | none => s.core
      let bad := if c.cmds.any (fun k => k.id == id && !k.stopped) then it.bad else none
      let up : List Raise := it.wm.toList.map fun off => { due := c.cyc, off := off, bytes := 64 }
      let c := c.setCmd id fun k => { k with done := n :: k.done }
      { s with core := { c with acted := true, raises := c.raises ++ up, lateDue := c.raiseLate bad } }

/-- Loads of an awake sheet now see a packet, which a sheet asleep does not apply; a QAT's old value returns, after a reload of the
mirror if one runs; that of a poisoned granule is the poison pattern, with its fault (09 R161, R164, R169, R170, 21 R382). -/
def State.showPacket (s : State) (f : FeltSent) : State :=
  let (a, _, _, _) := atomicOperand f.pk
  let bad := s.core.poison.contains (poisonGran true a)
  let old := if bad then poisonOld f.pk.sz else BitVec.ofNat 64 (atomicOld s.mirror f.pk)
  let s := { s with felt := s.felt.filter fun x => x.beat != f.beat }
  let s := if s.sheetAsleep then s else { s with
    mirror := applyPacket f.pk s.mirror
    core := { s.core with poison := if s.core.poison.isEmpty then [] else clearPoison s.core.poison true (packetBytes f.pk) } }
  match f.own with
  | none => s
  | some it =>
    if !it.qat then s
    else
      let s := if bad then { s with core := { s.core with lateDue := s.core.raiseLate (some (poisonFault .atomic a)) } } else s
      match s.reload with
      | none => { s with agenda := s.agenda ++ [(s.web, .remoteAtmReturn it.seq old)] }
      | some t => State.slips { s with agenda := s.agenda ++ [(t, .remoteAtmReturn it.seq old)] } 1

/-- The raises of the sent copy beats whose web cycle 2b + 12 the region sees (07 R135, 20 R362). -/
def State.tellAll : List FeltSent → State → State
  | [], s => s
  | f :: t, s =>
    if !f.applied || f.told then State.tellAll t s
    else
      let (now, s) := s.seesFelt (2 * f.beat + 12)
      let s := if now && f.own.any (·.beat.isSome) then s.lateSlip (2 * f.beat + 12) else s
      State.tellAll t (if now then s.tellSender f else s)

/-- The packets that loads of this sheet now see, in beat order: none before one that they do not (09 R160, R161, 20 R362). -/
def State.showAll : List FeltSent → State → State
  | [], s => s
  | f :: t, s =>
    if !f.applied then s
    else
      let (now, s) := s.seesFelt (2 * f.beat + 16)
      if now then State.showAll t ((s.lateSlip (2 * f.beat + 16)).showPacket f) else s

/-- What the packets under way do at this side in this cycle, in beat order; those that this model sent are applied by the event
itself. -/
def State.feltLater (s : State) : State := State.showAll s.felt (State.tellAll s.felt s)

/-- The felt master refuses a beat, two beats later: no mirror applies its packet, and the sender returns it to the head of
its queue and counts a slip; a copy beat whose command has stopped is withdrawn (09 R157, 05 R89, 07 R131). -/
def execRefusal (bt : Nat) (pk : FeltPacket) (s : State) : Out :=
  if s.web / 2 ≠ bt + 2 then .fault .notDue
  else
    let s := { s with dev := { s.dev with
      err := s.dev.err.set 5 (s.dev.err[5] + 1), sent := .refusal bt :: s.dev.sent } }
    match s.felt.find? fun f => f.beat == bt with
    | none => .next { s with dev := { s.dev with refused := (bt :: s.dev.refused).take 8 } }
    | some f =>
      if f.applied ∨ f.pk ≠ pk then .fault .notDue
      else
        let s := { s with felt := s.felt.filter fun x => x.beat != bt }
        match f.own, f.cell with
        | some it, _ =>
          let c := s.core.uncountBeat it
          let live := match it.beat with
            | some (id, _, _) => c.cmds.any fun k => k.id == id && !k.stopped
            | none => true
          let c := { c with feltGone := c.feltGone.erase (2 * bt) }
          let c := if live then { c with feltQ := it :: c.feltQ } else c.forget it.ent.toList
          .next (State.slips { s with core := c } 1)
        | none, some c =>
          let s := { s with gw := { s.gw with q := (0, c, pk) :: s.gw.q } }
          .next (s.setCell c fun x => { x with left := x.left + 1 })
        | none, none => .next s

/-! ## The gateway's cells -/

/-- The state of a cell in a web cycle: 0 idle, 1 collecting, 2 emitting (09 R165, R168). -/
def GwCell.state (c : GwCell) (web : Nat) : Nat :=
  if c.st = 2 ∧ c.left = 0 ∧ c.idleAt ≤ web then 0 else c.st.toNat

/-- The gateway fault, taken when a setting or contribution reaches its cell (09 R166, R167, 21 R380). -/
def State.gatewayFault (s : State) (i : FaultInfo) : State :=
  { s with core := { s.core with lateDue := s.core.lateDue ++ [(s.core.cyc, i)] } }

/-- The sheet's gateway owns some slot. -/
def State.gatewayOwnsAny (s : State) : Bool := (List.range 64).any s.gatewayOwns

/-- A setting that a cell refuses: a destination line or word out of range, misaligned or outside the quire share, a gateway without
slots; or bits [63:8] of a ream destination that are not zero, or an entry that is no valid ream endpoint (09 R166; assumption
52). -/
def State.badSetting (s : State) (dest : Word) (ream : Bool) (cap : BitVec 64) : Bool :=
  let dst := (bitsAt dest 0 32).toNat
  let wm := (bitsAt dest 32 32).toNat
  if ream then decide (256 ≤ dest.toNat) || !bitAt cap 63 || (bitsAt cap 60 3).toNat != 2
  else
    decide (dst % 128 ≠ 0 ∨ Config.quireBytes < dst + 1024)
      || (wm != 0xFFFFFFFF && (decide (wm % 16 ≠ 0 ∨ Config.quireBytes < wm + 16) || !within s.part.quireShare wm 16))
      || !within s.part.quireShare dst 1024 || !s.gatewayOwnsAny

/-- A setting reaches its cell, which it sets collecting; one that the cell refuses changes nothing, and is a fault of the core that
sent it (09 R166). -/
def State.setCollecting (s : State) (cell : BitVec 5) (n : Nat) (dest : Word) (ream : Bool) (cap : BitVec 64) (info : Option FaultInfo) :
    State :=
  if s.badSetting dest ream cap ∨ (s.gw.cells[cell.toNat]).state s.web ≠ 0 then
    (match info with
      | some i => s.gatewayFault i
      | none => s)
  else s.setCell cell fun c => { c with
    st := 1, n := n, got := 0, anchor := 0, sums := List.replicate 32 (0, 0), dest := dest, ream := ream, cap := cap
    mine := info.isSome, left := 0 }

/-- A setting of this core reaches its cell (09 R166). -/
def State.setting (s : State) (g : GwSet) : State :=
  s.setCollecting g.cell g.n g.dest g.ream (s.core.cap (BitVec.ofNat 8 g.dest.toNat)) (some g.info)

/-- Tags combine: invalid takes precedence over overflowed, and 3 reads as invalid (04 R78, R79). -/
def joinTags (a b : BitVec 2) : BitVec 2 :=
  let n := fun (x : BitVec 2) => if x = 3 then (1 : BitVec 2) else x
  if n a = 1 ∨ n b = 1 then 1 else if n a = 2 ∨ n b = 2 then 2 else 0

/-- A valid sum that has left the signed 256-bit range is tagged overflowed (09 R167). -/
def rangeTag (x : Int × BitVec 2) : Int × BitVec 2 :=
  if x.2 = 0 ∧ (x.1 < -2 ^ 255 ∨ 2 ^ 255 - 1 < x.1) then (x.1, 2) else x

/-- A cell after a contribution (09 R167). -/
def GwCell.add (c : GwCell) (k : Contribution) : GwCell :=
  let first := c.got == 0
  let differs := !first && c.anchor != k.anchor
  let one := fun (x : Int × BitVec 2) (y : BitVec 256 × BitVec 2) =>
    ((x.1 + y.1.toInt, if differs then 1 else joinTags x.2 y.2) : Int × BitVec 2)
  { c with got := c.got + 1, anchor := if first then k.anchor else c.anchor
           sums := List.zipWith one c.sums (k.els ++ List.replicate (32 - k.els.length) (0, 0)) }

/-- 256 bits of a sum, or P when it is not valid, as a ream line carries it (09 R162, R167, 10 R189). -/
def reamElement (x : Int × BitVec 2) : Nat := if x.2 = 0 then (x.1 % 2 ^ 256).toNat else quirePoison.toNat

/-- Packet j of a cell's emission (09 R168). -/
def GwCell.packet (c : GwCell) (j : Nat) : FeltPacket :=
  let el := fun e => nth (0, 0) c.sums (4 * j + e)
  let dst := (bitsAt c.dest 0 32).toNat
  let wm := (bitsAt c.dest 32 32).toNat
  { party := 0, wme := wm != 0xFFFFFFFF, wma := if wm = 0xFFFFFFFF then 0 else BitVec.ofNat 17 (wm / 16), sz := false
    aux := BitVec.ofNat 4 (elemsNat 1 (fun e => if (el e).2 = 0 then 0 else 1) 4), op := 2, mask := 0xFFFFFFFF
    addr := BitVec.ofNat 17 ((dst + 128 * j) / 16)
    payload := BitVec.ofNat 1024 (elemsNat 256 (fun e => ((el e).1 % 2 ^ 256).toNat) 4) }

/-- A cell whose count is complete emits: eight packets at t+4, in cell order with those of other cells; or one packet of
16 web flits on a ream link (09 R168, 10 R189). -/
def State.emit (s : State) (n : BitVec 5) : State :=
  let c := s.gw.cells[n.toNat]
  let c := { c with sums := c.sums.map rangeTag }
  if c.ream then
    let e := c.cap
    let flits := (List.range 16).map fun i =>
      BitVec.ofNat 512 (elemsNat 256 (fun k => reamElement (nth (0, 0) c.sums (2 * i + k))) 2)
    let s := s.setCell n fun _ => { c with st := 2, left := 0, idleAt := s.web + 1 }
    let pk : ReamPacket := { seq := 0, dtix := bitsAt e 7 11, qn := bitsAt e 45 5, gline := true, scalar := false, flits := flits }
    s.sendPacket (bitsAt e 18 4) c.mine pk
  else
    let le := fun (x y : Nat × BitVec 5 × FeltPacket) => decide (x.1 < y.1) || (x.1 == y.1 && decide (x.2.1.toNat ≤ y.2.1.toNat))
    let q := (List.range 8).foldl (fun q j => insertBy le (s.web + 4, n, c.packet j) q) s.gw.q
    State.setCell { s with gw := { s.gw with q := q } } n fun _ => { c with st := 2, left := 8, idleAt := 0 }

/-- A contribution reaches a cell: it is added, and the last one sets the cell emitting; a cell that does not collect
refuses it, with a fault in the core that sent it (09 R167, R168). -/
def State.contribute (s : State) (n : BitVec 5) (k : Contribution) (info : Option FaultInfo) : State :=
  let c := s.gw.cells[n.toNat]
  if c.state s.web ≠ 1 then (match info with
    | some i => s.gatewayFault i
    | none => s)
  else
    let c := c.add k
    let s := s.setCell n fun _ => c
    if c.n ≤ c.got then s.emit n else s

/-- A contribution or setting is at the gateway: in the fabric group once its cycle has come, otherwise once it has crossed (09 R166,
R167, 20 R362). -/
def State.atGateway (s : State) (due : Nat) (at_ : Option Nat) : Bool :=
  match at_ with
  | some t => decide (t ≤ s.web)
  | none => s.inFabric && decide (due ≤ s.core.cyc)

/-- A GCM contribution reaches a gateway cell, one of this core that is due or one of another core; or another core's GCS sets a cell
(09 R166, R167). -/
def execGatewayContribution (cell : BitVec 5) (arr : CellArrival) (s : State) : Out :=
  match arr with
  | .set n dest ream cap => .next (s.setCollecting cell (n.toNat + 1) dest ream cap none)
  | .add con =>
    if con.own then
      match s.gw.adds.find? fun a => a.cell == cell && a.con == con && s.atGateway a.due a.at_ with
      | none => .fault .notDue
      | some a => .next (State.contribute { s with gw := { s.gw with adds := s.gw.adds.erase a } } cell con (some a.info))
    else .next (s.contribute cell con none)

/-- Sums are checked when a web cycle's contributions are all in (09 R167). -/
def State.closeCells (s : State) : State :=
  if s.gw.cells.toList.any fun c => c.st == 1 && decide (0 < c.got) then
    { s with gw := { s.gw with cells := s.gw.cells.map fun c => if c.st = 1 then { c with sums := c.sums.map rangeTag } else c } }
  else s

/-- The settings that are at the gateway reach their cells. -/
def State.settingsDue (s : State) : State :=
  let now := s.gw.sets.filter fun g => s.atGateway g.due g.at_
  now.foldl State.setting { s with gw := { s.gw with sets := s.gw.sets.filter fun g => !s.atGateway g.due g.at_ } }

/-- Outside the fabric group a setting or contribution whose cycle has come begins to cross to the gateway (20 R362). -/
def State.sendCells (s : State) : State :=
  if s.inFabric then s
  else
    let put := fun (due : Nat) (at_ : Option Nat) (s : State) =>
      if at_.isNone && decide (due ≤ s.core.cyc) then let (t, s) := s.cross s.web; (some t, s) else (at_, s)
    let s := s.gw.sets.foldl (fun (s : State) g =>
      let (t, s) := put g.due g.at_ s
      { s with gw := { s.gw with sets := s.gw.sets ++ [{ g with at_ := t }] } }) { s with gw := { s.gw with sets := [] } }
    s.gw.adds.foldl (fun (s : State) a =>
      let (t, s) := put a.due a.at_ s
      { s with gw := { s.gw with adds := s.gw.adds ++ [{ a with at_ := t }] } }) { s with gw := { s.gw with adds := [] } }

end Sys2Proof.Machine
end

