-- ==== Sys2Proof/Machine/Region.lean ====
section
/-! DEFINITION. The region: its synthesiser and samples, throttling, errors in SRAM, voltage and heat (20 R353 to R361, R372
to R374, 21 R382, 22 R391 to R397). -/

namespace Sys2Proof.Machine

/-- n bits of a register from bit lo up are replaced. -/
def setBits (x : Word) (lo n v : Nat) : Word :=
  BitVec.ofNat 64 (x.toNat / 2 ^ (lo + n) * 2 ^ (lo + n) + v % 2 ^ n * 2 ^ lo + x.toNat % 2 ^ lo)

/-- A kernel is resident on the region: one runs that has cores there, and its context is not parked (20 R354, 22 R391, 19 R343). -/
def State.occupied (s : State) : Bool :=
  s.part.resident.isSome && !(s.part.coresIn s.core.region).isEmpty && s.core.run != .parked

/-! ## Samples -/

/-- b of sample k (20 R355). -/
def Region.budget (r : Region) (k : Nat) : Nat := (k + 1) * r.num / r.den - k * r.num / r.den

/-- The number of the sample that a boundary begins: 0 at the first one of a kernel (20 R355). -/
def Region.nextSample (r : Region) : Nat := if r.fresh then 0 else r.smpc + 1

/-- A sample boundary: the next sample begins with its budget; the one that ends there is measured, when one does (20 R355, R357,
R367). -/
def State.boundary (s : State) : State :=
  let r := s.region
  let k := r.nextSample
  let s := { s with region := { r with
    smpc := k, bud := r.budget k, cis := 0, frac := 0, gated := r.budget k == 0, fresh := false, pending := false } }
  if r.fresh then s else s.estimators

/-- The estimators of the region's reader ends start again (20 R367). -/
def State.restartMeasure (s : State) : State := { s with core := s.core.restartEstimators }

/-- The source stands inside or outside ±2 % of NOMF: outside the reference of the web clock either may be (20 R358;
assumption 2). -/
def State.trackOrLimit (s : State) : State :=
  if s.onWebRef then { s with region := { s.region with st := .track } }
  else
    let (x, s) := s.drawBelow 2
    { s with region := { s.region with st := if x = 0 then .track else .limit } }

/-- The pulses of the region keep step with the web from the present boundary on (20 R374). -/
def State.inStep (s : State) : State :=
  if s.onWebRef ∧ s.region.swallow = 0 ∧ bitsAt s.region.rv 0 2 = 0 then
    { s with region := { s.region with lag := false } }
  else s

/-- The longest pulse period of the present sample, in web cycles: that of f_lo, and of 0.3 GHz at most (20 R357). -/
def Region.pulse (r : Region) : Nat :=
  let f := r.bud * (bitsAt r.rnom 0 28).toNat
  if f = 0 then 9 else Nat.min 9 (270000000000 / (98 * f) + 1)

/-- The boundary moves onto an edge by one pulse at most: the budget is in its last cycle, or ended no longer ago than a pulse
lasts (20 R357). -/
def State.oneStep (s : State) : Bool :=
  if s.region.gated then decide (s.web ≤ s.region.ended + s.region.pulse) else decide (s.region.bud ≤ s.region.cis + 1)

/-- An edge while the region tracks: the boundary when the budget has ended, with the missed edges of a gap; otherwise it is
pending, or drops the sample of an earlier pending edge (20 R357, R361). -/
def State.trackedEdge (s : State) (far : Bool) (periods : Nat) : State :=
  let r := s.region
  let step := b2n (far && s.oneStep)
  if r.gated then
    let r := if r.fresh then r else if 2 ≤ periods then r.count s.moment 0 (periods - 1) 0 0 else r.count s.moment step 0 0 0
    State.boundary (State.inStep { s with region := r })
  else if r.pending then State.restartMeasure { s with region := r.count s.moment 0 0 1 0 }
  else { s with region := { r.count s.moment step 0 0 0 with pending := true } }

/-- The edge at which an acquisition or a relock ends: the region tracks from this boundary on (20 R358, R360). -/
def State.lockedEdge (s : State) (periods : Nat) : State :=
  let r := s.region
  let r := if r.fresh then r else r.count s.moment 0 (periods - 1) 0 0
  State.boundary (State.inStep { s with region := { r with
    st := .track, locked := false, base := s.web, lockSrc := bitsAt r.rclk 59 4 } })

/-- A source edge arrives; `far` says that it lies more than a quarter of a region cycle from the end of the budget (a phase event
when the boundary moves there by no more than a pulse), and
`periods` how many nominal periods have passed since the last edge, or since the frozen boundary (20 R357, R358, R360,
R361).  In the fabric timing group the edges are the budgets' ends. -/
def execSourceEdge (far : Bool) (periods : Nat) (s : State) : Out :=
  let r := s.region
  match r.st with
  | .off => .next s
  | .acq => .next (if r.locked then s.lockedEdge 1 else s)
  | .track | .limit =>
    .next (if (s.inFabric ∧ !r.gated) ∨ !s.occupied then s.trackOrLimit else s.trackOrLimit.trackedEdge far periods)
  | .hold =>
    let t := { s with region := { r.count s.moment 1 0 (b2n r.pending) 0 with st := .track, pending := true } }
    .next (if r.pending then t.restartMeasure else t)
  | .frozen => .next { s with region := { r with st := .relock, locked := false } }
  | .relock => .next (if r.locked then (s.lockedEdge periods).restartMeasure else s)

/-- The budget of the present sample has ended: the boundary when an edge is pending or the region is in the fabric timing
group; the clock is gated, and a region in HOLD freezes, when none is.  The budget's last cycle ends with the present web cycle (20
R357, R358). -/
def execBudgetEnd (s : State) : Out :=
  let r := s.region
  if r.cis < r.bud ∨ r.gated then .fault .notDue
  else if r.pending then .next s.boundary
  else if r.st = .hold then .next (State.restartMeasure { s with region := { r with st := .frozen, gated := true, ended := s.web + 1 } })
  else if s.inFabric then .next s.boundary
  else .next { s with region := { r with gated := true, ended := s.web + 1 } }

/-- No edge has come for three nominal periods (20 R358). -/
def execEdgesAbsent (s : State) : Out :=
  let r := s.region
  match r.st with
  | .track | .limit =>
    .next (if r.gated then State.restartMeasure { s with region := { r with st := .frozen } }
      else { s with region := { r with st := .hold } })
  | .relock => .next { s with region := { r with st := .frozen, locked := false } }
  | _ => .fault .notDue

/-- Lock is achieved in ACQ or RELOCK (20 R358). -/
def execLockAchieved (s : State) : Out :=
  let r := s.region
  if r.st = .acq ∨ r.st = .relock then .next { s with region := { r with locked := true } } else .fault .notDue

/-- EN is written 1: a synthesiser that is OFF acquires (20 R358); with a kernel resident the write is ignored (R354). -/
def execStartAcquisition (s : State) : Out :=
  let r := s.region
  if s.occupied ∨ r.st ≠ .off then .next s
  else .next { s with region := { r with rclk := setBits r.rclk 63 1 1, st := .acq, locked := false, gated := true, fresh := true } }

/-- EN is written 0: the synthesiser stops (20 R358); with a kernel resident the write is ignored (R354). -/
def execSynthesiserStop (s : State) : Out :=
  let r := s.region
  if s.occupied then .next s
  else .next { s with region := { r with
    rclk := setBits r.rclk 63 1 0, st := .off, locked := false, pending := false, gated := true, fresh := true } }

/-! ## Throttling -/

/-- DIV of RVREG (22 R391). -/
def Region.div (r : Region) : BitVec 2 := bitsAt r.rv 0 2

/-- ALM of RVREG (22 R391). -/
def Region.alm (r : Region) : BitVec 4 := bitsAt r.rv 16 4

/-- The DIV of the region's own throttle: a fast one until it is released, else that of the partition's cap (22 R391, R393,
R394). -/
def Region.ownDiv (r : Region) : BitVec 2 := if r.fast then 1 else if bitAt r.alm 2 then 2 else 0

/-- DIV follows the region's own throttle and its peer's: a fast one before that of a cap (20 R374, 22 R391). -/
def Region.throttled (r : Region) : Region :=
  let dv := if r.ownDiv = 1 ∨ r.peer = 1 then 1 else if r.ownDiv = 2 ∨ r.peer = 2 then 2 else 0
  { r with rv := setBits r.rv 0 2 dv, phase := if dv = 1 then r.phase else 0 }

/-- ALM as the alarms now stand, and the throttle that follows from it (22 R391). -/
def Region.setAlm (r : Region) (alm : BitVec 4) : Region := Region.throttled { r with rv := setBits r.rv 16 4 alm.toNat }

/-- The region belongs to the fabric timing group by its source and ratio (01 R18). -/
def State.fabricKind (s : State) : Bool := s.onWebRef && s.ratio27

/-- A module that throttles regions of the fabric timing group, or releases them, tells its peers the division (20 R374). -/
def State.pace (s : State) : State :=
  if s.fabricKind then { s with dev := { s.dev with sent := .pace s.region.ownDiv :: s.dev.sent } } else s

/-- The alarms of R393 that now stand: temperature (bit 0), droop (bit 1), module input (bit 3), the last only with a module cap.  An
alarm divides the pulse rate by four; when the last clears, the throttle stands until it is released (22 R391, R393; assumption
54). -/
def execFastThrottle (alarm : BitVec 4) (s : State) : Out :=
  let r := s.region
  let a := alarm &&& 0b1011
  if (a = 0 ∧ !r.fast) ∨ (bitAt a 3 ∧ s.dev.mcap = 0) then .fault .notDue
  else .next (State.pace { s with region := Region.setAlm { r with fast := true } (r.alm &&& 0b0100 ||| a) })

/-- Every alarm has stayed clear for 100 µs (22 R393). -/
def execThrottleRelease (s : State) : Out :=
  let r := s.region
  if !r.fast ∨ r.alm &&& 0b1011 ≠ 0 then .fault .notDue
  else .next (State.pace { s with region := Region.throttled { r with fast := false } })

/-- A peer throttles or releases its regions of the fabric timing group: this region applies the same division, and keeps a throttle
of its own (20 R374). -/
def execPaceMessage (div : BitVec 2) (s : State) : Out :=
  if div = 3 then .fault .notDue
  else if !s.fabricKind then .next s
  else .next { s with region := Region.throttled { s.region with peer := div } }

/-- The partition's cap is passed, or met again.  Without a cap and without a fast throttle nothing throttles the region, so none
takes it below MINC (22 R394). -/
def execCapThrottling (on : Bool) (s : State) : Out :=
  let r := s.region
  if on ∧ s.part.capw = 0 then .fault .notDue
  else .next (State.pace { s with region := r.setAlm (if on then r.alm ||| 0b0100 else r.alm &&& 0b1011) })

/-! ## Errors in SRAM -/

/-- One of the error counters counts an event (05 R89). -/
def Device.countErr (d : Device) (n : Nat) : Device := { d with err := d.err.setIfInBounds n ((d.err[n]?).getD 0 + 1) }

/-- A correctable error is corrected and counted by its counter: one in an SRAM (0) swallows 12 pulses of the region; one in an HBM
beat (2) or a felt beat (4) costs no cycle (21 R382, 20 R372, 05 R89, R108, 09 R157). -/
def execCorrectableError (cnt : BitVec 3) (s : State) : Out :=
  let dev := s.dev.countErr cnt.toNat
  if cnt = 0 then .next { s with region := { s.region with swallow := s.region.swallow + 12 }, dev := dev }
  else if cnt = 2 ∨ cnt = 4 then .next { s with dev := dev }
  else .fault .notDue

/-- A stored granule is poisoned: the n-th of some memory of the core or of the sheet's mirror, whose granules are numbered from a
base (21 R382). -/
def State.poisonStored (s : State) (base limit gran : Nat) : Out :=
  if limit ≤ gran then .fault .notDue
  else
    let g := base + gran
    .next { s with
      core := { s.core with poison := if s.core.poison.contains g then s.core.poison else g :: s.core.poison }
      dev := s.dev.countErr 1 }

/-- An engine write whose data err on their way lands as the poison pattern, and its command takes the fault, from which the runtime
resumes the core (21 R382, 05 R108). -/
def State.spoil (s : State) (w : EngWrite) : EngWrite :=
  let bad := match w.cmd with
    | some (id, n) => (s.core.cmd id).map fun k => { poisonFault .read (k.beatSrc n) with word := k.word, resumes := true }
    | none => none
  { w with data := poison512, bad := w.bad.orElse fun _ => bad
           place := match w.place with
             | .remote fl => .remote { fl with data := poison512 }
             | p => p }

/-- An uncorrectable error, in stored data or in data on their way: an HBM beat, a web flit or a TSV transfer (21 R382, 05 R89,
R108).  One in a word that an operation reads in another SRAM of the core is the uncorrectable-data fault of its slot at once
(assumption 95).  What the runtime finds of a quadrant goes to the resource map, whose membership it does not change (06 R110,
R121). -/
def execUncorrectableError (at_ : ErrorAt) (s : State) : Out :=
  match at_ with
  | .pad g => s.poisonStored 0 (Config.scratchBytes / 32) g
  | .quire g => s.poisonStored (2 ^ 20) (Config.quireBytes / 32) g
  | .wbuf g => s.poisonStored (2 ^ 21) (Config.wbufBytes / 32) g
  | .istore k => s.poisonStored (2 ^ 22) 2048 k
  | .base g =>
    if Config.quireBytes / 32 ≤ g then .fault .notDue
    else
      let dev := s.dev.countErr 1
      .next { s with dev := { dev with
        basePoison := if dev.basePoison.contains (2 ^ 20 + g) then dev.basePoison else (2 ^ 20 + g) :: dev.basePoison } }
  | .other slot =>
    .next { s with
      core := { s.core with lateDue := s.core.raiseLate (some { poisonFault .read 0 with slot := slot.toNat }) }
      dev := s.dev.countErr 1 }
  | .quadrant q w =>
    if 96 ≤ q.toNat then .fault .notDue
    else
      let member := b2n (bitAt (Tab.get 0 s.dev.rmap q.toNat) 52) * 2 ^ 52
      .next { s with dev := { s.dev with rmap := Tab.put 0 s.dev.rmap q.toNat (BitVec.ofNat 64 (w.toNat + member)) } }
  | .transit i tsv =>
    match s.arriving[i]? with
    | none => .fault .notDue
    | some (t, w) =>
      if w.place = .away ∨ w.atm.isSome ∨ w.wms.isSome then .fault .notDue
      else
        let dev := if tsv then s.dev.countErr 6 else if w.port = 0 then s.dev.countErr 3 else s.dev
        .next { s with arriving := s.arriving.set i (t, s.spoil w), dev := dev }

/-! ## Voltage and heat -/

/-- VOUT moves by some mV, within its field (22 R392). -/
def Region.trim (r : Region) (up : Bool) (mv : Nat) : Region :=
  let v := (bitsAt r.rv 32 16).toNat
  { r with rv := setBits r.rv 32 16 (if up then Nat.min (v + mv) 0xFFFF else v - mv) }

/-- A canary failure steps VOUT up by 5 mV, where canaries hold the margin (22 R392). -/
def execCanaryFailure (s : State) : Out :=
  if bitAt s.region.rv 63 then .fault .notDue else .next { s with region := s.region.trim true 5 }

/-- After 10 ms with no canary failure VOUT steps down by 5 mV (22 R392). -/
def execVoutStepDown (s : State) : Out :=
  if bitAt s.region.rv 63 then .fault .notDue else .next { s with region := s.region.trim false 5 }

/-- Replica monitors trim VOUT by at most 5 mV (22 R392). -/
def execReplicaTrim (up : Bool) (mv : BitVec 3) (s : State) : Out :=
  if !bitAt s.region.rv 63 ∨ 5 < mv.toNat then .fault .notDue
  else .next { s with region := s.region.trim up mv.toNat }

/-- A stack's new heat level waits for the next slot 0 of its wheels (22 R396). -/
def execHeatLevelChange (stk : BitVec 4) (lvl : BitVec 2) (s : State) : Out :=
  if 12 ≤ stk.toNat then .fault .notDue
  else .next { s with dev := { s.dev with htlNext := (s.dev.htlNext.filter fun x => x.1 != stk) ++ [(stk, lvl)] } }

/-- Heat levels that have waited take effect at slot 0 (22 R396). -/
def State.heatLevels (s : State) : State :=
  if s.dev.htlNext.isEmpty then s
  else { s with dev := { s.dev with
    htl := s.dev.htlNext.foldl (fun (v : Vector (BitVec 2) 12) x => v.setIfInBounds x.1.toNat x.2) s.dev.htl
    htlNext := [] } }

end Sys2Proof.Machine
end

