-- ==== Sys2Proof/Machine/Special.lean ====
section
/-! DEFINITION. The special registers: SRD and SWR (18 R338, 11 R200). -/

namespace Sys2Proof.Machine

/-- The violation of an unprivileged access to 0x100 to 0x13F (18 R338, 21 R383). -/
def privViolation (n : BitVec 9) (d : Doing) : FaultInfo :=
  { accessFault .violation 0 d 0 n.toNat with vkind := 2 }

/-- The core may not reach a special register (18 R338). -/
def State.barred (s : State) (n : BitVec 9) : Bool := decide (0x100 ≤ n.toNat ∧ n.toNat < 0x140) && !s.core.priv

/-- A tile register's low doubleword, t3 to t0, or its high one, V and t5 to t4 (11 R199). -/
def TileCoord.word (t : TileCoord) (high : Bool) : Nat :=
  let x := fun i => ((t.t[i]?).getD 0).toNat
  if high then b2n t.v * 2 ^ 32 + x 5 * 2 ^ 16 + x 4
  else x 3 * 2 ^ 48 + x 2 * 2 ^ 32 + x 1 * 2 ^ 16 + x 0

/-- The first owned felt slot among n beats from beat b on. -/
def nextOwned (own : Nat → Bool) : Nat → Nat → Nat
  | 0, _ => 0
  | n + 1, b => if own (b % 64) then b % 64 else nextOwned own n (b + 1)

/-- `wheel` as it stands in a web cycle (09 R155). -/
def State.wheelAt (s : State) (web : Nat) : Nat :=
  let now := web % 2 * 2 ^ 6 + web / 2 % 64
  if s.ownsAnyFelt then nextOwned s.ownsFelt 64 ((web + 3) / 2) * 2 ^ 8 + now else 2 ^ 15 + now

/-- The limits of a receive queue (10 R178). -/
def Regs.qlim (r : Regs) (i : Nat) : Nat := ((r.qcap[i]?).getD 0).toNat * 2 ^ 16 + ((r.qmin[i]?).getD 0).toNat

/-- The value of a special register as visible in the present cycle (11 R200). -/
def State.special (s : State) (n : Nat) : Nat :=
  let c := s.core
  let r := s.region
  match n with
  | 0x000 => c.cyc
  | 0x001 => c.tix.toNat
  | 0x002 => c.sheet.toNat
  | 0x003 => c.slipSeen.toNat
  | 0x004 => c.lcnt
  | 0x005 => c.scnt
  | 0x010 => c.ovs.nb.toNat * 2 ^ 16 + c.ovs.cause.toNat * 2 ^ 4 + b2n c.ovs.fs * 2 ^ 3 + c.ovs.st.toNat
  | 0x040 => c.r.fmode.toNat
  | 0x041 => c.fstat.toNat
  | 0x080 => r.smpc
  | 0x081 => r.bud * 2 ^ 32 + r.cis
  | 0x083 => r.phev.toNat * 2 ^ 48 + r.miss.toNat * 2 ^ 32 + r.drop.toNat * 2 ^ 16 + r.ovr.toNat
  | 0x0C0 => c.snapSeq.toNat * 2 ^ 32 + b2n c.snapTrg * 2 ^ 7 + c.snapSrc.toNat * 2 ^ 4 + b2n c.r.eflt * 2 ^ 2
      + b2n c.r.esnap * 2
  | 0x100 => c.r.preb.toNat
  | n =>
    if 0x020 ≤ n ∧ n < 0x028 then
      (match c.r.tc[(n - 0x020) / 2]? with
       | some t => t.word (n % 2 == 1)
       | none => 0)
    else if 0x0C1 ≤ n ∧ n < 0x0C9 then ((c.vlog[n - 0x0C1]?).getD 0).toNat
    else if 0x120 ≤ n ∧ n < 0x140 then c.r.qlim (n - 0x120)
    else 0

/-- Other cores of the kernel share the core's region. -/
def State.hasMates (s : State) : Bool := (s.part.coresIn s.core.region).any (· != s.core.tix.toNat)

/-- What `ovrc` returns: its counts as they stood before those of the present web cycle.  Where other cores of the kernel share the
region, one of them may have reset it since this core did, and its overruns are theirs as well: what it returns is free, PHEV, MISS
and DROP no higher than what has been counted (20 R364, 00 R10; assumption 2). -/
def State.ovrc (s : State) : Nat × State :=
  let r := s.region
  let n := r.fresh_ s.moment
  let was := [(r.phev - n[0]).toNat, (r.miss - n[1]).toNat, (r.drop - n[2]).toNat, (r.ovr - n[3]).toNat]
  let word := fun (l : List Nat) => l.foldl (fun x y => x * 2 ^ 16 + y) 0
  if s.hasMates then
    let (a, s) := s.drawBelow (nth 0 was 0 + 1)
    let (b, s) := s.drawBelow (nth 0 was 1 + 1)
    let (c, s) := s.drawBelow (nth 0 was 2 + 1)
    let (d, s) := s.drawBelow (2 ^ 16)
    (word [a, b, c, d], s)
  else (word was, s)

/-- What reading a special register gives, and what it does: `ovrc` is reset, and outside the fabric timing group the
instant of `wheel` is drawn (20 R364, 09 R155). -/
def State.readSpecial (s : State) (n : Nat) : Nat × State :=
  if n = 0x082 then let (w, s) := s.pastWeb; (s.wheelAt w, s)
  else if n = 0x083 then
    let (x, s) := s.ovrc
    (x, { s with region := s.region.uncount s.moment })
  else (s.special n, s)

/-- SRD: a special register into aN at c+1, with no latch (18 R338). -/
def execSrd (g : BitVec 4) (sf : BitVec 9) (n : BitVec 5) (s : State) : Out :=
  guarded g s fun s =>
    if !readable sf then .next (s.takePrecise (.plain .illegalOperation 0))
    else if s.barred sf then .next (s.takePrecise (privViolation sf .read))
    else
      let (x, s) := s.readSpecial sf.toNat
      .next (s.push64 0 1 (some .a) (BitVec.ofNat 10 n.toNat) (BitVec.ofNat 64 x) .none)

/-- SWR: aN into a special register at c+1; a number that holds only RO fields is illegal, and `ovrc` takes no write (18
R338, 11 R200). -/
def execSwr (g : BitVec 4) (sf : BitVec 9) (n : BitVec 5) (s : State) : Out :=
  guarded g s fun s =>
    if !writable sf then .next (s.takePrecise (.plain .illegalOperation 0))
    else if s.barred sf then .next (s.takePrecise (privViolation sf .write))
    else if sf = 0x083 then .next s
    else .next (s.push64 0 1 (some .special) (BitVec.ofNat 10 sf.toNat) (s.core.r.readA n) .none)

end Sys2Proof.Machine
end

