-- ==== Sys2Proof/Machine/Power.lean ====
section
/-! DEFINITION. Snapshots, sleep, boot, the security block and debug (21 R389, 09 R169, R170, 22 R399 to R403). -/

namespace Sys2Proof.Machine

/-! ## Snapshots -/

/-- The two snapshot doublewords of a loop level (05 R89). -/
def levelWords (l : Level) : List Nat :=
  [b2n l.opn * 2 ^ 32 + l.stop.toNat * 2 ^ 16 + l.start.toNat, l.idx.toNat * 2 ^ 32 + l.rem.toNat]

/-- The entry count of a receive queue (10 R177, 05 R89). -/
def RQueue.count (q : RQueue) : Nat :=
  (q.msgs.map fun m => if m.line then 2 else 1).foldl (· + ·) 0 + q.partials.length

/-- The snapshot registers of the core, doublewords 0 to 49; the outermost loop level comes first (05 R89). -/
def Core.snapWords (c : Core) : List Nat :=
  let lv := (c.seq.loops.reverse.map levelWords).flatten
  [c.seq.half.toNat * 2 ^ 10 + c.seq.index.toNat] ++ lv ++ List.replicate (12 - lv.length) 0
    ++ [c.cyc % 2 ^ 64, c.slip.toNat, c.scnt % 2 ^ 16 * 2 ^ 16 + c.lcnt % 2 ^ 16,
        Nat.min c.undo 511 * 2 ^ 16 + Nat.min c.gate.length 127 * 2 ^ 8 + Nat.min c.outstanding 15]
    ++ c.rq.toList.map RQueue.count
    ++ [Nat.min c.sendCount 31 * 2 ^ 16 + Nat.min c.feltQ.length 15]

/-- The snapshot doubleword of a gateway cell (05 R89). -/
def GwCell.snapWord (c : GwCell) (web : Nat) : Nat := (c.n - 1) % 128 * 2 ^ 16 + c.got % 128 * 2 ^ 8 + c.state web

/-- The snapshot doublewords of the sheet's gateway (05 R89). -/
def State.gatewayWords (s : State) : List Nat :=
  s.gw.cells.toList.map (fun (c : GwCell) => c.snapWord s.web) ++ [Nat.min s.gw.q.length 511]

/-- The snapshot doublewords of a link: the next SEQ to send and the last one received whole, and the flits in the replay
buffer (05 R89). -/
def Link.snapWords (l : Link) : List Nat := [(l.seqRx - 1).toNat * 2 ^ 16 + l.seqTx.toNat, flitsOf l.replay % 1024]

/-- The snapshot doublewords of a channel (05 R89). -/
def State.channelWords (s : State) (ch : Nat) : List Nat :=
  [s.web / Config.slotCycles % 512 * 2 ^ 16 + (s.heatOf ch).toNat, s.web / 4608]

/-- Doublewords under keys from k up; zeros are not listed. -/
def keyed (k : Nat) : List Nat → Tab Word
  | [] => []
  | x :: t => if x % 2 ^ 64 = 0 then keyed (k + 1) t else (k, BitVec.ofNat 64 x) :: keyed (k + 1) t

/-- What the snapshot registers hold once latched: the core at 0, the gateway at 1,000, links at 2,000, channels at
3,000. -/
def State.snapTable (s : State) : Tab Word :=
  keyed 0 s.core.snapWords ++ keyed 1000 s.gatewayWords ++ keyed 2000 (s.links.toList.map Link.snapWords).flatten
    ++ keyed 3000 ((List.range 384).map s.channelWords).flatten

/-- Every snapshot register latches in web cycle T + 24 of each trigger (21 R389). -/
def execSnapshotLatch (s : State) : Out :=
  match s.dev.snapAt with
  | [] => .fault .notDue
  | t :: later =>
    if s.web < t then .fault .notDue
    else .next { s with core := { s.core with snapSeq := s.core.snapSeq + 1 },
                        dev := { s.dev with snapAt := later, snap := s.snapTable } }

/-- A management write to SNAPT triggers (21 R389). -/
def execManagementTrigger (s : State) : Out := .next (s.trigger 2)

/-- An entry that a violation of another core of the region may bring to the log (21 R384). -/
def violationOk (x : Word) : Bool := bitAt x 63 && decide ((bitsAt x 60 3).toNat ≤ 4) && bitsAt x 48 8 == 0

/-- The pin triggers, or what another core of the kernel does: its SNAP, or its fault, which triggers when its EFLT is 1 and, when it
is a violation in this core's region, stands in the logs (21 R384, R389). -/
def execExternalTrigger (src : Outside) (s : State) : Out :=
  match src with
  | .pin => .next (s.trigger 3)
  | .snap => .next (s.trigger 0)
  | .fault eflt viol =>
    if viol.any (!violationOk ·) then .fault .notDue
    else
      let s := viol.elim s s.logEntry
      .next (if eflt then s.trigger 1 else s)

/-! ## Sleep -/

/-- The physical sheet of a logical sheet under a placement (06 R109). -/
def sheetIn (place : Tab (BitVec 16)) (j : Nat) : Nat :=
  let x := (Tab.get 0 place j).toNat
  if x = 0 then j else x - 1

/-- The logical sheets of a kernel whose last core has a number stand on a physical sheet under a placement (06 R109). -/
def standsOn (place : Tab (BitVec 16)) (last : BitVec 11) (sh : Nat) : Bool :=
  (List.range (last.toNat / 64 + 1)).any fun j => sheetIn place j == sh

/-- A region of a sheet holds a resident or parked context (22 R399). -/
def State.sheetInUse (s : State) (sh : Nat) : Bool :=
  (s.part.resident.isSome && standsOn s.dev.place s.part.cores sh) || s.part.shadow.toList.any fun p => standsOn p.place p.cores sh

/-- SLP is written 1: the sheet goes to sleep (22 R399, 09 R169). -/
def execSheetSleep (sh : BitVec 5) (s : State) : Out :=
  if 24 ≤ sh.toNat then .fault .notDue
  else if s.sheetInUse sh.toNat then .next s
  else .next { s with dev := { s.dev with asleep := s.dev.asleep.setIfInBounds sh.toNat true } }

/-- Web cycles of a mirror reload, 1.6 µs (09 R170). -/
def reloadCycles : Nat := 4320

/-- SLP is written 0: a sleeping sheet wakes, and its mirror takes the base die's contents with every packet that is applied
from now on (22 R399, 09 R170). -/
def execSheetWake (sh : BitVec 5) (s : State) : Out :=
  if 24 ≤ sh.toNat then .fault .notDue
  else if s.sheetInUse sh.toNat ∨ !((s.dev.asleep[sh.toNat]?).getD false) then .next s
  else
    let s := { s with dev := { s.dev with asleep := s.dev.asleep.setIfInBounds sh.toNat false
                                          waking := Tab.put 0 s.dev.waking sh.toNat (s.web + reloadCycles) } }
    .next (if sh = s.core.sheet then
        { s.takeMirror with reload := some (s.web + reloadCycles) }
      else s)

/-- The reload ends, which a region outside the fabric group sees later (09 R170, 20 R362). -/
def execMirrorReloadEnd (s : State) : Out :=
  match s.reload with
  | none => .fault .notDue
  | some t =>
    if s.web < t then .fault .notDue
    else .next { s with reload := none, core := { s.core with reloadEnd := if s.inFabric then none else some s.web } }

/-! ## Boot -/

/-- n bytes of a list from a place, as a little-endian number. -/
def bytesNat (l : List Byte) (at_ n : Nat) : Nat := elemsNat 8 (fun i => (nth 0 l (at_ + i)).toNat) n

/-- The check of an image with its header: its digest and version when the ROM accepts it (22 R400). -/
def State.checkImage (s : State) (fl : List Byte) : Option (BitVec 256 × BitVec 32) :=
  let len := bytesNat fl 12 4
  let body := (fl.drop 128).take len
  let digest := Config.sha256 body
  let version : BitVec 32 := BitVec.ofNat 32 (bytesNat fl 8 4)
  if bytesNat fl 0 4 = 0x51414641 ∧ bytesNat fl 4 4 = 1 ∧ bytesNat fl 120 8 = 0 ∧ body.length = len
      ∧ digest = BitVec.ofNat 256 (bytesNat fl 24 32)
      ∧ Config.ecdsaVerify (Config.sha256 (fl.take 56)) (BitVec.ofNat 512 (bytesNat fl 56 64))
      ∧ Config.rootKeyHash fl = s.dev.fuseHash ∧ s.dev.fuseMin.toNat ≤ version.toNat then some (digest, version)
  else none

/-- The built-in tests write the resource map: what they find of each quadrant is free (22 R400, 06 R110; assumption 2). -/
def State.builtInTests (s : State) : State :=
  (List.range 96).foldl (fun s q =>
    let (x, s) := s.draw
    { s with dev := { s.dev with rmap := Tab.put 0 s.dev.rmap q (BitVec.ofNat 64 x) } }) s

/-- The accepted image runs: it initialises the web clock, on the module reference as no link has trained, and the ream links,
and writes the resource map (22 R400, 01 R17, 10 R188). -/
def State.runImage (s : State) (copy : BitVec 2) (im : BitVec 256 × BitVec 32) : State :=
  State.builtInTests { s with
    web := 0, webRef := 9
    links := s.links.map fun l => { l with st := .train }
    dev := { s.dev with boot := .runs copy, image := some im } }

/-- A power cycle: everything but flash and fuses is at reset; what is still to be taken in and what has gone out are the
model's own (assumption 3). -/
def State.powerCycle (s : State) : State :=
  { State.reset with
    inputs := s.inputs, fresh := s.fresh
    dev := { Device.reset with flashA := s.dev.flashA, flashB := s.dev.flashB, fuseHash := s.dev.fuseHash,
                               fuseMin := s.dev.fuseMin, sent := s.dev.sent } }

/-- Power-good: the boot ROM tries flash A, then flash B; when both fail the mill cores stay in reset and the failure is
reported (22 R400). -/
def execPowerGood (s : State) : Out :=
  let s := s.powerCycle
  match s.checkImage s.dev.flashA, s.checkImage s.dev.flashB with
  | some im, _ => .next (s.runImage 0 im)
  | none, some im => .next (s.runImage 1 im)
  | none, none => .next { s with dev := { s.dev with boot := .failed, sent := .bootFailure :: s.dev.sent } }

/-- After both flashes have failed an image is offered through the PCIe endpoint; one that fails the checks is not accepted
(22 R400). -/
def execSignedImage (img : List (BitVec 8)) (s : State) : Out :=
  match s.dev.boot with
  | .failed =>
    match s.checkImage img with
    | some im => .next (s.runImage 2 im)
    | none => .next s
  | _ => .fault .notDue

/-! ## The security block -/

/-- The bytes of a number, lowest first. -/
def natBytes (n x : Nat) : List Byte := (List.range n).map fun i => BitVec.ofNat 8 (x / 2 ^ (8 * i))

/-- The measurements (22 R401). -/
def State.measurements (s : State) : List Byte :=
  let im := s.dev.image.getD (0, 0)
  let copy := match s.dev.boot with
    | .runs c => c.toNat
    | _ => 3
  natBytes 32 Config.romDigest.toNat ++ natBytes 1 copy ++ natBytes 32 im.1.toNat ++ natBytes 4 im.2.toNat
    ++ natBytes 4 s.dev.fuseMin.toNat ++ natBytes 1 (b2n s.dev.debugOpen)

/-- A response signed with the identity key. -/
def State.respond (s : State) (body : List Byte) : State :=
  { s with dev := { s.dev with sent := .spdm body (Config.identitySign body) :: s.dev.sent } }

/-- CHALLENGE (22 R401). -/
def execChallenge (nonce : List (BitVec 8)) (s : State) : Out :=
  if s.dev.boot = .off then .fault .notDue else .next (s.respond nonce)

/-- GET_MEASUREMENTS (22 R401). -/
def execGetMeasurements (nonce : List (BitVec 8)) (s : State) : Out :=
  if s.dev.boot = .off then .fault .notDue else .next (s.respond (nonce ++ s.measurements))

/-! ## Debug -/

/-- A token that is signed and bound to this device unlocks debug until the next power cycle (22 R402). -/
def execUnlockToken (tok : List (BitVec 8)) (s : State) : Out :=
  .next (if Config.tokenValid tok then { s with dev := { s.dev with debugOpen := true } } else s)

/-- A debug halt: the bundle due to issue, after the dead cycle of a taken transfer, does not, and results in flight are saved (22
R403). -/
def execDebugHalt (s : State) : Out :=
  if !s.dev.debugOpen ∨ s.core.run ≠ .running then .fault .notDue
  else .next { s with core := { s.core with run := .debugHalted, stopAt := some (s.core.cyc + s.core.dead), late := false } }

/-- The core goes on after a debug halt with its `preb` count (22 R403, 21 R386). -/
def State.debugGo (s : State) (once : Bool) : State :=
  let t := s.returnFrom
  { t with core := { t.core with psCount := s.core.psCount, stepOnce := once } }

/-- Resumption from a debug halt: the bundle issues, and the saved results land at their counts (22 R403). -/
def execDebugResume (s : State) : Out :=
  if !s.dev.debugOpen ∨ s.core.run ≠ .debugHalted then .fault .notDue else .next (s.debugGo false)

/-- A single-bundle step: one bundle issues, and the core halts again (22 R403). -/
def execSingleBundleStep (s : State) : Out :=
  if !s.dev.debugOpen ∨ s.core.run ≠ .debugHalted then .fault .notDue else .next (s.debugGo true)

/-- A general register as the debug unit reads it; a special one is read as SRD reads it (22 R402). -/
def Core.debugRead (c : Core) (file : RegFile) (idx : BitVec 10) : Line :=
  let r := c.r
  let n := idx.toNat
  let w := fun (k : Nat) => BitVec.ofNat 1024 k
  match file with
  | .a => w (r.readA (BitVec.ofNat 5 n)).toNat
  | .m => w (r.readM (BitVec.ofNat 5 n)).toNat
  | .v => r.readV (BitVec.ofNat 4 n)
  | .p => w (b2n (r.readP (BitVec.ofNat 3 n)))
  | .k => w (r.readK (BitVec.ofNat 3 n)).toNat
  | .plane => r.readPlane idx
  | .st => w (r.readSt (BitVec.ofNat 4 n)).toNat
  | .tc => match r.tc[n - 16]? with
    | some t => w (t.word true * 2 ^ 64 + t.word false)
    | none => 0
  | .special => 0

/-- A register as the debug unit reads it, with what reading it does: the fields of `ovrc` are reset (22 R402, 00 R9, 18 R338). -/
def State.debugRead (s : State) (file : RegFile) (idx : BitVec 10) : Line × State :=
  match file with
  | .special => let (x, s) := s.readSpecial idx.toNat; (BitVec.ofNat 1024 x, s)
  | _ => (s.core.debugRead file idx, s)

/-- The bits of a register that a write of the debug unit reaches: the reserved ones of mN and stN read zero (11 R195, R197). -/
def debugBits (f : RegFile) : Line :=
  match f with
  | .m => BitVec.ofNat 1024 (2 ^ 64 - 2 ^ 62 + 2 ^ 56 - 1)
  | .st => BitVec.ofNat 1024 (2 ^ 512 - 2 ^ 64 + 2 ^ 56 - 1)
  | _ => BitVec.allOnes 1024

/-- A register of a core that has stopped is written from outside; what the register file discards is discarded (22 R402, 18 R336,
03 R38); a trigger of the present moment stays (00 R10). -/
def State.setRegister (s : State) (file : RegFile) (idx : BitVec 10) (val : BitVec 1024) : State :=
  if discards file idx then s
  else
    let l : Landing := { due := s.core.cyc, seq := 0, slot := 0, file := some file, dst := idx, val := val,
                         sel := debugBits file, flg := 0, latch := .none, lval := 0, lsel := 0 }
    let t := s.core.landOne l
    { s with core := if s.core.trgAt = s.moment + 1 then { t with snapTrg := s.core.snapTrg } else t }

end Sys2Proof.Machine
end

