-- ==== Sys2Proof/Machine/Driver.lean ====
section
/-! DEFINITION. The translation table as the mill cores write it, and the driver's residency policy (05 R96, R104 to R107, 06
R119, R120). -/

namespace Sys2Proof.Machine

/-! ## Moving bytes -/

/-- The cells of a memory within n bytes from an address. -/
def Memory.cellsIn (m : Memory) (a n : Nat) : Memory := m.filter fun c => decide (a ≤ c.1 ∧ c.1 < a + n)

/-- The cells of a memory outside n bytes from an address. -/
def Memory.without (m : Memory) (a n : Nat) : Memory := m.filter fun c => !decide (a ≤ c.1 ∧ c.1 < a + n)

/-- n bytes of one memory copied to an address of another. -/
def Memory.copyFrom (dst : Memory) (b : Nat) (src : Memory) (a n : Nat) : Memory :=
  Memory.writeCells (dst.without b n) ((src.cellsIn a n).map fun c => (c.1 - a + b, c.2))

/-! ## Entries -/

/-- PB of an entry replaced, and its state set (05 R96). -/
def withFrame (e : BitVec 128) (pb : BitVec 22) (st : BitVec 2) : BitVec 128 :=
  let x := e.toNat
  let x := x / 2 ^ 59 * 2 ^ 59 + pb.toNat * 2 ^ 37 + x % 2 ^ 37
  BitVec.ofNat 128 (x / 2 ^ 5 * 2 ^ 5 + st.toNat * 2 ^ 3 + x % 2 ^ 3)

/-- ST of an entry replaced. -/
def withState (e : BitVec 128) (st : BitVec 2) : BitVec 128 := withFrame e (bitsAt e 37 22) st

/-- A written entry keeps PND, and its reserved bits read zero (05 R96). -/
def writtenEntry (old new : BitVec 128) : BitVec 128 :=
  BitVec.ofNat 128 (b2n (bitAt new 127) * 2 ^ 127 + (bitsAt old 117 10).toNat * 2 ^ 117 + new.toNat % 2 ^ 113)

/-- The bytes of an entry's extent. -/
def extentBytes (e : BitVec 128) : Nat := ((bitsAt e 59 22).toNat + 1) * pageSize e

/-- The first physical byte of an entry's extent. -/
def extentBase (e : BitVec 128) : Nat := (bitsAt e 37 22).toNat * 0x40000

/-- An entry of the core's table. -/
def Core.entry (c : Core) (ent : BitVec 10) : BitVec 128 := Tab.get 0 c.xlat ent.toNat

/-- Write an entry of the core's table. -/
def Core.setEntry (c : Core) (ent : BitVec 10) (e : BitVec 128) : Core := { c with xlat := Tab.put 0 c.xlat ent.toNat e }

/-- A mill-core write of half an entry: the low doubleword waits, and the entry takes effect with the high one, at the end of the web
cycle; accesses checked in it see the entry as it was (05 R89, R104). -/
def execTranslationEntryWrite (ent : BitVec 10) (hi : Bool) (dw : BitVec 64) (s : State) : Out :=
  let k := ent.toNat
  if hi then
    let low := Tab.get 0 s.dev.xlatLow k
    let lo : Word := if bitAt low 64 then bitsAt low 0 64 else bitsAt (s.core.entry ent) 0 64
    let new : BitVec 128 := BitVec.ofNat 128 (dw.toNat * 2 ^ 64 + lo.toNat)
    .next { s with dev := { s.dev with xlatLow := Tab.put 0 s.dev.xlatLow k 0, xlatNew := s.dev.xlatNew ++ [(ent, new)] } }
  else .next { s with dev := { s.dev with xlatLow := Tab.put 0 s.dev.xlatLow k (BitVec.ofNat 65 (2 ^ 64 + dw.toNat)) } }

/-- Write the home that an extent has under an entry (06 R109, R119). -/
def Device.setHome (d : Device) (ent : BitVec 10) (e : BitVec 128) : Device :=
  { d with homeTab := Tab.put 0 d.homeTab ent.toNat (writtenEntry 0 e) }

/-- The entry that tells where an extent is: the core's own when that is valid, else its home as the last launch or a move left it (06
R119). -/
def State.homeOf (s : State) (ent : BitVec 10) : BitVec 128 :=
  if bitAt (s.core.entry ent) 127 then s.core.entry ent else Tab.get 0 s.dev.homeTab ent.toNat

/-- The entries of the extents that have a place: those of the core's table and those of the homes. -/
def State.homeKeys (s : State) : List Nat := distinct (s.core.xlat.map (·.1) ++ s.dev.homeTab.map (·.1))

/-- The home of an extent is written, and the core's entry when that is valid: the tables of the other cores that map it follow (06 R120,
05 R105). -/
def State.moveHome (s : State) (ent : BitVec 10) (e : BitVec 128) : State :=
  { s with core := if bitAt (s.core.entry ent) 127 then s.core.setEntry ent e else s.core, dev := s.dev.setHome ent e }

/-- A written entry takes effect, over what accesses of its web cycle have counted in ACC and DZC (05 R103, R104, 00 R10); one that is
valid tells where its extent is. -/
def State.takeEntry (s : State) (x : BitVec 10 × BitVec 128) : State :=
  { s with core := s.core.setEntry x.1 (writtenEntry (s.core.entry x.1) x.2)
           dev := if bitAt x.2 127 then s.dev.setHome x.1 x.2 else s.dev }

/-! ## Residency -/

/-- Two ranges share a byte. -/
def overlaps (a n b m : Nat) : Bool := decide (a < b + m ∧ b < a + n)

/-- The extents, other than one, that lie in some bytes of HBM and have contents there (05 R107). -/
def State.extentsIn (s : State) (ent : BitVec 10) (a n : Nat) : List (BitVec 10) :=
  ((s.homeKeys.map fun k => (BitVec.ofNat 10 k, s.homeOf (BitVec.ofNat 10 k))).filter fun x =>
    x.1 != ent && bitAt x.2 127 && (bitsAt x.2 3 2 == 1 || bitsAt x.2 3 2 == 3) && overlaps (extentBase x.2) (extentBytes x.2) a n).map (·.1)

/-- An extent is evicted once nothing is pending under it: a dead one becomes DISCARD, and any other is saved and becomes
ABSENT (05 R105, R107). -/
def State.evict (s : State) (k : BitVec 10) : State :=
  let e := s.homeOf k
  let dead := s.dev.deadExt.contains k
  let dev := { s.dev with inactive := s.dev.inactive.filter (· != k) }
  let dev := if dead then dev
    else { dev with saved := dev.saved.copyFrom (k.toNat * 2 ^ 40) s.hbm (extentBase e) (extentBytes e),
                    savedExt := k :: dev.savedExt.filter (· != k) }
  State.moveHome { s with dev := dev } k (withState e (if dead then 2 else 0))

/-- Extents may be evicted: they are the tail of the inactive list, and no access is pending under them (05 R105, R107). -/
def State.evictable (s : State) (ks : List (BitVec 10)) : Bool :=
  ks.all fun k => (s.dev.inactive.reverse.take ks.length).contains k && bitsAt (s.core.entry k) 117 10 == 0

/-- The bytes of an extent come into its frame: saved ones, those of the frame it migrates from, or zeros for a DISCARD extent, in
whichever frame it is revived (05 R106, R107).  An ABSENT extent that has never been saved finds in its frame what stood there
(assumption 80). -/
def State.fillFrame (s : State) (ent : BitVec 10) (a : Nat) : State :=
  let e := s.core.entry ent
  let n := extentBytes e
  match (bitsAt e 3 2).toNat with
  | 2 => { s with hbm := s.hbm.without a n }
  | 3 => if extentBase e = a then s else { s with hbm := s.hbm.copyFrom a s.hbm (extentBase e) n }
  | _ =>
    if s.dev.savedExt.contains ent then
      { s with hbm := s.hbm.copyFrom a s.dev.saved (ent.toNat * 2 ^ 40) n
               dev := { s.dev with saved := s.dev.saved.without (ent.toNat * 2 ^ 40) n,
                                   savedExt := s.dev.savedExt.filter (· != ent) } }
    else s

/-- An extent goes to the head of the active list (05 R107). -/
def Device.activate (d : Device) (ent : BitVec 10) : Device :=
  { d with active := ent :: d.active.filter (· != ent), inactive := d.inactive.filter (· != ent) }

/-- The core waits for the runtime after a residency fault on an entry (21 R375). -/
def Core.awaitsResidency (c : Core) (ent : BitVec 10) : Bool :=
  c.run == .faulted && (match c.fault with
    | some f => f.kind == .residency && f.entry == ent && f.resumes
    | none => false)

/-- An aligned page is a frame: of each two channels, 3 GiB, the first and the third 1 GiB are the large frames, and the middle
one holds the smaller ones (05 R90). -/
def isFrame (size a : Nat) : Bool :=
  let third := a % 0xC0000000 / 0x40000000
  decide (a % size = 0 ∧ a + size ≤ Config.hbmEnd) && (if size = 0x40000000 then third != 1 else third == 1)

/-- Frames may hold an entry's extent (05 R90, R96). -/
def frameFits (e : BitVec 128) (a : Nat) : Bool :=
  decide (pageSize e ≠ 0 ∧ a + extentBytes e ≤ Config.hbmEnd)
    && (List.range (extentBytes e / pageSize e)).all fun i => isFrame (pageSize e) (a + i * pageSize e)

/-- The lowest page of a size at or after an address that is a frame, or the page there when none follows within two channels (05
R90). -/
def nextFrame (size a : Nat) : Nat :=
  let up := fun (x : Nat) => (x + size - 1) / size * size
  let gib := a / 0x40000000 * 0x40000000
  ((up a :: (List.range 3).map fun i => gib + (i + 1) * 0x40000000).find? (isFrame size)).getD (up a)

/-- The partition has frames for an entry's extent in which no other extent has contents: the lowest after the start of a share, after
an extent, or after a multiple of 1 GiB (05 R107, 19 R340). -/
def State.hasFreeFrame (s : State) (ent : BitVec 10) (e : BitVec 128) : Bool :=
  let starts := s.part.frames.map (·.1)
    ++ (s.homeKeys.map fun k => extentBase (s.homeOf (BitVec.ofNat 10 k)) + extentBytes (s.homeOf (BitVec.ofNat 10 k)))
    ++ (List.range (Config.hbmEnd / 0x40000000)).map (· * 0x40000000)
  starts.any fun g =>
    let a := nextFrame (pageSize e) g
    frameFits e a && within s.part.frames a (extentBytes e) && (s.extentsIn ent a (extentBytes e)).isEmpty

/-- The runtime writes an entry: it is not valid, or its pages are aligned, have a size and, in HBM, are frames (05 R96). -/
def entryOk (e : BitVec 128) : Bool :=
  !bitAt e 127 || (decide (pageSize e ≠ 0 ∧ (bitsAt e 7 30).toNat * 0x40000 % pageSize e = 0 ∧ extentBase e % pageSize e = 0)
    && (!isHbm (extentBase e) || frameFits e (extentBase e)))

/-- The driver services a residency fault: what stands in the frame, when the partition has no free one, is evicted, the extent becomes RESIDENT there and the head of
the active list, and the core is resumed; an extent that migrates does so once no access is pending under it (05 R105, R107, 21
R375). -/
def execResidencyFaultService (ent : BitVec 10) (pb : BitVec 22) (s : State) : Out :=
  let e := s.core.entry ent
  let a := pb.toNat * 0x40000
  let out := s.extentsIn ent a (extentBytes e)
  if !s.core.awaitsResidency ent ∨ !s.evictable out ∨ (out ≠ [] ∧ s.hasFreeFrame ent e) ∨ !frameFits e a ∨ !within s.part.frames a (extentBytes e)
      ∨ (bitsAt e 3 2 = 3 ∧ bitsAt e 117 10 ≠ 0) then .fault .notDue
  else
    let s := out.foldl State.evict s
    let s := s.fillFrame ent a
    .next (State.returnFrom { s with core := s.core.setEntry ent (withFrame (s.core.entry ent) pb 1),
                                     dev := (s.dev.activate ent).setHome ent (withFrame (s.core.entry ent) pb 1) })

/-- The accesses that other cores have counted under an entry, by physical sheet (05 R107, 06 R109). -/
abbrev OtherCounts := List (BitVec 10 × BitVec 5 × BitVec 16)

/-- The history of an extent on a sheet grows; it stays at 2^32 − 1, as the spec gives it no width.  It belongs to the translation
index, whatever kernel's extent stands there (06 R109; assumptions 81, 100). -/
def Device.addHistory (d : Device) (k : BitVec 10) (sheet n : Nat) : Device :=
  let key := 32 * k.toNat + sheet
  { d with histAcc := Tab.put 0 d.histAcc key (BitVec.ofNat 32 (Nat.min ((Tab.get 0 d.histAcc key).toNat + n) 0xFFFFFFFF)) }

/-- An entry with ACC 0 (05 R103). -/
def noAcc (e : BitVec 128) : BitVec 128 := BitVec.ofNat 128 (e.toNat - (bitsAt e 97 16).toNat * 2 ^ 97)

/-- The driver reads and clears ACC of an entry, in this core's table and in those of the others, and adds it to the history of its
extent; accesses of the same web cycle do not count over the clearing (05 R103, R107, 06 R109, 00 R10). -/
def State.scanEntry (others : OtherCounts) (s : State) (k : BitVec 10) : State :=
  let e := s.core.entry k
  let acc := (bitsAt e 97 16).toNat
  let theirs := others.filter fun x => x.1 == k
  let used := decide (acc ≠ 0) || theirs.any fun x => x.2.2 != 0
  let d := theirs.foldl (fun (d : Device) x => d.addHistory k x.2.1.toNat x.2.2.toNat) (s.dev.addHistory k s.core.sheet.toNat acc)
  let d := if !used && d.active.contains k then
      { d with active := d.active.filter (· != k), inactive := k :: d.inactive }
    else if used && d.inactive.contains k then d.activate k
    else d
  { s with core := s.core.setEntry k (noAcc e), dev := { d with accNew := k :: d.accNew } }

/-- The driver's scan of the access counters, in rising order of the entries, which is the order in which it puts extents at the head
of a list; the counts of the kernel's other cores come with it (05 R107; assumption 81). -/
def execAccessCounterScan (others : List (BitVec 10 × BitVec 5 × BitVec 16)) (s : State) : Out :=
  if others.any (fun x => decide (24 ≤ x.2.1.toNat)) ∨ (s.part.cores = 0 ∧ others ≠ []) then .fault .notDue
  else
    let ks := (s.core.xlat.map (·.1) ++ others.map (·.1.toNat)).foldl (fun r x =>
      if r.contains x then r else insertBy (fun a b => decide (a ≤ b)) x r) []
    let s := (ks.map fun k => BitVec.ofNat 10 k).foldl (State.scanEntry others) s
    .next { s with dev := { s.dev with scanDue := s.dev.scanDue && s.part.resident.isSome } }

end Sys2Proof.Machine
end

