-- ==== Sys2Proof/Machine/Helpers.lean ====
section
/-! DEFINITION. Seeds, Newton steps, exponent helpers and the generator (14 R251 to R260). -/

namespace Sys2Proof.Machine

/-- The quotient a/b rounded to the nearest integer; no quotient used here is a tie. -/
def nearestQuot (a b : Nat) : Nat := (2 * a + b) / (2 * b)

/-- The integer square root, from bit n − 1 down. -/
def isqrt (x : Nat) : Nat → Nat → Nat
  | 0, r => r
  | n + 1, r => if (r + 2 ^ n) * (r + 2 ^ n) ≤ x then isqrt x n (r + 2 ^ n) else isqrt x n r

/-- The square root of a/b rounded to the nearest integer, for roots below 2^16. -/
def nearestSqrt (a b : Nat) : Nat :=
  let r := isqrt (a / b) 16 0
  if (2 * r + 1) * (2 * r + 1) * b ≤ 4 * a then r + 1 else r

/-- The top ten fraction bits of a normalised significand (14 R253). -/
def topTen (m : Nat) : Nat :=
  let k := Nat.log2 m
  (if 10 ≤ k then m / 2 ^ (k - 10) else m * 2 ^ (10 - k)) - 1024

/-- FRCPS of one lane (14 R253). -/
def rcpSeed (x : Lane32) : Flagged :=
  match fp32Of x with
  | .nan => quiet fp32.nan
  | .inf neg => quiet (fp32.signBit neg)
  | .num neg m e =>
    if m = 0 then { v := fp32.signBit neg + fp32.inf, f := dzFlag }
    else fp32.roundNum 0 neg (nearestQuot (2 ^ 25) (1024 + topTen m)) (-15 - magExp m e)

/-- FRSQS of one lane (14 R254). -/
def rsqSeed (x : Lane32) : Flagged :=
  match fp32Of x with
  | .nan => quiet fp32.nan
  | .inf neg => if neg then { v := fp32.nan, f := nvFlag } else quiet 0
  | .num neg m e =>
    if m = 0 then { v := fp32.signBit neg + fp32.inf, f := dzFlag }
    else if neg then { v := fp32.nan, f := nvFlag }
    else
      let k := magExp m e
      let i := 1024 + topTen m
      if k % 2 = 0 then fp32.roundNum 0 false (nearestSqrt (2 ^ 40) i) (-15 - k / 2)
      else fp32.roundNum 0 false (nearestSqrt (2 ^ 39) i) (-15 - (k - 1) / 2)

/-- A zero, an infinity or a NaN, for which a step passes its seed through (14 R255). -/
def stepsThrough (x : Fp) (nan : Bool) : Bool :=
  match x with
  | .nan => nan
  | .inf _ => true
  | .num _ m _ => m == 0

/-- One Newton step: with `sq` for the reciprocal square root (14 R255). -/
def newton (sq : Bool) (x y : Lane32) : Flagged :=
  let a := fp32Of x
  let b := fp32Of y
  if stepsThrough b true || stepsThrough a false then quiet (canonLane y)
  else match a with
  | .nan => quiet fp32.nan
  | _ =>
    let p := (a.mul b).1
    let p := if sq then (p.mul b).1 else p
    let e := fp32.round 0 (Fp.add false (.num false 1 0) p.neg).1
    let h : Fp := .num false 1 (if sq then -1 else 0)
    let d := fp32.round 0 (Fp.add false b (((fp32Of e.lane).mul h).1.mul b).1).1
    { d with f := d.f ||| e.f }
where
  canonLane (y : Lane32) : Nat := if isNan32 y then fp32.nan else y.toNat

/-- FRINT of one lane (14 R257). -/
def rint (mode : Nat) (x : Lane32) : Flagged :=
  match fp32Of x with
  | .nan => quiet fp32.nan
  | .inf _ => quiet x.toNat
  | .num neg m e =>
    let r := (roundUnits mode neg m e 0).1
    if 0 ≤ e then quiet x.toNat
    else if r = 0 then quiet (fp32.signBit neg)
    else quiet (fp32.roundNum 0 neg r 0).v

/-- The scale of FSCALE: n truncated towards zero and limited to ±512 (14 R258). -/
def scaleOf (n : Fp) : Int :=
  let lim := fun (i : Int) => if i < -512 then -512 else if 512 < i then 512 else i
  match n with
  | .nan => 0
  | .inf neg => if neg then -512 else 512
  | .num neg m e => lim (signedMag neg (roundUnits 1 neg m e 0).1)

/-- FSCALE of one lane (14 R258). -/
def fscale32 (mode : Nat) (x n : Lane32) : Flagged :=
  if isNan32 x || isNan32 n then { v := fp32.nan, f := flagIf (isNan32 n) nvFlag }
  else match fp32Of x with
  | .num neg m e => fp32.round mode (.num neg m (e + scaleOf (fp32Of n)))
  | _ => quiet x.toNat

/-- FGETE of one lane (14 R259). -/
def getExp (x : Lane32) : Flagged :=
  match fp32Of x with
  | .nan => quiet fp32.nan
  | .inf _ => quiet fp32.inf
  | .num _ m e =>
    if m = 0 then { v := fp32.signBit true + fp32.inf, f := dzFlag }
    else fp32.round 0 (Fp.ofInt (magExp m e) 0 false)

/-- FGETM of one lane (14 R259). -/
def getSig (x : Lane32) : Flagged :=
  match fp32Of x with
  | .nan => quiet fp32.nan
  | .inf neg => quiet (fp32.signBit neg + 0x3F800000)
  | .num neg m _ =>
    if m = 0 then quiet (fp32.signBit neg + 0x3F800000)
    else fp32.roundNum 0 neg m (-(Nat.log2 m : Int))

/-- CBR32 of one lane: its physical number, counter and key (14 R260). -/
def cbr32 (l : Nat) (ctr key : Lane32) : Flagged :=
  let v := ctr + BitVec.ofNat 32 l + key
  let v := (v ^^^ (v >>> 15)) * 0x2C1B3C6D
  let v := (v ^^^ (v >>> 12)) * 0x297A2D39
  let v := v ^^^ (v >>> 15)
  fp32.round 0 (.num false (v.toNat / 256) (-24))

/-- FRCPS: a reciprocal seed, at c+3 (14 R253). -/
def execFrcps (u : BitVec 1) (g : BitVec 4) (d : BitVec 4) (w : BitVec 1) (a : BitVec 5) (z : BitVec 3) (k : BitVec 3) (s : State) : Out :=
  lanes1 u g d w a z k 3 rcpSeed s

/-- FRSQS: a reciprocal square-root seed, at c+3 (14 R254). -/
def execFrsqs (u : BitVec 1) (g : BitVec 4) (d : BitVec 4) (w : BitVec 1) (a : BitVec 5) (z : BitVec 3) (k : BitVec 3) (s : State) : Out :=
  lanes1 u g d w a z k 3 rsqSeed s

/-- FNRCP: a reciprocal step, at c+3 (14 R255). -/
def execFnrcp (u : BitVec 1) (g : BitVec 4) (d : BitVec 4) (w : BitVec 1) (a : BitVec 5) (b : BitVec 5) (z : BitVec 3) (k : BitVec 3) (s : State) : Out :=
  lanes2 u g d w a b z k 3 (fun _ x y => newton false x y) s

/-- FNRSQ: a reciprocal square-root step, at c+3 (14 R255). -/
def execFnrsq (u : BitVec 1) (g : BitVec 4) (d : BitVec 4) (w : BitVec 1) (a : BitVec 5) (b : BitVec 5) (z : BitVec 3) (k : BitVec 3) (s : State) : Out :=
  lanes2 u g d w a b z k 3 (fun _ x y => newton true x y) s

/-- FRINT: an integral value in a direction, at c+2 (14 R257). -/
def execFrint (u : BitVec 1) (g : BitVec 4) (d : BitVec 4) (w : BitVec 1) (sf : BitVec 5) (z : BitVec 3) (r : BitVec 2) (s : State) : Out :=
  vec1 u g d w sf 2 (fun _ x => lanesOut z 0xFFFFFFFF fun i => rint r.toNat (opLane z x i)) s

/-- FSCALE: x·2^k, rounded by `fmode`, at c+2 (14 R258). -/
def execFscale (u : BitVec 1) (g : BitVec 4) (d : BitVec 4) (w : BitVec 1) (a : BitVec 5) (b : BitVec 5) (z : BitVec 3) (k : BitVec 3) (s : State) : Out :=
  lanes2 u g d w a b z k 2 fscale32 s

/-- FGETE: the exponent, at c+3 (14 R259). -/
def execFgete (u : BitVec 1) (g : BitVec 4) (d : BitVec 4) (w : BitVec 1) (a : BitVec 5) (z : BitVec 3) (k : BitVec 3) (s : State) : Out :=
  lanes1 u g d w a z k 3 getExp s

/-- FGETM: the signed significand, at c+3 (14 R259). -/
def execFgetm (u : BitVec 1) (g : BitVec 4) (d : BitVec 4) (w : BitVec 1) (a : BitVec 5) (z : BitVec 3) (k : BitVec 3) (s : State) : Out :=
  lanes1 u g d w a z k 3 getSig s

/-- VRNG: the counter-based generator, at c+3 (14 R260). -/
def execVrng (u : BitVec 1) (g : BitVec 4) (d : BitVec 4) (w : BitVec 1) (a : BitVec 5) (b : BitVec 5) (z : BitVec 3) (k : BitVec 3) (s : State) : Out :=
  vec2 u g d w a b 3 (fun s x y => lanesOut z (s.core.r.readK k) fun i =>
    cbr32 (firstLane z + i) (opLane z x i) (opLane z y i)) s

end Sys2Proof.Machine
end

