-- ==== Sys2Proof/Machine/Reduce.lean ====
section
/-! DEFINITION. Reductions and scans (13 R249, R250, 04 R85, R86). -/

namespace Sys2Proof.Machine

/-- A node of a reduction: its value, its valid bit, and the flags raised beneath it. -/
structure Node where
  v : Lane32
  ok : Bool
  f : FFlags
deriving DecidableEq, Repr

/-- Combine two nodes. -/
def Node.join (op : Lane32 → Lane32 → Flagged) (x y : Node) : Node :=
  let r := op x.v y.v
  { v := r.lane, ok := x.ok || y.ok, f := x.f ||| y.f ||| r.f }

/-- One level of the pairwise tree. -/
def pairUp (op : Lane32 → Lane32 → Flagged) : List Node → List Node
  | x :: y :: t => Node.join op x y :: pairUp op t
  | l => l

/-- The levels of the pairwise tree. -/
def treeFold (op : Lane32 → Lane32 → Flagged) : Nat → List Node → List Node
  | 0, l => l
  | n + 1, l => treeFold op n (pairUp op l)

/-- The levels of a tree over the lanes of a width: log2 n. -/
def treeLevels (z : BitVec 3) : Nat := Nat.log2 (lanesOf z)

/-- The leaves of a reduction: participating lanes, and padding elsewhere (13 R249). -/
def leaves (z : BitVec 3) (k : Lane32) (pad : Lane32) (x : Line) : List Node :=
  (List.range (lanesOf z)).map fun i =>
    if bitAt k (firstLane z + i) then { v := opLane z x i, ok := true, f := 0 } else { v := pad, ok := false, f := 0 }

/-- The root of a reduction. -/
def reduceRoot (z : BitVec 3) (k : Lane32) (pad : Lane32) (op : Lane32 → Lane32 → Flagged) (x : Line) : Node :=
  nth { v := pad, ok := false, f := 0 } (treeFold op (treeLevels z) (leaves z k pad x)) 0

/-- A NaN root is the canonical NaN (13 R249). -/
def canon32 (x : Lane32) : Lane32 := if isNan32 x then 0x7FC00000 else x

/-- A reduction into every lane of the width, at c+8; `empty` is what one with no participating lane lands (13 R249). -/
def reduction (u : BitVec 1) (g : BitVec 4) (d : BitVec 4) (w : BitVec 1) (a : BitVec 5) (z : BitVec 3) (k : BitVec 3)
    (pad empty : Lane32) (op : Nat → Lane32 → Lane32 → Flagged) (s : State) : Out :=
  vec1 u g d w a 8 (fun s x =>
    let r := reduceRoot z (s.core.r.readK k) pad (op s.core.r.fmode.toNat) x
    { lanesOut z 0xFFFFFFFF (fun _ => quiet (if r.ok then r.v else empty).toNat) with flg := r.f }) s

/-- VRSUM: the FP32 sum, rounded by `fmode` at each node (13 R249). -/
def execVrsum (u : BitVec 1) (g : BitVec 4) (d : BitVec 4) (w : BitVec 1) (a : BitVec 5) (z : BitVec 3) (k : BitVec 3) (s : State) : Out :=
  reduction u g d w a z k 0x80000000 0 redAdd32 s

/-- VRMAX: the FP32 maximum (13 R249). -/
def execVrmax (u : BitVec 1) (g : BitVec 4) (d : BitVec 4) (w : BitVec 1) (a : BitVec 5) (z : BitVec 3) (k : BitVec 3) (s : State) : Out :=
  reduction u g d w a z k 0xFF800000 0xFF800000 (fun _ x y => quiet (fmax32 x y).toNat) s

/-- VRMIN: the FP32 minimum (13 R249). -/
def execVrmin (u : BitVec 1) (g : BitVec 4) (d : BitVec 4) (w : BitVec 1) (a : BitVec 5) (z : BitVec 3) (k : BitVec 3) (s : State) : Out :=
  reduction u g d w a z k 0x7F800000 0x7F800000 (fun _ x y => quiet (fmin32 x y).toNat) s

/-- VRISUM: the integer sum modulo 2^32 (13 R249). -/
def execVrisum (u : BitVec 1) (g : BitVec 4) (d : BitVec 4) (w : BitVec 1) (a : BitVec 5) (z : BitVec 3) (k : BitVec 3) (s : State) : Out :=
  reduction u g d w a z k 0 0 (fun _ x y => quiet (x + y).toNat) s

/-- One level of the scan (13 R250). -/
def scanLevel (op : Lane32 → Lane32 → Flagged) (l : Nat) (xs : List Node) : List Node :=
  let z : Node := { v := 0, ok := false, f := 0 }
  (List.range xs.length).map fun i =>
    let x := nth z xs i
    if i / 2 ^ l % 2 = 1 then
      let y := nth z xs (i - i % 2 ^ l - 1)
      let r := op y.v x.v
      { v := r.lane, ok := y.ok || x.ok, f := r.f }
    else { x with f := 0 }

/-- The levels of the scan from l up, with the flags of every addition made. -/
def scanLevels (op : Lane32 → Lane32 → Flagged) : Nat → Nat → List Node → FFlags → List Node × FFlags
  | 0, _, xs, f => (xs, f)
  | n + 1, l, xs, f =>
    let ys := scanLevel op l xs
    scanLevels op n (l + 1) ys (f ||| orFlags (ys.map (·.f)))

/-- VSCAN: the inclusive FP32 prefix sum; a prefix with no participating lane is +0 (13 R250). -/
def execVscan (u : BitVec 1) (g : BitVec 4) (d : BitVec 4) (w : BitVec 1) (a : BitVec 5) (z : BitVec 3) (k : BitVec 3) (s : State) : Out :=
  vec1 u g d w a 8 (fun s x =>
    let r := scanLevels (redAdd32 s.core.r.fmode.toNat) (treeLevels z) 0 (leaves z (s.core.r.readK k) 0x80000000 x) 0
    { lanesOut z 0xFFFFFFFF (fun i =>
        let n := nth { v := 0, ok := false, f := 0 } r.1 i
        quiet (if n.ok then canon32 n.v else 0).toNat) with flg := r.2 }) s

end Sys2Proof.Machine
end

