-- ==== Sys2Proof/Machine/SumProd.lean ====
section
/-! DEFINITION. The sum-product engine: trees, shapes, the bank file, and its instructions (16 R286 to R304). -/

namespace Sys2Proof.Machine

/-! ## Shapes and node arithmetic -/

/-- LC of a shape (16 R292). -/
def shapeLeaves (h : BitVec 64) : Nat := (bitsAt h 45 5).toNat
/-- STE of a shape (16 R292). -/
def shapeStash (h : BitVec 64) : Bool := bitAt h 50
/-- The operation of node i: 0 ADD, 1 MUL, 2 WSUM, 3 MAX, 4 PASSL, 5 PASSR, 6 ZERO, 7 ADDS (16 R292). -/
def shapeOp (h : BitVec 64) (i : Nat) : Nat := (bitsAt h (3 * i) 3).toNat

/-- The parent of node i; none for the root (16 R291). -/
def nodeParent (i : Nat) : Option Nat :=
  if i < 8 then some (8 + i / 2) else if i < 12 then some (12 + (i - 8) / 2) else if i < 14 then some 14 else none

/-- The operation of the nearest of a node and its ancestors that is no pass, ADD above the root (16 R293). -/
def carriedOp (h : BitVec 64) : Nat → Option Nat → Nat
  | 0, _ => 0
  | _, none => 0
  | n + 1, some i => if shapeOp h i = 4 ∨ shapeOp h i = 5 then carriedOp h n (nodeParent i) else shapeOp h i

/-- The padding identity of an operation in a mode (04 R85). -/
def padOf (sp : Bool) (op : Nat) : Lane32 :=
  match op with
  | 1 => if sp then 0x7FFF0000 else 0x3F800000
  | 3 => if sp then 0 else 0xFF800000
  | _ => if sp then 0 else 0x80000000

/-- a + b of a node (16 R294). -/
def nodeAdd (sp : Bool) (a b : Lane32) : Flagged := if sp then spAdd a b else redAdd32 0 a b
/-- a × b of a node (16 R294). -/
def nodeMul (sp : Bool) (a b : Lane32) : Flagged := if sp then spMul a b else fmul32 0 a b
/-- The larger child of a node (16 R294). -/
def nodeMax (sp : Bool) (a b : Lane32) : Flagged := if sp then spPick true a b else quiet (fmax32 a b).toNat

/-- A word that a node passes on as it is: a reserved SP32 word as zero, with SPR, and a NaN as the canonical NaN (04 R62, R75, 16
R294). -/
def nodePass (sp : Bool) (x : Lane32) : Flagged :=
  if sp then spCanon x else quiet (if isNan32 x then fp32.nan else x.toNat)

/-- A node's value from its children, which carry no flags of their own here (16 R293). -/
def nodeValue (sp : Bool) (h : BitVec 64) (ws : List Lane32) (i : Nat) (a b : Node) : Node :=
  let op := shapeOp h i
  let fl := a.f ||| b.f
  let of := fun (r : Flagged) => ({ v := r.lane, ok := a.ok || b.ok, f := fl ||| r.f } : Node)
  if op = 6 then { v := padOf sp (carriedOp h 5 (nodeParent i)), ok := false, f := fl }
  else if !a.ok && !b.ok then { v := padOf sp (carriedOp h 5 (some i)), ok := false, f := fl }
  else match op with
  | 1 => of (nodeMul sp a.v b.v)
  | 2 =>
    let term := fun (c : Node) (w : Lane32) => if c.ok then nodeMul sp w c.v else quiet (padOf sp 2).toNat
    let x := term a (nth 0 ws (2 * i))
    let y := term b (nth 0 ws (2 * i + 1))
    let r := nodeAdd sp x.lane y.lane
    of { r with f := r.f ||| x.f ||| y.f }
  | 3 => of (nodeMax sp a.v b.v)
  | 4 => let r := nodePass sp a.v; { a with v := r.lane, f := fl ||| r.f }
  | 5 => let r := nodePass sp b.v; { b with v := r.lane, f := fl ||| r.f }
  | _ => of (nodeAdd sp a.v b.v)

/-- One level of a tree: nodes from number i up, from pairs of children (16 R291). -/
def nodeLevel (sp : Bool) (h : BitVec 64) (ws : List Lane32) : Nat → List Node → List Node
  | i, a :: b :: t => nodeValue sp h ws i a b :: nodeLevel sp h ws (i + 1) t
  | _, _ => []

/-- The sixteen leaves of a pass: values below LC, padding above (16 R293). -/
def passLeaves (sp : Bool) (h : BitVec 64) (vals : List Lane32) : List Node :=
  (List.range 16).map fun j =>
    if j < vals.length then { v := nth 0 vals j, ok := true, f := 0 }
    else { v := padOf sp (carriedOp h 5 (some (j / 2))), ok := false, f := 0 }

/-- Every node value of a pass, in node order; each carries the flags beneath it (16 R293). -/
def passNodes (sp : Bool) (h : BitVec 64) (ws : List Lane32) (leaves : List Node) : List Node :=
  let l0 := nodeLevel sp h ws 0 leaves
  let l1 := nodeLevel sp h ws 8 l0
  let l2 := nodeLevel sp h ws 12 l1
  l0 ++ l1 ++ l2 ++ nodeLevel sp h ws 14 l2

/-- The root that a pass returns (16 R293). -/
def passRoot (sp : Bool) (h : BitVec 64) (nodes : List Node) : Lane32 :=
  let r := nth { v := 0, ok := false, f := 0 } nodes 14
  if r.ok then r.v else
  match shapeOp h 14 with
  | 1 => padOf sp 1
  | 3 => padOf sp 3
  | _ => 0

/-! ## Downward passes -/

/-- The zero that a pass sends to a child it does not choose. -/
def spZero : Lane32 := 0

/-- An SP32 or FP32 word is a NaN. -/
def isNanIn (sp : Bool) (x : Lane32) : Bool := if sp then (spCanon x).v == spNan else isNan32 x

/-- a ≥ b in the order that MAX takes (16 R294, R298). -/
def maxKeepsLeft (sp : Bool) (a b : Lane32) : Bool :=
  if sp then decide ((spCanon b).v ≤ (spCanon a).v) else decide (order32 b ≤ order32 a)

/-- What the children of node i receive from an adjoint: left, right, and the flags of the two computations; nothing is
computed for a child that receives nothing.  The comparison of a MAX node raises SPR for a reserved word that it reads (16
R298, 04 R75). -/
def downNode (sp : Bool) (h : BitVec 64) (ws : List Lane32) (i : Nat) (d : Lane32) (a b : Lane32 × Bool) :
    Option Lane32 × Option Lane32 × FFlags :=
  let two := fun (l r : Flagged) =>
    (if a.2 then some l.lane else none, if b.2 then some r.lane else none,
     (if a.2 then l.f else 0) ||| (if b.2 then r.f else 0))
  let q := nodePass sp
  let seen := if sp then (spCanon a.1).f ||| (spCanon b.1).f else 0
  let picked := fun (r : Option Lane32 × Option Lane32 × FFlags) => (r.1, r.2.1, r.2.2 ||| seen)
  match shapeOp h i with
  | 0 => two (q d) (q d)
  | 1 => two (nodeMul sp d b.1) (nodeMul sp d a.1)
  | 2 => two (nodeMul sp (nth 0 ws (2 * i)) d) (nodeMul sp (nth 0 ws (2 * i + 1)) d)
  | 3 =>
    if isNanIn sp a.1 || isNanIn sp b.1 then
      let n := if sp then quiet spNan else quiet fp32.nan
      picked (two n n)
    else if maxKeepsLeft sp a.1 b.1 then picked (two (q d) (q spZero))
    else picked (two (q spZero) (q d))
  | 4 => two (q d) (q spZero)
  | 5 => two (q spZero) (q d)
  | 7 => two (q d) (nodeAdd sp d a.1)
  | _ => (none, none, 0)

/-- One level of a downward pass: adjoints of the nodes from number i up give those of their children, in order. -/
def downLevel (sp : Bool) (h : BitVec 64) (ws : List Lane32) : Nat → List (Option Lane32) → List (Lane32 × Bool) →
    List (Option Lane32) × FFlags
  | i, d :: ds, a :: b :: t =>
    let r := downLevel sp h ws (i + 1) ds t
    match d with
    | none => (none :: none :: r.1, r.2)
    | some x =>
      let c := downNode sp h ws i x a b
      (c.1 :: c.2.1 :: r.1, c.2.2 ||| r.2)
  | _, _, _ => ([], 0)

/-- The adjoints of the leaves, with the flags of the pass (16 R298). -/
def downPass (st : Stash) (seed : Lane32) : List (Option Lane32) × FFlags :=
  let go := downLevel st.sp32 st.shape st.weights
  let l3 := go 14 [some seed] ((st.nodes.drop 12).take 2)
  let l2 := go 12 l3.1 ((st.nodes.drop 8).take 4)
  let l1 := go 8 l2.1 (st.nodes.take 8)
  let l0 := go 0 l1.1 st.leaves
  (l0.1, l3.2 ||| l2.2 ||| l1.2 ||| l0.2)

/-! ## What falls due -/

/-- The pending write that a bank performs in this cycle (16 R290). -/
def bankChoice (now b : Nat) (ws : List BankWrite) : Option BankWrite :=
  let key := fun (w : BankWrite) => [w.req, w.rank, w.seq, w.ord]
  ((ws.filter fun w => w.req ≤ now && w.addr.toNat % 16 == b).foldl (fun (best : Option BankWrite) w =>
    match best with
    | none => some w
    | some x => if key w < key x then some w else some x) none)

/-- One write of a bank is performed (16 R290, R298). -/
def Core.bankWrite (c : Core) (w : BankWrite) : Core :=
  let old := Tab.get 0 c.sp.bank w.addr.toNat
  let r := match w.acc with
    | none => quiet w.val.toNat
    | some sp => nodeAdd sp old w.val
  Core.setFlags { c with sp := { c.sp with bank := Tab.put 0 c.sp.bank w.addr.toNat r.lane, writes := c.sp.writes.filter (· ≠ w) } } r.f

/-- Stashes and bank writes of the present cycle (16 R290, R297). -/
def Core.sumProdLand (c : Core) : Core :=
  if c.frozen c.cyc then c
  else
    let (now, later) := c.sp.sets.partition fun x => decide (x.due ≤ c.cyc)
    let stash := now.foldl (fun (v : Vector (Option Stash) 8) x => v.set x.tree.toNat x.stash) c.sp.stash
    let c := { c with sp := { c.sp with sets := later, stash := stash } }
    (List.range 16).foldl (fun c b => match bankChoice c.cyc b c.sp.writes with
      | some w => c.bankWrite w
      | none => c) c

/-- A pass whose leaves have all been read is evaluated: its root, its bank write and its stash go on their way
(16 R297). -/
def State.finishPass (s : State) (p : SpPass) : State :=
  let vals := p.leaves.map fun x => x.2.2.getD 0
  let leaves := passLeaves p.sp32 p.shape vals
  let nodes := passNodes p.sp32 p.shape p.weights leaves
  let root := passRoot p.sp32 p.shape nodes
  let fl := (nth { v := 0, ok := false, f := 0 } nodes 14).f
  let l : Landing := { due := p.landAt, seq := p.seq, slot := 6, file := none, dst := 0, val := 0, sel := 0, flg := fl,
                       latch := .lsp, lval := BitVec.ofNat 1024 root.toNat, lsel := BitVec.allOnes 1024 }
  let w : BankWrite := { req := p.landAt, rank := p.tree.toNat, seq := p.seq, ord := 0, val := root, acc := none
                         addr := BitVec.ofNat 12 (16 * p.row.toNat
                           + (match p.leaves with
                              | x :: _ => x.1.toNat % 16
                              | [] => 0)) }
  let st : Stash := { num := p.num, shape := p.shape, sp32 := p.sp32, leaves := leaves.map (fun n => (n.v, n.ok)),
                      nodes := nodes.map (fun n => (n.v, n.ok)), weights := p.weights }
  let set : StashSet := { due := p.landAt, seq := p.seq, tree := p.tree, stash := if shapeStash p.shape then some st else none }
  let s := s.fly l
  let sp := s.core.sp
  { s with core := { s.core with sp := { sp with
      writes := if p.toLatch then sp.writes else sp.writes ++ [w]
      sets := if p.noStash then sp.sets else sp.sets ++ [set] } } }

/-- The converted entries of a row, with their flags (16 R302). -/
def convRow (c : Core) (x : SpConv) : List Flagged :=
  (List.range 16).map fun k =>
    let v := Tab.get 0 c.sp.bank (16 * x.row + k)
    if x.toSp then spOfFp32 0 v else fp32OfSp 0 v

/-- A row of an SPCV is read: its writes are requested two cycles later (16 R302). -/
def State.convStep (s : State) (x : SpConv) : State :=
  let rs := convRow s.core x
  let ws := (List.range 16).map fun k =>
    ({ req := x.at_ + 2, rank := 8, seq := x.seq, ord := k, addr := BitVec.ofNat 12 (16 * x.row + k),
       val := (nth (quiet 0) rs k).lane, acc := none } : BankWrite)
  let l : Landing := { due := x.flagAt, seq := x.seq, slot := 6, file := none, dst := 0, val := 0, sel := 0,
                       flg := orFlags (rs.map (·.f)), latch := .none, lval := 0, lsel := 0 }
  let s := s.fly l
  { s with core := { s.core with sp := { s.core.sp with writes := s.core.sp.writes ++ ws } } }

/-- The reads of the present cycle, after issue (16 R288, R302). -/
def State.sumProdFinish (s : State) : State :=
  let c := s.core
  if c.frozen (c.cyc + 1) then s
  else
    let now := c.cyc
    let ps := c.sp.passes.map fun p => { p with leaves := p.leaves.map fun x =>
      if x.2.1 = now then (x.1, x.2.1, some (Tab.get 0 c.sp.bank x.1.toNat)) else x }
    let (whole, later) := ps.partition fun p => p.leaves.all fun x => x.2.2.isSome
    let (cv, cvLater) := c.sp.convs.partition fun x => decide (x.at_ ≤ now)
    let s := { s with core := { c with sp := { c.sp with passes := later, convs := cvLater } } }
    cv.foldl State.convStep (whole.foldl State.finishPass s)

/-! ## Instructions -/

/-- The common course of a sum-product instruction: it waits for its slot (16 R289). -/
def spSlot (g : BitVec 4) (k : State → Out) (s : State) : Out :=
  guarded g s fun s => if s.core.cyc < s.core.sp.busy then .next (s.hold .bankExtension) else k s

/-- The illegal-operation fault of the sum-product slot. -/
def spIllegal (s : State) : Out := .next (s.takePrecise (.plain .illegalOperation 6))

/-- LEAF and ADJ of a descriptor lane (16 R296). -/
def leafAddr (v : Line) (j : Nat) : BitVec 12 := bitsAt (lane v j) 0 12
/-- The adjoint cell of a descriptor lane (16 R296). -/
def adjAddr (v : Line) (j : Nat) : BitVec 12 := bitsAt (lane v j) 16 12

/-- A reserved bit is set in a descriptor lane below n (16 R296). -/
def badLeaves (v : Line) (n : Nat) : Bool := (List.range n).any fun j => lane v j &&& 0xF000F000 != 0

/-- The leaves of a pass with the cycles of their reads: rank ρ in its bank is read at c + ρ/2 (16 R288). -/
def leafReads (v : Line) (n now : Nat) : List (BitVec 12 × Nat × Option Lane32) :=
  (List.range n).map fun j =>
    let b := (leafAddr v j).toNat % 16
    let rank := ((List.range j).filter fun i => (leafAddr v i).toNat % 16 == b).length
    (leafAddr v j, now + rank / 2, none)

/-- SPU: an upward pass (16 R297). -/
def execSpu (g : BitVec 4) (t : BitVec 3) (h : BitVec 6) (v : BitVec 4) (r : BitVec 8) (f : BitVec 1) (s : State) : Out :=
  spSlot g (fun s =>
    let c := s.core
    let shape := Tab.get 0 c.sp.shape h.toNat
    let n := shapeLeaves shape
    let d := c.r.readV v
    if n = 0 ∨ badLeaves d n then spIllegal s
    else
      let reads := leafReads d n c.cyc
      let e := maxOf 0 (reads.map fun x => x.2.1 - c.cyc)
      let p : SpPass := { seq := c.seqNo, tree := t, num := h, shape := shape, sp32 := c.sp.mode[t.toNat]
                          weights := (List.range 30).map fun i => Tab.get 0 c.sp.weight (30 * t.toNat + i)
                          leaves := reads, row := r, toLatch := f == 1, landAt := c.cyc + 9 + e, noStash := false }
      .next { s with core := { c with seqNo := c.seqNo + 1, sp := { c.sp with
        busy := c.cyc + 1 + e, passes := c.sp.passes ++ [p], last := c.sp.last.set t.toNat (c.cyc + 9 + e) } } }) s

/-- SPD: a downward pass against the stash of its tree (16 R298).  The root's cell is read, as R298 says, and not written, although 03 R53
names it among the cells that SPU and SPD write (assumption 88). -/
def execSpd (g : BitVec 4) (t : BitVec 3) (h : BitVec 6) (v : BitVec 4) (r : BitVec 8) (f : BitVec 1) (s : State) : Out :=
  spSlot g (fun s =>
    let c := s.core
    let fault : Out := .next (s.takePrecise (.plain .stash 6))
    match c.sp.stash[t.toNat] with
    | none => fault
    | some st =>
      if st.num ≠ h ∨ c.cyc < c.sp.last[t.toNat] then fault
      else
        let d := c.r.readV v
        let n := shapeLeaves st.shape
        if badLeaves d n then spIllegal s
        else
          let seed := Tab.get 0 c.sp.bank (16 * r.toNat + (leafAddr d 0).toNat % 16)
          let res := downPass st seed
          let ws := (List.range n).filterMap fun j =>
            match nth none res.1 j with
            | none => none
            | some x => some ({ req := c.cyc + 11, rank := t.toNat, seq := c.seqNo, ord := j, addr := adjAddr d j, val := x,
                                acc := if f = 1 then none else some st.sp32 } : BankWrite)
          let s := { s with core := { c with sp := { c.sp with writes := c.sp.writes ++ ws } } }
          .next (s.pushLine 6 11 none 0 (BitVec.ofNat 1024 seed.toNat) (BitVec.allOnes 1024) res.2 .lsp)) s

/-- SPLD: two rows of the bank file from a register, widened from BF16 or not, requested at c+2 (16 R299). -/
def execSpld (g : BitVec 4) (v : BitVec 4) (r : BitVec 8) (e : BitVec 2) (s : State) : Out :=
  spSlot g (fun s =>
    let c := s.core
    let x := c.r.readV v
    let val := fun k => if e = 1 then (fp32.round 0 (bf16.decode (elem x 16 k).toNat)).lane else lane x k
    let ws := (List.range 32).map fun k =>
      ({ req := c.cyc + 2, rank := 8, seq := c.seqNo, ord := k, addr := BitVec.ofNat 12 (16 * r.toNat + k), val := val k,
         acc := none } : BankWrite)
    .next { s with core := { c with seqNo := c.seqNo + 1, sp := { c.sp with writes := c.sp.writes ++ ws } } }) s

/-- SPST: two rows of the bank file into a register at c+3, rounded to BF16 or not (16 R299). -/
def execSpst (g : BitVec 4) (v : BitVec 4) (r : BitVec 8) (e : BitVec 2) (s : State) : Out :=
  spSlot g (fun s =>
    let rs := (List.range 32).map fun k =>
      let x := Tab.get 0 s.core.sp.bank (16 * r.toNat + k)
      if e = 1 then bf16.round 0 (fp32Of x) else quiet x.toNat
    let w := if e = 1 then 16 else 32
    .next (s.pushLine 6 3 (some .v) (BitVec.ofNat 10 v.toNat) (ofElems w 32 fun k => (nth (quiet 0) rs k).v)
      (BitVec.allOnes 1024) (orFlags (rs.map (·.f))) .none)) s

/-- SPSH: a shape-table entry (16 R300). -/
def execSpsh (g : BitVec 4) (h : BitVec 6) (v : BitVec 4) (s : State) : Out :=
  spSlot g (fun s =>
    let c := s.core
    let x := bitsAt (c.r.readV v) 0 64
    if x.toNat / 2 ^ 51 ≠ 0 ∨ shapeLeaves x = 0 ∨ 16 < shapeLeaves x then spIllegal s
    else .next { s with core := { c with sp := { c.sp with shape := Tab.put 0 c.sp.shape h.toNat x } } }) s

/-- The weights of a tree (16 R295). -/
def setWeights (w : Tab Lane32) (t : Nat) (f : Nat → Lane32) : Nat → Tab Lane32
  | 0 => w
  | n + 1 => Tab.put 0 (setWeights w t f n) (30 * t + n) (f n)

/-- SPW: the weight set of a tree (16 R301). -/
def execSpw (g : BitVec 4) (t : BitVec 3) (v : BitVec 4) (s : State) : Out :=
  spSlot g (fun s =>
    let c := s.core
    .next { s with core := { c with sp := { c.sp with
      weight := setWeights c.sp.weight t.toNat (lane (c.r.readV v)) 30 } } }) s

/-- SPCV: n + 1 rows converted between FP32 and SP32 (16 R302). -/
def execSpcv (g : BitVec 4) (r n : BitVec 8) (e : BitVec 1) (s : State) : Out :=
  spSlot g (fun s =>
    let c := s.core
    let k := n.toNat + 1
    if 256 < r.toNat + k then spIllegal s
    else
      let cs := (List.range k).map fun j =>
        ({ at_ := c.cyc + j, seq := c.seqNo, row := r.toNat + j, toSp := e == 0, flagAt := c.cyc + 1 + k } : SpConv)
      .next { s with core := { c with seqNo := c.seqNo + 1, sp := { c.sp with
        busy := c.cyc + k, convs := c.sp.convs ++ cs } } }) s

/-- The stash of a tree is emptied, and SPUs issued before record none (16 R297, R303). -/
def SumProd.forget (p : SumProd) (t : BitVec 3) : SumProd :=
  { p with
    stash := p.stash.set t.toNat none
    passes := p.passes.map fun x => if x.tree = t then { x with noStash := true } else x
    sets := p.sets.filter fun x => x.tree ≠ t }

/-- SPSC: the mode of a tree (16 R303). -/
def execSpsc (g : BitVec 4) (t : BitVec 3) (m : BitVec 1) (s : State) : Out :=
  spSlot g (fun s =>
    let c := s.core
    let p := c.sp.forget t
    .next { s with core := { c with sp := { p with mode := p.mode.set t.toNat (m == 1) } } }) s

/-- SPCL: the weights of a tree set to zero (16 R303). -/
def execSpcl (g : BitVec 4) (t : BitVec 3) (s : State) : Out :=
  spSlot g (fun s =>
    let c := s.core
    let p := c.sp.forget t
    .next { s with core := { c with sp := { p with weight := setWeights p.weight t.toNat (fun _ => 0) 30 } } }) s

end Sys2Proof.Machine
end

