-- ==== Sys2Proof/Machine/Launch.lean ====
section
/-! DEFINITION. Launch entries, the deckle's placement, the start and end of a kernel, pre-emption and resumption (19 R343 to
R349, 06 R109 to R118, 21 R379, R387, R388, 01 R17). -/

namespace Sys2Proof.Machine

/-! ## Entries and their submission -/

/-- Doubleword d of launch entry e (19 R343). -/
def Partition.dw (p : Partition) (e d : Nat) : Nat := (Tab.get 0 p.entry (16 * e + d)).toNat

/-- State of an entry: 0 EMPTY, 1 PEND, 2 RUN, 3 DONE, 4 ABORTED (19 R345). -/
def Partition.stOf (p : Partition) (e : Nat) : BitVec 3 := (p.st[e]?).getD 0

/-- The entries that an entry's DEP names (19 R343). -/
def Partition.deps (p : Partition) (e : Nat) : List Nat :=
  (List.range 8).filter fun f => p.dw e 5 / 2 ^ (56 + f) % 2 == 1

/-- An entry aborts with a cause (19 R345). -/
def Partition.abort (p : Partition) (e : Nat) (cause : BitVec 5) : Partition :=
  { p with st := p.st.setIfInBounds e 4, cause := cause }

/-- A SUB bit (19 R345).  For an entry in RUN it does nothing, unless the kernel ends in the same web cycle (00 R10). -/
def execSubmission (ent : BitVec 3) (s : State) : Out :=
  let e := ent.toNat
  let p : Partition := { s.part with subAt := s.part.subAt.setIfInBounds e (s.web + 1) }
  if p.stOf e = 2 then .next { s with part := p }
  else if (p.deps e).contains e then .next { s with part := p.abort e 6 }
  else .next { s with part := p.submit e }

/-- A GO bit adds one start credit; credits saturate at 8 (19 R345). -/
def execGo (s : State) : Out := .next { s with part := { s.part with credits := Nat.min 8 (s.part.credits + 1) } }

/-- A PEND entry is ready when every entry that its DEP names is DONE or EMPTY (19 R346). -/
def Partition.ready (p : Partition) (e : Nat) : Bool :=
  p.stOf e == 1 && (p.deps e).all fun f => p.stOf f == 3 || p.stOf f == 0

/-- A PEND entry whose DEP names an ABORTED entry (19 R346). -/
def Partition.blockedBy (p : Partition) (e : Nat) : Bool := p.stOf e == 1 && (p.deps e).any fun f => p.stOf f == 4

/-- Entries that wait for an ABORTED entry become ABORTED with cause 4, but for one whose SUB bit was written in this web cycle (19
R346, 00 R10). -/
def Partition.dropBlocked (p : Partition) (web : Nat) : Partition :=
  (List.range 8).foldl (fun p e => if p.blockedBy e && (p.subAt[e]?).getD 0 != web + 1 then p.abort e 4 else p) p

/-- The ready entry with the lowest submission number (19 R346). -/
def Partition.isNext (p : Partition) (e : Nat) : Bool :=
  p.ready e && (List.range 8).all fun f => !p.ready f || decide ((p.sub[e]?).getD 0 ≤ (p.sub[f]?).getD 0)

/-! ## What the tables hold -/

/-- n bytes of physical memory as a number. -/
def State.phys (s : State) (a n : Nat) : Nat := Memory.readNat s.hbm a n

/-- Some bytes of physical memory are all zero. -/
def State.zeroAt (s : State) (a n : Nat) : Bool := (s.hbm.cellsIn a n).isEmpty

/-- CORES of an entry (19 R343). -/
def Partition.coresOf (p : Partition) (e : Nat) : Nat := natBits (p.dw e 5) 0 11

/-- Every field of an entry that is not listed is zero, and the listed ones are in range (19 R343). -/
def Partition.wellFormed (p : Partition) (e : Nat) : Bool :=
  let w := p.dw e
  let addr := fun (d n : Nat) => decide (w d < 2 ^ 40 ∧ w d % n = 0)
  addr 0 32 && addr 2 32 && addr 3 1 && addr 4 1 && addr 6 32 && addr 7 32 && addr 8 32
    && natBits (w 1) 42 22 == 0 && natBits (w 1) 11 21 == 0 && decide (natBits (w 1) 0 11 ≤ 1023)
    && natBits (w 5) 18 38 == 0 && natBits (w 5) 11 5 == 0 && decide (p.coresOf e ≤ 1535)
    && (List.range 7).all fun i => w (9 + i) == 0

/-- The loop table at an address (19 R348). -/
def State.loopTable (s : State) (a : Nat) : Vector (BitVec 32) 6 := Vector.ofFn fun i => BitVec.ofNat 32 (s.phys (a + 4 * i.val) 4)

/-- The size of the tile set (19 R348). -/
def tileCount (t : Vector (BitVec 32) 6) : Nat := (t.toList.map loopCount).foldl (· * ·) 1

/-- The loop table has no reserved kind or bit, and fewer than 2^48 tiles (19 R348). -/
def loopsOk (t : Vector (BitVec 32) 6) : Bool :=
  t.toList.all (fun w => loopKind w != 3 && natBits w.toNat 16 14 == 0) && decide (tileCount t < 2 ^ 48)

/-- The distinct elements of n bytes each that hold a nonzero byte, by index. -/
def State.nonzero (s : State) (a size n : Nat) : List Nat :=
  distinct ((s.hbm.cellsIn a size).map fun c => (c.1 - a) / n)

/-- Entry k of STAB's felt table is well formed (19 R344). -/
def feltEntryOk (w : Nat) : Bool :=
  if natBits w 30 1 = 1 then decide (w % 2 ^ 30 < 32) else decide (w % 2 ^ 30 < 2 ^ 11)

/-- An HBM table entry is well formed: none at a refresh or thermal-reserve index (19 R344). -/
def hbmEntryOk (slot w : Nat) : Bool := natBits w 11 3 == 0 && (slot % 32 != 31 && slot % 32 != 15)

/-- STAB has no reserved bit set, and its count is in range (19 R344). -/
def State.stabOk (s : State) (a : Nat) : Bool :=
  let n := s.phys a 8
  decide (1 ≤ n ∧ n ≤ 24) && s.zeroAt (a + 8) 0xF8
    && (List.range 64).all (fun k => feltEntryOk (s.phys (a + 0x100 + 4 * k) 4))
    && (s.nonzero (a + 0x200) 0x60000 2).all (fun i => hbmEntryOk (i % 512) (s.phys (a + 0x200 + 2 * i) 2))
    && (s.hbm.cellsIn (a + 0x60200) (n * 0x4100)).all fun c => decide (c.2.toNat ≤ 64 ∨ c.2.toNat = 255)

/-- An extent of ETAB: its two doublewords (19 R344). -/
def State.extent (s : State) (a i : Nat) : Nat × Nat := (s.phys (a + 16 + 16 * i) 8, s.phys (a + 24 + 16 * i) 8)

/-- ENT. -/
def extEntry (x : Nat × Nat) : Nat := natBits x.2 32 10
/-- F. -/
def extFollow (x : Nat × Nat) : Bool := natBits x.1 63 1 == 1
/-- LCH. -/
def extChannel (x : Nat × Nat) : Nat := natBits x.1 47 9

/-- An extent of ETAB is well formed (19 R344). -/
def extentOk (x : Nat × Nat) : Bool :=
  natBits x.1 30 17 == 0 && natBits x.1 61 2 != 3 && decide (extChannel x < 384) && (!extFollow x || extChannel x == 0)
    && natBits x.2 42 21 == 0 && natBits x.2 22 10 == 0

/-- The translation entry that XTAB gives core i at index k (19 R343). -/
def State.xtabEntry (s : State) (a i k : Nat) : BitVec 128 := BitVec.ofNat 128 (s.phys (a + 0x4000 * i + 16 * k) 16)

/-- An entry of XTAB agrees with its extent, in all but PB (19 R344). -/
def agrees (x : Nat × Nat) (e : BitVec 128) : Bool :=
  !bitAt e 127 || ((bitsAt e 0 7).toNat == natBits x.1 56 7 && (bitsAt e 7 30).toNat == natBits x.1 0 30
    && (bitsAt e 59 22).toNat == natBits x.2 0 22)

/-- ETAB is well formed (19 R344). -/
def State.etabOk (s : State) (a : Nat) : Bool :=
  let m := s.phys a 8
  decide (m ≤ 1024) && s.zeroAt (a + 8) 8 && (List.range m).all fun i => extentOk (s.extent a i)

/-- XTAB agrees with ETAB for every logical core (19 R344). -/
def State.xtabOk (s : State) (a xtab cores : Nat) : Bool :=
  (List.range (s.phys a 8)).all fun i =>
    let x := s.extent a i
    (List.range (cores + 1)).all fun c => agrees x (s.xtabEntry xtab c (extEntry x))

/-- A stream register's launch value has no reserved field (11 R197). -/
def streamOk (d : BitVec 512) : Bool :=
  bitsAt d 56 8 == 0 && decide ((bitsAt d 48 4).toNat ≤ 8) && decide ((bitsAt d 52 4).toNat ≤ 2)

/-- A shape has no reserved bit, and a leaf count in range; an entry of zeros is one that the launch does not supply (16
R286, R292). -/
def shapeOk (x : BitVec 64) : Bool :=
  x == 0 || (bitsAt x 51 13 == 0 && decide (1 ≤ shapeLeaves x ∧ shapeLeaves x ≤ 16))

/-- RTAB is well formed for a core whose values start at an address (19 R344). -/
def State.rtabOk (s : State) (a : Nat) : Bool :=
  let d := fun i => s.phys (a + 0x700 + 8 * i) 8
  (s.nonzero a 0x400 64).all (fun i => streamOk (BitVec.ofNat 512 (s.phys (a + 64 * i) 64)))
    && (s.nonzero (a + 0x400) 0x200 8).all (fun i => shapeOk (BitVec.ofNat 64 (s.phys (a + 0x400 + 8 * i) 8)))
    && decide (d 0 % 64 = 0 ∧ d 0 < 2 ^ 40 ∧ d 1 % 64 = 0 ∧ d 1 < 2 ^ 20 ∧ d 2 % 64 = 0 ∧ d 2 < 2 ^ 20
        ∧ (d 2 = 0 ∨ d 1 + d 2 ≤ Config.scratchBytes))
    && s.zeroAt (a + 0x718) 0xE8

/-- What aborts a launch with cause 5 before it is placed, the entry's own fields aside: the tables that the deckle reads (19 R344, R347,
R348; assumption 107). -/
def State.tablesOk (s : State) (e : Nat) : Bool :=
  let w := s.part.dw e
  loopsOk (s.loopTable (w 2)) && s.stabOk (w 6) && s.etabOk (w 7)

/-- What aborts a placed launch with cause 5, when the runtime loads it: an RTAB that is malformed, or an XTAB that does not agree with
ETAB (19 R344, R347; assumption 107). -/
def State.loadsOk (s : State) (e : Nat) : Bool :=
  let w := s.part.dw e
  let cores := s.part.coresOf e
  s.xtabOk (w 7) (w 3) cores && (List.range (cores + 1)).all fun i => s.rtabOk (w 8 + 0x800 * i)

/-! ## Placement -/

/-- RCLK and RNOM of a logical region (20 R354, 05 R89). -/
def State.regionRegs (s : State) (r : Nat) : Word × Word :=
  if r = s.core.region then (s.region.rclk, s.region.rnom)
  else (Tab.get 0 s.part.regs (0x2000 + 0x1000 * r), Tab.get 0 s.part.regs (0x2000 + 0x1000 * r + 1))

/-- A physical quadrant is usable for a logical region (06 R110). -/
def State.usable (s : State) (q r : Nat) : Bool :=
  let w := Tab.get 0 s.dev.rmap q
  let fmax := (bitsAt w 18 32).toNat
  let (ck, nom) := s.regionRegs r
  let n := (bitsAt ck 39 20).toNat + 1
  let d := (bitsAt ck 27 12).toNat + 1
  !bitAt w 52 && !((s.dev.asleep[q / 4]?).getD false) && decide ((s.dev.failed q).length ≤ 2)
    && (fmax == 0 || decide (n * (bitsAt nom 0 28).toNat ≤ fmax * d))

/-- The image of a logical quadrant under an automorphism (06 R111). -/
def quadImage (q g : Nat) : Nat :=
  let b := fun i => g / 2 ^ i % 2
  (q % 2 + b 0 + b 2) % 2 + 2 * ((q / 2 + b 1 + b 3) % 2)

/-- The logical quadrants of logical sheet j that hold cores of the kernel (01 R13). -/
def usedQuads (cores j : Nat) : List Nat :=
  (List.range 4).filter fun q => decide (64 * j + 4 * (q % 2) + 32 * (q / 2) ≤ cores)

/-- The sum of the grades of some quadrants' images; none stands for ∞ (06 R117). -/
def State.score (s : State) (j sh g : Nat) : List Nat → Option Nat
  | [] => some 0
  | q :: t =>
    let pq := 4 * sh + quadImage q g
    if s.usable pq (4 * j + q) then
      (State.score s j sh g t).map (· + (bitsAt (Tab.get 0 s.dev.rmap pq) 50 2).toNat)
    else none

/-- The first of a list with the least score, and its score; ∞ when none is finite (06 R117). -/
def least {α : Type} (f : α → Option Nat) : List α → Option (Nat × α)
  | [] => none
  | x :: t => match f x, least f t with
    | none, r => r
    | some n, none => some (n, x)
    | some n, some (m, y) => if m < n then some (m, y) else some (n, x)

/-- Score and automorphism of logical sheet j on a physical sheet (06 R117). -/
def State.bestFor (s : State) (cores j sh : Nat) : Option (Nat × Nat) :=
  least (fun g => s.score j sh g (usedQuads cores j)) (List.range 16)

/-- Logical sheets from j up are placed on free physical sheets (06 R117). -/
def State.placeSheets (s : State) (cores : Nat) : Nat → Nat → List Nat → Option (List (Nat × Nat))
  | 0, _, _ => some []
  | n + 1, j, free =>
    match least (fun sh => (s.bestFor cores j sh).map (·.1)) free with
    | none => none
    | some (_, sh) =>
      let g := ((s.bestFor cores j sh).map (·.2)).getD 0
      (State.placeSheets s cores n (j + 1) (free.filter (· != sh))).map fun r => (sh, g) :: r

/-- Physical sheets that hold at least one quadrant of the partition (06 R117). -/
def State.freeSheets (s : State) : List Nat :=
  (List.range 24).filter fun sh => (List.range 4).any fun q => !bitAt (Tab.get 0 s.dev.rmap (4 * sh + q)) 52

/-- The placement of n logical sheets, completed to a permutation (06 R115, R117). -/
def State.placement (s : State) (cores n : Nat) : Option (List (Nat × Nat)) :=
  (s.placeSheets cores n 0 s.freeSheets).map fun r =>
    r ++ ((List.range 24).filter fun sh => !r.any fun x => x.1 == sh).map fun sh => (sh, 0)

/-- The placement as the device holds it. -/
def placeTable (pl : List (Nat × Nat)) : Tab (BitVec 16) :=
  (pl.zipIdx.filterMap fun x => if x.1.1 = x.2 then none else some (x.2, BitVec.ofNat 16 (x.1.1 + 1)))
    ++ (pl.zipIdx.filterMap fun x => if x.1.2 = 0 then none else some (32 + x.2, BitVec.ofNat 16 x.1.2))

/-- The physical sheet of logical sheet j in a placement. -/
def placedOn (pl : List (Nat × Nat)) (j : Nat) : Nat := (nth (j, 0) pl j).1

/-- The physical channel of a logical channel (06 R114). -/
def placedChannel (pl : List (Nat × Nat)) (ch : Nat) : Nat := 16 * placedOn pl (ch / 16) + ch % 16

/-- Owned data slots of each channel wheel, and owned felt slots, stay within the partition's shares; 464 slots of a wheel are the
most that it can own (19 R340, R341; assumption 82). -/
def State.slotsFit (s : State) (stab : Nat) : Bool :=
  let own := (s.nonzero (stab + 0x200) 0x60000 2).filter fun i => natBits (s.phys (stab + 0x200 + 2 * i) 2) 15 1 == 1
  let felt := (List.range 64).filter fun k => natBits (s.phys (stab + 0x100 + 4 * k) 4) 31 1 == 1
  (distinct (own.map (· / 512))).all (fun ch => decide ((own.filter fun i => i / 512 == ch).length ≤ s.part.hbmShare))
    && decide (felt.length ≤ s.part.feltShare)

/-! ## Page homes -/

/-- Where the bytes of an extent come from when it is homed: the frame it is in, what its eviction has saved, zeros for one that was
DISCARD, or nowhere (05 R105 to R107). -/
inductive Contents where
  | frame | saved | zeros | nowhere
deriving DecidableEq, Repr

/-- An extent of a launch, the entry that gives its pages, its base at present, whether that is a home that a launch or a move gave it
and that it is still in, and where its contents are (06 R109, R119). -/
structure Extent where
  ext : Nat × Nat
  entry : BitVec 128
  base : Nat
  homed : Bool
  contents : Contents
deriving DecidableEq, Repr

/-- A page home: entry, old base, new base and size, whether the old base is a home, and where the contents come from. -/
structure Home where
  ent : Nat
  old : Nat
  new : Nat
  size : Nat
  homed : Bool
  contents : Contents
deriving DecidableEq, Repr

/-- The bytes of an extent. -/
def Extent.bytes (x : Extent) : Nat := extentBytes x.entry

/-- An extent is homed by follow (06 R116). -/
def Extent.follow (x : Extent) : Bool := extFollow x.ext

/-- The home of an extent at a base. -/
def Extent.at_ (x : Extent) (a : Nat) : Home :=
  { ent := extEntry x.ext, old := x.base, new := a, size := x.bytes, homed := x.homed, contents := x.contents }

/-- The entry that XTAB gives for an extent: the first valid one among the kernel's cores; an extent that is valid for no core has
no home (assumption 83). -/
def State.homeEntry (s : State) (xtab cores k : Nat) : Option (BitVec 128) :=
  ((List.range (cores + 1)).map fun c => s.xtabEntry xtab c k).find? fun e => bitAt e 127

/-- Two valid entries map the same virtual pages. -/
def samePages (d e : BitVec 128) : Bool :=
  bitAt d 127 && bitAt e 127 && bitsAt d 5 32 == bitsAt e 5 32 && bitsAt d 59 22 == bitsAt e 59 22

/-- ST of an extent at launch (19 R344). -/
def extState (x : Nat × Nat) : Nat := natBits x.1 59 2

/-- An extent of a launch: its pages have a home, where the last launch or a move has them RESIDENT or MIGRATING, whichever cores map them;
they have none when they are evicted or discarded, and at their first launch, when what they hold stands at XTAB's PB
(05 R105, R107, 06 R119, R120; assumption 83).  An evicted extent that is launched RESIDENT gets what was saved. -/
def State.launchExtent (s : State) (x : Nat × Nat) (e : BitVec 128) : Extent :=
  let now := s.homeOf (BitVec.ofNat 10 (extEntry x))
  let here := fun (base : Nat) (homed : Bool) (c : Contents) => ({ ext := x, entry := e, base := base, homed := homed, contents := c } : Extent)
  if !samePages now e then here (extentBase e) false .frame
  else match (bitsAt now 3 2).toNat with
    | 0 => here (extentBase now) false
        (if extState x = 1 ∧ s.dev.savedExt.contains (BitVec.ofNat 10 (extEntry x)) then .saved else .nowhere)
    | 2 => here (extentBase now) false .zeros
    | _ => here (extentBase now) true .frame

/-- The extents of a launch that have an entry. -/
def State.launchExtents (s : State) (etab xtab cores : Nat) : List Extent :=
  ((List.range (Nat.min 1024 (s.phys etab 8))).map (s.extent etab)).filterMap fun x =>
    (s.homeEntry xtab cores (extEntry x)).map (s.launchExtent x)

/-- Frames that are in use: the entry of their extent, first byte and bytes. -/
abbrev FramesInUse := List (Nat × Nat × Nat)

/-- The frames of the contexts that are parked, under no entry of the launch (21 R388). -/
def State.parkedFrames (s : State) : FramesInUse :=
  ((s.part.shadow.toList ++ s.part.moved).map fun p =>
    ((p.core.xlat ++ p.homeTab).filter fun x => bitAt x.2 127 && (bitsAt x.2 3 2 == 1 || bitsAt x.2 3 2 == 3)).map fun x =>
      (1024, extentBase x.2, extentBytes x.2)).flatten

/-- The frames of parked contexts that an extent does not share with them: a context whose extent has the same home leaves it there (06
R119; assumption 83). -/
def State.parkedOthers (s : State) (x : Extent) : FramesInUse := s.parkedFrames.filter fun t => t.2 != (x.base, x.bytes)

/-- The frames at an address hold an extent, lie in one channel and in the partition, and are free of the other extents of the launch
and of parked contexts; those of the launch's own image and tables, and of extents of earlier kernels, count as free (06 R109, R115;
assumption 96). -/
def State.frameFree (s : State) (x : Extent) (taken : FramesInUse) (ch a : Nat) : Bool :=
  frameFits x.entry a && decide (a / Config.channelBytes = ch ∧ (a + x.bytes - 1) / Config.channelBytes = ch)
    && within s.part.frames a x.bytes && !taken.any fun t => overlaps a x.bytes t.2.1 t.2.2

/-- Frames of a channel that may hold an extent (06 R109, R115). -/
def State.freeFrames (s : State) (x : Extent) (taken : FramesInUse) (ch : Nat) : List Nat :=
  ((List.range (Config.channelBytes / 0x40000)).map fun i => ch * Config.channelBytes + 0x40000 * i).filter (s.frameFree x taken ch)

/-- The counted history of an extent, by its translation index, on a physical sheet (06 R109; assumption 100). -/
def State.historyOf (s : State) (k sh : Nat) : Nat := (Tab.get 0 s.dev.histAcc (32 * k + sh)).toNat

/-- The physical sheet with the largest history of an extent; logical sheet 0's when there is none.  Of equals it is logical sheet 0's,
else the lowest-numbered (06 R116; assumption 83). -/
def State.heaviest (s : State) (k : Nat) (pl : List (Nat × Nat)) : Nat :=
  (List.range 24).foldl (fun b sh => if s.historyOf k b < s.historyOf k sh then sh else b) (placedOn pl 0)

/-- The channels on which an extent may be homed, in order of preference (06 R114, R116). -/
def State.homeChannels (s : State) (x : Extent) (pl : List (Nat × Nat)) : List Nat :=
  if x.follow then (List.range 16).map fun i => 16 * s.heaviest (extEntry x.ext) pl + i else [placedChannel pl (extChannel x.ext)]

/-- An extent's home need not change: a compiled extent is in its channel, and a follow extent on a sheet that has more than half of
the largest count, or is itself the heaviest (06 R119). -/
def State.homeServes (s : State) (x : Extent) (pl : List (Nat × Nat)) : Bool :=
  let ch := x.base / Config.channelBytes
  let k := extEntry x.ext
  let sh := s.heaviest k pl
  if x.follow then ch / 16 == sh || decide (s.historyOf k sh < 2 * s.historyOf k (ch / 16)) else ch == placedChannel pl (extChannel x.ext)

/-- The frames that some extents are in. -/
def framesOf (xs : List Extent) : FramesInUse := xs.map fun x => (extEntry x.ext, x.base, x.bytes)

/-- The extents that stay at their homes, after those that have been found to, and those that are homed anew; where two are in one
frame the first stays, and one whose home is no longer in the partition's frames is homed anew, with its contents (06 R119; assumptions
83, 109). -/
def State.splitExtents (s : State) (pl : List (Nat × Nat)) : List Extent → List Extent → List Extent × List Extent
  | [], stay => (stay, [])
  | x :: t, stay =>
    if x.homed && s.frameFree x (framesOf stay ++ s.parkedOthers x) (x.base / Config.channelBytes) x.base && s.homeServes x pl then s.splitExtents pl t (stay ++ [x])
    else let r := s.splitExtents pl t stay; (r.1, x :: r.2)

/-- Homes of the extents that are homed anew, in order: a free frame of the first channel that has one.  An extent that finds none fails
the placement, but a follow extent that has a home stays there (06 R115, R116, R118, R119); that a follow extent without one fails it
as a compiled one does is the model's choice (assumption 108).  Of two extents with one ENT the later gives up the frame of the earlier
(assumption 110). -/
def State.moveExtents (s : State) (inputs : List Nat) (pl : List (Nat × Nat)) : List Extent → FramesInUse → Option (List Home)
  | [], _ => some []
  | x :: t, taken =>
    let k := extEntry x.ext
    let rest := fun (a : Nat) => (s.moveExtents inputs pl t ((k, a, x.bytes) :: taken.filter (·.1 != k))).map (x.at_ a :: ·)
    match ((s.homeChannels x pl).map (s.freeFrames x taken)).find? fun l => !l.isEmpty with
    | some l => match l[Config.deckleFrame inputs l % l.length]? with
      | some a => rest a
      | none => none
    | none => if x.follow && x.homed then rest x.base else none

/-- The homes of all extents, or a failure: extents that stay, then compiled ones that move, then follow ones, each in the order of ETAB;
a follow extent keeps its frames until it has moved (06 R115 to R119; assumption 83). -/
def State.homes (s : State) (inputs : List Nat) (pl : List (Nat × Nat)) (xs : List Extent) : Option (List Home) :=
  let (stay, move) := s.splitExtents pl xs []
  let follow := move.filter (·.follow)
  (s.moveExtents inputs pl (move.filter (!·.follow) ++ follow) (framesOf (stay ++ follow.filter (·.homed)) ++ s.parkedFrames)).map
    (stay.map (fun x => x.at_ x.base) ++ ·)

/-- What the deckle reads: the resource map, the loop table and the compiled slot tables, wherever they stand, the number of cores, the
extents of the launch table, and their history (06 R109). -/
def State.deckleInputs (s : State) (e : Nat) (xs : List Extent) : List Nat :=
  let w := s.part.dw e
  ((s.dev.rmap.map fun x => [x.1, x.2.toNat]) ++ [s.part.coresOf e :: (s.loopTable (w 2)).toList.map (·.toNat)]
    ++ ((s.hbm.cellsIn (w 6) (0x60200 + s.phys (w 6) 8 * 0x4100)).map fun c => [c.1 - w 6, c.2.toNat])
    ++ (xs.map fun x => [x.ext.1, x.ext.2]) ++ (s.dev.histAcc.map fun x => [x.1, x.2.toNat])).flatten

/-- The deckle's placement of an entry's kernel with its page homes; none when it fails (06 R117, R118). -/
def State.place (s : State) (e : Nat) : Option (List (Nat × Nat) × List Home) :=
  let w := s.part.dw e
  let cores := s.part.coresOf e
  match s.placement cores (s.phys (w 6) 8) with
  | none => none
  | some pl =>
    let xs := s.launchExtents (w 7) (w 3) cores
    if s.slotsFit (w 6) then (s.homes (s.deckleInputs e xs) pl xs).map fun hs => (pl, hs) else none

/-- Accesses are still pending under an extent that has to move (05 R105, 06 R120). -/
def State.movesPend (s : State) (hs : List Home) : Bool :=
  hs.any fun h => h.homed && h.old != h.new && bitsAt (s.core.entry (BitVec.ofNat 10 h.ent)) 117 10 != 0

/-- Extents come to their homes with their contents (06 R120, 05 R105 to R107). -/
def moveHomes (m saved : Memory) (hs : List Home) : Memory :=
  hs.foldl (fun (d : Memory) h => match h.contents with
    | .frame => if h.old = h.new then d else d.copyFrom h.new m h.old h.size
    | .saved => d.copyFrom h.new saved (h.ent * 2 ^ 40) h.size
    | .zeros => d.without h.new h.size
    | .nowhere => d) m

/-! ## Loading -/

/-- Keys and values from a list of numbers, values equal to zero left out. -/
def tabOf (n : Nat) (ks : List Nat) (f : Nat → Nat) : Tab (BitVec n) :=
  ks.filterMap fun k => if f k % 2 ^ n = 0 then none else some (k, BitVec.ofNat n (f k))

/-- Keys in rising order. -/
def sortKeys (l : List Nat) : List Nat := l.foldl (fun r x => insertBy (fun a b => decide (a ≤ b)) x r) []

/-- The translation table that a launch gives the core; the runtime leaves out the entries that it refuses (19 R344, 05 R96;
assumption 84). -/
def State.launchXlat (s : State) (xtab : Nat) (hs : List Home) : Tab (BitVec 128) :=
  let written := fun (e : BitVec 128) => if entryOk e then e.toNat else 0
  let base := xtab + 0x4000 * s.core.tix.toNat
  tabOf 128 (sortKeys (s.nonzero base 0x4000 16)) fun k =>
    let e := writtenEntry 0 (BitVec.ofNat 128 (s.phys (base + 16 * k) 16))
    match hs.find? fun h => h.ent == k with
    | some h => written (if bitAt e 127 then withFrame e (BitVec.ofNat 22 (h.new / 0x40000)) (bitsAt e 3 2) else e)
    | none => written e

/-- The felt slot table with its gateways on physical sheets (06 R114, 09 R154). -/
def State.launchFelt (s : State) (stab : Nat) (pl : List (Nat × Nat)) : Tab (BitVec 32) :=
  tabOf 32 (List.range 64) fun k =>
    let w := s.phys (stab + 0x100 + 4 * k) 4
    if natBits w 31 1 = 0 then 0
    else if natBits w 30 1 = 1 then 3 * 2 ^ 30 + placedOn pl (w % 32) else w

/-- The web slot table of the core's sheet (10 R172). -/
def State.launchWeb (s : State) (stab : Nat) : Tab (BitVec 8) :=
  let j := s.core.tix.toNat / 64
  if s.phys stab 8 ≤ j then []
  else tabOf 8 (List.range 0x4100) fun i =>
    let d := (Memory.byte s.hbm (stab + 0x60200 + 0x4100 * j + i)).toNat
    if d = 255 then 0 else d + 1

/-- The HBM slot tables under physical channels (06 R114, 05 R92). -/
def State.launchHbm (s : State) (stab : Nat) (pl : List (Nat × Nat)) : Tab (BitVec 16) :=
  (s.nonzero (stab + 0x200) 0x60000 2).foldl (fun t i =>
    let w := s.phys (stab + 0x200 + 2 * i) 2
    Tab.put 0 t (512 * placedChannel pl (i / 512) + i % 512) (if natBits w 15 1 = 1 then BitVec.ofNat 16 w else 0)) []

/-- The registers at launch, with the values of RTAB (11 R196, 19 R344). -/
def State.launchRegs (s : State) (rtab : Nat) : Regs :=
  { Regs.launch with
    a := Vector.ofFn fun i => if i.val = 0 then 0 else BitVec.ofNat 64 (s.phys (rtab + 0x600 + 8 * i.val) 8)
    st := Vector.ofFn fun i => BitVec.ofNat 512 (s.phys (rtab + 64 * i.val) 64) }

/-- A crossing port at launch keeps its configuration and weights (20 R365, R367). -/
def Port.launch (p : Port) : Port :=
  let q := { Port.reset with cfg := p.cfg, xw := p.xw }
  { q with est := q.declared }

/-- The code section that the core's region runs: IMG, LEN and ENTRY of the launch entry, unless the region has a section of its own (19
R343, 02 R410; assumption 87). -/
def State.sectionOf (s : State) (e : Nat) (sh : Option Shares) : Nat × Nat × Nat :=
  let w := s.part.dw e
  match sh.bind (·.code) with
  | some (img, len, entry) => (img.toNat, len.toNat, entry.toNat)
  | none => (w 0, natBits (w 1) 0 11, natBits (w 1) 32 10)

/-- The core at the start of a kernel (19 R347, 08 R143, 11 R196, 15 R265, 16 R286), with the code section of its region.  Cores above
CORES halt before they issue anything.  Until a restart point commits, the mark holds the entry bundle and the launch values, to which a late fault returns
(21 R379). -/
def State.launchCore (s : State) (e : Nat) (code : Nat × Nat × Nat) (pl : List (Nat × Nat)) (hs : List Home) : Core :=
  let w := s.part.dw e
  let cores := s.part.coresOf e
  let c := s.core
  let i := c.tix.toNat
  let rtab := w 8 + 0x800 * i
  let tab := s.loopTable (w 2)
  let n := tileCount tab
  let d := fun k => s.phys (rtab + 0x700 + 8 * k) 8
  let on := decide (i ≤ cores)
  let regs := if on then s.launchRegs rtab else .launch
  let seq : Seq := { half := 0, index := BitVec.ofNat 10 code.2.2, loops := [] }
  let xp := c.xp.map Port.launch
  let caps := tabOf 64 (sortKeys (s.nonzero (w 4 + 0x800 * i) 0x800 8)) fun k => s.phys (w 4 + 0x800 * i + 8 * k) 8 / 2 ^ 7 * 2 ^ 7
  let shapes := tabOf 64 (sortKeys (s.nonzero (rtab + 0x400) 0x200 8)) fun k => s.phys (rtab + 0x400 + 8 * k) 8
  { Core.reset with
    tix := c.tix, sheet := BitVec.ofNat 5 (placedOn pl (i / 64))
    r := regs, seq := seq
    mark := { Mark.reset with regs := regs, seq := seq, walk := i * n / (cores + 1), ports := portMarks xp }
    run := if on then .running else .halted
    priv := natBits (w 5) 16 1 == 1, tres := natBits (w 5) 17 1 == 1
    istore := tabOf 256 (List.range (code.2.1 + 1)) fun k => s.phys (code.1 + 32 * k) 32
    loopTab := tab, walk := i * n / (cores + 1), walkEnd := if on then (i + 1) * n / (cores + 1) else i * n / (cores + 1)
    scratch := if on ∧ d 2 ≠ 0 then c.scratch.copyFrom (d 1) s.hbm (d 0) (d 2) else c.scratch
    poison := c.poison.filter fun g => decide (g < 2 ^ 21) && !(on && decide (d 1 / 32 ≤ g ∧ g < (d 1 + d 2) / 32))
    xlat := if on then s.launchXlat (w 3) hs else []
    caps := if on then caps else []
    nextCmd := c.nextCmd, xp := xp
    sp := { SumProd.launch with shape := if on then shapes else [] } }

/-- The region at the start of a kernel: one that tracks the reference of the fabric timing group begins sample 0 in this cycle, and
every other waits for its first sample boundary; `ovrc` is cleared (19 R347, 11 R196). -/
def State.launchRegion (s : State) : Region :=
  let r := { s.region with smpc := 0, bud := s.region.budget 0, cis := 0, pending := false, phev := 0, miss := 0, drop := 0, ovr := 0,
                           newAt := 0, gap := 0, frac := 0, begun := true }
  if s.fabricKind ∧ (r.st = .track ∨ r.st = .limit) then
    { r with gated := false, fresh := false, base := s.web, lag := decide (r.div ≠ 0 ∨ 0 < r.swallow) }
  else { r with gated := true, fresh := true }

/-- The driver's lists at launch: extents that are RESIDENT are active, and the others, which hold no frame, are in neither list; those
that F marks are homed by follow; what was saved of an extent that is launched as evicted stays saved (05 R107, 06 R116; assumption
12). -/
def Device.launchLists (d : Device) (xs : List (Nat × Nat)) (hs : List Home) : Device :=
  let pick := fun (p : Nat × Nat → Bool) => (xs.filter p).map fun x => BitVec.ofNat 10 (extEntry x)
  let kept := d.savedExt.filter fun k => hs.any fun h => h.ent == k.toNat && h.contents == .nowhere
  { d with
    active := pick fun x => extState x == 1
    inactive := []
    deadExt := pick fun x => natBits x.2 63 1 == 1
    followExt := pick extFollow
    scanDue := true
    saved := d.saved.filter fun c => kept.contains (BitVec.ofNat 10 (c.1 / 2 ^ 40)), savedExt := kept, xlatLow := [], xlatNew := [] }

/-- A kernel that comes to another sheet finds that sheet's mirror, which holds what the base die's does; it reloads until the sheet's
wake is long enough ago (09 R160, R170). -/
def State.onSheet (s : State) (sh : Nat) : State :=
  let t := Tab.get 0 s.dev.waking sh
  let reload := if s.web < t then some t else none
  let s := { s with core := { s.core with reloadEnd := none } }
  if sh = s.core.sheet.toNat then { s with reload := reload }
  else { s.takeMirror with reload := reload }

/-- The links that the capabilities of a kernel's cores name (10 R174, 19 R345). -/
def State.launchLinks (s : State) (ctab cores : Nat) : BitVec 16 :=
  let ws := (s.nonzero ctab (0x800 * (cores + 1)) 8).map fun i => s.phys (ctab + 8 * i) 8
  BitVec.ofNat 16 (elemsNat 1 (fun lk => b2n (ws.any fun w => natBits w 60 4 == 10 && natBits w 18 4 == lk)) 16)

/-- The entries of the extents of a launch with their homes (06 R109, R119). -/
def launchHomes (xs : List Extent) (hs : List Home) : Tab (BitVec 128) :=
  hs.foldl (fun (t : Tab (BitVec 128)) h => match xs.find? fun x => extEntry x.ext == h.ent with
    | some x => Tab.put 0 t h.ent (writtenEntry 0 (withFrame x.entry (BitVec.ofNat 22 (h.new / 0x40000)) (bitsAt x.entry 3 2)))
    | none => t) []

/-- A placed kernel is loaded and becomes RUN (19 R347). -/
def State.startKernel (s : State) (e : BitVec 3) (code : Nat × Nat × Nat) (pl : List (Nat × Nat)) (hs : List Home) : State :=
  let w := s.part.dw e.toNat
  let homeTab := launchHomes (s.launchExtents (w 7) (w 3) (s.part.coresOf e.toNat)) hs
  let s := State.onSheet { s with hbm := moveHomes s.hbm s.dev.saved hs } (placedOn pl (s.core.tix.toNat / 64))
  { s with
    core := s.launchCore e.toNat code pl hs
    region := s.launchRegion
    feltTab := s.launchFelt (w 6) pl, webTab := s.launchWeb (w 6), hbmTab := s.launchHbm (w 6) pl
    gw := .reset
    part := { s.part with st := s.part.st.setIfInBounds e.toNat 2, resident := some e,
                          cores := BitVec.ofNat 11 (s.part.coresOf e.toNat)
                          kernelLinks := s.launchLinks (w 4) (s.part.coresOf e.toNat) }
    dev := { s.dev.launchLists ((List.range (s.phys (w 7) 8)).map (s.extent (w 7))) hs with
      place := placeTable pl, mapUsed := s.dev.rmap, homeTab := homeTab } }

/-- The most web flits that a link carries in a revolution: 212.5 GB/s in 256 cycles of 2.7 GHz, of packets of one header flit of 32 bytes
and 16 web flits of 64 (10 R186, R187). -/
def reamMost : Nat := 212500000000 * 256 / 2700000000 * 16 / (32 + 16 * 64)

/-- The shares of a partition lie within the resources: frames in HBM, whole pages of the quire window, cells and links that exist,
no more slots than can be owned, and no more flits than a link carries; a code section has an IMG as a launch entry has it (19 R340, R341,
R343, 10 R186). -/
def sharesOk (x : Shares) : Bool :=
  x.frames.all (fun r => decide (r.1 + r.2 ≤ Config.hbmEnd))
    && x.quire.all (fun r => decide (r.1 + r.2 ≤ Config.quireBytes ∧ r.1 % 4096 = 0 ∧ r.2 % 4096 = 0))
    && decide (x.cells.1 + x.cells.2 ≤ 32 ∧ x.hbmSlots ≤ 464 ∧ x.feltSlots ≤ 64) && x.ream.all (fun r => decide (r.1 < 16 ∧ r.2 ≤ reamMost))
    && x.regions.all (fun q => decide (q < 96)) && x.code.all fun c => decide (c.1.toNat % 32 = 0)

/-- The resource map with the quadrants of the partition marked (06 R110, 19 R340). -/
def regionMap (rmap : Tab Word) (mine : List Nat) : Tab Word :=
  (List.range 96).foldl (fun t q => Tab.put 0 t q (setBits (Tab.get 0 t q) 52 1 (b2n (!mine.contains q)))) rmap

/-- The mill cores change the partition's shares, its regions among them (19 R340, 01 R15). -/
def State.reshare (s : State) : Option Shares → State
  | none => s
  | some x => { s with
    part := { s.part with
      frames := x.frames, quireShare := x.quire, cells := x.cells, hbmShare := x.hbmSlots, feltShare := x.feltSlots
      reamShare := x.ream.foldl (fun t r => Tab.put 0 t r.1 (r.2 + 1)) [] }
    dev := { s.dev with rmap := regionMap s.dev.rmap x.regions } }

/-- RCLK and RNOM of a logical region are none that the runtime refuses: N is no less than D, the source is not reserved, and the
nominal clock is no more than 2.7 GHz (20 R354). -/
def State.clockOk (s : State) (r : Nat) : Bool :=
  let (ck, nom) := s.regionRegs r
  let n := (bitsAt ck 39 20).toNat + 1
  let d := (bitsAt ck 27 12).toNat + 1
  decide (d ≤ n ∧ (bitsAt ck 59 4).toNat < 10 ∧ n * (bitsAt nom 0 28).toNat ≤ 2700000000 * d)

/-- XPCFG of a port of a logical region (20 R365, 05 R89). -/
def State.portConfig (s : State) (r n : Nat) : Word :=
  if r = s.core.region then ((s.core.xp[n]?).map (·.cfg)).getD 0 else Tab.get 0 s.part.regs (0x2000 + 0x1000 * r + 2 + n)

/-- An end that is configured and its partner name each other, are of two kinds and agree in MODE (20 R365). -/
def State.portOk (s : State) (r n : Nat) : Bool :=
  let x := s.portConfig r n
  let y := s.portConfig (bitsAt x 33 7).toNat (bitsAt x 31 2).toNat
  !bitAt x 63 || (bitAt y 63 && bitAt x 62 != bitAt y 62 && bitsAt x 60 2 == bitsAt y 60 2 && (bitsAt y 33 7).toNat == r
    && (bitsAt y 31 2).toNat == n)

/-- The logical regions that hold cores of an entry's kernel (01 R13, 19 R343). -/
def kernelRegions (cores : Nat) : List Nat :=
  (List.range 96).filter fun r => (usedQuads cores (r / 4)).contains (r % 4)

/-- The runtime does not refuse the launch for the registers of its regions (20 R354, R365). -/
def State.regionsOk (s : State) (e : Nat) : Bool :=
  (kernelRegions (s.part.coresOf e)).all fun r => s.clockOk r && (List.range 4).all (s.portOk r)

/-- An entry starts, in a web cycle at which every wheel starts: the ready entry with the lowest submission number, for one credit, with
no kernel resident and the access counters scanned, under shares that the mill cores may have changed before, and unless the runtime
refuses it for the registers of its regions.  It aborts when its own fields or the tables that the deckle reads are malformed, when it
cannot be placed, and when the tables that are loaded then are malformed.  One that waits for an aborted entry aborts.  A SUB bit written
for the entry in the same web cycle takes effect instead (19 R340, R344, R346, R347, 06 R118, R120, 05 R107, 00 R10, 20 R354, R365). -/
def execKernelStart (ent : BitVec 3) (sh : Option Shares) (s : State) : Out :=
  let e := ent.toNat
  let p := s.part
  if (p.subAt[e]?).getD 0 = s.web + 1 then .fault .notDue
  else if p.blockedBy e then .next { s with part := p.abort e 4 }
  else if p.resident.isSome ∨ p.credits = 0 ∨ !p.isNext e ∨ s.web % 4608 ≠ 0 ∨ s.dev.scanDue ∨ sh.any (!sharesOk ·) ∨ !s.regionsOk e then .fault .notDue
  else
    let s := State.reshare { s with part := { p with credits := p.credits - 1 } } sh
    let fail := fun (cause : BitVec 5) => Host.Outcome.next { s with part := s.part.abort e cause }
    if !p.wellFormed e || !s.tablesOk e then fail 5
    else match s.place e with
      | none => fail 1
      | some (pl, hs) =>
        if !s.loadsOk e then fail 5
        else if s.movesPend hs then .fault .notDue
        else .next (s.startKernel ent (s.sectionOf e sh) pl hs)

/-- The homes that the next launch requires (06 R119). -/
def State.nextHomes (s : State) : List Home :=
  match (List.range 8).find? s.part.isNext with
  | none => []
  | some e => ((s.place e).map (·.2)).getD []

/-- Between kernels an extent moves to the home that the next launch requires, with its contents, and is RESIDENT there; what stands
there is evicted first, when the partition has no free frame (06 R119, R120, 05 R105, R107). -/
def execPageMove (ent : BitVec 10) (pb : BitVec 22) (s : State) : Out :=
  let e := s.homeOf ent
  let a := pb.toNat * 0x40000
  let due := s.nextHomes.any fun h => h.ent == ent.toNat && h.new == a && h.old == extentBase e && h.homed
  let out := s.extentsIn ent a (extentBytes e)
  if s.part.resident.isSome ∨ s.dev.scanDue ∨ extentBase e = a ∨ !due ∨ bitsAt e 117 10 ≠ 0 ∨ !s.evictable out
      ∨ (out ≠ [] ∧ s.hasFreeFrame ent e) then .fault .notDue
  else
    let s := out.foldl State.evict s
    .next (State.moveHome { s with hbm := s.hbm.copyFrom a s.hbm (extentBase e) (extentBytes e) } ent (withFrame e pb 1))

/-! ## The end of a kernel -/

/-- The flits that this core has sent have arrived, and their messages are pushed.  Of a message on a ream link none waits at the gateway,
the peer has acknowledged each, and the web cycle of the push that LAT gives has come (17 R312, 18 R337, 10 R187, R189; assumption
112). -/
def State.sendsDone (s : State) : Bool :=
  let msg := fun (x : Inbound) => match x.item with
    | .msg .. => true
    | _ => false
  s.core.outgoing.all (fun t => decide (t ≤ s.web)) && s.core.pushes.isEmpty && !s.core.inbound.any msg
    && decide (s.core.reamAt ≤ s.web)
    && s.links.toList.all fun l => (l.waiting.all fun x => !x.1) && l.own.isEmpty && l.gather.all fun x => x.1 != s.core.pos

/-- Everything that the core issued has performed: its packets are applied, its messages pushed, its settings and contributions at
their cells (17 R312, R316, 18 R337, 09 R160). -/
def State.allPerformed (s : State) : Bool :=
  s.drained && (s.felt.all fun f => f.own.isNone || f.applied) && s.gw.sets.isEmpty && s.gw.adds.isEmpty && s.sendsDone

/-- The kernel ends: it is complete, its cores have halted and everything they issued has performed; or another of its cores has
aborted it, with a cause, a trap or a fault, and a trap code, and this core stops (17 R316, 18 R337, 19 R345, R347). -/
def execKernelComplete (ab : Option (BitVec 5 × BitVec 9)) (s : State) : Out :=
  match s.part.resident, ab with
  | none, _ => .fault .notDue
  | some e, none =>
    if s.core.run = .halted ∧ s.allPerformed then
      .next { s with part := { s.part.finish s.web e.toNat 3 with resident := none } }
    else .fault .notDue
  | some _, some (cause, code) =>
    if s.part.cores = 0 ∨ (cause ≠ 2 ∧ cause ≠ 3) then .fault .notDue
    else .next (State.abortKernel (if cause = 2 then { s with part := { s.part with tcode := code } } else s) cause)

/-! ## Pre-emption -/

/-- A PPRE REQ write reaches the core (21 R387). -/
def execPreEmptionRequest (s : State) : Out :=
  .next (if s.occupied then { s with core := { s.core with preReq := true } } else s)

/-- Every region of the partition is parked: another kernel may run (21 R387, R388). -/
def State.allParked (s : State) : State := { s with part := { s.part with parked := true, resident := none } }

/-- The context that is parked with a kernel's entry (21 R388). -/
def State.context (s : State) (e : BitVec 3) : Parked :=
  { core := s.core, smpc := s.region.smpc, entry := e, cores := s.part.cores, kernelLinks := s.part.kernelLinks
    feltTab := s.feltTab, webTab := s.webTab, hbmTab := s.hbmTab, gw := s.gw, place := s.dev.place
    active := s.dev.active, inactive := s.dev.inactive, deadExt := s.dev.deadExt, followExt := s.dev.followExt
    saved := s.dev.saved, savedExt := s.dev.savedExt, mapUsed := s.dev.mapUsed, homeTab := s.dev.homeTab }

/-- After its drain the core is parked, and its context goes to shadow storage, from which the runtime moves an earlier one to memory;
a core that has halted parks as it stands.  A kernel of one core is then parked whole (21 R387, R388). -/
def execPark (s : State) : Out :=
  let c := s.core
  match s.part.resident with
  | none => .fault .notDue
  | some e =>
    if c.preReq ∧ (c.run = .draining ∨ c.run = .halted) ∧ s.drained ∧ s.allArrived then
      let t := { s with core := { c with run := .parked }
                        part := { s.part with shadow := some (s.context e), moved := s.part.shadow.toList ++ s.part.moved } }
      .next (if s.part.cores = 0 then t.allParked else t)
    else .fault .notDue

/-- A PPRE RES write, when no other kernel runs: the context returns, and issue resumes at the saved bundle at the region's next
sample boundary, with a group switch and one slip; the count since the last PS bundle goes on, and the region relocks first when its
source has changed (21 R388, 19 R350, 20 R358; assumption 68). -/
def execRestore (s : State) : Out :=
  match s.part.shadow with
  | none => .fault .notDue
  | some p =>
    if s.part.resident.isSome ∧ s.core.run ≠ .parked then .fault .notDue
    else
      let c := p.core.groupSwitch
      let r := { s.region with smpc := p.smpc, gated := true, fresh := false, pending := false, lag := true, gap := 0, frac := 0, begun := true }
      .next { s with
        core := { c with run := if c.run = .halted then .halted else .running
                         preReq := false, slipOnIssue := true, held := .none, sentRev := s.core.sentRev, preAt := 0 }
        region := if bitsAt r.rclk 59 4 = r.lockSrc then r else { r with st := .relock, locked := false, ended := s.web }
        feltTab := p.feltTab, webTab := p.webTab, hbmTab := p.hbmTab, gw := p.gw
        part := { s.part with parked := false, shadow := s.part.moved.head?, moved := s.part.moved.drop 1, resident := some p.entry
                              cores := p.cores, kernelLinks := p.kernelLinks }
        dev := { s.dev with place := p.place, active := p.active, inactive := p.inactive, deadExt := p.deadExt
                            followExt := p.followExt, saved := p.saved, savedExt := p.savedExt, mapUsed := p.mapUsed, homeTab := p.homeTab } }

/-! ## Resumption -/

/-- The runtime resumes a core that a resumable fault, a service call or a TRAP under TRES has stopped; in a service it may write the
core's registers first (21 R375, R379, 18 R336). -/
def execResume (wr : List (RegFile × BitVec 10 × BitVec 1024)) (s : State) : Out :=
  let inService := s.core.run == .trapped && s.core.trapRec.any (·.sysc)
  if wr ≠ [] ∧ !inService then .fault .notDue
  else
    let s := wr.foldl (fun (s : State) x => s.setRegister x.1 x.2.1 x.2.2) s
    match s.core.run, s.core.fault with
    | .trapped, _ => .next s.returnFrom
    | .faulted, some f => if f.resumes then .next s.returnFrom else .fault .notDue
    | _, _ => .fault .notDue

/-! ## The web clock -/

/-- Items whose web cycles count from the former initialisation of the web clock: what crosses to the region keeps its place, and the
images are from before (01 R17). -/
def Core.newWebClock (c : Core) (web : Nat) : Core :=
  { c with
    feltQ := [], feltLast := 0, feltGone := [], sendGone := [], reloadEnd := none, reamAt := 0, preAt := 0, trgAt := 0, sentRev := [], slotsHeld := [], idealSlots := [], turn := [], usedSlots := [], outgoing := [], forwarded := []
    xp := c.xp.map fun (p : Port) => { p with facts := p.facts.map fun f => (f.1 - web, f.2) }
    scntWeb := c.scntWeb.map (· - web)
    inbound := c.inbound.map fun x => { x with tau := x.tau - web }
    hist := c.hist.map fun x => { x with web := x.web - web }
    sendQ := c.sendQ.map fun f => { f with ready := f.ready - web } }

/-- The web clock starts on a reference: wheels, revolutions and beats count from here.  What is under way on the web side when it does,
after an abort say, the spec does not tell; the model drops felt packets, arrivals, module events, gateway cells and held HBM
slots, and keeps the flits in the send queue and what has reached the region (01 R17; assumption 85). -/
def State.newWebClock (s : State) (ref : BitVec 4) : State :=
  { s with
    web := 0, webRef := ref, starts := [], webPort := 0, gwPort := 0, gwSent := 0
    felt := [], arriving := [], agenda := [], gw := .reset
    region := { s.region with base := 0, newAt := 0, ended := 0 }
    part := { s.part with reamSent := [], reamPast := [], subAt := Vector.replicate 8 0, tfAt := 0 }
    reload := s.reload.map fun t => t - s.web
    dev := { s.dev with snapAt := s.dev.snapAt.map fun t => t - s.web, refused := []
                        waking := (s.dev.waking.map fun x => (x.1, x.2 - s.web)).filter fun x => x.2 != 0 }
    links := s.links.map fun l => { l with cut := l.cut.map fun t => t - s.web, newAt := 0
                                           recv := l.recv.map fun m => { m with due := m.due - s.web } }
    core := s.core.newWebClock s.web }

/-- A trained ream link is present: one that is TIMED or SLIPPED (01 R17, 10 R188). -/
def State.linkTrained (s : State) : Bool := s.links.any fun l => l.st == .timed || l.st == .slipped

/-- The mill cores initialise the web clock, on the fabric reference when a trained ream link is present and on the module reference
otherwise; with no kernel resident (01 R17, 05 R91, 09 R153). -/
def execWebClockInitialisation (trained : Bool) (s : State) : Out :=
  if s.part.resident.isSome ∨ trained ≠ s.linkTrained then .fault .notDue else .next (s.newWebClock (if trained then 8 else 9))

end Sys2Proof.Machine
end

