-- ==== Sys2Proof/Machine/LoadStore.lean ====
section
/-! DEFINITION. The memory instructions of the address units and MARK (12 R214 to R220, 17 R308). -/

namespace Sys2Proof.Machine

/-- The first lane and the number of lanes of an LDL or STL form (12 R217). -/
def ldlForm (w h : BitVec 2) : Nat × Nat :=
  match w.toNat with
  | 0 => (0, 32)
  | 1 => (16 * (h.toNat % 2), 16)
  | _ => (8 * h.toNat, 8)

/-- The first lane and the number of lanes of an LDB form (12 R220). -/
def ldbForm (w : BitVec 2) (f : BitVec 1) : Nat × Nat :=
  match w.toNat with
  | 0 => (0, 32)
  | 1 => (16 * f.toNat, 16)
  | 2 => (8 * f.toNat, 8)
  | _ => (16 + 8 * f.toNat, 8)

/-- The element sizes of LDB in bytes (12 R220). -/
def ldbBytes (e : BitVec 2) : Nat :=
  match e.toNat with
  | 0 => 4
  | 1 => 2
  | 2 => 1
  | _ => 8

/-- Bytes and sign extension of an LDS kind (12 R218). -/
def scalarKind (k : BitVec 4) : Nat × Bool :=
  match k.toNat with
  | 0 => (1, true)
  | 1 => (2, true)
  | 2 => (4, true)
  | 3 => (8, true)
  | 8 => (1, false)
  | 9 => (2, false)
  | _ => (4, false)

/-- The element sizes of LDG and STG in bytes (12 R219). -/
def gatherBytes (w : BitVec 2) : Nat :=
  match w.toNat with
  | 0 => 4
  | 1 => 2
  | _ => 1

/-- Places in the line and addresses of n bytes from an address, the first at place p. -/
def byteRun (p a n : Nat) : List (Nat × Nat) := (List.range n).map fun i => (p + i, a + i)

/-- The load of MLDW, which is an engine access (15 R282, 17 R311). -/
def LoadForm.isFetch (f : LoadForm) : Bool :=
  match f with
  | .wbuf _ => true
  | _ => false

/-- A load that passed its checks: it enters the load queue, and counts in the entry of a quire window access unless
it violates the share or reads a poisoned granule (07 R125, 09 R161, 05 R103). -/
def State.issueLoad (s : State) (slot : Nat) (ck : Checked) (bytes : Nat → List (Nat × Nat)) (form : LoadForm)
    (l : Landing) : State :=
  match ck with
  | .pad off =>
    let bs := bytes off
    let gs := granulesOf (bs.map (·.2))
    let (b0, d, c) := if form.isFetch then s.core.enginePhase gs else s.core.loadPhase gs
    { s with core := c }.pushLoad (b0 - 4) bs false false false form { l with due := b0 + d + 9 }
  | .quire k off zeros viol =>
    let bad := (bytes off).any fun b => s.core.poison.contains (poisonGran true b.2)
    let s := if viol || (bad && !zeros) then s else { s with core := s.core.touch k zeros }
    let i := { accessFault .violation slot .read k off with vkind := 1, word := s.core.slotWord slot }
    s.pushLoad s.core.cyc (bytes off) true zeros viol form
      { l with due := s.core.cyc + 18, bad := if viol then some i else none }
  | .bad _ => s

/-- A load of the quire window holds while its mirror reloads (09 R161, R170). -/
def State.reloadHolds (s : State) (ck : Checked) : Bool :=
  match ck with
  | .quire .. => s.reloads
  | _ => false

/-- The landing of a load into a register and the unit's load latch; its value is read later. -/
def loadLanding (u : BitVec 1) (f : RegFile) (dst : BitVec 10) (sel lsel : Line) : Landing :=
  { due := 0, seq := 0, slot := addrSlot u, file := some f, dst := dst, val := 0, sel := sel, flg := 0,
    latch := loadLatch u, lval := 0, lsel := lsel }

/-- The common course of a load: modifier, checks, hold, base update, queue (12 R214, R216). -/
def loadWith (u : BitVec 1) (g : BitVec 4) (n : BitVec 5) (m : BitVec 1) (size align : Nat)
    (bytes : State → Nat → List (Nat × Nat)) (form : LoadForm) (l : State → Landing) (s : State) : Out :=
  guarded g s fun s =>
    match s.newBase n m with
    | none => .next (s.takePrecise (.plain .illegalOperation (addrSlot u)))
    | some nb =>
      let va := s.core.r.readA n
      let ck := s.checkAccess (addrSlot u) va size align .read
      match ck with
      | .bad i => .next (s.takePrecise i)
      | ck =>
        if s.reloadHolds ck then .next (s.hold .mirrorReload)
        else .next ((s.bumpBase (addrSlot u) n nb).issueLoad (addrSlot u) ck (bytes s) form (l s))

/-- The common course of a store into the scratchpad (12 R214, R216, 17 R307). -/
def storeWith (u : BitVec 1) (g : BitVec 4) (n : BitVec 5) (m : BitVec 1) (size align : Nat)
    (cells : State → Nat → List Host.Cell) (s : State) : Out :=
  guarded g s fun s =>
    if s.blocked (.store []) then .next (s.hold .queueCap)
    else match s.newBase n m with
    | none => .next (s.takePrecise (.plain .illegalOperation (addrSlot u)))
    | some nb =>
      match s.checkAccess (addrSlot u) (s.core.r.readA n) size align .write with
      | .bad i => .next (s.takePrecise i)
      | .quire k _ _ _ => .next (s.takePrecise (accessFault .permission (addrSlot u) .write k (s.core.r.readA n).toNat))
      | .pad off => .next ((s.bumpBase (addrSlot u) n nb).enact (addrSlot u) (.store (cells s off)))

/-- LDL: a line of 128, 64 or 32 bytes into the lanes of its form (12 R217). -/
def execLdl (u : BitVec 1) (g : BitVec 4) (sf : BitVec 10) (n : BitVec 5) (m : BitVec 1) (w : BitVec 2) (t : BitVec 1)
    (h : BitVec 2) (s : State) : Out :=
  let f := ldlForm w h
  let sel := laneSel fun i => decide (f.1 ≤ i ∧ i < f.1 + f.2)
  loadWith u g n m (4 * f.2) (4 * f.2) (fun _ a => byteRun (4 * f.1) a (4 * f.2)) .line
    (fun _ => loadLanding u (lineFile t) sf sel sel) s

/-- STL: the lanes of its form to 128, 64 or 32 bytes (12 R217). -/
def execStl (u : BitVec 1) (g : BitVec 4) (sf : BitVec 10) (n : BitVec 5) (m : BitVec 1) (w : BitVec 2) (t : BitVec 1)
    (h : BitVec 2) (s : State) : Out :=
  let f := ldlForm w h
  storeWith u g n m (4 * f.2) (4 * f.2)
    (fun s a => cellsOf a (4 * f.2) ((s.srcLine t sf).toNat / 2 ^ (32 * f.1))) s

/-- LDS: a scalar, sign- or zero-extended; the rest of the latch is cleared (12 R218, 03 R37). -/
def execLds (u : BitVec 1) (g : BitVec 4) (d n : BitVec 5) (m : BitVec 1) (k : BitVec 4) (s : State) : Out :=
  let f := scalarKind k
  loadWith u g n m f.1 f.1 (fun _ a => byteRun 0 a f.1) (.scalar f.1 f.2)
    (fun _ => loadLanding u .a (BitVec.ofNat 10 d.toNat) (BitVec.allOnes 1024) (BitVec.allOnes 1024)) s

/-- STS: the low bytes of aS (12 R218). -/
def execSts (u : BitVec 1) (g : BitVec 4) (sf n : BitVec 5) (m : BitVec 1) (k : BitVec 4) (s : State) : Out :=
  let f := scalarKind k
  storeWith u g n m f.1 f.1 (fun s a => cellsOf a f.1 (s.core.r.readA sf).toNat) s

/-- The offset of element i of a gather or scatter from its base (12 R219). -/
def gatherOff (s : State) (k : BitVec 4) (b i : Nat) : Nat := b * (elem (s.core.r.readV k) (8 * b) i).toNat

/-- The addresses of the elements of a gather or scatter that lie outside the local window, the lowest-numbered first
(12 R214, R219).  The sum is exact (00 R3). -/
def gatherOut (s : State) (n : BitVec 5) (k : BitVec 4) (b : Nat) : List Nat :=
  ((List.range (128 / b)).map fun i => (s.core.r.readA n).toNat + gatherOff s k b i).filter fun va =>
    decide (Config.scratchBytes < va + b)

/-- The entry through which an address leads into the quire window, if it does. -/
def Core.quireEntry (c : Core) (va : Nat) : Option Nat :=
  match c.translate va with
  | .phys k _ pa => (quireOff pa).map fun _ => k
  | _ => none

/-- The address checks of a gather or scatter: the base's alignment, then every element's place; the record names the
address that fails (12 R214, R215, R219).  An element of a scatter in the quire window raises the permission fault, as 09 R159
says of STG, once no element is out of table (12 R214; assumption 76). -/
def gatherCheck (s : State) (u : BitVec 1) (n : BitVec 5) (k : BitVec 4) (b : Nat) (d : Doing) : Option FaultInfo :=
  let va := (s.core.r.readA n).toNat
  if va % b ≠ 0 then some (accessFault .misalignment (addrSlot u) d 0 va)
  else
    let out := gatherOut s n k b
    match out.find? fun x => d == .read || (s.core.quireEntry x).isNone with
    | some x => some (accessFault .outOfTable (addrSlot u) d 0 x)
    | none => out.head?.map fun x => accessFault .permission (addrSlot u) d ((s.core.quireEntry x).getD 0) x

/-- LDG: gather (12 R219). -/
def execLdg (u : BitVec 1) (g : BitVec 4) (v : BitVec 4) (n : BitVec 5) (m : BitVec 1) (w : BitVec 2) (k : BitVec 4)
    (s : State) : Out :=
  let b := gatherBytes w
  guarded g s fun s =>
    match s.newBase n m with
    | none => .next (s.takePrecise (.plain .illegalOperation (addrSlot u)))
    | some nb =>
      match gatherCheck s u n k b .read with
      | some i => .next (s.takePrecise i)
      | none =>
        let va := s.core.r.readA n
        let bytes := fun a => ((List.range (128 / b)).map fun i => byteRun (b * i) (a + gatherOff s k b i) b).flatten
        .next ((s.bumpBase (addrSlot u) n nb).issueLoad (addrSlot u) (.pad va.toNat) bytes .line
          (loadLanding u .v (BitVec.ofNat 10 v.toNat) (BitVec.allOnes 1024) (BitVec.allOnes 1024)))

/-- STG: scatter; of elements with one address the highest-numbered stands (12 R219). -/
def execStg (u : BitVec 1) (g : BitVec 4) (v : BitVec 4) (n : BitVec 5) (m : BitVec 1) (w : BitVec 2) (k : BitVec 4)
    (s : State) : Out :=
  let b := gatherBytes w
  guarded g s fun s =>
    if s.blocked (.store []) then .next (s.hold .queueCap)
    else match s.newBase n m with
    | none => .next (s.takePrecise (.plain .illegalOperation (addrSlot u)))
    | some nb =>
      match gatherCheck s u n k b .write with
      | some i => .next (s.takePrecise i)
      | none =>
        let a := (s.core.r.readA n).toNat
        let e := Eff.store ((List.range (128 / b)).map fun i =>
          cellsOf (a + gatherOff s k b i) b (elem (s.core.r.readV v) (8 * b) i).toNat).flatten
        .next ((s.bumpBase (addrSlot u) n nb).enact (addrSlot u) e)

/-- LDB: one element into every element of its form's lanes (12 R220). -/
def execLdb (u : BitVec 1) (g : BitVec 4) (sf : BitVec 10) (n : BitVec 5) (m : BitVec 1) (w : BitVec 2) (t f : BitVec 1)
    (e : BitVec 2) (s : State) : Out :=
  let r := ldbForm w f
  let sel := laneSel fun i => decide (r.1 ≤ i ∧ i < r.1 + r.2)
  loadWith u g n m (ldbBytes e) (ldbBytes e) (fun _ a => byteRun 0 a (ldbBytes e)) (.bcast (ldbBytes e))
    (fun _ => loadLanding u (lineFile t) sf sel sel) s

/-- MARK: later loads read after earlier queued stores, and later stores perform after earlier loads (17 R308). -/
def execMark (g : BitVec 4) (s : State) : Out :=
  guarded g s fun s =>
    let c := s.core
    .next { s with core := { c with minB0 := Nat.max c.minB0 (c.lastW + 1), minW := Nat.max c.minW (c.lastE + 1) } }

end Sys2Proof.Machine
end

