-- ==== Sys2Proof/Machine/Matrix.lean ====
section
/-! DEFINITION. The matrix engine: blocks, their fetch, the scale port, tiles and the weight buffer (15 R265 to R285). -/

namespace Sys2Proof.Machine

/-- An EXA element that a launch or a clear leaves: zero and valid (15 R265, R281). -/
def Exa.zero : Exa := { v := 0, tag := 0 }

/-- Element (row, col) of a tile. -/
def Matrix.el (m : Matrix) (t : BitVec 1) (i : Nat) : Exa := Tab.get Exa.zero m.tile (1024 * t.toNat + i)

/-- A tile with every element given by a function. -/
def Matrix.setTile (m : Matrix) (t : BitVec 1) (f : Nat → Exa) : Matrix :=
  let new := (List.range 1024).filterMap fun i =>
    let e := f i
    if e = Exa.zero then none else some (1024 * t.toNat + i, e)
  let kept := m.tile.filter fun k => k.1 / 1024 != t.toNat
  { m with tile := if t = 0 then new ++ kept else kept ++ new }

/-! ## Profiles and operand fetch -/

/-- The data path of a profile is the float tree (15 R266). -/
def isFloat (p : BitVec 6) : Bool := decide (8 ≤ p.toNat)

/-- FMT and the allowed GEOM of streams A and B of a profile (15 R266). -/
def profileStreams (p : BitVec 6) : Nat × List Nat × Nat × Nat :=
  match p.toNat with
  | 0 => (7, [0, 1], 7, 2)
  | 1 => (8, [0, 1], 8, 2)
  | 2 => (7, [0, 1], 8, 2)
  | 8 => (1, [0], 1, 0)
  | 9 => (2, [0], 2, 0)
  | _ => (0, [0], 0, 0)

/-- Cycles from issue to the next issue on the data path, and to the landing (15 R266). -/
def profileTiming (p : BitVec 6) : Nat × Nat :=
  match p.toNat with
  | 1 => (2, 9)
  | 8 | 9 => (16, 22)
  | 12 => (64, 70)
  | _ => (4, 9)

/-- The allowed demand D of a profile (15 R268). -/
def profileDemand (p : BitVec 6) : Nat := if p.toNat = 12 then 4 else 2

/-- The bytes of one row of 32 elements of a stream format (15 R268). -/
def rowBytes (fmt : Nat) : Nat := 4 * fmtBits fmt

/-- The address m·S0 past an address, in 48 bits (15 R268). -/
def rowAddr (a : Nat) (s0 : Int) (m : Nat) : Nat := (((a : Int) + m * s0) % 2 ^ 48).toNat

/-- The number of the block that a descriptor's indices name (15 R268). -/
def blockNumber (d : BitVec 512) : Nat :=
  ((List.range 6).reverse.foldl (fun acc k => stIdx d k + stCount d k * acc) 0) / 32

/-- The address of a block's scales (15 R268). -/
def scaleAddr (d : BitVec 512) : Nat := (((stSBase d : Int) + blockNumber d * stSStr d) % 2 ^ 48).toNat

/-- A byte of the weight buffer; addresses wrap (15 R269). -/
def wbyte (w : Memory) (a : Nat) : Nat := (Memory.byte w (a % Config.wbufBytes)).toNat

/-- n bytes of the weight buffer as a number. -/
def wbytes (w : Memory) (a : Nat) : Nat → Nat
  | 0 => 0
  | n + 1 => wbyte w a + 256 * wbytes w (a + 1) n

/-- The number of ones among the low n bits. -/
def popcount (x : Nat) : Nat → Nat
  | 0 => 0
  | n + 1 => popcount x n + x / 2 ^ n % 2

/-- What one weight-compressed block gives: its column, its scale byte, whether it is expanded as a void block, and the
bytes it takes (04 R70, R71, 15 R269). -/
structure Wcb where
  col : List Lane32
  eb : Byte
  bad : Bool
  size : Nat
deriving DecidableEq, Repr

/-- Read a weight-compressed block at a cursor; `q4` is the value width that the profile accepts (04 R70, R71). -/
def readWcb (w : Memory) (q4 : Bool) (cur : Nat) : Wcb :=
  let mask := wbytes w cur 4
  let kind := wbyte w (cur + 5)
  let isQ4 := kind == 2 || kind == 3
  let n := popcount mask 32
  let v := if isQ4 then (n + 1) / 2 else n
  let bad := decide (3 < kind) || ((kind == 0 || kind == 2) && mask != 0xFFFFFFFF) || isQ4 != q4
  let at_ := fun j => if isQ4 then wbyte w (cur + 6 + j / 2) / 16 ^ (j % 2) % 16 else wbyte w (cur + 6 + j)
  let col := (List.range 32).map fun i =>
    if bad || mask / 2 ^ i % 2 == 0 then (0 : Lane32)
    else BitVec.ofInt 32 (signedOf (if isQ4 then 4 else 8) (at_ (popcount mask i)))
  { col := col, eb := BitVec.ofNat 8 (wbyte w (cur + 4)), bad := bad, size := 6 + v + (6 + v) % 2 }

/-- n blocks in sequence from a cursor (15 R269). -/
def readWcbs (w : Memory) (q4 : Bool) (cur : Nat) : Nat → List Wcb
  | 0 => []
  | n + 1 => let b := readWcb w q4 cur; b :: readWcbs w q4 (cur + b.size) n

/-- Element k of a row of bytes in a format: sign-extended integers, floating-point codes as they stand. -/
def rowElem (fmt x k : Nat) : Lane32 :=
  let w := fmtBits fmt
  let e := x / 2 ^ (w * k) % 2 ^ w
  if fmt = 7 ∨ fmt = 8 then BitVec.ofInt 32 (signedOf w e) else BitVec.ofNat 32 e

/-- The 32 elements of a row. -/
def rowElems (fmt x : Nat) : List Lane32 := (List.range 32).map (rowElem fmt x)

/-! ## Block arithmetic -/

/-- The exact sum of a residue profile, by the channels (15 R271, 04 R74). -/
def residueDot : List Lane32 → List Lane32 → Residue
  | a :: t, b :: u =>
    Residue.add (Residue.mul (.ofInt a.toInt) (.ofInt b.toInt)) (residueDot t u)
  | _, _ => .ofInt 0

/-- The products of a row and a column of a float profile, or of a group of them; none when one of their elements is a NaN or
infinite (15 R271). -/
def products (f : Fmt) : List Lane32 → List Lane32 → Option (List (Bool × Nat × Int))
  | a :: t, b :: u =>
    match f.decode a.toNat, f.decode b.toNat, products f t u with
    | .num x m e, .num y n g, some l => some ((x != y, m * n, e + g) :: l)
    | _, _, _ => none
  | _, _ => some []

/-- The window sum of some products: significand, exponent, and whether a floor discarded a bit (15 R271). -/
def windowSum (win : Int) (ps : List (Bool × Nat × Int)) : Int × Int × Bool :=
  match ps.filter fun p => p.2.1 != 0 with
  | [] => (0, 0, false)
  | p :: t =>
    let top := (p :: t).foldl (fun x q => if x < magExp q.2.1 q.2.2 then magExp q.2.1 q.2.2 else x)
      (magExp p.2.1 p.2.2)
    let fs := (p :: t).map fun q => floorShift (signedMag q.1 q.2.1) (q.2.2 + win - top)
    ((fs.map (·.1)).foldl (· + ·) 0, top - win, fs.any (·.2))

/-- What a block does to one element: whether it marks it invalid, the finite contributions i·2^e that it adds, and whether a
window floor discarded a bit (15 R271). -/
structure Terms where
  inv : Bool
  adds : List (Int × Int)
  lost : Bool
deriving DecidableEq, Repr

/-- An element that only becomes invalid (assumption 24). -/
def Terms.void : Terms := { inv := true, adds := [], lost := false }

/-- The terms of one window of products: one contribution, or none from a window with a NaN or an infinity, which marks the
element invalid (15 R271; assumption 24). -/
def windowTerms (f : Fmt) (win : Int) (a b : List Lane32) : Terms :=
  match products f a b with
  | none => .void
  | some ps => let w := windowSum win ps; { inv := false, adds := [(w.1, w.2.1)], lost := w.2.2 }

/-- The terms of some windows together. -/
def joinTerms (ts : List Terms) : Terms :=
  { inv := ts.any (·.inv), adds := (ts.map (·.adds)).flatten, lost := ts.any (·.lost) }

/-- The terms of a float profile: one window of 32 products, or four of eight in profile 12 (15 R271). -/
def floatTerms (prof : BitVec 6) (a b : List Lane32) : Terms :=
  match prof.toNat with
  | 8 => windowTerms bf16 62 a b
  | 9 => windowTerms fp16 62 a b
  | _ => joinTerms ((List.range 4).map fun g => windowTerms fp32 94 ((a.drop (8 * g)).take 8) ((b.drop (8 * g)).take 8))

/-- The terms of element (m, n) of a block at its landing: of a residue block always one contribution, a code 0xFF in its applied entry
taken as the number 255 (15 R271, R274; assumption 24). -/
def Block.terms (b : Block) (m n : Nat) : Terms :=
  let row := nth [] b.a m
  let col := nth [] b.b n
  if isFloat b.prof then floatTerms b.prof row col
  else
    let sum := (residueDot row col).value
    let own := nth 0 b.ea m == 0xFF || nth 0 b.eb n == 0xFF || nth false b.bad n
    match b.scale with
    | none => { inv := own, adds := [(sum, 0)], lost := false }
    | some (e, bias) =>
      let x := nth 0 e.ea m
      let y := nth 0 e.eb n
      { inv := own || x == 0xFF || y == 0xFF, adds := [(sum, (x.toNat : Int) + y.toNat - 254 + bias.toInt)], lost := false }

/-- Add terms to an element, each with its own floor (15 R271, 04 R79). -/
def addTerms (anchor : Int) (x : Exa) : List (Int × Int) → Exa × Bool
  | [] => (x, false)
  | (i, e) :: t =>
    let r := x.addTerm anchor i e
    let u := addTerms anchor r.1 t
    (u.1, r.2 || u.2)

/-- A block lands in its tile (15 R266, R271, R272). -/
def Core.landBlock (c : Core) (b : Block) : Core :=
  let anchor := (c.mx.anchor[b.tile.toNat]).toInt
  let rs := (List.range 1024).map fun i =>
    let old := if b.z then Exa.zero else c.mx.el b.tile i
    let t := b.terms (i / 32) (i % 32)
    let r := addTerms anchor old t.adds
    (if t.inv then r.1.spoil else r.1, r.2 || t.lost)
  let mx := c.mx.setTile b.tile fun i => (nth (Exa.zero, false) rs i).1
  Core.setFlags { c with mx := mx, lateDue := c.raiseLate b.late } (b.flg ||| flagIf (rs.any (·.2)) xllFlag)

/-- A tile write lands (15 R280, R281). -/
def Matrix.landWrite (m : Matrix) (w : TileWrite) : Matrix :=
  match w.op with
  | .clear a =>
    let m := m.setTile w.tile fun _ => Exa.zero
    match a with
    | some x => { m with anchor := m.anchor.set w.tile.toNat x }
    | none => m
  | .chunk row c data =>
    let base := 32 * row.toNat
    if c.toNat < 8 then
      m.setTile w.tile fun i =>
        let old := m.el w.tile i
        if base + 4 * c.toNat ≤ i ∧ i < base + 4 * c.toNat + 4 then
          let v := elem data 256 (i - (base + 4 * c.toNat))
          { v := v, tag := if v = quirePoison then 1 else old.tag }
        else old
    else
      let m := m.setTile w.tile fun i =>
        let old := m.el w.tile i
        if base ≤ i ∧ i < base + 32 then { old with tag := storedTag (elem data 2 (i - base)) } else old
      { m with anchor := m.anchor.set w.tile.toNat (bitsAt data 64 16) }

/-- Blocks and tile writes due by the present cycle land.  Of a residue and a float block that land on one element together, the spec
fixes V and not the tag when only the sum between leaves the range: the model adds in issue order (15 R266, 04 R79, 15 R273;
assumption 98). -/
def Core.matrixLand (c : Core) : Core :=
  if c.frozen c.cyc then c
  else
    let (bs, later) := c.mx.blocks.partition fun b => decide (b.landAt ≤ c.cyc)
    let (ws, wait) := c.mx.writes.partition fun w => decide (w.due ≤ c.cyc)
    let c := { c with mx := { c.mx with blocks := later, writes := wait } }
    let c := bs.foldl Core.landBlock c
    { c with mx := ws.foldl Matrix.landWrite c.mx }

/-! ## What happens after issue in a cycle: the A fetch, the port, the queue -/

/-- A block reads some poisoned granule (21 R382). -/
def Core.blockPoisoned (c : Core) (b : Block) : Bool :=
  !c.poison.isEmpty && (granulesOf ((b.rows.map fun a => byteRun 0 a (rowBytes (profileStreams b.prof).1)).flatten.map (·.2)
    ++ (match b.scaleAt with
        | some a => [a]
        | none => []))).any fun g => c.poison.contains g

/-- The A operand of a block is read (15 R268); a poisoned granule gives the poison pattern (21 R382). -/
def State.fetchBlock (s : State) (b : Block) : Block :=
  let fmt := (profileStreams b.prof).1
  let n := rowBytes fmt
  let rd := fun (a k : Nat) => (List.range k).map fun i =>
    if s.core.poison.contains (poisonGran false (a + i)) then poisonByte (a + i) else Memory.byte s.core.scratch (a + i)
  let num := fun (l : List Byte) => elemsNat 8 (fun i => (nth 0 l i).toNat) l.length
  { b with
    late := if s.core.blockPoisoned b then some { FaultInfo.plain .uncorrectableData 5 with word := b.word } else b.late
    a := b.rows.map fun a => rowElems fmt (num (rd a n))
    ea := match b.scaleAt with
      | some a => rd a 32
      | none => List.replicate 32 127 }

/-- The block at the port takes the head entry and the bias of the MSC it met; without either it is unscaled and raises
MSS (15 R274). -/
def Block.meet (b : Block) (head : Option ScaleEntry) (msc : Option (BitVec 8)) : Block :=
  match head, msc with
  | some e, some bias => { b with scale := some (e, bias) }
  | _, _ => { b with flg := b.flg ||| mssFlag }

/-- The matrix engine after issue in the present cycle: A fetches, then the port's removal, then the allocation
(15 R268, R274). -/
def State.matrixFinish (s : State) : State :=
  let c := s.core
  if c.frozen (c.cyc + 1) then { s with core := { c with mx := { c.mx with msc := none } } }
  else
    let now := c.cyc
    let bs := c.mx.blocks.map fun b => if b.readAt = now then s.fetchBlock b else b
    let atPort := bs.any fun b => !isFloat b.prof && b.portAt == now
    let bs := bs.map fun b => if !isFloat b.prof ∧ b.portAt = now then b.meet c.mx.scaleq.head? c.mx.msc else b
    let q := if atPort || c.mx.msc.isSome then c.mx.scaleq.drop 1 else c.mx.scaleq
    let new := (bs.filter fun b => !isFloat b.prof && b.allocAt == now).map fun b =>
      ({ ea := b.ea, eb := b.eb } : ScaleEntry)
    { s with core := { c with
        mx := { c.mx with blocks := bs, scaleq := q ++ new, msc := none } } }

/-! ## Instructions -/

/-- The precise fault of an MMA, by the checks of R270 in order. -/
def State.mmaFault (s : State) (a b : BitVec 4) (p : BitVec 6) : Option FaultInfo :=
  let da := s.core.r.readSt a
  let db := s.core.r.readSt b
  let (fa, ga, fb, gb) := profileStreams p
  let r := rowBytes fa
  let addr := stAddr da
  let addrB := stAddr db
  let odd := fun va => some (accessFault .misalignment 5 .read 0 va)
  let rows := (List.range 32).map (rowAddr addr (stStride da 0))
  let sc := scaleAddr da
  if stFmt da ≠ fa ∨ !ga.contains (stGeom da) ∨ stFmt db ≠ fb ∨ stGeom db ≠ gb then some (.plain .illegalOperation 5)
  else if stIdx da 0 % 32 ≠ 0 ∨ addr % r ≠ 0 ∨ stStride da 0 % r ≠ 0 then odd addr
  else if gb = 0 ∧ (stIdx db 0 % 32 ≠ 0 ∨ addrB % r ≠ 0 ∨ stStride db 0 % r ≠ 0) then odd addrB
  else if stGeom da = 1 ∧ sc % 32 ≠ 0 then odd sc
  else match rows.find? fun x => decide (Config.scratchBytes < x + r) with
    | some x => some (accessFault .outOfTable 5 .read 0 x)
    | none =>
      if stGeom da = 1 ∧ Config.scratchBytes < sc + 32 then some (accessFault .outOfTable 5 .read 0 sc) else none

/-- The weight buffer as a fetch reads it: the poison pattern in every poisoned granule (21 R382). -/
def Core.wbufSeen (c : Core) : Memory :=
  (c.poison.filter fun g => decide (2 ^ 21 ≤ g ∧ g < 2 ^ 22)).foldl
    (fun m g => Memory.writeNat m (32 * (g - 2 ^ 21)) 32 (elemsNat 32 (fun _ => 0x7FC00000) 8)) c.wbuf

/-- Some of n bytes of the weight buffer lie in a poisoned granule; addresses wrap (15 R269, 21 R382). -/
def Core.wbufPoisoned (c : Core) (a n : Nat) : Bool :=
  !c.poison.isEmpty && (List.range n).any fun i => c.poison.contains (2 ^ 21 + (a + i) % Config.wbufBytes / 32)

/-- The block that an MMA issues in the present cycle, and the delay δ (15 R268, R269, R274). -/
def State.newBlock (s : State) (a b : BitVec 4) (t : BitVec 1) (p : BitVec 6) (z : Bool) : Block × Nat × Core × Nat :=
  let c := s.core
  let da := c.r.readSt a
  let db := c.r.readSt b
  let fmt := (profileStreams p).1
  let rows := (List.range 32).map (rowAddr (stAddr da) (stStride da 0))
  let scale := if stGeom da = 1 then some (scaleAddr da) else none
  let gs := distinct ((rows.map fun x => granulesFrom x (rowBytes fmt)).flatten
    ++ (match scale with
        | some x => granulesFrom x 32
        | none => []))
  let (b0, d, fetched) := c.enginePhase gs
  let dl := b0 - (c.cyc + 4) + (d - profileDemand p)
  let wb := c.wbufSeen
  let ws := if stGeom db = 2 then readWcbs wb (p.toNat ≠ 0) (stBase db) 32 else []
  let rowAt := fun n => rowAddr (stAddr db) (stStride db 0) n
  let raw := fun n => rowElems fmt (wbytes wb (rowAt n) (rowBytes fmt))
  let used := (ws.map (·.size)).foldl (· + ·) 0
  let bad := if stGeom db = 2 then c.wbufPoisoned (stBase db) used
    else (List.range 32).any fun n => c.wbufPoisoned (rowAt n) (rowBytes fmt)
  let blk : Block :=
    { seq := c.seqNo, tile := t, z := z, prof := p, readAt := b0 - 4, rows := rows, scaleAt := scale, a := [], ea := [],
      b := if stGeom db = 2 then ws.map (·.col) else (List.range 32).map raw
      eb := ws.map (·.eb), bad := ws.map (·.bad), flg := flagIf (ws.any (·.bad)) wcbeFlag
      allocAt := c.cyc + 3 + dl, portAt := c.cyc + 7 + dl, landAt := c.cyc + (profileTiming p).2 + dl, scale := none
      word := c.slotWord 5
      late := if bad then some { FaultInfo.plain .uncorrectableData 5 with word := c.slotWord 5 } else none }
  (blk, dl, fetched, used)

/-- BASE of a weight-compressed stream after some bytes: its low 17 bits move on within the weight buffer; BASE is one
destination (15 R270, 12 R228). -/
def baseAdvanced (d : BitVec 512) (bytes : Nat) : Line :=
  BitVec.ofNat 1024 (stBase d / Config.wbufBytes * Config.wbufBytes + (stBase d + bytes) % Config.wbufBytes)

/-- The bits of the BASE field. -/
def baseSel : Line := BitVec.ofNat 1024 (2 ^ 48 - 1)

/-- The advance of stream A, and of stream B by 32 steps or by the bytes its blocks took (15 R270). -/
def State.advanceStreams (s : State) (a b : BitVec 4) (y hx : BitVec 1) (bytes : Nat) : State :=
  let da := s.core.r.readSt a
  let db := s.core.r.readSt b
  let s := if hx = 0 then s.pushStream 5 a (stAdvanced da 0 32) idxSel else s
  if y = 1 then s
  else if stGeom db = 2 then
    s.pushStream 5 b (baseAdvanced db bytes) baseSel
  else if a = b ∧ hx = 0 then s
  else s.pushStream 5 b (stAdvanced db 0 32) idxSel

/-- The next free issue cycle of a profile's data path (15 R275). -/
def Matrix.pathFree (m : Matrix) (p : BitVec 6) : Nat := if isFloat p then m.fltFree else m.resFree

/-- A block issues: it takes its data path and is in flight to its tile. -/
def State.issueBlock (s : State) (a b : BitVec 4) (t : BitVec 1) (p : BitVec 6) (y hx : BitVec 1) (z : Bool) : State :=
  let (blk, dl, c, bytes) := s.newBlock a b t p z
  let free := s.core.cyc + (profileTiming p).1 + dl
  let mx := { c.mx with
    blocks := c.mx.blocks ++ [blk]
    resFree := if isFloat p then c.mx.resFree else free
    fltFree := if isFloat p then free else c.mx.fltFree }
  State.advanceStreams { s with core := { c with mx := mx, seqNo := c.seqNo + 1 } } a b y hx bytes

/-- MMA: add a block to a tile (15 R277). -/
def execMma (g : BitVec 4) (a b : BitVec 4) (t : BitVec 1) (p : BitVec 6) (y hx : BitVec 1) (s : State) : Out :=
  guarded g s fun s =>
    if s.core.cyc < s.core.mx.pathFree p then .next (s.hold .busyBit)
    else match s.mmaFault a b p with
      | some i => .next (s.takePrecise i)
      | none => .next (s.issueBlock a b t p y hx false)

/-- MMAZ: replace a tile by a block; it waits for its tile (15 R272, R276). -/
def execMmaz (g : BitVec 4) (a b : BitVec 4) (t : BitVec 1) (p : BitVec 6) (y hx : BitVec 1) (s : State) : Out :=
  guarded g s fun s =>
    if s.core.cyc < s.core.mx.pathFree p || s.core.mx.busy t then .next (s.hold .busyBit)
    else match s.mmaFault a b p with
      | some i => .next (s.takePrecise i)
      | none => .next (s.issueBlock a b t p y hx true)

/-- A reader or writer of a tile waits for what is in flight to it (15 R276). -/
def tileGuard (g : BitVec 4) (t : BitVec 1) (k : State → Out) (s : State) : Out :=
  guarded g s fun s => if s.core.mx.busy t then .next (s.hold .busyBit) else k s

/-- MRD: a row rounded into a plane line and `lmx`, at c+6 (15 R279). -/
def execMrd (g : BitVec 4) (t : BitVec 1) (r : BitVec 5) (l : BitVec 10) (f : BitVec 3) (e : BitVec 2) (s : State) : Out :=
  tileGuard g t (fun s =>
    let m := s.core.mx
    let rs := (List.range 32).map fun n =>
      (m.el t (32 * r.toNat + n)).readout (m.anchor[t.toNat]).toInt f.toNat e.toNat
    .next (s.pushLine 5 6 (some .plane) l (ofElems 32 32 fun n => (nth (quiet 0) rs n).v) (BitVec.allOnes 1024)
      (orFlags (rs.map (·.f))) .lmx)) s

/-- A chunk of a row as MRDX reads it (04 R81, 15 R280). -/
def Matrix.readChunk (m : Matrix) (t : BitVec 1) (r : BitVec 5) (c : BitVec 4) : Line :=
  if c.toNat < 8 then ofElems 256 4 fun e => (m.el t (32 * r.toNat + 4 * c.toNat + e)).v.toNat
  else BitVec.ofNat 1024 (elemsNat 2 (fun n => (m.el t (32 * r.toNat + n)).tag.toNat) 32
    + (m.anchor[t.toNat]).toNat * 2 ^ 64)

/-- MRDX: a raw chunk into vN and `lmx`, at c+3 (15 R280). -/
def execMrdx (g : BitVec 4) (t : BitVec 1) (r : BitVec 5) (v : BitVec 4) (c : BitVec 4) (s : State) : Out :=
  tileGuard g t (fun s =>
    .next (s.pushLine 5 3 (some .v) (BitVec.ofNat 10 v.toNat) (s.core.mx.readChunk t r c) (BitVec.allOnes 1024) 0 .lmx)) s

/-- A tile write is in flight for n cycles. -/
def State.pushTile (s : State) (n : Nat) (t : BitVec 1) (op : TileOp) : State :=
  let m := s.core.mx
  let w : TileWrite := { due := s.core.cyc + n, tile := t, op := op }
  { s with core := { s.core with mx := { m with writes := m.writes ++ [w] } } }

/-- MWRX: a raw chunk from vN into a row, at c+2 (15 R280). -/
def execMwrx (g : BitVec 4) (t : BitVec 1) (r : BitVec 5) (v : BitVec 4) (c : BitVec 4) (s : State) : Out :=
  tileGuard g t (fun s => .next (s.pushTile 2 t (.chunk r c (s.core.r.readV v)))) s

/-- MCLR: a tile cleared at c+1; its anchor stays (15 R281). -/
def execMclr (g : BitVec 4) (t : BitVec 1) (s : State) : Out :=
  tileGuard g t (fun s => .next (s.pushTile 1 t (.clear none))) s

/-- MANC: a tile cleared and its anchor set, at c+1 (15 R281). -/
def execManc (g : BitVec 4) (t : BitVec 1) (a : BitVec 16) (s : State) : Out :=
  tileGuard g t (fun s => .next (s.pushTile 1 t (.clear (some a)))) s

/-- MLDW: 128 bytes at a stream's address into the weight buffer at the landing of the same load (15 R282). -/
def execMldw (g : BitVec 4) (sf : BitVec 4) (f : BitVec 12) (s : State) : Out :=
  guarded g s fun s =>
    let d := s.core.r.readSt sf
    let va : Word := BitVec.ofNat 64 (stAddr d)
    if 4092 < f.toNat then .next (s.takePrecise (.plain .illegalOperation 5))
    else match s.checkAccess 5 va 128 128 .read with
    | .bad i => .next (s.takePrecise i)
    | ck =>
      if s.reloadHolds ck then .next (s.hold .mirrorReload)
      else
        let l : Landing := { due := 0, seq := 0, slot := 5, file := none, dst := 0, val := 0, sel := 0, flg := 0,
                             latch := .none, lval := 0, lsel := 0 }
        .next ((s.pushStream 5 sf (stAdvanced d 0 (1024 / fmtBits (stFmt d))) idxSel).issueLoad 5 ck
          (fun a => byteRun 0 a 128) (.wbuf (32 * f.toNat)) l)

/-- MSC: the bias for the block at the port in this cycle (15 R278). -/
def execMsc (g : BitVec 4) (b : BitVec 8) (s : State) : Out :=
  guarded g s fun s => .next { s with core := { s.core with mx := { s.core.mx with msc := some b } } }

end Sys2Proof.Machine
end

