-- ==== Sys2Proof/Machine/Permute.lean ====
section
/-! DEFINITION. Permutes, moves, selection and lane masks (13 R244 to R248). -/

namespace Sys2Proof.Machine

/-- The byte that VPERM puts at a place: zero for an index byte with bit 7 set or past the operation (13 R244). -/
def permByte (z : BitVec 3) (x y : Line) (i : Nat) : Nat :=
  let v := opElem z y 8 i
  if 128 ≤ v ∨ 4 * lanesOf z ≤ v then 0 else opElem z x 8 v

/-- The illegal-operation fault of a lane number past the operation (13 R245). -/
def badLane (u : BitVec 1) (s : State) : Out := .next (s.takePrecise (.plain .illegalOperation (vecSlot u)))

/-- VPERM: bytes of vA chosen by the bytes of vB, at c+3 (13 R244). -/
def execVperm (u : BitVec 1) (g : BitVec 4) (d : BitVec 4) (w : BitVec 1) (a : BitVec 5) (b : BitVec 5) (z : BitVec 3) (k : BitVec 3) (s : State) : Out :=
  vec2 u g d w a b 3 (fun s x y => lanesOut z (s.core.r.readK k) fun i =>
    quiet (elemsNat 8 (fun j => permByte z x y (4 * i + j)) 4)) s

/-- A lane move of one source under a write mask: lane i takes lane `f i` (13 R245). -/
def laneMove (u : BitVec 1) (g : BitVec 4) (d : BitVec 4) (w : BitVec 1) (a : BitVec 5) (z : BitVec 3) (k : BitVec 3)
    (f : Nat → Nat) (s : State) : Out :=
  vec1 u g d w a 3 (fun s x => lanesOut z (s.core.r.readK k) fun i => quiet (opLane z x (f i)).toNat) s

/-- A lane move of two sources under a write mask (13 R245). -/
def laneMove2 (u : BitVec 1) (g : BitVec 4) (d : BitVec 4) (w : BitVec 1) (a b : BitVec 5) (z : BitVec 3) (k : BitVec 3)
    (f : Line → Line → Nat → Lane32) (s : State) : Out :=
  vec2 u g d w a b 3 (fun s x y => lanesOut z (s.core.r.readK k) fun i => quiet (f x y i).toNat) s

/-- VBCST: lane j in every lane (13 R245). -/
def execVbcst (u : BitVec 1) (g : BitVec 4) (d : BitVec 4) (w : BitVec 1) (a : BitVec 5) (j : BitVec 5) (z : BitVec 3) (k : BitVec 3) (s : State) : Out :=
  if lanesOf z ≤ j.toNat then badLane u s else laneMove u g d w a z k (fun _ => j.toNat) s

/-- VXCH: lane i takes lane i exclusive-or j (13 R245). -/
def execVxch (u : BitVec 1) (g : BitVec 4) (d : BitVec 4) (w : BitVec 1) (a : BitVec 5) (j : BitVec 5) (z : BitVec 3) (k : BitVec 3) (s : State) : Out :=
  if lanesOf z ≤ j.toNat then badLane u s else laneMove u g d w a z k (fun i => i ^^^ j.toNat) s

/-- VZIP: the lanes of the lower halves, interleaved (13 R245). -/
def execVzip (u : BitVec 1) (g : BitVec 4) (d : BitVec 4) (w : BitVec 1) (a : BitVec 5) (b : BitVec 5) (z : BitVec 3) (k : BitVec 3) (s : State) : Out :=
  laneMove2 u g d w a b z k (fun x y i => if i % 2 = 0 then opLane z x (i / 2) else opLane z y (i / 2)) s

/-- VUZP: the even lanes of both (13 R245). -/
def execVuzp (u : BitVec 1) (g : BitVec 4) (d : BitVec 4) (w : BitVec 1) (a : BitVec 5) (b : BitVec 5) (z : BitVec 3) (k : BitVec 3) (s : State) : Out :=
  laneMove2 u g d w a b z k (fun x y i =>
    if i < lanesOf z / 2 then opLane z x (2 * i) else opLane z y (2 * (i - lanesOf z / 2))) s

/-- VMOV: a copy (13 R245). -/
def execVmov (u : BitVec 1) (g : BitVec 4) (d : BitVec 4) (w : BitVec 1) (a : BitVec 5) (z : BitVec 3) (k : BitVec 3) (s : State) : Out :=
  laneMove u g d w a z k id s

/-- VPMOV: a plane line from a register, or a register from a plane line, at c+3 (13 R246). -/
def execVpmov (u : BitVec 1) (g : BitVec 4) (p : BitVec 10) (v : BitVec 4) (r : BitVec 1) (z : BitVec 3) (k : BitVec 3) (s : State) : Out :=
  guarded g s fun s =>
    let m := s.core.r.readK k
    let src := if r = 0 then s.core.r.readV v else s.core.r.readPlane p
    let out := lanesOut z m fun i => quiet (opLane z src i).toNat
    let dst := if r = 0 then p else BitVec.ofNat 10 v.toNat
    .next (s.pushLine (vecSlot u) 3 (some (lineFile r)) dst out.val out.sel 0 (vecLatch u))

/-- VSEL: lanes of vA where the selector is 1, of vB elsewhere, at c+2 (13 R247). -/
def execVsel (u : BitVec 1) (g : BitVec 4) (d : BitVec 4) (w : BitVec 1) (a : BitVec 5) (b : BitVec 5) (z : BitVec 3) (k : BitVec 3) (s : State) : Out :=
  vec2 u g d w a b 2 (fun s x y => lanesOut z 0xFFFFFFFF fun i =>
    quiet (if bitAt (s.core.r.readK k) (firstLane z + i) then opLane z x i else opLane z y i).toNat) s

/-- KAND (13 R248). -/
def execKand (u : BitVec 1) (g : BitVec 4) (d : BitVec 3) (w : BitVec 1) (a : BitVec 3) (b : BitVec 3) (z : BitVec 3) (s : State) : Out :=
  maskK u g d w a b z (fun x y => x && y) s

/-- KOR (13 R248). -/
def execKor (u : BitVec 1) (g : BitVec 4) (d : BitVec 3) (w : BitVec 1) (a : BitVec 3) (b : BitVec 3) (z : BitVec 3) (s : State) : Out :=
  maskK u g d w a b z (fun x y => x || y) s

/-- KXOR (13 R248). -/
def execKxor (u : BitVec 1) (g : BitVec 4) (d : BitVec 3) (w : BitVec 1) (a : BitVec 3) (b : BitVec 3) (z : BitVec 3) (s : State) : Out :=
  maskK u g d w a b z (fun x y => x != y) s

/-- KMOV form 0: a copy (13 R248). -/
def execKmov (u : BitVec 1) (g : BitVec 4) (d : BitVec 3) (w : BitVec 1) (a : BitVec 3) (z : BitVec 3) (s : State) : Out :=
  maskK u g d w a a z (fun x _ => x) s

/-- KMOV form 1: where lanes are nonzero (13 R248). -/
def execKmovNz (u : BitVec 1) (g : BitVec 4) (d : BitVec 3) (w : BitVec 1) (a : BitVec 5) (z : BitVec 3) (s : State) : Out :=
  mask2 u g d w a a z (fun x _ => (decide (x ≠ 0), 0)) s

/-- KMOV form 2: the bits of operation lane 0 (13 R248). -/
def execKmovBits (u : BitVec 1) (g : BitVec 4) (d : BitVec 3) (w : BitVec 1) (a : BitVec 5) (z : BitVec 3) (s : State) : Out :=
  guarded g s fun s =>
    if s.waitsV a then .next (s.hold .queueHead)
    else .next (s.pushMask u w d z (fun i => bitAt (opLane z (s.srcV a) 0) (firstLane z + i)) 0)

end Sys2Proof.Machine
end

