-- ==== Sys2Proof/Machine/Registers.lean ====
section
/-! DEFINITION. The device registers and the mill cores' accesses (05 R88, R89, 17 R316, 00 R9). -/

namespace Sys2Proof.Machine

/-! ## Where an offset leads -/

/-- A device register. -/
inductive Reg where
  /-- of the modelled core: offset within its block -/
  | core (off : Nat)
  /-- RVREG of the modelled core's region -/
  | rvreg
  /-- SLP of a sheet -/
  | slp (sheet : Nat)
  /-- doubleword of the gateway snapshot of the modelled core's sheet -/
  | gateway (n : Nat)
  /-- of a link or a channel: number, offset -/
  | link (n off : Nat)
  | channel (n off : Nat)
  /-- of the partition: offset within its block -/
  | part (off : Nat)
  | device (off : Nat)
  /-- of another core, region, sheet or partition -/
  | other
  /-- listed by no table -/
  | reserved
deriving DecidableEq, Repr

/-- The physical region of the core: 4s + q (05 R89). -/
def State.physRegion (s : State) : Nat :=
  4 * s.core.sheet.toNat + s.torusPos % 8 / 4 + 2 * (s.torusPos / 32)

/-- An offset within a core's block that the table lists (05 R89). -/
def coreListed (o : Nat) : Bool := decide (o < 0x4820) || decide (0x5000 ≤ o ∧ o < 0x5190) || decide (0x8000 ≤ o ∧ o < 0xA400)

/-- An offset within a logical region's part of a partition's block that the table lists (05 R89). -/
def regionListed (o : Nat) : Bool := decide (o < 0x30) || decide (0x1000 ≤ o ∧ o < 0x5000)

/-- An offset within a partition's block that the table lists, PCTL aside, which reads as zero (05 R89). -/
def partListed (o : Nat) : Bool :=
  decide (o < 0x400) || decide (0x408 ≤ o ∧ o < 0x428) || (decide (0x10000 ≤ o ∧ o < 0x310000) && regionListed ((o - 0x10000) % 0x8000))

/-- The register at an offset of the device-register range (05 R89). -/
def State.regAt (s : State) (off : Nat) : Reg :=
  let sheet := s.core.sheet.toNat
  if off < 0x6C000000 then
    (if off / 0x100000 = s.physCore then .core (off % 0x100000) else if coreListed (off % 0x100000) then .other else .reserved)
  else if 0x100000000 ≤ off ∧ off < 0x100060000 then
    (if off % 0x1000 ≠ 0 then .reserved else if (off - 0x100000000) / 0x1000 = s.physRegion then .rvreg else .other)
  else if 0x110000000 ≤ off ∧ off < 0x110180000 then
    let n := (off - 0x110000000) / 0x10000
    let o := off % 0x10000
    if o = 0 then .slp n
    else if 0x100 ≤ o ∧ o < 0x208 then (if n = sheet then .gateway ((o - 0x100) / 8) else .other)
    else .reserved
  else if 0x120000000 ≤ off ∧ off < 0x120010000 then .link ((off - 0x120000000) / 0x1000) (off % 0x1000)
  else if 0x130000000 ≤ off ∧ off < 0x130180000 then .channel ((off - 0x130000000) / 0x1000) (off % 0x1000)
  else if 0x200000000 ≤ off ∧ off < 0x218000000 then
    (if (off - 0x200000000) / 0x400000 = s.part.number.toNat then .part (off % 0x400000)
     else if partListed (off % 0x400000) then .other else .reserved)
  else if 0x300000000 ≤ off ∧ off < 0x300030000 then .device (off - 0x300000000)
  else .reserved

/-! ## The snapshot buffer -/

/-- FILE of a snapshot entry (21 R381). -/
def fileCode : RegFile → Nat
  | .a => 0
  | .m => 1
  | .v => 2
  | .p => 3
  | .k => 4
  | .plane => 5
  | .st => 6
  | .tc => 6
  | .special => 7

/-- MASK: bit i is set when lane i is written; of a k register, whose lanes are its bits, when bit i is (21 R381, 03 R40). -/
def laneMask (file : Option RegFile) (sel : Line) : Nat :=
  if file = some .k then sel.toNat % 2 ^ 32 else elemsNat 1 (fun i => if lane sel i = 0 then 0 else 1) 32

/-- A snapshot entry of 1,152 bits (21 R381). -/
def snapEntry (l : Landing) (rem : Nat) : Nat :=
  let v := match l.file with
    | some _ => l.val
    | none => l.lval
  let sel := match l.file with
    | some _ => l.sel
    | none => l.lsel
  let fc := match l.file with
    | some f => fileCode f
    | none => 0
  v.toNat * 2 ^ 128 + laneMask l.file sel * 2 ^ 96 + rem % 2 ^ 16 * 2 ^ 80 + l.flg.toNat * 2 ^ 71 + b2n l.file.isNone * 2 ^ 70
    + l.slot % 8 * 2 ^ 67 + fc * 2 ^ 64 + l.dst.toNat

/-- A fault or a debug halt has stopped the core; a fault that has aborted the kernel has too (21 R381, 05 R89). -/
def Core.stopped (c : Core) : Bool := c.run == .debugHalted || c.run == .faulted || (c.run == .aborted && c.fault.isSome)

/-- The load writes a register or a latch (12 R219). -/
def LoadForm.lands : LoadForm → Bool
  | .wbuf _ => false
  | _ => true

/-- The snapshot buffer: after a rollback the mark snapshot, otherwise the results in flight where a precise fault or a debug
halt has stopped the core; the result of a load that has not read has its entry, and its VAL when it has (21 R381). -/
def Core.snapBuffer (c : Core) : List Nat :=
  if !c.stopped then []
  else
    let unread := c.loads.filter fun l => !l.done && l.form.lands
    if c.late then
      (c.mark.snap.map fun l => snapEntry l (l.due - c.mark.cyc))
        ++ (unread.filterMap fun l => l.markRem.map fun n => snapEntry l.land n)
    else
      let f := c.stopAt.getD c.cyc
      (c.land.map fun l => snapEntry l (l.due - f)) ++ unread.map fun l => snapEntry l.land (l.land.due - f)

/-! ## Reading -/

/-- PSTAT (19 R345). -/
def Partition.pstat (p : Partition) : Nat :=
  b2n p.tf * 2 ^ 38 + p.tcode.toNat * 2 ^ 29 + p.cause.toNat * 2 ^ 24 + elemsNat 3 (fun e => (p.stOf e).toNat) 8

/-- STATE of RCLK (20 R354). -/
def Synth.code : Synth → Nat
  | .off => 0
  | .acq => 1
  | .track => 2
  | .limit => 3
  | .hold => 4
  | .frozen => 5
  | .relock => 6

/-- A register of a core's block (05 R89).  An entry's low doubleword reads as it was until the high one is written with it (05 R104;
assumption 84). -/
def State.coreReg (s : State) (o : Nat) : Nat :=
  let c := s.core
  if o < 0x4000 then (elem (Tab.get 0 c.xlat (o / 16)) 64 (o / 8 % 2)).toNat
  else if o < 0x4800 then (Tab.get 0 c.caps ((o - 0x4000) / 8)).toNat
  else if o < 0x4820 then ((c.frec[(o - 0x4800) / 8]?).getD 0).toNat
  else if 0x5000 ≤ o ∧ o < 0x5190 then (Tab.get 0 s.dev.snap ((o - 0x5000) / 8)).toNat
  else if 0x8000 ≤ o ∧ o < 0xA400 then
    let i := (o - 0x8000) / 8
    natBits (nth 0 c.snapBuffer (i / 18)) (64 * (i % 18)) 64
  else 0

/-- A doubleword of a crossing port's weight table (20 R365). -/
def Port.weights (p : Port) (i : Nat) : Nat := (Tab.get 0 p.xw (2 * i)).toNat + 2 ^ 32 * (Tab.get 0 p.xw (2 * i + 1)).toNat

/-- A register of the modelled core's logical region, at an offset within the region's part of the partition block (05 R89). -/
def State.regionReg (s : State) (o : Nat) : Nat :=
  let r := s.region
  if o = 0 then (setBits r.rclk 0 3 r.st.code).toNat
  else if o = 8 then r.rnom.toNat
  else if 0x10 ≤ o ∧ o < 0x30 then ((s.core.xp[(o - 0x10) / 8]?).map fun (p : Port) => p.cfg.toNat).getD 0
  else if 0x1000 ≤ o ∧ o < 0x5000 then
    ((s.core.xp[o / 0x1000 - 1]?).map fun (p : Port) => p.weights (o % 0x1000 / 8)).getD 0
  else 0

/-- A register of the partition's block, its meter aside (05 R89). -/
def State.partReg (s : State) (o : Nat) : Nat :=
  let p := s.part
  if o < 0x400 then (Tab.get 0 p.entry (o / 8)).toNat
  else if o = 0x408 then p.pstat
  else if o = 0x410 then b2n p.parked * 4
  else if o = 0x418 then p.capw.toNat
  else if 0x10000 ≤ o ∧ o < 0x310000 then
    (if (o - 0x10000) / 0x8000 = s.core.region then s.regionReg ((o - 0x10000) % 0x8000) else (Tab.get 0 p.regs (o / 8)).toNat)
  else 0

/-- Place of entry i of a log of 256, newest first, after n entries have been logged (05 R89). -/
def logPlace (n i : Nat) : Nat := (n + 255 - i) % 256

/-- A register of the device block, its meter aside (05 R89). -/
def State.devReg (s : State) (o : Nat) : Nat :=
  let d := s.dev
  if o = 0x8 then d.mcap.toNat
  else if o = 0x18 then (d.vlogN + 255) % 256 * b2n (decide (0 < d.vlogN))
  else if o = 0x20 then (d.thlogN + 255) % 256 * b2n (decide (0 < d.thlogN))
  else if 0x100 ≤ o ∧ o < 0x200 then ((d.err[(o - 0x100) / 8]?).getD 0).toNat
  else if 0x10000 ≤ o ∧ o < 0x11000 then
    let x := nth (0, 0) d.vlogB (logPlace d.vlogN ((o - 0x10000) / 16))
    if o / 8 % 2 = 0 then x.1.toNat else x.2.toNat
  else if 0x20000 ≤ o ∧ o < 0x21000 then
    let x := nth (0, 0) d.thlog (logPlace d.thlogN ((o - 0x20000) / 16))
    if o / 8 % 2 = 0 then x.1.toNat else x.2.toNat
  else 0

/-- A reading of a meter: what has been charged since the last one is free (22 R398; assumption 30). -/
def State.meter (s : State) (old : Nat) : Nat × State :=
  let (x, s) := s.draw
  (old + x, s)

/-- PPRE PARKED as a read finds it: once this core of a kernel is parked, whether the other cores are is free until it reads so (21
R387; assumption 2). -/
def State.learnParked (s : State) : State :=
  if s.core.run = .parked ∧ s.part.resident.isSome ∧ s.part.shadow.isSome then
    let (x, s) := s.drawBelow 2
    if x = 1 then s.allParked else s
  else s

/-- What a read of a register returns, and what it does (05 R89, 00 R9).  What another core, region, sheet or partition holds, and the
state of the synthesiser of another region, is free (assumption 2). -/
def State.readReg (s : State) (off : Nat) : Nat × State :=
  match s.regAt off with
  | .core o => (s.coreReg o, s)
  | .rvreg => (s.region.rv.toNat, s)
  | .slp n => (b2n ((s.dev.asleep[n]?).getD false), s)
  | .gateway n => ((Tab.get 0 s.dev.snap (1000 + n)).toNat, s)
  | .link n o =>
    let l := (s.links[n]?).getD .reset
    if o = 0 then (l.lat.toNat, s)
    else if o = 0x100 ∨ o = 0x108 then ((Tab.get 0 s.dev.snap (2000 + 2 * n + (o - 0x100) / 8)).toNat, s)
    else (0, s)
  | .channel n o => if o < 0x10 then ((Tab.get 0 s.dev.snap (3000 + 2 * n + o / 8)).toNat, s) else (0, s)
  | .part o =>
    if o = 0x420 then
      let (x, s) := s.meter s.part.eng
      (x / 1024, { s with part := { s.part with eng := x } })
    else if o = 0x410 then
      let s := s.learnParked
      (s.partReg o, s)
    else if 0x10000 ≤ o ∧ (o - 0x10000) / 0x8000 ≠ s.core.region ∧ o % 0x8000 / 8 = 0 then
      let (x, s) := s.drawBelow 7
      (s.partReg o + (if bitAt (BitVec.ofNat 64 (s.partReg o)) 63 then x else 0), s)
    else (s.partReg o, s)
  | .device o =>
    if o = 0 then
      let (x, s) := s.meter s.dev.deng
      (x / 1024, { s with dev := { s.dev with deng := x } })
    else (s.devReg o, s)
  | .other => s.draw
  | .reserved => (0, s)

/-- A mill core's read of a register: LINKST is reset by it, and everything else is returned (05 R89, 10 R188). -/
def State.regRead (s : State) (off : Nat) : Out :=
  match s.regAt off with
  | .link n 8 => execLinkstRead (BitVec.ofNat 4 n) s
  | _ =>
    let (x, s) := s.readReg off
    .next { s with dev := { s.dev with sent := .value (BitVec.ofNat 64 x) :: s.dev.sent } }

/-! ## Writing -/

/-- One meaning after another. -/
def andThen (o : Out) (k : State → Out) : Out :=
  match o with
  | .next s => k s
  | .fault f => .fault f
  | .refused r => .refused r

/-- The SUB bits of a PCTL write, from entry e up (19 R345). -/
def submitFrom (x : Word) : Nat → Nat → State → Out
  | 0, _, s => .next s
  | n + 1, e, s =>
    andThen (if bitAt x e then execSubmission (BitVec.ofNat 3 e) s else .next s) fun s => submitFrom x n (e + 1) s

/-- A port of the modelled core's region changes. -/
def State.setPort (s : State) (n : Nat) (f : Port → Port) : State :=
  match s.core.xp[n]? with
  | some p => { s with core := { s.core with xp := s.core.xp.setIfInBounds n (f p) } }
  | none => s

/-- A write of a register of the modelled core's logical region (20 R354, R365).  RCLK's fields come first, then EN starts or
stops the synthesiser. -/
def State.writeRegionReg (s : State) (o : Nat) (x : Word) : Out :=
  let r := s.region
  if o = 0 then
    (if s.occupied then .next s
     else
      let s := { s with region := { r with rclk := setBits (setBits x 0 27 0) 63 1 (b2n (bitAt r.rclk 63)) } }
      if bitAt x 63 then execStartAcquisition s else execSynthesiserStop s)
  else if o = 8 then .next (if s.occupied then s else { s with region := { r with rnom := setBits x 28 4 0 } })
  else if 0x10 ≤ o ∧ o < 0x30 then
    .next (if s.occupied then s
      else s.setPort ((o - 0x10) / 8) fun p =>
        let p := { p with cfg := setBits x 0 1 0 }
        { p with est := p.declared })
  else if 0x1000 ≤ o ∧ o < 0x5000 then
    let i := o % 0x1000 / 8
    .next (s.setPort (o / 0x1000 - 1) fun p =>
      { p with xw := Tab.put 0 (Tab.put 0 p.xw (2 * i) (elem x 32 0)) (2 * i + 1) (elem x 32 1) })
  else .next s

/-- The kernel is resident on a logical region of the partition: some of its cores are there (20 R354, R365). -/
def State.regionBusy (s : State) (r : Nat) : Bool :=
  s.part.resident.isSome && s.core.run != .parked && !(s.part.coresIn r).isEmpty

/-- A write of a register of another logical region of the partition, as it is held for the region: fields that are reserved or RO keep
zero, and while the kernel is resident there only XW is taken (05 R89, 20 R354, R365). -/
def State.writeOtherRegion (s : State) (r o : Nat) (x : Word) : State :=
  let key := 0x2000 + 0x1000 * r + o / 8
  let put := fun (y : Word) => ({ s with part := { s.part with regs := Tab.put 0 s.part.regs key y } } : State)
  if 0x1000 ≤ o ∧ o < 0x5000 then put x
  else if 0x30 ≤ o ∨ s.regionBusy r then s
  else put (if o < 8 then setBits x 0 27 0 else if o < 0x10 then setBits x 28 4 0 else setBits x 0 1 0)

/-- A write of a register of the partition's block; a cap that is taken away throttles no more (19 R343, R345, 21 R387, 22 R394). -/
def State.writePartReg (s : State) (o : Nat) (x : Word) : Out :=
  let p := s.part
  if o < 0x400 then .next { s with part := { p with entry := Tab.put 0 p.entry (o / 8) x } }
  else if o = 0x400 then
    andThen (submitFrom x 8 0 s) fun s => if bitAt x 8 then execGo s else .next s
  else if o = 0x408 then .next { s with part := { p with tf := p.tf && (!bitAt x 38 || p.tfAt == s.web + 1) } }
  else if o = 0x410 then
    andThen (if bitAt x 0 then execPreEmptionRequest s else .next s) fun s =>
      if bitAt x 1 ∧ s.part.shadow.isSome then execRestore s else .next s
  else if o = 0x418 then
    let s := { s with part := { p with capw := bitsAt x 0 16 } }
    .next (if bitsAt x 0 16 = 0 ∧ bitAt s.region.alm 2 then
        State.pace { s with region := s.region.setAlm (s.region.alm &&& 0b1011) }
      else s)
  else if 0x10000 ≤ o ∧ o < 0x310000 then
    (if (o - 0x10000) / 0x8000 = s.core.region then s.writeRegionReg ((o - 0x10000) % 0x8000) x
     else .next (s.writeOtherRegion ((o - 0x10000) / 0x8000) ((o - 0x10000) % 0x8000) x))
  else .next s

/-- A write of a register of the core's block (05 R96, 10 R174). -/
def State.writeCoreReg (s : State) (o : Nat) (x : Word) : Out :=
  if o < 0x4000 then execTranslationEntryWrite (BitVec.ofNat 10 (o / 16)) (o / 8 % 2 == 1) x s
  else if o < 0x4800 then
    .next { s with core := { s.core with caps := Tab.put 0 s.core.caps ((o - 0x4000) / 8) (setBits x 0 7 0) } }
  else .next s

/-- A mill core's write of a register; without a module cap its alarm does not stand (05 R89, 00 R9, 22 R393). -/
def State.regWrite (s : State) (off : Nat) (x : Word) : Out :=
  match s.regAt off with
  | .core o => s.writeCoreReg o x
  | .rvreg =>
    let r := s.region
    .next (if s.occupied then s
      else { s with region := { r with rv := setBits (setBits r.rv 63 1 (b2n (bitAt x 63))) 48 8 (bitsAt x 48 8).toNat } })
  | .slp n => if bitAt x 0 then execSheetSleep (BitVec.ofNat 5 n) s else execSheetWake (BitVec.ofNat 5 n) s
  | .link n o =>
    .next (if o = 0 then s.setLink (BitVec.ofNat 4 n) fun l => { l with lat := bitsAt x 0 20 } else s)
  | .part o => s.writePartReg o x
  | .device o =>
    if o = 0x8 then
      let s := { s with dev := { s.dev with mcap := bitsAt x 0 16 } }
      .next (if bitsAt x 0 16 = 0 ∧ bitAt s.region.alm 3 then State.pace { s with region := s.region.setAlm (s.region.alm &&& 0b0111) } else s)
    else if o = 0x10 ∧ bitAt x 0 then execManagementTrigger s
    else .next s
  | .gateway _ | .channel _ _ | .other | .reserved => .next s

/-- A mill-core write to a device register; one that starts an action of its own has the effect of that action's event (05
R89). -/
def execRegisterWrite (off : BitVec 34) (dw : BitVec 64) (s : State) : Out :=
  if off.toNat % 8 ≠ 0 then .fault .notDue else s.regWrite off.toNat dw

/-- Eight bytes of the base die's mirror; a poisoned granule reads as the poison pattern (09 R159, 21 R382). -/
def State.baseNat (s : State) (off : Nat) : Nat :=
  elemsNat 8 (fun i => (if s.dev.basePoison.contains (poisonGran true (off + i)) then poisonByte (off + i)
    else Memory.byte s.quire (off + i)).toNat) 8

/-- An aligned 8-byte access of a mill core: to HBM, the staging SRAM, the base die's mirror of the quire window, which it may
only read, or a device register (17 R316, 05 R88, R89, 09 R159). -/
def execMillCoreAccess (pa : BitVec 40) (wr : Bool) (dw : BitVec 64) (s : State) : Out :=
  let a := pa.toNat
  let answer := fun (x : Nat) => Host.Outcome.next { s with dev := { s.dev with sent := .value (BitVec.ofNat 64 x) :: s.dev.sent } }
  if a % 8 ≠ 0 then .fault .notDue
  else if 0xFC00000000 ≤ a then (if wr then s.regWrite (a - 0xFC00000000) dw else s.regRead (a - 0xFC00000000))
  else match sideOf a with
    | .hbm | .staging =>
      if wr then .next { s with hbm := Memory.writeNat s.hbm a 8 dw.toNat } else answer (s.phys a 8)
    | .quire => if wr then .fault .notDue else answer (s.baseNat (a - Config.quireBase))
    | _ => .fault .notDue

/-! ## The debug unit -/

/-- An offset holds a snapshot register (05 R89, 21 R389). -/
def State.isSnapshot (s : State) (off : Nat) : Bool :=
  let cores := fun (o : Nat) => decide (0x5000 ≤ o ∧ o < 0x5190)
  match s.regAt off with
  | .core o => cores o
  | .gateway _ => true
  | .link _ o => o == 0x100 || o == 0x108
  | .channel _ o => decide (o < 0x10)
  | .other => if off < 0x6C000000 then cores (off % 0x100000) else decide (0x110000000 ≤ off ∧ off < 0x110180000)
  | _ => false

/-- What an access of the debug unit returned. -/
def State.bits (r : Line × State) : State := { r.2 with dev := { r.2.dev with sent := .bits r.1 :: r.2.dev.sent } }

/-- An access of the unlocked debug unit: to a register of the halted core; to a snapshot register, which takes no write; or, through
the RISC-V debug module, to a register of a mill core, which the spec does not give: what a read returns is free (22 R402, 21 R389;
assumption 2). -/
def execDebugRegisterAccess (wr : Bool) (at_ : DebugTarget) (val : BitVec 1024) (s : State) : Out :=
  if !s.dev.debugOpen then .fault .notDue
  else match at_ with
    | .register file idx =>
      if s.core.run ≠ .debugHalted then .fault .notDue
      else .next (if wr then s.setRegister file idx val else State.bits (s.debugRead file idx))
    | .snapshot off =>
      if !s.isSnapshot off.toNat then .fault .notDue
      else .next (if wr then s else
        let (x, s) := s.readReg off.toNat
        State.bits (BitVec.ofNat 1024 x, s))
    | .mill _ =>
      .next (if wr then s else
        let (x, s) := s.draw
        State.bits (BitVec.ofNat 1024 x, s))

end Sys2Proof.Machine
end

