-- ==== Sys2Proof/Machine/Scalar.lean ====
section
/-! DEFINITION. The scalar instructions of the address units (12 R208 to R213), and NOP (03 R43). -/

namespace Sys2Proof.Machine

/-- NOP of slots 1 to 7 has no effect (03 R43). -/
def execNop (_ : BitVec 3) (s : State) : Out := .next s

/-- NOP of the control slot has no effect (03 R43). -/
def execNopControl (s : State) : Out := .next s

/-- Bits [127:64] of the signed 128-bit product (12 R209). -/
def mulHighSigned (x y : Word) : Word := BitVec.ofInt 64 (x.toInt * y.toInt / 2 ^ 64)

/-- Bits [127:64] of the unsigned 128-bit product (12 R209). -/
def mulHighUnsigned (x y : Word) : Word := BitVec.ofNat 64 (x.toNat * y.toNat / 2 ^ 64)

/-- The conditions of CMP and CMPI (03 R48, 12 R211). -/
def condHolds (c : BitVec 3) (x y : Word) : Bool :=
  match c.toNat with
  | 0 => x == y
  | 1 => x != y
  | 2 => x.slt y
  | 3 => !x.slt y
  | 4 => x.sle y
  | 5 => !x.sle y
  | 6 => x.ult y
  | _ => !x.ult y

/-- A scalar result for aD, unless write-back is suppressed, and for the unit's latch, n cycles from now (12 R208). -/
def State.pushAlu (s : State) (u w : BitVec 1) (d : BitVec 5) (n : Nat) (x : Word) : State :=
  s.push64 (addrSlot u) n (destOf w .a) (BitVec.ofNat 10 d.toNat) x (aluLatch u)

/-- A scalar operation of two sources; an empty bound queue head among them holds issue (12 R209). -/
def alu2 (u : BitVec 1) (g : BitVec 4) (d : BitVec 5) (a b : BitVec 6) (w : BitVec 1) (n : Nat) (f : Word → Word → Word)
    (s : State) : Out :=
  guarded g s fun s =>
    if s.waitsA a || s.waitsA b then .next (s.hold .queueHead)
    else .next (s.pushAlu u w d n (f (s.srcA a) (s.srcA b)))

/-- A scalar operation of one source (12 R210). -/
def alu1 (u : BitVec 1) (g : BitVec 4) (d : BitVec 5) (a : BitVec 6) (w : BitVec 1) (n : Nat) (f : Word → Word)
    (s : State) : Out :=
  guarded g s fun s =>
    if s.waitsA a then .next (s.hold .queueHead)
    else .next (s.pushAlu u w d n (f (s.srcA a)))

/-- ADD: sum modulo 2^64 (12 R209). -/
def execAdd (u : BitVec 1) (g : BitVec 4) (d : BitVec 5) (a b : BitVec 6) (w : BitVec 1) (s : State) : Out :=
  alu2 u g d a b w 1 (fun x y => x + y) s

/-- SUB: difference modulo 2^64 (12 R209). -/
def execSub (u : BitVec 1) (g : BitVec 4) (d : BitVec 5) (a b : BitVec 6) (w : BitVec 1) (s : State) : Out :=
  alu2 u g d a b w 1 (fun x y => x - y) s

/-- AND: x AND y (12 R209). -/
def execAnd (u : BitVec 1) (g : BitVec 4) (d : BitVec 5) (a b : BitVec 6) (w : BitVec 1) (s : State) : Out :=
  alu2 u g d a b w 1 (fun x y => x &&& y) s

/-- OR: x OR y (12 R209). -/
def execOr (u : BitVec 1) (g : BitVec 4) (d : BitVec 5) (a b : BitVec 6) (w : BitVec 1) (s : State) : Out :=
  alu2 u g d a b w 1 (fun x y => x ||| y) s

/-- XOR: x exclusive-or y (12 R209). -/
def execXor (u : BitVec 1) (g : BitVec 4) (d : BitVec 5) (a b : BitVec 6) (w : BitVec 1) (s : State) : Out :=
  alu2 u g d a b w 1 (fun x y => x ^^^ y) s

/-- SHL: left shift by y[5:0] (12 R209). -/
def execShl (u : BitVec 1) (g : BitVec 4) (d : BitVec 5) (a b : BitVec 6) (w : BitVec 1) (s : State) : Out :=
  alu2 u g d a b w 1 (fun x y => x <<< (y.toNat % 64)) s

/-- SHR: unsigned right shift by y[5:0] (12 R209). -/
def execShr (u : BitVec 1) (g : BitVec 4) (d : BitVec 5) (a b : BitVec 6) (w : BitVec 1) (s : State) : Out :=
  alu2 u g d a b w 1 (fun x y => x >>> (y.toNat % 64)) s

/-- SAR: signed right shift by y[5:0] (12 R209). -/
def execSar (u : BitVec 1) (g : BitVec 4) (d : BitVec 5) (a b : BitVec 6) (w : BitVec 1) (s : State) : Out :=
  alu2 u g d a b w 1 (fun x y => x.sshiftRight (y.toNat % 64)) s

/-- MUL: low half of the product (12 R209). -/
def execMul (u : BitVec 1) (g : BitVec 4) (d : BitVec 5) (a b : BitVec 6) (w : BitVec 1) (s : State) : Out :=
  alu2 u g d a b w 3 (fun x y => x * y) s

/-- MULH: bits [127:64] of the signed product (12 R209). -/
def execMulh (u : BitVec 1) (g : BitVec 4) (d : BitVec 5) (a b : BitVec 6) (w : BitVec 1) (s : State) : Out :=
  alu2 u g d a b w 3 (fun x y => mulHighSigned x y) s

/-- MULHU: bits [127:64] of the unsigned product (12 R209). -/
def execMulhu (u : BitVec 1) (g : BitVec 4) (d : BitVec 5) (a b : BitVec 6) (w : BitVec 1) (s : State) : Out :=
  alu2 u g d a b w 3 (fun x y => mulHighUnsigned x y) s

/-- MIN: signed minimum (12 R209). -/
def execMin (u : BitVec 1) (g : BitVec 4) (d : BitVec 5) (a b : BitVec 6) (w : BitVec 1) (s : State) : Out :=
  alu2 u g d a b w 1 (fun x y => if x.sle y then x else y) s

/-- MAX: signed maximum (12 R209). -/
def execMax (u : BitVec 1) (g : BitVec 4) (d : BitVec 5) (a b : BitVec 6) (w : BitVec 1) (s : State) : Out :=
  alu2 u g d a b w 1 (fun x y => if x.sle y then y else x) s

/-- MINU: unsigned minimum (12 R209). -/
def execMinu (u : BitVec 1) (g : BitVec 4) (d : BitVec 5) (a b : BitVec 6) (w : BitVec 1) (s : State) : Out :=
  alu2 u g d a b w 1 (fun x y => if x.ule y then x else y) s

/-- MAXU: unsigned maximum (12 R209). -/
def execMaxu (u : BitVec 1) (g : BitVec 4) (d : BitVec 5) (a b : BitVec 6) (w : BitVec 1) (s : State) : Out :=
  alu2 u g d a b w 1 (fun x y => if x.ule y then y else x) s

/-- ANDN: x AND NOT y (12 R209). -/
def execAndn (u : BitVec 1) (g : BitVec 4) (d : BitVec 5) (a b : BitVec 6) (w : BitVec 1) (s : State) : Out :=
  alu2 u g d a b w 1 (fun x y => x &&& ~~~y) s

/-- A predicate result: pD at c+1, and the unit's latch as 0 or 1 (12 R208, R211). -/
def State.pushCond (s : State) (u : BitVec 1) (p : BitVec 3) (b : Bool) : State :=
  s.push64 (addrSlot u) 1 (some .p) (BitVec.ofNat 10 p.toNat) (BitVec.ofNat 64 (b2n b)) (aluLatch u)

/-- CMP (12 R211). -/
def execCmp (u : BitVec 1) (g : BitVec 4) (p : BitVec 3) (a b : BitVec 6) (c : BitVec 3) (s : State) : Out :=
  guarded g s fun s =>
    if s.waitsA a || s.waitsA b then .next (s.hold .queueHead)
    else .next (s.pushCond u p (condHolds c (s.srcA a) (s.srcA b)))

/-- ADDI: sum with the sign-extended immediate (12 R210). -/
def execAddi (u : BitVec 1) (g : BitVec 4) (d : BitVec 5) (sf : BitVec 6) (im : BitVec 10) (w : BitVec 1) (s : State) : Out :=
  alu1 u g d sf w 1 (fun x => x + im.signExtend 64) s

/-- ANDI: AND with the sign-extended immediate (12 R210). -/
def execAndi (u : BitVec 1) (g : BitVec 4) (d : BitVec 5) (sf : BitVec 6) (im : BitVec 10) (w : BitVec 1) (s : State) : Out :=
  alu1 u g d sf w 1 (fun x => x &&& im.signExtend 64) s

/-- ORI: OR with the sign-extended immediate (12 R210). -/
def execOri (u : BitVec 1) (g : BitVec 4) (d : BitVec 5) (sf : BitVec 6) (im : BitVec 10) (w : BitVec 1) (s : State) : Out :=
  alu1 u g d sf w 1 (fun x => x ||| im.signExtend 64) s

/-- XORI: exclusive-or with the sign-extended immediate (12 R210). -/
def execXori (u : BitVec 1) (g : BitVec 4) (d : BitVec 5) (sf : BitVec 6) (im : BitVec 10) (w : BitVec 1) (s : State) : Out :=
  alu1 u g d sf w 1 (fun x => x ^^^ im.signExtend 64) s

/-- SHLI: left shift by the immediate (12 R210). -/
def execShli (u : BitVec 1) (g : BitVec 4) (d : BitVec 5) (sf : BitVec 6) (im : BitVec 6) (w : BitVec 1) (s : State) : Out :=
  alu1 u g d sf w 1 (fun x => x <<< im.toNat) s

/-- SHRI: unsigned right shift by the immediate (12 R210). -/
def execShri (u : BitVec 1) (g : BitVec 4) (d : BitVec 5) (sf : BitVec 6) (im : BitVec 6) (w : BitVec 1) (s : State) : Out :=
  alu1 u g d sf w 1 (fun x => x >>> im.toNat) s

/-- SARI: signed right shift by the immediate (12 R210). -/
def execSari (u : BitVec 1) (g : BitVec 4) (d : BitVec 5) (sf : BitVec 6) (im : BitVec 6) (w : BitVec 1) (s : State) : Out :=
  alu1 u g d sf w 1 (fun x => x.sshiftRight im.toNat) s

/-- MULI: low half of the product with the sign-extended immediate (12 R210). -/
def execMuli (u : BitVec 1) (g : BitVec 4) (d : BitVec 5) (sf : BitVec 6) (im : BitVec 10) (w : BitVec 1) (s : State) : Out :=
  alu1 u g d sf w 3 (fun x => x * im.signExtend 64) s

/-- IMX: source shifted left by 10, OR the immediate (12 R210). -/
def execImx (u : BitVec 1) (g : BitVec 4) (d : BitVec 5) (sf : BitVec 6) (im : BitVec 10) (w : BitVec 1) (s : State) : Out :=
  alu1 u g d sf w 1 (fun x => (x <<< 10) ||| im.zeroExtend 64) s

/-- CMPI (12 R211). -/
def execCmpi (u : BitVec 1) (g : BitVec 4) (p c : BitVec 3) (sf : BitVec 6) (im : BitVec 10) (s : State) : Out :=
  guarded g s fun s =>
    if s.waitsA sf then .next (s.hold .queueHead)
    else .next (s.pushCond u p (condHolds c (s.srcA sf) (im.signExtend 64)))

/-- The reserved bits [61:56] of a modifier read zero (11 R195). -/
def modifierBits (x : Word) : Word := x &&& 0xC0FFFFFFFFFFFFFF

/-- MSET: mD takes the source plus the immediate, unchecked (12 R212). -/
def execMset (u : BitVec 1) (g : BitVec 4) (m : BitVec 5) (sf : BitVec 6) (im : BitVec 10) (s : State) : Out :=
  guarded g s fun s =>
    if s.waitsA sf then .next (s.hold .queueHead)
    else
      let x := s.srcA sf + im.signExtend 64
      .next (s.push { due := s.core.cyc + 1, seq := 0, slot := addrSlot u, file := some .m,
                      dst := BitVec.ofNat 10 m.toNat, val := BitVec.ofNat 1024 (modifierBits x).toNat,
                      sel := BitVec.allOnes 1024, flg := 0, latch := aluLatch u, lval := BitVec.ofNat 1024 x.toNat,
                      lsel := BitVec.allOnes 1024 })

/-- AUPD: the update of R195 under mM; a bad modifier raises the illegal-operation fault (12 R212). -/
def execAupd (u : BitVec 1) (g : BitVec 4) (d m : BitVec 5) (b : BitVec 6) (w : BitVec 1) (s : State) : Out :=
  guarded g s fun s =>
    if s.waitsA b then .next (s.hold .queueHead)
    else match modUpdate (s.core.r.readM m) (s.srcA b) with
      | none => .next (s.takePrecise (.plain .illegalOperation (addrSlot u)))
      | some x => .next (s.pushAlu u w d 1 x)

/-- The element sizes of LANE in bits (12 R213). -/
def laneBits (z : BitVec 2) : Nat :=
  match z.toNat with
  | 0 => 32
  | 1 => 16
  | 2 => 8
  | _ => 64

/-- LANE: one element of a line goes to the unit's latch at c+2, sign- or zero-extended (12 R213). -/
def execLane (u : BitVec 1) (g : BitVec 4) (sf : BitVec 10) (im : BitVec 5) (z : BitVec 2) (k ux : BitVec 1) (s : State) :
    Out :=
  guarded g s fun s =>
    let w := laneBits z
    let j := (s.core.r.readA im).toNat % (1024 / w)
    let e := (elem (s.srcLine k sf) w j).toNat
    let x := if ux = 1 then BitVec.ofNat 64 e else sext64 w e
    .next (s.push64 (addrSlot u) 2 none 0 x (aluLatch u))

end Sys2Proof.Machine
end

