-- ==== Sys2Proof/Machine/Stream.lean ====
section
/-! DEFINITION. The stream instructions of the address units (12 R221 to R228). -/

namespace Sys2Proof.Machine

/-- SDEF: a whole descriptor from half of vK; a reserved FMT or GEOM raises the illegal-operation fault (12 R223). -/
def execSdef (u : BitVec 1) (g : BitVec 4) (v : BitVec 4) (h : BitVec 1) (sf : BitVec 4) (s : State) : Out :=
  guarded g s fun s =>
    let d := elem (s.core.r.readV v) 512 h.toNat
    if 8 < stFmt d ∨ 2 < stGeom d then .next (s.takePrecise (.plain .illegalOperation (addrSlot u)))
    else
      let d := d &&& ~~~(BitVec.ofNat 512 (0xFF * 2 ^ 56))
      .next (s.pushStream (addrSlot u) sf (BitVec.ofNat 1024 d.toNat) (BitVec.ofNat 1024 (2 ^ 512 - 1)))

/-- The value that SRDF returns for a field (11 R198). -/
def stField (d : BitVec 512) (f : Nat) : Word :=
  match f with
  | 0 => BitVec.ofNat 64 (stBase d)
  | 1 => BitVec.ofNat 64 (stGeom d * 16 + stFmt d)
  | 2 => BitVec.ofNat 64 (stSBase d)
  | 3 => BitVec.ofInt 64 (stSStr d)
  | n =>
    if n < 10 then BitVec.ofNat 64 ((stCount d (n - 4) - 1) * 2 ^ 16 + stIdx d (n - 4))
    else BitVec.ofInt 64 (stStride d (n - 10))

/-- SRDF: one field of a descriptor (12 R224). -/
def execSrdf (u : BitVec 1) (g : BitVec 4) (d : BitVec 5) (sf f : BitVec 4) (s : State) : Out :=
  guarded g s fun s =>
    .next (s.push64 (addrSlot u) 1 (some .a) (BitVec.ofNat 10 d.toNat) (stField (s.core.r.readSt sf) f.toNat)
      (aluLatch u))

/-- SADV: advance by aS steps at a dimension (12 R225). -/
def execSadv (u : BitVec 1) (g : BitVec 4) (n : BitVec 5) (sf d : BitVec 4) (s : State) : Out :=
  guarded g s fun s =>
    .next (s.pushStream (addrSlot u) sf
      (stAdvanced (s.core.r.readSt sf) d.toNat (s.core.r.readA n).toNat) idxSel)

/-- SRST: every index to zero (12 R226). -/
def execSrst (u : BitVec 1) (g : BitVec 4) (sf : BitVec 4) (s : State) : Out :=
  guarded g s fun s => .next (s.pushStream (addrSlot u) sf 0 idxSel)

/-- The steps of dimension 0 that one line moves (12 R227). -/
def lineSteps (d : BitVec 512) : Nat := 1024 / fmtBits (stFmt d)

/-- LDT: a line at the stream's current address, which then advances by a line at dimension 0 (12 R227). -/
def execLdt (u : BitVec 1) (g : BitVec 4) (sf : BitVec 10) (t : BitVec 4) (k : BitVec 1) (s : State) : Out :=
  guarded g s fun s =>
    let d := s.core.r.readSt t
    let va : Word := BitVec.ofNat 64 (stAddr d)
    match s.checkAccess (addrSlot u) va 128 128 .read with
    | .bad i => .next (s.takePrecise i)
    | ck =>
      if s.reloadHolds ck then .next (s.hold .mirrorReload)
      else .next ((s.pushStream (addrSlot u) t (stAdvanced d 0 (lineSteps d)) idxSel).issueLoad (addrSlot u) ck
        (fun a => byteRun 0 a 128) .line
        (loadLanding u (lineFile k) sf (BitVec.allOnes 1024) (BitVec.allOnes 1024)))

/-- STT: a line to the stream's current address, which then advances by a line at dimension 0 (12 R227). -/
def execStt (u : BitVec 1) (g : BitVec 4) (sf : BitVec 10) (t : BitVec 4) (k : BitVec 1) (s : State) : Out :=
  guarded g s fun s =>
    let d := s.core.r.readSt t
    let va : Word := BitVec.ofNat 64 (stAddr d)
    if s.blocked (.store []) then .next (s.hold .queueCap)
    else match s.checkAccess (addrSlot u) va 128 128 .write with
    | .bad i => .next (s.takePrecise i)
    | .quire e _ _ _ => .next (s.takePrecise (accessFault .permission (addrSlot u) .write e va.toNat))
    | .pad off =>
      let e := Eff.store (cellsOf off 128 (s.srcLine k sf).toNat)
      .next ((s.pushStream (addrSlot u) t (stAdvanced d 0 (lineSteps d)) idxSel).enact (addrSlot u) e)

end Sys2Proof.Machine
end

