-- ==== Sys2Proof/Machine/VecFloat.lean ====
section
/-! DEFINITION. The floating-point vector instructions (13 R233 to R236). -/

namespace Sys2Proof.Machine

/-- VFADD: a + b, rounded by `fmode`, at c+4 (13 R233). -/
def execVfadd (u : BitVec 1) (g : BitVec 4) (d : BitVec 4) (w : BitVec 1) (a : BitVec 5) (b : BitVec 5) (z : BitVec 3) (k : BitVec 3) (s : State) : Out :=
  lanes2 u g d w a b z k 4 fadd32 s

/-- VFSUB: a − b, rounded by `fmode`, at c+4 (13 R233). -/
def execVfsub (u : BitVec 1) (g : BitVec 4) (d : BitVec 4) (w : BitVec 1) (a : BitVec 5) (b : BitVec 5) (z : BitVec 3) (k : BitVec 3) (s : State) : Out :=
  lanes2 u g d w a b z k 4 fsub32 s

/-- VFMUL: a × b, rounded by `fmode`, at c+4 (13 R233). -/
def execVfmul (u : BitVec 1) (g : BitVec 4) (d : BitVec 4) (w : BitVec 1) (a : BitVec 5) (b : BitVec 5) (z : BitVec 3) (k : BitVec 3) (s : State) : Out :=
  lanes2 u g d w a b z k 4 fmul32 s

/-- The fused forms: the addend is the destination register, also when write-back is suppressed (13 R234). -/
def fused (u : BitVec 1) (g : BitVec 4) (d : BitVec 4) (w : BitVec 1) (a b : BitVec 5) (z : BitVec 3) (k : BitVec 3)
    (negProd negAdd : Bool) (s : State) : Out :=
  vec2 u g d w a b 4 (fun s x y => lanesOut z (s.core.r.readK k) fun i =>
    fma32 s.core.r.fmode.toNat negProd negAdd (opLane z x i) (opLane z y i) (opLane z (s.core.r.readV d) i)) s

/-- VFMA: a × b + c with one rounding (13 R234). -/
def execVfma (u : BitVec 1) (g : BitVec 4) (d : BitVec 4) (w : BitVec 1) (a : BitVec 5) (b : BitVec 5) (z : BitVec 3) (k : BitVec 3) (s : State) : Out :=
  fused u g d w a b z k false false s

/-- VFMS: a × b − c with one rounding (13 R234). -/
def execVfms (u : BitVec 1) (g : BitVec 4) (d : BitVec 4) (w : BitVec 1) (a : BitVec 5) (b : BitVec 5) (z : BitVec 3) (k : BitVec 3) (s : State) : Out :=
  fused u g d w a b z k false true s

/-- VFNMA: c − a × b with one rounding (13 R234). -/
def execVfnma (u : BitVec 1) (g : BitVec 4) (d : BitVec 4) (w : BitVec 1) (a : BitVec 5) (b : BitVec 5) (z : BitVec 3) (k : BitVec 3) (s : State) : Out :=
  fused u g d w a b z k true false s

/-- VFMIN: the smaller operand, at c+2 (13 R235). -/
def execVfmin (u : BitVec 1) (g : BitVec 4) (d : BitVec 4) (w : BitVec 1) (a : BitVec 5) (b : BitVec 5) (z : BitVec 3) (k : BitVec 3) (s : State) : Out :=
  lanes2 u g d w a b z k 2 (fun _ x y => quiet (fmin32 x y).toNat) s

/-- VFMAX: the larger operand, at c+2 (13 R235). -/
def execVfmax (u : BitVec 1) (g : BitVec 4) (d : BitVec 4) (w : BitVec 1) (a : BitVec 5) (b : BitVec 5) (z : BitVec 3) (k : BitVec 3) (s : State) : Out :=
  lanes2 u g d w a b z k 2 (fun _ x y => quiet (fmax32 x y).toNat) s

/-- VFABS: bit 31 cleared, at c+2 (13 R235). -/
def execVfabs (u : BitVec 1) (g : BitVec 4) (d : BitVec 4) (w : BitVec 1) (a : BitVec 5) (z : BitVec 3) (k : BitVec 3) (s : State) : Out :=
  lanes1 u g d w a z k 2 (fun x => quiet (fabs32 x).toNat) s

/-- VFCMP: a condition on each lane into a lane mask and the latch (13 R236). -/
def execVfcmp (u : BitVec 1) (g : BitVec 4) (d : BitVec 3) (w : BitVec 1) (a : BitVec 5) (b : BitVec 5) (z : BitVec 3) (c : BitVec 3) (s : State) : Out :=
  mask2 u g d w a b z (fcmp32 c.toNat) s

end Sys2Proof.Machine
end

