-- ==== Sys2Proof/Machine/VecInt.lean ====
section
/-! DEFINITION. The integer vector instructions (13 R237 to R239). -/

namespace Sys2Proof.Machine

/-- The value of a lane, signed or unsigned. -/
def laneInt (ux : BitVec 1) (x : Lane32) : Int := if ux = 1 then x.toNat else x.toInt

/-- Limit an integer to the 32-bit range, signed or unsigned (13 R237). -/
def sat32 (ux : BitVec 1) (i : Int) : Lane32 :=
  let r := intRange 32 (ux == 1)
  BitVec.ofInt 32 (if i < r.1 then r.1 else if r.2 < i then r.2 else i)

/-- Shift right arithmetically or logically by a count that may pass the width (13 R237). -/
def shiftRight32 (logical : Bool) (x : Lane32) (n : Nat) : Lane32 := if logical then x >>> n else x.sshiftRight n

/-- The conditions of VCMP: 0 eq, 1 ne, 2 lt, 3 ge, 4 le, 5 gt (13 R238). -/
def icmp32 (c : Nat) (ux : BitVec 1) (x y : Lane32) : Bool :=
  let a := laneInt ux x
  let b := laneInt ux y
  match c with
  | 0 => decide (a = b)
  | 1 => decide (a ≠ b)
  | 2 => decide (a < b)
  | 3 => decide (b ≤ a)
  | 4 => decide (a ≤ b)
  | _ => decide (b < a)

/-- VADD: the sum modulo 2^32 (13 R237). -/
def execVadd (u : BitVec 1) (g : BitVec 4) (d : BitVec 4) (w : BitVec 1) (a : BitVec 5) (b : BitVec 5) (z : BitVec 3) (k : BitVec 3) (s : State) : Out :=
  ints2 u g d w a b z k (fun x y => x + y) s

/-- VSUB: the difference modulo 2^32 (13 R237). -/
def execVsub (u : BitVec 1) (g : BitVec 4) (d : BitVec 4) (w : BitVec 1) (a : BitVec 5) (b : BitVec 5) (z : BitVec 3) (k : BitVec 3) (s : State) : Out :=
  ints2 u g d w a b z k (fun x y => x - y) s

/-- VMUL: the product modulo 2^32 (13 R237). -/
def execVmul (u : BitVec 1) (g : BitVec 4) (d : BitVec 4) (w : BitVec 1) (a : BitVec 5) (b : BitVec 5) (z : BitVec 3) (k : BitVec 3) (s : State) : Out :=
  ints2 u g d w a b z k (fun x y => x * y) s

/-- VMULH: bits [63:32] of the product (13 R237). -/
def execVmulh (u : BitVec 1) (g : BitVec 4) (d : BitVec 4) (w : BitVec 1) (a : BitVec 5) (b : BitVec 5) (z : BitVec 3) (k : BitVec 3) (ux : BitVec 1) (s : State) : Out :=
  ints2 u g d w a b z k (fun x y => BitVec.ofInt 32 (laneInt ux x * laneInt ux y / 2 ^ 32)) s

/-- VADDS: the sum, saturated (13 R237). -/
def execVadds (u : BitVec 1) (g : BitVec 4) (d : BitVec 4) (w : BitVec 1) (a : BitVec 5) (b : BitVec 5) (z : BitVec 3) (k : BitVec 3) (ux : BitVec 1) (s : State) : Out :=
  ints2 u g d w a b z k (fun x y => sat32 ux (laneInt ux x + laneInt ux y)) s

/-- VMIN: the smaller (13 R237). -/
def execVmin (u : BitVec 1) (g : BitVec 4) (d : BitVec 4) (w : BitVec 1) (a : BitVec 5) (b : BitVec 5) (z : BitVec 3) (k : BitVec 3) (ux : BitVec 1) (s : State) : Out :=
  ints2 u g d w a b z k (fun x y => if laneInt ux x ≤ laneInt ux y then x else y) s

/-- VMAX: the larger (13 R237). -/
def execVmax (u : BitVec 1) (g : BitVec 4) (d : BitVec 4) (w : BitVec 1) (a : BitVec 5) (b : BitVec 5) (z : BitVec 3) (k : BitVec 3) (ux : BitVec 1) (s : State) : Out :=
  ints2 u g d w a b z k (fun x y => if laneInt ux x ≤ laneInt ux y then y else x) s

/-- VAND: x AND y (13 R237). -/
def execVand (u : BitVec 1) (g : BitVec 4) (d : BitVec 4) (w : BitVec 1) (a : BitVec 5) (b : BitVec 5) (z : BitVec 3) (k : BitVec 3) (s : State) : Out :=
  ints2 u g d w a b z k (fun x y => x &&& y) s

/-- VOR: x OR y (13 R237). -/
def execVor (u : BitVec 1) (g : BitVec 4) (d : BitVec 4) (w : BitVec 1) (a : BitVec 5) (b : BitVec 5) (z : BitVec 3) (k : BitVec 3) (s : State) : Out :=
  ints2 u g d w a b z k (fun x y => x ||| y) s

/-- VXOR: x exclusive-or y (13 R237). -/
def execVxor (u : BitVec 1) (g : BitVec 4) (d : BitVec 4) (w : BitVec 1) (a : BitVec 5) (b : BitVec 5) (z : BitVec 3) (k : BitVec 3) (s : State) : Out :=
  ints2 u g d w a b z k (fun x y => x ^^^ y) s

/-- VSHL: left shift by y[5:0] (13 R237). -/
def execVshl (u : BitVec 1) (g : BitVec 4) (d : BitVec 4) (w : BitVec 1) (a : BitVec 5) (b : BitVec 5) (z : BitVec 3) (k : BitVec 3) (s : State) : Out :=
  ints2 u g d w a b z k (fun x y => x <<< (y.toNat % 64)) s

/-- VSHR: right shift by y[5:0], arithmetic or logical (13 R237). -/
def execVshr (u : BitVec 1) (g : BitVec 4) (d : BitVec 4) (w : BitVec 1) (a : BitVec 5) (b : BitVec 5) (z : BitVec 3) (k : BitVec 3) (ux : BitVec 1) (s : State) : Out :=
  ints2 u g d w a b z k (fun x y => shiftRight32 (ux == 1) x (y.toNat % 64)) s

/-- VCMP: a condition on each lane into a lane mask and the latch (13 R238). -/
def execVcmp (u : BitVec 1) (g : BitVec 4) (d : BitVec 3) (w : BitVec 1) (a : BitVec 5) (b : BitVec 5) (z : BitVec 3) (c : BitVec 3) (ux : BitVec 1) (s : State) : Out :=
  mask2 u g d w a b z (fun x y => (icmp32 c.toNat ux x y, 0)) s

/-- VADDI: an immediate added (13 R239). -/
def execVaddi (u : BitVec 1) (g : BitVec 4) (d : BitVec 4) (w : BitVec 1) (sf : BitVec 5) (im : BitVec 9) (z : BitVec 3) (s : State) : Out :=
  intsImm u g d w sf z (fun x => x + im.signExtend 32) s

/-- VANDI: AND with an immediate (13 R239). -/
def execVandi (u : BitVec 1) (g : BitVec 4) (d : BitVec 4) (w : BitVec 1) (sf : BitVec 5) (im : BitVec 9) (z : BitVec 3) (s : State) : Out :=
  intsImm u g d w sf z (fun x => x &&& im.signExtend 32) s

/-- VSHLI: left shift by a count (13 R239). -/
def execVshli (u : BitVec 1) (g : BitVec 4) (d : BitVec 4) (w : BitVec 1) (sf : BitVec 5) (im : BitVec 5) (z : BitVec 3) (s : State) : Out :=
  intsImm u g d w sf z (fun x => x <<< im.toNat) s

/-- VSHRI: right shift by a count, arithmetic when the bit is 1 (13 R239). -/
def execVshri (u : BitVec 1) (g : BitVec 4) (d : BitVec 4) (w : BitVec 1) (sf : BitVec 5) (a : BitVec 1) (im : BitVec 5) (z : BitVec 3) (s : State) : Out :=
  intsImm u g d w sf z (fun x => shiftRight32 (a == 0) x im.toNat) s

/-- VMOVI: an immediate in every lane (13 R239). -/
def execVmovi (u : BitVec 1) (g : BitVec 4) (d : BitVec 4) (w : BitVec 1) (im : BitVec 9) (z : BitVec 3) (s : State) : Out :=
  guarded g s fun s =>
    .next (s.pushVec u w d 2 (lanesOut z 0xFFFFFFFF fun _ => quiet (im.signExtend 32).toNat))

end Sys2Proof.Machine
end

