-- ==== Sys2Proof/Machine/Dispatch.lean ====
section
/-! DEFINITION. The meaning of every instruction: one arm per constructor. -/

namespace Sys2Proof.Machine

def exec (i : Instr) (s : State) : Host.Outcome State Fault Refusal :=
  match i with
  | .nop n => Sys2Proof.Machine.execNop n s
  | .nopControl => Sys2Proof.Machine.execNopControl s
  | .br g d => Sys2Proof.Machine.execBr g d s
  | .bri g n im => Sys2Proof.Machine.execBri g n im s
  | .call g d => Sys2Proof.Machine.execCall g d s
  | .calli g n im => Sys2Proof.Machine.execCalli g n im s
  | .ret g => Sys2Proof.Machine.execRet g s
  | .loop g c l => Sys2Proof.Machine.execLoop g c l s
  | .loopa g n l => Sys2Proof.Machine.execLoopa g n l s
  | .loopn g n l => Sys2Proof.Machine.execLoopn g n l s
  | .brk g => Sys2Proof.Machine.execBrk g s
  | .plog g d o a b => Sys2Proof.Machine.execPlog g d o a b s
  | .pset g d v => Sys2Proof.Machine.execPset g d v s
  | .nxt g d => Sys2Proof.Machine.execNxt g d s
  | .wsamp g => Sys2Proof.Machine.execWsamp g s
  | .waitc g c n => Sys2Proof.Machine.execWaitc g c n s
  | .wmw g n e => Sys2Proof.Machine.execWmw g n e s
  | .ifence g p => Sys2Proof.Machine.execIfence g p s
  | .bswap g im => Sys2Proof.Machine.execBswap g im s
  | .snap g => Sys2Proof.Machine.execSnap g s
  | .trap g n c => Sys2Proof.Machine.execTrap g n c s
  | .sysc g n c => Sys2Proof.Machine.execSysc g n c s
  | .halt g => Sys2Proof.Machine.execHalt g s
  | .srd g sf n => Sys2Proof.Machine.execSrd g sf n s
  | .swr g sf n => Sys2Proof.Machine.execSwr g sf n s
  | .mark g => Sys2Proof.Machine.execMark g s
  | .add u g d a b w => Sys2Proof.Machine.execAdd u g d a b w s
  | .sub u g d a b w => Sys2Proof.Machine.execSub u g d a b w s
  | .and u g d a b w => Sys2Proof.Machine.execAnd u g d a b w s
  | .or u g d a b w => Sys2Proof.Machine.execOr u g d a b w s
  | .xor u g d a b w => Sys2Proof.Machine.execXor u g d a b w s
  | .shl u g d a b w => Sys2Proof.Machine.execShl u g d a b w s
  | .shr u g d a b w => Sys2Proof.Machine.execShr u g d a b w s
  | .sar u g d a b w => Sys2Proof.Machine.execSar u g d a b w s
  | .mul u g d a b w => Sys2Proof.Machine.execMul u g d a b w s
  | .mulh u g d a b w => Sys2Proof.Machine.execMulh u g d a b w s
  | .mulhu u g d a b w => Sys2Proof.Machine.execMulhu u g d a b w s
  | .min u g d a b w => Sys2Proof.Machine.execMin u g d a b w s
  | .max u g d a b w => Sys2Proof.Machine.execMax u g d a b w s
  | .minu u g d a b w => Sys2Proof.Machine.execMinu u g d a b w s
  | .maxu u g d a b w => Sys2Proof.Machine.execMaxu u g d a b w s
  | .andn u g d a b w => Sys2Proof.Machine.execAndn u g d a b w s
  | .cmp u g p a b c => Sys2Proof.Machine.execCmp u g p a b c s
  | .addi u g d sf im w => Sys2Proof.Machine.execAddi u g d sf im w s
  | .andi u g d sf im w => Sys2Proof.Machine.execAndi u g d sf im w s
  | .ori u g d sf im w => Sys2Proof.Machine.execOri u g d sf im w s
  | .xori u g d sf im w => Sys2Proof.Machine.execXori u g d sf im w s
  | .shli u g d sf im w => Sys2Proof.Machine.execShli u g d sf im w s
  | .shri u g d sf im w => Sys2Proof.Machine.execShri u g d sf im w s
  | .sari u g d sf im w => Sys2Proof.Machine.execSari u g d sf im w s
  | .muli u g d sf im w => Sys2Proof.Machine.execMuli u g d sf im w s
  | .imx u g d sf im w => Sys2Proof.Machine.execImx u g d sf im w s
  | .cmpi u g p c sf im => Sys2Proof.Machine.execCmpi u g p c sf im s
  | .mset u g m sf im => Sys2Proof.Machine.execMset u g m sf im s
  | .aupd u g d m b w => Sys2Proof.Machine.execAupd u g d m b w s
  | .lane u g sf im z k ux => Sys2Proof.Machine.execLane u g sf im z k ux s
  | .ldl u g sf n m w t h => Sys2Proof.Machine.execLdl u g sf n m w t h s
  | .stl u g sf n m w t h => Sys2Proof.Machine.execStl u g sf n m w t h s
  | .lds u g d n m k => Sys2Proof.Machine.execLds u g d n m k s
  | .sts u g sf n m k => Sys2Proof.Machine.execSts u g sf n m k s
  | .ldg u g v n m w k => Sys2Proof.Machine.execLdg u g v n m w k s
  | .stg u g v n m w k => Sys2Proof.Machine.execStg u g v n m w k s
  | .ldb u g sf n m w t f e => Sys2Proof.Machine.execLdb u g sf n m w t f e s
  | .sdef u g v h sf => Sys2Proof.Machine.execSdef u g v h sf s
  | .srdf u g d sf f => Sys2Proof.Machine.execSrdf u g d sf f s
  | .sadv u g n sf d => Sys2Proof.Machine.execSadv u g n sf d s
  | .srst u g sf => Sys2Proof.Machine.execSrst u g sf s
  | .ldt u g sf t k => Sys2Proof.Machine.execLdt u g sf t k s
  | .stt u g sf t k => Sys2Proof.Machine.execStt u g sf t k s
  | .vfadd u g d w a b z k => Sys2Proof.Machine.execVfadd u g d w a b z k s
  | .vfsub u g d w a b z k => Sys2Proof.Machine.execVfsub u g d w a b z k s
  | .vfmul u g d w a b z k => Sys2Proof.Machine.execVfmul u g d w a b z k s
  | .vfma u g d w a b z k => Sys2Proof.Machine.execVfma u g d w a b z k s
  | .vfms u g d w a b z k => Sys2Proof.Machine.execVfms u g d w a b z k s
  | .vfnma u g d w a b z k => Sys2Proof.Machine.execVfnma u g d w a b z k s
  | .vfmin u g d w a b z k => Sys2Proof.Machine.execVfmin u g d w a b z k s
  | .vfmax u g d w a b z k => Sys2Proof.Machine.execVfmax u g d w a b z k s
  | .vfabs u g d w a z k => Sys2Proof.Machine.execVfabs u g d w a z k s
  | .vfcmp u g d w a b z c => Sys2Proof.Machine.execVfcmp u g d w a b z c s
  | .vadd u g d w a b z k => Sys2Proof.Machine.execVadd u g d w a b z k s
  | .vsub u g d w a b z k => Sys2Proof.Machine.execVsub u g d w a b z k s
  | .vmul u g d w a b z k => Sys2Proof.Machine.execVmul u g d w a b z k s
  | .vmulh u g d w a b z k ux => Sys2Proof.Machine.execVmulh u g d w a b z k ux s
  | .vadds u g d w a b z k ux => Sys2Proof.Machine.execVadds u g d w a b z k ux s
  | .vmin u g d w a b z k ux => Sys2Proof.Machine.execVmin u g d w a b z k ux s
  | .vmax u g d w a b z k ux => Sys2Proof.Machine.execVmax u g d w a b z k ux s
  | .vand u g d w a b z k => Sys2Proof.Machine.execVand u g d w a b z k s
  | .vor u g d w a b z k => Sys2Proof.Machine.execVor u g d w a b z k s
  | .vxor u g d w a b z k => Sys2Proof.Machine.execVxor u g d w a b z k s
  | .vshl u g d w a b z k => Sys2Proof.Machine.execVshl u g d w a b z k s
  | .vshr u g d w a b z k ux => Sys2Proof.Machine.execVshr u g d w a b z k ux s
  | .vcmp u g d w a b z c ux => Sys2Proof.Machine.execVcmp u g d w a b z c ux s
  | .vaddi u g d w sf im z => Sys2Proof.Machine.execVaddi u g d w sf im z s
  | .vandi u g d w sf im z => Sys2Proof.Machine.execVandi u g d w sf im z s
  | .vshli u g d w sf im z => Sys2Proof.Machine.execVshli u g d w sf im z s
  | .vshri u g d w sf a im z => Sys2Proof.Machine.execVshri u g d w sf a im z s
  | .vmovi u g d w im z => Sys2Proof.Machine.execVmovi u g d w im z s
  | .vcfi u g d w sf f t z r ux => Sys2Proof.Machine.execVcfi u g d w sf f t z r ux s
  | .vcif u g d w sf f t z r ux => Sys2Proof.Machine.execVcif u g d w sf f t z r ux s
  | .vcfn u g d w sf t z r => Sys2Proof.Machine.execVcfn u g d w sf t z r s
  | .vcnf u g d w sf f z r => Sys2Proof.Machine.execVcnf u g d w sf f z r s
  | .vqnt u g d w sf r ux => Sys2Proof.Machine.execVqnt u g d w sf r ux s
  | .vdqn u g d w sf r ux => Sys2Proof.Machine.execVdqn u g d w sf r ux s
  | .vcfs u g d w sf z r => Sys2Proof.Machine.execVcfs u g d w sf z r s
  | .vcsf u g d w sf z r => Sys2Proof.Machine.execVcsf u g d w sf z r s
  | .vpmov u g p v r z k => Sys2Proof.Machine.execVpmov u g p v r z k s
  | .vperm u g d w a b z k => Sys2Proof.Machine.execVperm u g d w a b z k s
  | .vbcst u g d w a j z k => Sys2Proof.Machine.execVbcst u g d w a j z k s
  | .vxch u g d w a j z k => Sys2Proof.Machine.execVxch u g d w a j z k s
  | .vzip u g d w a b z k => Sys2Proof.Machine.execVzip u g d w a b z k s
  | .vuzp u g d w a b z k => Sys2Proof.Machine.execVuzp u g d w a b z k s
  | .vmov u g d w a z k => Sys2Proof.Machine.execVmov u g d w a z k s
  | .vsel u g d w a b z k => Sys2Proof.Machine.execVsel u g d w a b z k s
  | .kand u g d w a b z => Sys2Proof.Machine.execKand u g d w a b z s
  | .kor u g d w a b z => Sys2Proof.Machine.execKor u g d w a b z s
  | .kxor u g d w a b z => Sys2Proof.Machine.execKxor u g d w a b z s
  | .kmov u g d w a z => Sys2Proof.Machine.execKmov u g d w a z s
  | .kmovNz u g d w a z => Sys2Proof.Machine.execKmovNz u g d w a z s
  | .kmovBits u g d w a z => Sys2Proof.Machine.execKmovBits u g d w a z s
  | .vrsum u g d w a z k => Sys2Proof.Machine.execVrsum u g d w a z k s
  | .vrmax u g d w a z k => Sys2Proof.Machine.execVrmax u g d w a z k s
  | .vrmin u g d w a z k => Sys2Proof.Machine.execVrmin u g d w a z k s
  | .vrisum u g d w a z k => Sys2Proof.Machine.execVrisum u g d w a z k s
  | .vscan u g d w a z k => Sys2Proof.Machine.execVscan u g d w a z k s
  | .frcps u g d w a z k => Sys2Proof.Machine.execFrcps u g d w a z k s
  | .frsqs u g d w a z k => Sys2Proof.Machine.execFrsqs u g d w a z k s
  | .fnrcp u g d w a b z k => Sys2Proof.Machine.execFnrcp u g d w a b z k s
  | .fnrsq u g d w a b z k => Sys2Proof.Machine.execFnrsq u g d w a b z k s
  | .frint u g d w sf z r => Sys2Proof.Machine.execFrint u g d w sf z r s
  | .fscale u g d w a b z k => Sys2Proof.Machine.execFscale u g d w a b z k s
  | .fgete u g d w a z k => Sys2Proof.Machine.execFgete u g d w a z k s
  | .fgetm u g d w a z k => Sys2Proof.Machine.execFgetm u g d w a z k s
  | .vrng u g d w a b z k => Sys2Proof.Machine.execVrng u g d w a b z k s
  | .mma g a b t p y hx => Sys2Proof.Machine.execMma g a b t p y hx s
  | .mmaz g a b t p y hx => Sys2Proof.Machine.execMmaz g a b t p y hx s
  | .mrd g t r l f e => Sys2Proof.Machine.execMrd g t r l f e s
  | .mrdx g t r v c => Sys2Proof.Machine.execMrdx g t r v c s
  | .mwrx g t r v c => Sys2Proof.Machine.execMwrx g t r v c s
  | .mclr g t => Sys2Proof.Machine.execMclr g t s
  | .manc g t a => Sys2Proof.Machine.execManc g t a s
  | .mldw g sf f => Sys2Proof.Machine.execMldw g sf f s
  | .spu g t h v r f => Sys2Proof.Machine.execSpu g t h v r f s
  | .spd g t h v r f => Sys2Proof.Machine.execSpd g t h v r f s
  | .spld g v r c => Sys2Proof.Machine.execSpld g v r c s
  | .spst g v r c => Sys2Proof.Machine.execSpst g v r c s
  | .spsh g h v => Sys2Proof.Machine.execSpsh g h v s
  | .spw g t v => Sys2Proof.Machine.execSpw g t v s
  | .spcv g r n e => Sys2Proof.Machine.execSpcv g r n e s
  | .spsc g t m => Sys2Proof.Machine.execSpsc g t m s
  | .spcl g t => Sys2Proof.Machine.execSpcl g t s
  | .msc g b => Sys2Proof.Machine.execMsc g b s
  | .cpy g n m => Sys2Proof.Machine.execCpy g n m s
  | .wms g n sf t => Sys2Proof.Machine.execWms g n sf t s
  | .ovl g n => Sys2Proof.Machine.execOvl g n s
  | .send g c n => Sys2Proof.Machine.execSend g c n s
  | .sendLine g c v => Sys2Proof.Machine.execSendLine g c v s
  | .chb g c h => Sys2Proof.Machine.execChb g c h s
  | .chu g h => Sys2Proof.Machine.execChu g h s
  | .qwr g n v k => Sys2Proof.Machine.execQwr g n v k s
  | .qwrWm g n v => Sys2Proof.Machine.execQwrWm g n v s
  | .qwrXadd g n v k => Sys2Proof.Machine.execQwrXadd g n v k s
  | .qat g n v o sf => Sys2Proof.Machine.execQat g n v o sf s
  | .gcs g c n a => Sys2Proof.Machine.execGcs g c n a s
  | .gcsReam g c n a => Sys2Proof.Machine.execGcsReam g c n a s
  | .gcm g c t r => Sys2Proof.Machine.execGcm g c t r s
  | .atm g n m k o sf r => Sys2Proof.Machine.execAtm g n m k o sf r s
  | .abn g n m => Sys2Proof.Machine.execAbn g n m s
  | .bfold g n m e => Sys2Proof.Machine.execBfold g n m e s
  | .xwr g p v => Sys2Proof.Machine.execXwr g p v s
  | .xrd g p => Sys2Proof.Machine.execXrd g p s
  | .xst g p d sf => Sys2Proof.Machine.execXst g p d sf s
  | .restartMark => Sys2Proof.Machine.execRestartMark s
  | .pop q => Sys2Proof.Machine.execPop q s
  | .wmwResume => Sys2Proof.Machine.execWmwResume s
  | .waitcResume => Sys2Proof.Machine.execWaitcResume s
  | .ifenceResume => Sys2Proof.Machine.execIfenceResume s
  | .wsampResume => Sys2Proof.Machine.execWsampResume s
  | .queueHeadResume => Sys2Proof.Machine.execQueueHeadResume s
  | .busyBitResume => Sys2Proof.Machine.execBusyBitResume s
  | .queueCapResume => Sys2Proof.Machine.execQueueCapResume s
  | .gateEntryRelease => Sys2Proof.Machine.execGateEntryRelease s
  | .copyCommandStart id => Sys2Proof.Machine.execCopyCommandStart id s
  | .copyBeat id n => Sys2Proof.Machine.execCopyBeat id n s
  | .overlayFinish id => Sys2Proof.Machine.execOverlayFinish id s
  | .hbmSlot ch => Sys2Proof.Machine.execHbmSlot ch s
  | .feltSend gwy => Sys2Proof.Machine.execFeltSend gwy s
  | .feltPacketApply pk => Sys2Proof.Machine.execFeltPacketApply pk s
  | .refusal bt pk => Sys2Proof.Machine.execRefusal bt pk s
  | .gatewayContribution cell arr => Sys2Proof.Machine.execGatewayContribution cell arr s
  | .webFlitSend => Sys2Proof.Machine.execWebFlitSend s
  | .webFlitArrival fl => Sys2Proof.Machine.execWebFlitArrival fl s
  | .remoteAtmReturn num old => Sys2Proof.Machine.execRemoteAtmReturn num old s
  | .reamPacketReceive lk fls => Sys2Proof.Machine.execReamPacketReceive lk fls s
  | .gatewayForward lk => Sys2Proof.Machine.execGatewayForward lk s
  | .linkInitialisation lk => Sys2Proof.Machine.execLinkInitialisation lk s
  | .linkTrained lk lat => Sys2Proof.Machine.execLinkTrained lk lat s
  | .trainingTimeout lk => Sys2Proof.Machine.execTrainingTimeout lk s
  | .retrain lk => Sys2Proof.Machine.execRetrain lk s
  | .unscheduledRetrain lk => Sys2Proof.Machine.execUnscheduledRetrain lk s
  | .missedArrival lk => Sys2Proof.Machine.execMissedArrival lk s
  | .synchronisationPoint lk => Sys2Proof.Machine.execSynchronisationPoint lk s
  | .paceMessage div => Sys2Proof.Machine.execPaceMessage div s
  | .sourceEdge far periods => Sys2Proof.Machine.execSourceEdge far periods s
  | .budgetEnd => Sys2Proof.Machine.execBudgetEnd s
  | .edgesAbsent => Sys2Proof.Machine.execEdgesAbsent s
  | .lockAchieved => Sys2Proof.Machine.execLockAchieved s
  | .startAcquisition => Sys2Proof.Machine.execStartAcquisition s
  | .synthesiserStop => Sys2Proof.Machine.execSynthesiserStop s
  | .crossingLineArrival pt x => Sys2Proof.Machine.execCrossingLineArrival pt x s
  | .fastThrottle alarm => Sys2Proof.Machine.execFastThrottle alarm s
  | .throttleRelease => Sys2Proof.Machine.execThrottleRelease s
  | .correctableError cnt => Sys2Proof.Machine.execCorrectableError cnt s
  | .uncorrectableError at_ => Sys2Proof.Machine.execUncorrectableError at_ s
  | .canaryFailure => Sys2Proof.Machine.execCanaryFailure s
  | .voutStepDown => Sys2Proof.Machine.execVoutStepDown s
  | .replicaTrim up mv => Sys2Proof.Machine.execReplicaTrim up mv s
  | .heatLevelChange stk lvl => Sys2Proof.Machine.execHeatLevelChange stk lvl s
  | .watchdog => Sys2Proof.Machine.execWatchdog s
  | .resume wr => Sys2Proof.Machine.execResume wr s
  | .residencyFaultService ent pb => Sys2Proof.Machine.execResidencyFaultService ent pb s
  | .accessCounterScan others => Sys2Proof.Machine.execAccessCounterScan others s
  | .translationEntryWrite ent hi dw => Sys2Proof.Machine.execTranslationEntryWrite ent hi dw s
  | .pageMove ent pb => Sys2Proof.Machine.execPageMove ent pb s
  | .millCoreAccess pa wr dw => Sys2Proof.Machine.execMillCoreAccess pa wr dw s
  | .webClockInitialisation trained => Sys2Proof.Machine.execWebClockInitialisation trained s
  | .go => Sys2Proof.Machine.execGo s
  | .kernelStart ent sh => Sys2Proof.Machine.execKernelStart ent sh s
  | .kernelComplete ab => Sys2Proof.Machine.execKernelComplete ab s
  | .preEmptionRequest => Sys2Proof.Machine.execPreEmptionRequest s
  | .park => Sys2Proof.Machine.execPark s
  | .restore => Sys2Proof.Machine.execRestore s
  | .sheetSleep sh => Sys2Proof.Machine.execSheetSleep sh s
  | .sheetWake sh => Sys2Proof.Machine.execSheetWake sh s
  | .mirrorReloadEnd => Sys2Proof.Machine.execMirrorReloadEnd s
  | .managementTrigger => Sys2Proof.Machine.execManagementTrigger s
  | .externalTrigger src => Sys2Proof.Machine.execExternalTrigger src s
  | .snapshotLatch => Sys2Proof.Machine.execSnapshotLatch s
  | .linkstRead lk => Sys2Proof.Machine.execLinkstRead lk s
  | .registerWrite off dw => Sys2Proof.Machine.execRegisterWrite off dw s
  | .debugHalt => Sys2Proof.Machine.execDebugHalt s
  | .debugResume => Sys2Proof.Machine.execDebugResume s
  | .singleBundleStep => Sys2Proof.Machine.execSingleBundleStep s
  | .unlockToken tok => Sys2Proof.Machine.execUnlockToken tok s
  | .powerGood => Sys2Proof.Machine.execPowerGood s
  | .signedImage img => Sys2Proof.Machine.execSignedImage img s
  | .challenge nonce => Sys2Proof.Machine.execChallenge nonce s
  | .getMeasurements nonce => Sys2Proof.Machine.execGetMeasurements nonce s
  | .submission ent => Sys2Proof.Machine.execSubmission ent s
  | .capThrottling on => Sys2Proof.Machine.execCapThrottling on s
  | .bankExtensionResume => Sys2Proof.Machine.execBankExtensionResume s
  | .debugRegisterAccess wr at_ val => Sys2Proof.Machine.execDebugRegisterAccess wr at_ val s

end Sys2Proof.Machine
end

