-- ==== Sys2Proof/Machine/Issue.lean ====
section
/-! DEFINITION. Issuing the bundle at the PC: its checks, its header, its slots, and what issues next (18, 03, 19). -/

namespace Sys2Proof.Machine

/-- Go on with the next state of an outcome. -/
def bindOut (o : Out) (k : State → Out) : Out :=
  match o with
  | .next s => k s
  | .fault f => .fault f
  | .refused r => .refused r

/-- What a run over the slots of a bundle finds. -/
structure SlotRun where
  s : State
  /-- the fault of the lowest-numbered slot, and whether a slot word failed to decode -/
  flt : Option FaultInfo
  bad : Bool
  /-- the holds of its slots -/
  holds : List Held
  /-- the gate and undo entries that each slot took -/
  took : List (Nat × Nat × Nat)
  /-- a stop that is no fault of the machine -/
  stop : Option Out

/-- Of two faults of a bundle, that of the lower-numbered slot (03 R58). -/
def lowFault (a b : Option FaultInfo) : Option FaultInfo :=
  match a, b with
  | some i, some j => if j.slot < i.slot then some j else some i
  | some i, none => some i
  | none, b => b

/-- An uncommitted entry of the gate buffer counts towards the interval's 64 (21 R377). -/
def Core.gateCount (c : Core) : Nat := (c.gate.filter fun e => !e.committed).length

/-- The slot whose entries first bring the interval above 64 in the gate buffer or 256 in the undo log, counted in
ascending slot order (21 R377, 03 R58). -/
def overflowSlot (gate undo : Nat) : List (Nat × Nat × Nat) → Option Nat
  | [] => none
  | (k, g, u) :: t =>
    if 64 < gate + g ∨ 256 < undo + u then some k else overflowSlot (gate + g) (undo + u) t

/-- Slot 5 holds an MMA or MMAZ, whose A fetch comes before the accesses of units A and B (15 R268). -/
def actsFirst (d : Nat × Except DecodeError Instr) : Bool :=
  match d.2 with
  | .ok (.mma ..) => true
  | .ok (.mmaz ..) => true
  | _ => false

/-- Slot 7 holds a GCM, which waits for what was issued to its tile earlier, and neither for slot 5 of its own bundle nor with
its contribution (15 R276, 09 R167). -/
def actsEarly (d : Nat × Except DecodeError Instr) : Bool :=
  match d.2 with
  | .ok (.gcm ..) => true
  | _ => false

/-- Slot 0 holds an SRD, which reads `lcnt` and `scnt` with the accesses of its own bundle, counted from their issue cycle (17
R309, 18 R338; assumption 77). -/
def actsLast (d : Nat × Except DecodeError Instr) : Bool :=
  match d.2 with
  | .ok (.srd ..) => true
  | _ => false

/-- The slots of a bundle in the order in which they act. -/
def actOrder (ds : List (Nat × Except DecodeError Instr)) : List (Nat × Except DecodeError Instr) :=
  let mma := ds.filter actsFirst
  let gcm := ds.filter actsEarly
  let srd := ds.filter actsLast
  let rest := ds.filter fun d => !actsFirst d && !actsEarly d && !actsLast d
  rest.filter (fun d => d.1 == 0) ++ gcm ++ mma ++ rest.filter (fun d => 0 < d.1 && d.1 < 5)
    ++ rest.filter (fun d => 5 ≤ d.1) ++ srd

/-- One slot of the bundle (03 R57, R58). -/
def runSlot (r : SlotRun) (k : Nat) (d : Except DecodeError Instr) : SlotRun :=
  match r.stop with
  | some _ => r
  | none =>
    match d with
    | .error _ => { r with flt := lowFault r.flt (some (.plain .illegalOperation k)), bad := true }
    | .ok i =>
      match exec i r.s with
      | .next t =>
        match t.core.fault with
        | some f => { r with flt := lowFault r.flt (some { f with slot := k }) }
        | none =>
          if t.core.held ≠ .none ∧ r.s.core.held = .none then
            { r with holds := r.holds ++ [t.core.held] }
          else { r with s := t, took := (k, t.core.gateCount - r.s.core.gateCount, t.core.undo - r.s.core.undo) :: r.took }
      | .fault f => { r with stop := some (.fault f) }
      | .refused f => { r with stop := some (.refused f) }

/-- The entries that slots took, in ascending slot order. -/
def SlotRun.entries (r : SlotRun) : List (Nat × Nat × Nat) :=
  (List.range 8).filterMap fun k => r.took.find? fun x => x.1 == k

/-- All slots in order. -/
def runSlots (r : SlotRun) : List (Nat × Except DecodeError Instr) → SlotRun
  | [] => r
  | (k, d) :: t => runSlots (runSlot r k d) t

/-- The decode error of a slot. -/
def slotFault (ds : List (Nat × Except DecodeError Instr)) (k : Nat) : Option DecodeError :=
  match ds.find? (fun d => d.1 == k) with
  | some (_, .error e) => some e
  | _ => none

/-- The illegal-bundle fault, with the slot that its record names (03 R56, R58). -/
def illegalBundle (s : State) (h : Header) (b : Bundle) : Option Nat :=
  if h.res then some 0
  else if (wordGroups (b.slot 3)).any fun g => (wordGroups (b.slot 4)).contains g then some 4
  else if h.ps && !s.core.seq.atBoundary then some 0
  else none

/-- At bundle end a core that has issued no RM bundle frees its popped entries, which bars a rollback to the entry bundle
(10 R182, 21 R379). -/
def Core.freePops (c : Core) : Core :=
  if c.mark.inForce then c
  else { c with rq := c.rq.map RQueue.free, acted := c.acted || c.rq.toList.any fun q => decide (0 < q.popped) }

/-- A BSWAP waits for the loader, so that the bundle after it is its target (08 R152). -/
def Wait.isSwap : Wait → Bool
  | .bswap _ => true
  | _ => false

/-- After a bundle that carried a TRAP or SYSC: the record names the bundle that would issue next and goes to the
runtime, which aborts the kernel after a TRAP unless its launch entry lets the core resume (18 R336, 19 R347). -/
def State.reportTrap (s : State) : State :=
  match s.core.run, s.core.trapRec with
  | .trapped, some r =>
    let r : TrapRecord := { r with half := s.core.seq.half, index := s.core.seq.index }
    let s := { s with core := { s.core with trapRec := some r }, dev := { s.dev with sent := .trap r :: s.dev.sent } }
    if r.sysc || s.core.tres then s
    else State.abortKernel { s with part := { s.part with tcode := r.code } } 2
  | _, _ => s

/-- POP acts on the heads as they were bound before a CHB or CHU of the bundle (10 R184, R185). -/
def popBefore (q : BitVec 4) (heads : Vector (Option (BitVec 5)) 4) (s : State) : Out :=
  if q = 0 then .next s
  else
    bindOut (exec (.pop q) { s with core := { s.core with heads := heads } }) fun t =>
      .next { t with core := { t.core with heads := s.core.heads } }

/-- A single-bundle step ends: the core halts at the cycle in which the next bundle is due, after the dead cycle of a transfer; that of
a TRAP or SYSC, when the core has resumed (22 R403). -/
def Core.endStep (c : Core) : Core :=
  if !c.stepOnce then c
  else match c.run with
  | .running => { c with stepOnce := false, run := .debugHalted, stopAt := some (c.cyc + 1 + c.dead) }
  | .halted => { c with stepOnce := false }
  | _ => c

/-- After the slots of a bundle: a HALT bundle's own gated operations, which are committed with it while its restart point stays
as it was before them; POP; the taken transfer of slot 0, the swap of a BSWAP, or the loop step; and the stops of TRAP, SYSC and a single-bundle step (18 R324, R326, R336, R337, 22 R403). -/
def endBundle (h : Header) (heads : Vector (Option (BitVec 5)) 4) (s : State) : Out :=
  bindOut (popBefore h.pop heads (if s.core.run = .halted then s.commitEntries else s)) fun s =>
  let c := s.core
  let c := { c.freePops with
    psCount := if h.ps then 0 else c.psCount, newGroup := false, capHeld := false, reloadHeld := false, headHeld := false }
  let c := match c.taken with
    | some t => { c.groupSwitch with
        seq := { half := t.half, index := BitVec.ofNat 10 t.index, loops := t.loops }, taken := none, dead := 1 }
    | none => match c.wait with
      | .bswap t => if c.overlaysDone c.cyc then c.swapTo t else c
      | _ => { c with seq := c.seq.advance }
  .next (State.reportTrap { s with core := c.endStep })

/-- The first issue after a resumption counts one slip (19 R350). -/
def State.firstIssue (s : State) : State :=
  if s.core.slipOnIssue then { s.slips 1 with core := { (s.slips 1).core with slipOnIssue := false } } else s

/-- Whether a bundle's successor would be index 1,024 (18 R324). -/
def fallsOff (s : State) : Bool := s.core.taken.isNone && !s.core.wait.isSwap && s.core.seq.fallsOff

/-- The event that ends a hold of the bundle at the PC. -/
def resumeOf : Held → Option Instr
  | .none => none
  | .queueHead => some .queueHeadResume
  | .busyBit => some .busyBitResume
  | .queueCap => some .queueCapResume
  | .mirrorReload => some .queueCapResume
  | .bankExtension => some .bankExtensionResume

/-- The bundle at the PC is held by some causes; a queue's room and a reload of the mirror each count a slip once (19
R350), and an empty head does when its message comes late (`State.lateHold`). -/
def State.heldBy (s : State) (hs : List Held) : State :=
  let cap := hs.contains .queueCap
  let rel := hs.contains .mirrorReload
  let s := s.slips (b2n (cap && !s.core.capHeld) + b2n (rel && !s.core.reloadHeld))
  { s with core := { s.core with
      capHeld := cap, reloadHeld := rel, headHeld := hs.contains .queueHead && s.core.headHeld, held := hs.headD .none } }

/-- The first bundle of a new group reads zero latches, whatever has landed since the switch (11 R202). -/
def State.enterGroup (s : State) : State :=
  if s.core.newGroup then { s with core := { s.core with lat := .zero, newGroup := false } } else s

/-- What has landed since a group switch stands in the latches for the bundles after the first one; while that is held, it still has
to issue (11 R202). -/
def State.leaveGroup (s t : State) : State :=
  if !s.core.newGroup || t.core.newGroup then t
  else { t with core := { t.core with lat := s.core.lat, newGroup := t.core.held != .none } }

/-- Issue the bundle at the PC as an ordinary bundle: header RM first, then the slots in order (18, 21 R378).  While an RM
bundle holds for a busy tile its slots are looked at as after the commit that it waits for, for their own holds (19 R350). -/
def issuePlain (s0 : State) (h : Header) (ds : List (Nat × Except DecodeError Instr)) (nullified : Bool) : Out :=
  let clear := { s0 with core := { s0.core with held := .none } }
  let busy := h.rm && clear.core.mx.inFlight
  bindOut (if busy then .next clear.commitGate else if h.rm then exec .restartMark clear else .next clear) fun s1 =>
  let r0 : SlotRun := { s := s1, flt := none, bad := false, holds := if busy then [.busyBit] else [], took := [], stop := none }
  let r := if nullified then { r0 with bad := ds.any fun d => d.2.toOption.isNone,
                                       flt := (ds.find? fun d => d.2.toOption.isNone).map fun d =>
                                         FaultInfo.plain .illegalOperation d.1 }
           else runSlots r0 (actOrder ds)
  match r.stop with
  | some o => o
  | none =>
    if !r.holds.isEmpty && !r.bad then .next (s0.heldBy r.holds)
    else
      let flt := if fallsOff r.s then some (.plain .illegalOperation 0) else r.flt
      let base := if r.s.core.run = .halted then s1.commitGate.core else s1.core
      let past := if base.mark.inForce then overflowSlot base.gateCount base.undo r.entries else none
      let flt := lowFault flt (past.map fun k => FaultInfo.plain .markOverflow k)
      match flt with
      | some f => .next (clear.takePrecise f)
      | none =>
        match resumeOf s0.core.held with
        | none => endBundle h s1.core.heads r.s.firstIssue
        | some ev => bindOut (exec ev s0) fun _ => endBundle h s1.core.heads r.s.firstIssue

/-- The bundle at the PC lies in poisoned granules of the instruction store (21 R382). -/
def Core.bundlePoisoned (c : Core) : Bool := c.poison.contains (2 ^ 22 + 1024 * c.seq.half.toNat + c.seq.index.toNat)

/-- The present cycle takes the fault of a poisoned granule that slot 0 has read (21 R382; assumption 95). -/
def State.slot0Poison (s : State) (va : Nat) : State :=
  { s with core := { s.core with
      lateDue := s.core.raiseLate (some { poisonFault .read va with slot := 0, word := s.core.slotWord 0 }) } }

/-- A skip run from the PC: the masks to pop, and the first bundle that fails a check, or that cannot be read (18 R334, 21 R382). -/
def skipRun : Nat → State → List (BitVec 4) → State × List (BitVec 4) × Option FaultInfo
  | 0, s, ps => (s, ps, none)
  | n + 1, s, ps =>
    let b := s.core.bundle
    let h := Header.of (b.slot 0)
    let ds := decodeBundle b
    if s.core.bundlePoisoned then (s, ps, some (poisonFault .read 0))
    else if s.nullified b && h.sk && !h.ps && !h.rm then
      match illegalBundle s h b with
      | some k => (s, ps, some (.plain .illegalBundle k))
      | none =>
        if s.core.seq.fallsOff then (s, ps, some (.plain .illegalOperation 0))
        else match ds.find? fun d => d.2.toOption.isNone with
        | some d => (s, ps, some (.plain .illegalOperation d.1))
        | none =>
          let s' := { s with core := { s.core with seq := s.core.seq.advance } }
          if s.core.seq.atEnd then (s', ps ++ [h.pop], none) else skipRun n s' (ps ++ [h.pop])
    else (s, ps, none)

/-- Apply POP masks in order. -/
def popAll (s : State) : List (BitVec 4) → Out
  | [] => .next s
  | q :: t => bindOut (if q = 0 then .next s else exec (.pop q) s) fun s => popAll s t

/-- Slot 0 of the bundle at the PC raises the illegal-operation fault: by its word, by what its instruction finds, or because the
bundle has no successor (18 R324, 03 R58). -/
def controlIllegal (s : State) (ds : List (Nat × Except DecodeError Instr)) (nul : Bool) : Bool :=
  match ds.find? fun d => d.1 == 0 with
  | some (_, .ok i) =>
    if nul then fallsOff s
    else match exec i s with
      | .next t => (t.core.fault.any fun f => f.kind == .illegalOperation) || fallsOff t
      | _ => fallsOff s
  | _ => true

/-- A run of skipped bundles has been issued: its POP masks have acted (18 R334). -/
def State.endRun (s : State) : State :=
  { s with core := Core.endStep { s.core.freePops with newGroup := false, capHeld := false, reloadHeld := false, headHeld := false } }

/-- Issue what is due at the PC, with latches as the bundle reads them (18 R324 to R334, 21 R385 to R387).  Of two faults of slot 0 the
spec ranks the illegal operation first; the model takes the watchdog before a violation of SRD or SWR and before a misaligned or
out-of-table word of WMW (03 R58; assumption 34). -/
def issueDue (s : State) : Out :=
  let b := s.core.bundle
  let h := Header.of (b.slot 0)
  let ds := decodeBundle b
  let nul := s.nullified b
  let slow := s.core.r.preb ≠ 0 ∧ s.core.r.preb.toNat ≤ s.core.psCount ∧ !h.ps
  if slow ∧ (illegalBundle s h b).isNone then
    (if controlIllegal s ds nul then .next (s.takePrecise (.plain .illegalOperation 0)) else exec .watchdog s)
  else if nul && h.sk && !h.ps && !h.rm then
    let (s', ps, flt) := skipRun 1024 s []
    match flt with
    | some f => .next (if f.kind = .uncorrectableData then s.slot0Poison 0 else { s with core := { s.core with seq := s'.core.seq } }.takePrecise f)
    | none => bindOut (popAll s'.firstIssue ps) fun s => .next s.endRun
  else
    match illegalBundle s h b with
    | some k => .next (s.takePrecise (.plain .illegalBundle k))
    | none =>
      if h.ps && s.core.preReq then
        let s := s.commitGate
        .next { s with core := { s.core with run := .draining, held := .none } }
      else issuePlain s h ds nul

/-- Issue what is due at the PC; the first bundle of a new group reads zero latches, and a poisoned bundle does not issue (11 R202, 21
R382). -/
def issueBundle (s : State) : Out :=
  if s.core.bundlePoisoned then .next (s.slot0Poison 0)
  else bindOut (issueDue s.enterGroup) fun t => .next (s.leaveGroup t)

/-- The word that a WMW waits for lies in a poisoned granule (21 R382). -/
def Core.wordPoisoned (c : Core) : Option Nat :=
  match c.wait with
  | .wmw q off _ _ => if c.poison.contains (poisonGran q off) then some off else none
  | _ => none

/-- What the sequencer does in one region cycle (18, 19 R350).  While a WAITC, WMW, WSAMP or IFENCE holds issue, the bundle behind it
raises the watchdog at the bound whatever its own slots hold: they are judged when it is due to issue (21 R386; assumption 32). -/
def issueStage (s : State) : Out :=
  let c := s.core
  match c.run with
  | .running =>
    if 0 < c.dead then .next { s with core := { c with dead := c.dead - 1 } }
    else match c.wordPoisoned with
    | some off => .next (s.slot0Poison off)
    | none =>
      match s.waitEnd with
      | none => issueBundle s
      | some none =>
        if c.r.preb ≠ 0 ∧ c.r.preb.toNat ≤ c.psCount ∧ !(Header.of (c.slotWord 0)).ps then exec .watchdog s
        else .next s
      | some (some ev) =>
        bindOut (exec ev s) fun s =>
          if 0 < s.core.dead then .next s else issueBundle { s with core := s.core.landDue }
  | .draining => if s.drained && s.allArrived then exec .park s else .next s
  | .halted => if c.preReq && s.drained && s.allArrived then exec .park s else .next s
  | _ => .next s

end Sys2Proof.Machine
end

