-- ==== Sys2Proof/Machine/WebCycle.lean ====
section
/-! DEFINITION. One web cycle: the events of the module that fall due at its start, and what leaves in its slots (05 R91 to
R95, 09 R153 to R170, 10 R171 to R191, 20 R357). -/

namespace Sys2Proof.Machine

/-- Events in order; one that is not due in the present state is passed over. -/
def State.runEvents (s : State) : List Instr → State
  | [] => s
  | i :: t =>
    match exec i s with
    | .next u => State.runEvents u t
    | _ => State.runEvents s t

/-! ## What arrives -/

/-- The events of the module that are due. -/
def State.agendaEvents (s : State) : State :=
  let due := s.agenda.filter fun e => decide (e.1 ≤ s.web)
  if due.isEmpty then s
  else State.runEvents { s with agenda := s.agenda.filter fun e => decide (s.web < e.1) } (due.map (·.2))

/-- The channels on which a held slot starts in this web cycle, or a request of this core may be served (05 R91, R92, 07 R131). -/
def State.slotEvents (s : State) : List Instr :=
  if s.web % Config.slotCycles ≠ 0 then []
  else (distinct ((s.core.slotsHeld.filter fun h => if h.best then decide (h.start ≤ s.web) else h.start == s.web).map (·.channel))).map
    fun ch => .hbmSlot (BitVec.ofNat 9 ch)

/-- The HBM groups of a command that are chosen in this web cycle, one after another (07 R131, 21 R380). -/
def State.chooseGroups (id : Nat) : Nat → State → State
  | 0, s => s
  | n + 1, s => match (s.core.cmd id).bind s.groupEvent with
    | some e => State.chooseGroups id n (s.runEvents [e])
    | none => s

/-- Groups are chosen command by command, and the slots of this web cycle are served, until no more groups become due: a group may
take a slot that starts where that of the one before it does (07 R131). -/
def State.serveSlots : Nat → State → State
  | 0, s => s
  | n + 1, s =>
    let s := (s.core.cmds.map (·.id)).foldl (fun (s : State) id => State.chooseGroups id 400 s) s
    let s := s.runEvents s.slotEvents
    if s.core.cmds.any fun k => (s.groupEvent k).isSome then State.serveSlots n s
    else { s with core := (s.core.dropTurns s.web).dropIdeals }

/-- The command of an engine write is under way, or the write belongs to none (07 R140). -/
def Core.wanted (c : Core) (w : EngWrite) : Bool :=
  match w.cmd with
  | none => true
  | some (id, _) => w.place == .away || c.cmds.any fun k => k.id == id && !k.stopped

/-- A copy beat performs at another core: its bytes are counted, whatever becomes of its command (07 R140). -/
def Core.countRemote (c : Core) (w : EngWrite) : Core :=
  match w.place, w.cmd with
  | .remote _, some (id, n) =>
    c.setCmd id fun k => { k with counted := if k.counted.contains n then k.counted else n :: k.counted }
  | _, _ => c

/-- What the other core is told of a copy beat that has left for it: that it does not perform, or that its data have erred (07 R140, 21
R382). -/
def EngWrite.report (w : EngWrite) (wanted : Bool) : List Sent :=
  match w.place with
  | .remote fl => if !wanted then [.withdrawn fl] else if w.data == poison512 && w.bad.isSome then [.poisoned fl] else []
  | _ => []

/-- A write of the web side arrives; one whose command has stopped does not perform, and leaves only its entries (07 R124, R140, 05
R104). -/
def State.arriveOne (s : State) (w : EngWrite) : State :=
  let ok := s.core.wanted w
  let s := { s with dev := { s.dev with sent := w.report ok ++ s.dev.sent } }
  if ok then
    State.receive { (if w.port = 2 then s.throughPort s.core.pos else s) with core := s.core.countRemote w } w.port (.write w)
  else { s with core := s.core.forget (w.ents.map (·.1)) }

/-- The writes that arrive in this web cycle. -/
def State.arrivals (s : State) : State :=
  let due := s.arriving.filter fun e => decide (e.1 ≤ s.web)
  if due.isEmpty then s
  else (due.map (·.2)).foldl State.arriveOne { s with arriving := s.arriving.filter fun e => decide (s.web < e.1) }

/-- The packets of this model that the mirrors apply in this web cycle (09 R160). -/
def State.applyEvents (s : State) : List Instr :=
  (s.felt.filter fun f => !f.applied && s.web == 2 * f.beat + 10).map fun f => .feltPacketApply f.pk

/-- The links, by number. -/
def State.linkNumbers (s : State) (p : Link → Bool) : List (BitVec 4) :=
  ((List.range 16).filter fun n => match s.links[n]? with
    | some l => p l
    | none => false).map (BitVec.ofNat 4)

/-- The links that the destination gateway may forward from in this web cycle, the oldest message first: its slot carries
one flit (10 R189). -/
def State.forwardEvents (s : State) : List Instr :=
  let due := s.linkNumbers fun l => l.recv.any fun m => decide (m.due ≤ s.web)
  let at_ : BitVec 4 → Nat := fun lk => match (s.link_ lk).recv with
    | m :: _ => m.due
    | [] => 0
  let ord := due.foldl (fun r x => insertBy (fun (a b : BitVec 4) => decide (at_ a ≤ at_ b)) x r) []
  let here := ord.filter fun lk => match (s.link_ lk).recv with
    | m :: _ => m.dtix.toNat / 64 == s.core.tix.toNat / 64 && s.gwSent != s.web + 1 && s.pairOwns 64 (BitVec.ofNat 7 (m.dtix.toNat % 64)) s.web
    | [] => false
  let away := ord.filter fun lk => match (s.link_ lk).recv with
    | m :: _ => m.dtix.toNat / 64 != s.core.tix.toNat / 64
    | [] => false
  (here.take 1 ++ away).map .gatewayForward

/-- The region watches for edges of the reference of the web clock (20 R357, R358). -/
def State.watchesEdges (s : State) : Bool :=
  s.onWebRef && (!s.inFabric || s.region.gated) && (s.web - s.region.base) % 27 == 0
    && match s.region.st with
      | .acq => true
      | .track | .limit | .relock => s.occupied
      | _ => false

/-- Nominal periods of the source, to the nearest, from the frozen boundary to the present web cycle of 2.7 GHz; an edge of the
reference comes in every period, so that otherwise one has passed (20 R357, R360). -/
def State.edgePeriods (s : State) : Nat :=
  if s.region.st = .relock then
    (2 * (s.web - s.region.ended) * (bitsAt s.region.rnom 0 28).toNat + 2700000000) / 5400000000
  else 1

/-- An edge of that reference; whether it lies far from the end of the budget is free unless the
region is in step at the ratio 27 (20 R357, R364; assumption 2). -/
def State.edgeEvents (s : State) : State :=
  if s.watchesEdges then
    if s.inFabric then s.runEvents [.sourceEdge false s.edgePeriods]
    else
      let (x, s) := s.drawBelow 2
      s.runEvents [.sourceEdge (x == 1) s.edgePeriods]
  else s

/-- The translation entries that the mill cores have written take effect at the end of the web cycle, and so does a clearing of ACC (05 R103, R104); what other cores and
the pages of a half are is theirs. -/
def State.takeEntries (s : State) : State :=
  if s.dev.xlatNew.isEmpty ∧ s.dev.accNew.isEmpty then s
  else
    let s := s.dev.accNew.foldl (fun (s : State) k => { s with core := s.core.setEntry k (noAcc (s.core.entry k)) }) s
    let s := s.dev.xlatNew.foldl State.takeEntry s
    let s := if s.dev.xlatNew.isEmpty then s
      else { s with core := { s.core with cmds := s.core.cmds.map fun k => { k with shifted := true } } }
    { s with dev := { s.dev with xlatNew := [], accNew := [] } }

/-- What a new web revolution and a new web cycle clear (10 R176, 19 R340, 05 R94). -/
def State.newWeb (s : State) : State :=
  let s := if s.web % 256 = 0 then { s with core := { s.core with sentRev := [] }, part := { s.part with reamPast := s.part.reamSent, reamSent := [] } } else s
  { s with core := { s.core with usedSlots := [], outgoing := s.core.outgoing.filter fun t => decide (s.web ≤ t) } }

/-- The settings and contributions at the gateway reach their cells in this web cycle, after those of the last are added up (09 R166,
R167). -/
def State.cellsAct (s : State) : State :=
  let s := s.closeCells.settingsDue
  s.runEvents ((s.gw.adds.filter fun a => s.atGateway a.due a.at_).map fun a => .gatewayContribution a.cell (.add a.con))

/-- The module's side of a web cycle, up to the start of the region cycle that begins with it. -/
def State.webStart (s : State) : State :=
  let s := if s.web % 4608 = 0 then s.heatLevels else s
  let s := { s with part := s.part.dropBlocked s.web }
  let s := s.takeEntries.newWeb
  let s := if s.region.still then { s with core := s.core.markFrozen } else s
  let s := s.serveSlots 400
  let s := s.agendaEvents.arrivals.cellsAct
  let s := s.runEvents s.applyEvents
  let s := if s.inFabric || s.region.still then (s.feltLater.waitSee 0).agendaEvents else s
  let s := (s.linkNumbers fun l => !l.waiting.isEmpty).foldl State.pumpLink s
  let s := s.runEvents ((s.linkNumbers fun l => l.cut.any fun t => decide (t ≤ s.web)).map .missedArrival)
  let s := s.runEvents s.forwardEvents
  let s := s.runEvents ((s.dev.snapAt.filter fun t => decide (t ≤ s.web)).map fun _ => .snapshotLatch)
  let s := if s.reload.any fun t => decide (t ≤ s.web) then s.runEvents [.mirrorReloadEnd] else s
  s.edgeEvents

/-- What leaves in the slots of a web cycle (09 R158, R168, 10 R183). -/
def State.webSlots (s : State) : State :=
  let s := if s.feltReady.isSome then s.runEvents [.feltSend false] else s
  let s := if s.gatewayReady.isSome then s.runEvents [.feltSend true] else s
  if s.slotWanted then s.runEvents [.webFlitSend] else s

end Sys2Proof.Machine
end

