-- ==== Sys2Proof/Machine/Start.lean ====
section
/-! DEFINITION. The start of a region cycle: the writes that the cycle shows, in the order of R126, and the results that land
(07 R124, R126, R134, 17 R305 to R308, 03 R59). -/

namespace Sys2Proof.Machine

/-! ## Stores and fenced atomics -/

/-- A store is shown by the image, which three cycles before its last bank cycle is what an access reads (07 R126). -/
def Core.showStore (c : Core) (x : Store) : Core :=
  let old := x.bytes.map fun b => (b.1, Memory.byte c.scratch b.1)
  let c := c.writePad x.bytes
  { c with stores := c.stores.map fun y => if y.seq = x.seq then { y with applied := true, old := old } else y }

/-- The core's own accesses whose turn has come, in issue order (07 R126); an old value that a stopped core has not landed counts until
it does (17 R309, 21 R381). -/
def State.ownAccesses (s : State) : State :=
  let c := s.core
  let st := (c.stores.filter fun x => !x.applied && decide (x.w ≤ c.cyc + 3)).map fun x => (x.seq, (Sum.inl x : Store ⊕ AtomAccess))
  let at_ := (c.atoms.filter fun a => a.at_ == c.cyc).map fun a => (a.seq, (Sum.inr a : Store ⊕ AtomAccess))
  let all := (st ++ at_).foldl (fun r x => insertBy (fun (a b : Nat × (Store ⊕ AtomAccess)) => decide (a.1 ≤ b.1)) x r) []
  let s := all.foldl (fun (s : State) x => match x.2 with
    | .inl y => { s with core := s.core.showStore y }
    | .inr a => s.atomAct a) s
  let c := s.core
  let stays := fun (due : Nat) => c.frozen c.cyc || decide (c.cyc < due)
  { s with core := { c with
      acted := c.acted || c.stores.any fun x => decide (x.w ≤ c.cyc)
      stores := c.stores.filter fun x => decide (c.cyc < x.w)
      atoms := c.atoms.filter fun a => decide (c.cyc < a.at_) || stays a.due
      awaiting := c.awaiting.filter fun a => a.due.all stays
      scntUntil := c.scntUntil.filter fun n => decide (c.cyc ≤ n) } }

/-- The HBM and remote atomics whose performing the region knows leave `scnt` (17 R309, 20 R362). -/
def State.leaveCount : List Nat → State → State
  | [], s => s
  | t :: ts, s =>
    let (gone, s) := s.crossed (t + 1)
    State.leaveCount ts (if gone then s else { s with core := { s.core with scntWeb := s.core.scntWeb ++ [t] } })

/-- The web cycles of departures that the region does not know yet (20 R362). -/
def State.unknownYet : List Nat → State → List Nat × State
  | [], s => ([], s)
  | t :: ts, s =>
    let (known, s) := s.crossed t
    let (l, s) := State.unknownYet ts s
    (if known then l else t :: l, s)

/-- What the region learns of its queues and of the mirror's reload in this cycle (20 R362). -/
def State.learnQueues (s : State) : State :=
  let (f, s) := State.unknownYet s.core.feltGone s
  let (g, s) := State.unknownYet s.core.sendGone s
  let (r, s) := State.unknownYet s.core.reloadEnd.toList s
  { s with core := { s.core with feltGone := f, sendGone := g, reloadEnd := r.head? } }

/-- What the region learns of the web side in this cycle (20 R362). -/
def State.learn (s : State) : State :=
  let s := if s.core.feltGone.isEmpty && s.core.sendGone.isEmpty && s.core.reloadEnd.isNone then s else s.learnQueues
  let s := if s.core.scntWeb.isEmpty then s
    else State.leaveCount s.core.scntWeb { s with core := { s.core with scntWeb := [] } }
  let s := if s.inFabric then s else s.feltLater
  s.takeInbound

/-! ## Engine writes and raises -/

/-- The bytes of an engine write go to their place. -/
def State.placeData (s : State) (w : EngWrite) : State :=
  let c := s.core
  match w.place with
  | .pad off => { s with core := c.writePad (cellsOf off 64 w.data.toNat) }
  | .wbuf off => { s with core := c.writeWbuf off 64 w.data.toNat }
  | .phys pa => { s with hbm := Memory.writeNat s.hbm pa 64 w.data.toNat }
  | .loader n =>
    match w.cmd with
    | some (id, _) => { s with core := c.setCmd id fun k => { k with fetched := k.fetched ++ [(n, w.data)], fetchEnd := c.cyc } }
    | none => s
  | .away | .remote _ => s

/-- A beat that has been written counts for its command, or an arrival raises its word (07 R134, R135, 17 R312). -/
def Core.countWrite (c : Core) (w : EngWrite) : Core :=
  match w.cmd, w.wm with
  | some (id, n), wm => c.beatDone id n wm
  | none, some off => { c with raises := c.raises ++ [{ due := c.cyc, off := off, bytes := 64 }] }
  | none, none => c

/-- A command whose data have come with a fault moves no more (07 R140, 21 R382). -/
def Core.haltCmd (c : Core) (w : EngWrite) : Core :=
  match w.bad, w.cmd with
  | some _, some (id, _) => (c.setCmd id fun k => { k with stopped := true, finish := none }).dropCmds (· == id)
  | _, _ => c

/-- An engine write performs; one that faults leaves PND without counting in ACC, and stops its command (07 R124, R126, R140, 05
R103). -/
def State.performWrite (s : State) (w : EngWrite) : State :=
  let s := match w.atm, w.wms, w.place with
    | some a, _, .pad off => s.atomRemote off a
    | _, some tgt, .pad off => { s with core := { s.core with scratch := setWord s.core.scratch off tgt } }
    | _, _, _ => s.placeData w
  let c := (if w.bad.isSome then s.core.forget (w.ents.map (·.1)) else s.core.performAll w.ents).countWrite w
  { s with core := { c.haltCmd w with lateDue := c.raiseLate w.bad } }

/-- A write of the present cycle is written again, over one of a lower port that has come after it (07 R124). -/
def State.redoWrite (s : State) (w : EngWrite) : State :=
  match w.wms, w.place with
  | some tgt, .pad off => { s with core := { s.core with scratch := setWord s.core.scratch off tgt } }
  | none, .pad _ => s.placeData w
  | _, _ => s

/-- The raises of the present cycle are made again, on the words as its writes have left them (07 R126, R134). -/
def State.redoRaises (s : State) : State :=
  s.core.raised.foldl (fun (s : State) r =>
    if r.cyc = s.core.cyc ∧ r.web = (if s.region.still then s.web else 0) then
      let old := BitVec.ofNat 128 (Memory.readNat s.core.scratch r.off 16)
      { s with core := { s.core with
          scratch := raiseWord s.core.scratch r.off r.bytes
          raised := s.core.raised.map fun x => if x = r then { r with old := old } else x } }
    else s) s

/-- The scratchpad after the writes of ports 0 to 2 of the present moment (07 R124). -/
def State.keepPre (s : State) (more : List EngWrite) (fresh : Bool) : State :=
  { s with core := { s.core with
      preAt := s.moment + 1, pre := s.core.scratch, later := if fresh then more else s.core.later ++ more } }

/-- The engine writes that are due, by port.  One of ports 0 to 2 that comes after writes of higher ports of the same cycle goes under
them (07 R124, R126). -/
def State.engineWrites (s : State) : State :=
  let c := s.core
  let due := c.engW.filter fun w => decide (w.due ≤ c.cyc)
  let fresh := decide (c.preAt ≠ s.moment + 1)
  if due.isEmpty then (if fresh then s.keepPre [] true else s)
  else
    let ord := due.foldl (fun r x => insertBy (fun (a b : EngWrite) => decide (a.port ≤ b.port)) x r) []
    let low := ord.filter fun w => decide (w.port ≤ 2)
    let high := ord.filter fun w => decide (2 < w.port)
    let s := { s with core := { c with engW := c.engW.filter fun w => decide (c.cyc < w.due) } }
    if fresh then high.foldl State.performWrite ((low.foldl State.performWrite s).keepPre high true)
    else if low.isEmpty then high.foldl State.performWrite { s with core := { s.core with later := s.core.later ++ high } }
    else
      let s := low.foldl State.performWrite { s with core := { s.core with scratch := s.core.pre } }
      let s := s.core.later.foldl State.redoWrite (s.keepPre high false)
      (high.foldl State.performWrite s).redoRaises

/-- A raise of a watermark word; those of one cycle are one raise, which starts from the word as it stood before the first (07
R134).  A raise reads its word, so that a poisoned granule is the uncorrectable-data fault (21 R382; assumption 95). -/
def State.raiseOne (s : State) (off bytes : Nat) : State :=
  let c := s.core
  let web := if s.region.still then s.web else 0
  let now := c.raised.filter fun r => r.cyc == c.cyc && r.web == web
  let bad := if c.poison.contains (poisonGran false off) then some { poisonFault .write off with slot := 7 } else none
  let c := { c with lateDue := c.raiseLate bad }
  match now.find? fun r => r.off == off with
  | some r =>
    let m := raiseWord (Memory.writeNat c.scratch off 16 r.old.toNat) off (r.bytes + bytes)
    { s with core := { c with scratch := m, raised := now.map fun x => if x.off = off then { x with bytes := x.bytes + bytes } else x } }
  | none =>
    let r : Raised := { cyc := c.cyc, web := web, off := off, bytes := bytes, old := BitVec.ofNat 128 (Memory.readNat c.scratch off 16) }
    { s with core := { c with scratch := raiseWord c.scratch off bytes, raised := r :: now } }

/-- The raises that are due: those of one word are one raise (07 R134). -/
def State.raisesDue (s : State) : State :=
  let c := s.core
  let due := c.raises.filter fun r => decide (r.due ≤ c.cyc)
  if due.isEmpty then s
  else
    let total := fun (off : Nat) => ((due.filter fun r => r.off == off).map (·.bytes)).foldl (· + ·) 0
    (distinct (due.map (·.off))).foldl (fun (s : State) off => s.raiseOne off (total off))
      { s with core := { c with raises := c.raises.filter fun r => decide (c.cyc < r.due) } }

/-- One message of a queue that the gateway forwarded is pushed. -/
def pushedFrom (qn : BitVec 5) : List (BitVec 5 × Bool) → List (BitVec 5 × Bool)
  | [] => []
  | x :: t => if x.1 = qn then t else x :: pushedFrom qn t

/-- The messages whose push is due enter their queues, a gateway's first (10 R180). -/
def State.takePushes (s : State) : State :=
  let c := s.core
  let due := c.pushes.filter fun p => decide (p.1 ≤ c.cyc)
  if due.isEmpty then s
  else
    let ord := due.foldl (fun r x => insertBy (fun (a b : Nat × Nat × BitVec 5 × Msg) => decide (a.2.1 ≤ b.2.1)) x r) []
    let put := fun (v : Vector RQueue 32) (p : Nat × Nat × BitVec 5 × Msg) =>
      let q := v[p.2.2.1.toNat]
      v.set p.2.2.1.toNat { q with msgs := q.msgs ++ [p.2.2.2] }
    { s with core := { c with
        pushes := c.pushes.filter fun p => decide (c.cyc < p.1), rq := ord.foldl put c.rq
        forwarded := ord.foldl (fun l p => if p.2.1 = 1 then pushedFrom p.2.2.1 l else l) c.forwarded } }

/-- What accesses of the present cycle see is the image that write data and remote beats of it take (07 R126, R131). -/
def Core.seeImage (c : Core) : Core :=
  match c.hist with
  | x :: t => if x.cyc = c.cyc then { c with hist := { x with mem := c.scratch } :: t } else c
  | [] => c

/-- The writes and raises that the web side brings to a core of the fabric group in the present cycle, or to one that stands still
in a region without pulses; any other core takes them in at the start of a cycle (20 R359, R362, 07 R126). -/
def State.settle (s : State) : State :=
  if s.inFabric || s.region.still then
    let s := s.takeInbound.engineWrites.raisesDue.waitSee 0
    { s with core := s.core.seeImage }
  else s

/-! ## Landings -/

/-- The weight buffer takes the lines of MLDW at their landings, and loads that have landed leave the queue; those from
before the restart mark stay until the next one (15 R282, 17 R309, 21 R381). -/
def Core.loadsLand (c : Core) : Core :=
  let due := fun (l : Load) => l.done && decide (l.land.due ≤ c.cyc)
  let wb := fun (l : Load) => match l.form with
    | .wbuf _ => true
    | _ => false
  let c := (c.loads.filter fun l => due l && wb l).foldl (fun (c : Core) l => match l.form with
    | .wbuf off => { c.writeWbuf off 128 l.land.val.toNat with lateDue := c.raiseLate l.land.bad }
    | _ => c) c
  { c with loads := c.loads.filter fun l => !(due l && (wb l || (l.markRem.isNone && !c.frozen c.cyc))) }

/-- An IFENCE wait that is over sends its predicate to land with the results of this cycle (08 R151, 11 R206). -/
def State.fenceEnds (s : State) : State :=
  match s.core.run, s.core.wait with
  | .running, .ifence _ => s.runEvents [.ifenceResume]
  | .running, .fenced _ => s.runEvents [.ifenceResume]
  | _, _ => s

/-- The start of the region cycle that `cyc` numbers. -/
def State.startCycle (s : State) : State :=
  let s := { s with starts := (s.web :: s.starts).take 4 }
  let s := (s.learn.waitSee 0).agendaEvents.sendCells
  let s := s.runEvents ((s.core.xline.filter fun l => decide (l.1 ≤ s.core.cyc)).map fun l =>
    .crossingLineArrival l.2.1 (.line l.2.2.1 l.2.2.2))
  let s := s.ownAccesses.waitSee 3
  let s := s.engineWrites.raisesDue.waitSee 0
  let now : Image := { cyc := s.core.cyc, web := s.web, mem := s.core.scratch }
  let s := { s with core := { s.core with hist := (now :: s.core.hist).take 24 } }
  let done := (s.core.cmds.filter fun k => !k.stopped && k.finish.any fun f => decide (f ≤ s.core.cyc)).map fun k => Instr.overlayFinish k.id
  let s := (s.runEvents done).fenceEnds
  { s with core := s.core.landDue.sumProdLand.matrixLand.loadsLand }

end Sys2Proof.Machine
end

