-- ==== Sys2Proof/Machine/Cycle.lean ====
section
/-! DEFINITION. One step without an external event: a region cycle, or a web cycle in which the region gets no pulse (18, 20
R354 to R374, 21 R380, 22 R393). -/

namespace Sys2Proof.Machine

/-! ## After issue -/

/-- The value of a load, at its places in the register and in the latch (12 R217 to R220, 17 R320). -/
def LoadForm.fill (f : LoadForm) (x : Nat) (l : Landing) : Landing :=
  let both := fun (v : Line) => { l with val := v, lval := v }
  match f with
  | .line => both (BitVec.ofNat 1024 x)
  | .wbuf _ => both (BitVec.ofNat 1024 x)
  | .scalar n sext => both (BitVec.ofNat 1024 (if sext then (sext64 (8 * n) x).toNat else x % 2 ^ (8 * n)))
  | .bcast n => both (ofElems (8 * n) (128 / n) fun _ => x)
  | .bfold rnd =>
    let r := binFold (BitVec.ofNat 512 x) rnd.toNat
    { both (BitVec.ofNat 1024 r.v) with flg := r.f }

/-- The uncorrectable-data fault of a load (21 R382). -/
def Load.poisonInfo (l : Load) : FaultInfo :=
  { poisonFault .read (match l.bytes with
      | b :: _ => b.2
      | [] => 0) with slot := l.land.slot, word := l.word }

/-- A load reads: its result goes on its way, and one from before the restart mark enters the mark snapshot (07 R125, R126,
21 R381). -/
def State.readLoad (s : State) (l : Load) : State :=
  let x := loadNat (s.loadByte l) l.bytes
  let bad := if s.loadPoisoned l then some l.poisonInfo else l.land.bad
  let r := { l.form.fill x l.land with bad := bad }
  let s := { s with core := { s.core with
    loads := s.core.loads.map fun y => if y.seq = l.seq then { y with land := r, done := true } else y } }
  match l.form with
  | .wbuf _ => s
  | _ =>
    let s := s.fly r
    match l.markRem with
    | none => s
    | some n =>
      let m := s.core.mark
      { s with core := { s.core with mark := { m with snap := insertBy Landing.le { r with due := m.cyc + n } m.snap } } }

/-- The loads whose reading cycle this is. -/
def State.readLoads (s : State) : State :=
  (s.core.loads.filter fun l => !l.done && decide (l.readAt ≤ s.core.cyc)).foldl State.readLoad s

/-- The copy engine's work of the cycle, command by command in start order (07 R130, R131). -/
def State.engineWork (s : State) : State :=
  (s.core.cmds.map (·.id)).foldl (fun (s : State) id => match s.core.cmd id with
    | some k => s.runEvents (s.cmdEvents k)
    | none => s) s

/-- The late faults that this cycle takes (21 R380). -/
def Core.lateNow (c : Core) : List FaultInfo := (c.lateDue.filter fun x => decide (x.1 ≤ c.cyc)).map (·.2)

/-- The fault of the lowest slot (21 R380). -/
def lowestSlot : List FaultInfo → Option FaultInfo
  | [] => none
  | i :: t => match lowestSlot t with
    | some j => if j.slot < i.slot then some j else some i
    | none => some i

/-- A kernel runs on the core, so that it takes late faults. -/
def Core.takesLate (c : Core) : Bool :=
  match c.run with
  | .idle | .parked | .aborted => false
  | _ => true

/-- A late fault of this cycle is taken: the one of the lowest slot (21 R379, R380). -/
def State.takeLates (s : State) : State :=
  match lowestSlot s.core.lateNow with
  | none => s
  | some i =>
    let s := { s with core := { s.core with lateDue := s.core.lateDue.filter fun x => decide (s.core.cyc < x.1) } }
    if s.core.takesLate then s.takeLate i else s

/-- The bundle at the PC, when no head but one is bound, holds for an empty head (10 R181). -/
def State.readsHead (s : State) (h : Nat) : Bool :=
  let c := s.core
  let heads := Vector.ofFn fun (i : Fin 4) => if i.val = h then c.heads[i.val] else none
  let r0 : SlotRun :=
    { s := { s with core := { c with held := .none, heads := heads } }, flt := none, bad := false, holds := [], took := [], stop := none }
  !s.nullified c.bundle && (runSlots r0 (actOrder (decodeBundle c.bundle))).holds.contains .queueHead

/-- The bundle at the PC waits for a message of a queue. -/
def State.awaitsQueue (s : State) (qn : BitVec 5) : Bool :=
  (List.range 4).any fun h => (s.core.heads[h]?).getD none == some qn && s.readsHead h

/-- A message that came late over a SLIPPED link ends a hold, which counts one slip (10 R191). -/
def State.lateHold (s : State) : State :=
  let c := s.core
  let late := fun (qn : BitVec 5) => (c.forwarded.find? fun x => x.1 == qn).any (·.2)
  if c.held == .queueHead && !c.headHeld
      && (c.pushes.any fun p => decide (p.1 ≤ c.cyc) && p.2.1 == 1 && late p.2.2.1 && s.awaitsQueue p.2.2.1) then
    { s.slips 1 with core := { (s.slips 1).core with headHeld := true } }
  else s

/-- The pushes of the present cycle (10 R180). -/
def State.pushAll (s : State) : State := s.lateHold.takePushes

/-- What the engines do in a cycle after issue, before late faults. -/
def State.engines (s : State) : State :=
  let s := s.engineWork.remoteSource.readLoads
  let s := s.matrixFinish.sumProdFinish.pushAll
  { s with core := s.core.retire }

/-- The rest of a cycle after issue.  A late fault outranks a precise fault of the same cycle, whose bundle then has not
issued (21 R380). -/
def State.afterIssue (before after : State) : State :=
  let s := after.engines
  let s := if s.core.lateNow.isEmpty || after.core.stopAt != some after.core.cyc || before.core.stopAt == after.core.stopAt then s
    else before.engines
  let s := s.takeLates
  match s.core.wait with
  | .waitc .. => s.runEvents [.waitcResume]
  | _ => s

/-- A kernel on one core is complete when that core is (19 R347); with more cores the event comes from outside. -/
def State.completes (s : State) : State :=
  if s.core.run = .halted ∧ s.part.resident.isSome ∧ s.part.cores = 0 ∧ s.allPerformed then s.runEvents [.kernelComplete none] else s

/-! ## Time -/

/-- Committed entries of the gate buffer leave; the first that has no room counts a slip (21 R378). -/
def State.releaseAll (s : State) : State :=
  if s.core.gate.isEmpty then s
  else (s.runEvents (s.core.gate.map fun _ => .gateEntryRelease)).releaseGate 1

/-- The core's counters go on to the next cycle (18 R339, 19 R351, 21 R386); the cycles of a debug halt do not count towards
`preb`, and the one before it does (22 R403). -/
def State.count (s : State) : State :=
  let c := s.core
  let off := c.run == .debugHalted && c.stopAt.any fun h => decide (h ≤ c.cyc)
  { s with core := { c with cyc := c.cyc + 1, slipSeen := c.slip, psCount := if off then c.psCount else c.psCount + 1 } }

/-- The sample's cycle that ends with the present web cycle is counted, and a budget ends (20 R355, R357). -/
def State.countSample (s : State) : State :=
  let s := { s with region := { s.region with cis := s.region.cis + 1 } }
  if s.region.bud ≤ s.region.cis then s.runEvents [.budgetEnd] else s

/-- The next web cycle; an SRD of `slip` in a later cycle of the region sees the events up to it (19 R351). -/
def State.nextWeb (s : State) : State :=
  State.webStart { s with web := s.web + 1, core := { s.core with slipSeen := s.core.slip } }

/-- A web cycle that brings no pulse. -/
def State.webCycle (s : State) : State := s.nextWeb.settle.pushAll.webSlots

/-- The region cycle ends with the present web cycle, and the next starts in the web cycle after it. -/
def State.turnOver (s : State) : State := s.countSample.nextWeb.startCycle.webSlots

/-- The region's clock runs: its synthesiser gives pulses, and the budget has not ended (20 R354, R357 to R359). -/
def Region.clocked (r : Region) : Bool :=
  match r.st with
  | .track | .limit | .hold => !r.gated
  | _ => false

/-- The pulse of this cycle is swallowed, and the region after it: by fast throttle, by a correctable error, which under fast
throttle takes the pulses that the throttle would have passed, or by a cap (20 R372, 22 R393, R394). -/
def State.swallows (s : State) : Bool × State :=
  let r := s.region
  let out := fun (r : Region) => { r with lag := true }
  let next := if r.div = 1 then { r with phase := r.phase + 1 } else r
  if r.div = 1 ∧ r.phase ≠ 0 then (true, { s with region := out next })
  else if 0 < r.swallow then (true, { s with region := out { next with swallow := r.swallow - 1 } })
  else if r.div = 0 then (false, s)
  else if r.div = 1 then (false, { s with region := next })
  else
    let (x, s) := s.drawBelow 2
    if x = 0 then (false, s) else (true, { s with region := out s.region })

/-- The period of a pulse in the present sample, from and to, in 2^-20 web cycles.  Sample s has b_s pulses in a period of the source,
which is 27 web cycles of the reference of the web clock; the rate may lie 2 % off, and is 0.3 GHz at least (20 R357).  Without a NOMF
to go by it may be anything up to ten web cycles (assumption 39). -/
def State.periodRange (s : State) : Nat × Nat :=
  let r := s.region
  let base := if s.onWebRef then 27 * 2 ^ 20 else 2700000000 * 2 ^ 20 / (bitsAt r.rnom 0 28).toNat
  if r.bud = 0 ∨ base = 0 then (0, 10 * 2 ^ 20)
  else if s.onWebRef ∧ !r.lag then (Nat.min (base / r.bud) (9 * 2 ^ 20), Nat.min (base / r.bud) (9 * 2 ^ 20))
  else (base * 100 / (102 * r.bud), Nat.min (base * 100 / (98 * r.bud)) (9 * 2 ^ 20))

/-- The web cycles up to the next pulse of a region outside the fabric timing group; where the period may vary it is a free value in its
range (20 R357; assumption 39). -/
def State.toPulse (s : State) : Nat × State :=
  let (lo, hi) := s.periodRange
  let (d, s) := if hi ≤ lo then (0, s) else s.drawBelow (hi - lo + 1)
  let t := s.region.frac + lo + d
  (t / 2 ^ 20, { s with region := { s.region with frac := t % 2 ^ 20 } })

/-- A web cycle of a region outside the fabric timing group, in which its next pulse may come: that may be swallowed, and otherwise it
begins the next region cycle when that has not begun (20 R357, R372). -/
def State.pulseOrWait (s : State) : State :=
  let r := s.region
  if 1 < r.gap then State.webCycle { s with region := { r with gap := r.gap - 1 } }
  else
    let (no, s) := s.swallows
    if no then
      let (k, s) := s.toPulse
      State.webCycle { s with region := { s.region with gap := Nat.max 1 k } }
    else if s.region.begun then State.webCycle { s with region := { s.region with gap := 0 } }
    else State.turnOver { s with region := { s.region with gap := 0, begun := true } }

/-- Up to the next step: the region cycle that has been issued ends, and the next starts in the web cycle after it in the fabric timing
group; otherwise the pulse that begins it may come in the present web cycle or in a later one, a step each (01 R18, 20 R357). -/
def State.nextCycle (s : State) : State :=
  let s := s.count
  if s.inFabric then s.turnOver
  else
    let (k, s) := s.toPulse
    if k = 0 then s.countSample.startCycle
    else State.pulseOrWait { s with region := { s.region with gap := k, begun := false } }

/-- One region cycle (18, 19 R350). -/
def State.regionCycle (s : State) : Out :=
  let s := s.releaseAll
  bindOut (issueStage s) fun t =>
    .next (State.nextCycle (State.completes (State.afterIssue s t)))

/-- A web cycle of a region whose clock does not run; one that runs again in it starts its cycle there (20 R357 to R360). -/
def State.idleWeb (s : State) : State :=
  let s := s.webCycle
  if s.region.clocked then { s with starts := s.web :: s.starts.drop 1 } else s

/-- What happens in one step when no external event waits.  A pulse of the fabric timing group that is swallowed puts the region out of
step with the web. -/
def State.cycle (s : State) : Out :=
  if !s.region.clocked then .next s.idleWeb
  else if 0 < s.region.gap then .next s.pulseOrWait
  else if s.inFabric then
    let (no, s) := s.swallows
    if no then .next s.pulseOrWait else s.regionCycle
  else s.regionCycle

/-- What comes from a bundle, its slots and its header, is no event. -/
def ofBundle (i : Instr) : Bool :=
  (slotOf i).isSome || (match i with
    | .pop _ => true
    | .restartMark => true
    | _ => false)

/-- Events that the mill cores bring about, which are held in reset when boot has failed (22 R400). -/
def byMillCore (i : Instr) : Bool :=
  match i with
  | .accessCounterScan _ | .residencyFaultService .. | .translationEntryWrite .. | .pageMove .. | .millCoreAccess ..
  | .webClockInitialisation _ | .go | .kernelStart .. | .preEmptionRequest | .restore | .sheetSleep _ | .sheetWake _
  | .managementTrigger | .linkstRead _ | .registerWrite .. | .submission _ | .resume _ | .linkInitialisation _ | .startAcquisition
  | .synthesiserStop => true
  | _ => false

/-- A packet that comes when its message may be forwarded at once is offered to the slot of the present web cycle, and one that was cut short is a
missed arrival of it (10 R189, R191). -/
def State.forwardNow (before : State) (i : Instr) (s : State) : State :=
  match i with
  | .reamPacketReceive lk _ =>
    let s := if (s.link_ lk).cut.any fun t => decide (t ≤ s.web) then s.runEvents [.missedArrival lk] else s
    if (before.link_ lk).recv.isEmpty && s.forwardEvents.contains (.gatewayForward lk) then s.runEvents [.gatewayForward lk] else s
  | _ => s

/-- An external event, with what it brings to the core at once. -/
def State.event (i : Instr) (s : State) : Out :=
  if ofBundle i || (s.dev.boot == .failed && byMillCore i) then .fault .notDue
  else bindOut (exec i s) fun t => .next (s.forwardNow i t.settle)

/-! ## Placing an instruction -/

/-- A core that is about to issue the bundle at its PC, in a region of the fabric timing group that is within a sample of 27
cycles. -/
def State.ready (s : State) : State :=
  { s with
    inputs := []
    webRef := 9
    region := { s.region with
      rclk := BitVec.ofNat 64 (2 ^ 63 + 9 * 2 ^ 59 + 26 * 2 ^ 39), st := .track, gated := false, fresh := false, lag := false,
      pending := false, bud := 27, cis := 0, swallow := 0, gap := 0, frac := 0, begun := true, rv := setBits s.region.rv 0 2 0 }
    core := { s.core with run := .running, dead := 0, wait := .none, held := .none } }

/-- Such a core, whose bundle holds one instruction word in the slot of that instruction (control words and words that no
slot accepts in slot 0) and NOP in every other slot. -/
def State.placeWord (s : State) (nbits w : Nat) : State :=
  let slot := match decodeTableWord nbits w with
    | some i => (slotOf i).getD 0
    | none => 0
  let b : Bundle := BitVec.ofNat 256 (w % 2 ^ 32 * 2 ^ (32 * slot))
  let s := s.ready
  let q := s.core.seq
  { s with core := { s.core with istore := Tab.put 0 s.core.istore (1024 * q.half.toNat + q.index.toNat) b } }

end Sys2Proof.Machine
end

