-- ==== Sys2Proof/Safety.lean ====
section
/-! DEFINITION. What counts as a safe run, and the words in which claims describe what an instruction does: the results it
sends, what it queues, and what it leaves alone. -/

namespace Sys2Proof.Machine

/-- Every memory of the machine, those of the parked contexts among them, keeps its canonical form. -/
def State.memoriesWf (s : State) : Bool :=
  Memory.wf s.core.scratch && Memory.wf s.core.wbuf && Memory.wf s.hbm && Memory.wf s.quire && Memory.wf s.mirror
    && (s.part.shadow.toList ++ s.part.moved).all fun p => Memory.wf p.core.scratch && Memory.wf p.core.wbuf

/-- A step that is no stop. -/
def Steps (s t : State) : Prop := step s = .next t

/-- A safe step: it stops neither by a fault nor by a refusal. -/
def SafeStep (s : State) : Prop := ∃ t, Steps s t

/-! ## Numbers -/

/-- The exact value (−1)^neg·m·2^e. -/
def ratOf (neg : Bool) (m : Nat) (e : Int) : ℚ := (if neg then -1 else 1) * (m : ℚ) * (2 : ℚ) ^ e

/-- The nearest integer, ties to even (00 R11, 03 R59). -/
def roundHalfEven (x : ℚ) : Int :=
  if x - ⌊x⌋ < 1 / 2 then ⌊x⌋ else if 1 / 2 < x - ⌊x⌋ then ⌊x⌋ + 1 else if ⌊x⌋ % 2 = 0 then ⌊x⌋ else ⌊x⌋ + 1

/-- The integer of a rounding direction: 0 to nearest even, 1 towards zero, 2 up, 3 down (03 R59). -/
def roundDir (mode : Nat) (x : ℚ) : Int :=
  if mode = 0 then roundHalfEven x else if mode = 1 then (if x < 0 then ⌈x⌉ else ⌊x⌋) else if mode = 2 then ⌈x⌉ else ⌊x⌋

/-- The exact value of a finite code of a format, 0 for a NaN or an infinity. -/
def valueOf (f : Fmt) (x : Lane32) : ℚ :=
  match f.decode x.toNat with
  | .num n m e => ratOf n m e
  | _ => 0

/-- top is Floor(log2 m) of the largest magnitude m among some values, which are not all zero. -/
def IsTop (top : Int) (xs : List ℚ) : Prop := (∃ x ∈ xs, (2 : ℚ) ^ top ≤ |x|) ∧ ∀ x ∈ xs, |x| < (2 : ℚ) ^ (top + 1)

/-- The window sum of products whose largest exponent is top (15 R271). -/
def windowValue (win top : Int) (ps : List ℚ) : ℚ := (ps.map fun p => (⌊p * (2 : ℚ) ^ (win - top)⌋ : ℚ) * (2 : ℚ) ^ (top - win)).sum

/-- A result is the FP32 rounding of an exact value, when that is not zero. -/
def RoundsExactly (mode : Nat) (r : Flagged) (v : ℚ) : Prop :=
  v ≠ 0 → ∃ (n : Bool) (m : Nat) (e : Int), m ≠ 0 ∧ ratOf n m e = v ∧ r = fp32.roundNum mode n m e

/-- A result is the SP32 rounding of an exact positive value: to a 17-bit significand with an unbounded exponent, and then to zero with UF
and NX below 2^−32,766, or to saturated with OF and NX above the largest finite value; NX exactly when it is inexact (04 R75, R76). -/
def IsSpRounded (mode : Nat) (r : Flagged) (v : ℚ) : Prop :=
  ∃ q : Int, (2 : ℚ) ^ (q + 16) ≤ v ∧ v < (2 : ℚ) ^ (q + 17)
    ∧ let y : ℚ := roundDir mode (v / (2 : ℚ) ^ q) * (2 : ℚ) ^ q
      let largest : ℚ := (2 - 2⁻¹ ^ 16) * 2 ^ 32767
      (y < (2 : ℚ) ^ (-32766 : Int) → r = { v := 0, f := ufFlag ||| nxFlag })
      ∧ (largest < y → r = { v := 0xFFFF0000, f := ofFlag ||| nxFlag })
      ∧ ((2 : ℚ) ^ (-32766 : Int) ≤ y → y ≤ largest → r.v < 2 ^ 32 ∧ ∃ (m : Nat) (e : Int), spDecode r.lane = (.num m e, 0)
        ∧ ratOf false m e = y ∧ (y = v → r.f = 0) ∧ (y ≠ v → r.f = nxFlag))

/-! ## Results in flight -/

/-- A result of at most 64 bits for a register, a latch or both, n cycles from now (03 R37, R38, 12 R208). -/
def scalarResult (s : State) (slot n : Nat) (f : Option RegFile) (dst : Nat) (x : Word) (t : Latch) : Landing :=
  { due := s.core.cyc + n, seq := 0, slot := slot, file := f, dst := BitVec.ofNat 10 dst, val := BitVec.ofNat 1024 x.toNat,
    sel := BitVec.allOnes 1024, flg := 0, latch := t, lval := BitVec.ofNat 1024 x.toNat, lsel := BitVec.allOnes 1024 }

/-- The result of a scalar instruction of address unit u: aD, unless write-back is suppressed, and the unit's latch (12
R208). -/
def unitResult (s : State) (u w : BitVec 1) (d : BitVec 5) (n : Nat) (x : Word) : Landing :=
  scalarResult s (1 + u.toNat) n (if w = 0 then some .a else none) d.toNat x (if u = 0 then .la else .lb)

/-- The result of an instruction of vector slot u that works lane by lane: lane i takes part at its width z under its lane
mask k and lands `f i` in vD and in the slot's latch n cycles from now; every other lane of both keeps its value, and the
flags of the lanes that take part are ORed (13 R229 to R232). -/
def LandsLanes (s : State) (o : Out) (u w : BitVec 1) (d : BitVec 4) (n : Nat) (z : BitVec 3) (k : Lane32)
    (f : Nat → Flagged) : Prop :=
  ∃ l : Landing, o = .next (s.push l) ∧ l.due = s.core.cyc + n ∧ l.slot = 3 + u.toNat
    ∧ l.file = (if w = 0 then some .v else none) ∧ l.dst = BitVec.ofNat 10 d.toNat
    ∧ l.latch = (if u = 0 then .x else .y) ∧ l.bad = none ∧ l.lval = l.val ∧ l.lsel = l.sel
    ∧ (∀ i, i < 32 → lane l.sel i = if takesPart z k i then 0xFFFFFFFF else 0)
    ∧ (∀ i, i < 32 → takesPart z k i = true → lane l.val i = (f i).lane)
    ∧ l.flg = orFlags ((List.range 32).map fun i => if takesPart z k i then (f i).f else 0)

/-- The result of an instruction of vector slot u that packs elements of w bits: element i of the operation's bits is `f i`,
the operation's bits above the last one are zero, and every lane of the width is written (13 R240). -/
def LandsPacked (s : State) (o : Out) (u wbs : BitVec 1) (d : BitVec 4) (n : Nat) (z : BitVec 3) (w : Nat)
    (f : Nat → Flagged) : Prop :=
  ∃ l : Landing, o = .next (s.push l) ∧ l.due = s.core.cyc + n ∧ l.slot = 3 + u.toNat
    ∧ l.file = (if wbs = 0 then some .v else none) ∧ l.dst = BitVec.ofNat 10 d.toNat
    ∧ l.latch = (if u = 0 then .x else .y) ∧ l.bad = none ∧ l.lval = l.val ∧ l.lsel = l.sel
    ∧ (∀ i, i < 32 → lane l.sel i = if takesPart z 0xFFFFFFFF i then 0xFFFFFFFF else 0)
    ∧ (∀ i, i < lanesOf z → opElem z l.val w i = (f i).v % 2 ^ w)
    ∧ (∀ i, lanesOf z * w ≤ i → i < 32 * lanesOf z → bitAt l.val (32 * firstLane z + i) = false)
    ∧ l.flg = orFlags ((List.range (lanesOf z)).map fun i => (f i).f)

/-- The result of an instruction of vector slot u that makes a lane mask: bit i of kD for every lane i of the width, and all
ones or zeros in that lane of the slot's latch, two cycles from now (13 R236). -/
def LandsMask (s : State) (o : Out) (u w : BitVec 1) (d : BitVec 3) (z : BitVec 3) (f : Nat → Bool × FFlags) : Prop :=
  ∃ l : Landing, o = .next (s.push l) ∧ l.due = s.core.cyc + 2 ∧ l.slot = 3 + u.toNat
    ∧ l.file = (if w = 0 then some .k else none) ∧ l.dst = BitVec.ofNat 10 d.toNat
    ∧ l.latch = (if u = 0 then .x else .y) ∧ l.bad = none
    ∧ (∀ i, i < 32 → bitAt l.sel i = takesPart z 0xFFFFFFFF i)
    ∧ (∀ i, i < 32 → takesPart z 0xFFFFFFFF i = true → bitAt l.val i = (f i).1)
    ∧ (∀ i, i < 32 → lane l.lsel i = if takesPart z 0xFFFFFFFF i then 0xFFFFFFFF else 0)
    ∧ (∀ i, i < 32 → takesPart z 0xFFFFFFFF i = true → lane l.lval i = if (f i).1 then 0xFFFFFFFF else 0)
    ∧ l.flg = orFlags ((List.range 32).map fun i => if takesPart z 0xFFFFFFFF i then (f i).2 else 0)

/-! ## What is left alone -/

/-- The registers, latches and flags of the core, its cycle number and the place of its PC are as before. -/
def KeepsRegisters (s t : State) : Prop :=
  t.core.r = s.core.r ∧ t.core.lat = s.core.lat ∧ t.core.fstat = s.core.fstat ∧ t.core.cyc = s.core.cyc
    ∧ t.core.seq.half = s.core.seq.half ∧ t.core.seq.index = s.core.seq.index

/-- Every byte of every memory is as before. -/
def KeepsMemory (s t : State) : Prop :=
  t.core.scratch = s.core.scratch ∧ t.core.wbuf = s.core.wbuf ∧ t.hbm = s.hbm ∧ t.quire = s.quire ∧ t.mirror = s.mirror
    ∧ t.core.istore = s.core.istore

/-- The accumulators and engines of the core are as before: the tiles with their anchors, the bank file, the weights and the
shapes (15 R265, 16 R286). -/
def KeepsEngines (s t : State) : Prop :=
  t.core.mx.tile = s.core.mx.tile ∧ t.core.mx.anchor = s.core.mx.anchor ∧ t.core.sp.bank = s.core.sp.bank
    ∧ t.core.sp.shape = s.core.sp.shape ∧ t.core.sp.weight = s.core.sp.weight ∧ t.core.sp.mode = s.core.sp.mode

/-- Only results in flight and their bookkeeping differ: the landings, the issue number, the undo count and what the
look-ahead knows of predicates. -/
def OnlySends (s t : State) : Prop :=
  t = { s with core := { s.core with
    land := t.core.land, seqNo := t.core.seqNo, undo := t.core.undo, known := t.core.known } }

/-! ## Memory -/

/-- A load enters the load queue behind the others, and no register or byte of memory changes yet (17 R306). -/
def QueuesLoad (s t : State) (l : Load) : Prop :=
  t.core.loads = s.core.loads ++ [l] ∧ t.core.stores = s.core.stores ∧ KeepsRegisters s t ∧ KeepsMemory s t

/-- A store with no restart point in force enters the store queue behind the others; it performs in the last cycle of the bank
phase of its granules, and no register or byte of memory changes yet (17 R305 to R307). -/
def QueuesStore (s t : State) (bytes : List Host.Cell) : Prop :=
  (∃ q : Nat, t.core.stores = s.core.stores ++
      [{ seq := q, w := (s.core.storePhase (granulesOf (bytes.map (·.1)))).1, bytes := bytes, applied := false, old := [] }])
    ∧ t.core.loads = s.core.loads ∧ KeepsRegisters s t ∧ KeepsMemory s t

/-- An operation with a restart point in force waits in the gate buffer with its captured operands, and no register or byte of
memory changes yet (21 R377). -/
def Gates (s t : State) (slot : Nat) (e : Eff) : Prop :=
  (∃ q : Nat, t.core.gate = s.core.gate ++ [{ seq := q, slot := slot, eff := e, committed := false, waited := false }])
    ∧ t.core.stores = s.core.stores ∧ t.core.loads = s.core.loads ∧ KeepsRegisters s t ∧ KeepsMemory s t

/-- A store of some cells is gated or queued, as a restart point is in force or not (21 R377, 17 R305). -/
def StoresCells (s t : State) (slot : Nat) (bytes : List Host.Cell) : Prop :=
  if s.core.mark.inForce then Gates s t slot (.store bytes) else QueuesStore s t bytes

/-- An access of address unit u that has passed its checks queues a load of some bytes of the scratchpad: its bank phase is
the next one free for its granules, it reads four cycles before it, and its result lands in the selected bits of a register
and of the unit's load latch nine cycles after its last bank cycle; its base goes on to nb (12 R214, R216, 07 R125, R126). -/
def LoadsPad (s : State) (o : Out) (u : BitVec 1) (n : BitVec 5) (nb : Option Word) (bytes : List (Nat × Nat))
    (form : LoadForm) (file : RegFile) (dst : BitVec 10) (sel : Line) : Prop :=
  let ph := s.core.loadPhase (granulesOf (bytes.map (·.2)))
  ∃ (t : State) (l : Load), o = .next t ∧ QueuesLoad s t l ∧ t.core.land = (s.bumpBase (1 + u.toNat) n nb).core.land
    ∧ l.bytes = bytes ∧ l.form = form ∧ l.quire = false ∧ l.zeros = false ∧ l.poison = false ∧ l.done = false
    ∧ l.readAt + 4 = ph.1 ∧ l.land.due = ph.1 + ph.2.1 + 9 ∧ l.land.slot = 1 + u.toNat
    ∧ l.land.file = (if discards file dst then none else some file) ∧ l.land.dst = dst ∧ l.land.sel = sel ∧ l.land.lsel = sel
    ∧ l.land.latch = (if u = 0 then .lda else .ldb) ∧ l.land.flg = 0 ∧ l.land.bad = none

/-- The result of an access through a stream: its indices advanced by n steps at dimension 0 (12 R227). -/
def streamMoved (s : State) (u : BitVec 1) (st : BitVec 4) (n : Nat) : Landing :=
  { due := s.core.cyc + 1, seq := 0, slot := 1 + u.toNat, file := some .st, dst := BitVec.ofNat 10 st.toNat,
    val := stAdvanced (s.core.r.readSt st) 0 n, sel := idxSel, flg := 0, latch := .none, lval := 0, lsel := 0 }

/-- An access of the quire window reads the sheet's mirror in the cycle of its issue and lands 18 cycles later, beside the results
that were in flight or that its base or stream sends; its translation entry counts it, unless it faults: a range outside the core's
share lands the poison pattern with a violation, and a poisoned granule has its fault (09 R161, 05 R101, R103, 21 R382, R383). -/
def ReadsQuire (s : State) (o : Out) (u : BitVec 1) (land : List Landing) (bytes : List (Nat × Nat)) (ent : Nat)
    (zeros viol : Bool) (form : LoadForm) (file : RegFile) (dst : BitVec 10) (sel : Line) : Prop :=
  let bad := viol = true ∨ (zeros = false ∧ ∃ b ∈ bytes, poisonGran true b.2 ∈ s.core.poison)
  ∃ (t : State) (l : Load), o = .next t ∧ QueuesLoad s t l ∧ t.core.land = land
    ∧ (bad → t.core.xlat = s.core.xlat)
    ∧ (¬bad → t.core.xlat = Tab.put 0 s.core.xlat ent (countAccess (Tab.get 0 s.core.xlat ent) zeros))
    ∧ l.bytes = bytes ∧ l.form = form ∧ l.quire = true ∧ l.zeros = zeros ∧ l.poison = viol ∧ l.done = false
    ∧ l.readAt = s.core.cyc ∧ l.land.due = s.core.cyc + 18 ∧ l.land.slot = 1 + u.toNat
    ∧ l.land.file = (if discards file dst then none else some file) ∧ l.land.dst = dst ∧ l.land.sel = sel ∧ l.land.lsel = sel
    ∧ l.land.latch = (if u = 0 then .lda else .ldb) ∧ l.land.flg = 0
    ∧ (l.land.bad = none ↔ viol = false) ∧ ∀ i, l.land.bad = some i → i.kind = .violation ∧ i.vkind = 1

/-- A load of address unit u from the quire window, whose base goes on to nb (12 R214, R216). -/
def LoadsQuire (s : State) (o : Out) (u : BitVec 1) (n : BitVec 5) (nb : Option Word) (bytes : List (Nat × Nat)) (ent : Nat)
    (zeros viol : Bool) (form : LoadForm) (file : RegFile) (dst : BitVec 10) (sel : Line) : Prop :=
  ReadsQuire s o u (s.bumpBase (1 + u.toNat) n nb).core.land bytes ent zeros viol form file dst sel

/-- An access of address unit u that has passed its checks stores some cells of the scratchpad; its base goes on to nb (12
R214, R216, 17 R305, R307). -/
def StoresPad (s : State) (o : Out) (u : BitVec 1) (n : BitVec 5) (nb : Option Word) (cells : List Host.Cell) : Prop :=
  ∃ t : State, o = .next t ∧ StoresCells s t (1 + u.toNat) cells ∧ t.core.land = (s.bumpBase (1 + u.toNat) n nb).core.land

/-- An operation that a restart point gates is performed: it waits in the gate buffer while one is in force, and has its
effect at once when none is (21 R377). -/
def Acts (s : State) (o : Out) (slot : Nat) (e : Eff) : Prop :=
  ∃ t : State, o = .next t ∧ if s.core.mark.inForce then Gates s t slot e
    else t = State.applyEff { s with core := { s.core with seqNo := s.core.seqNo + 1 } } s.core.seqNo e

/-- The byte that the last of some cells at an address holds, if any is there. -/
def lastAt (a : Nat) : List Host.Cell → Option Byte
  | [] => none
  | (b, x) :: t => match lastAt a t with
    | some y => some y
    | none => if b = a then some x else none

/-! ## Issue -/

/-- What issue makes of the outcome of the one instruction that a bundle holds beside NOPs, with the header h, in slot k: its
fault is taken for that slot, or slot 0's illegal operation when the bundle has no successor; its hold holds the bundle;
otherwise the bundle ends (03 R57, R58, 18 R324, 19 R350).  The first bundle of a group reads zero latches, and what has landed
since the switch is there for the bundles after it (11 R202). -/
def issueAlone (s : State) (h : Header) (k : Nat) (i : Instr) : Out :=
  let s' := s.enterGroup
  bindOut (match exec i s' with
    | .next t =>
      match t.core.fault with
      | some f => .next (s'.takePrecise (if fallsOff s' then .plain .illegalOperation 0 else { f with slot := k }))
      | none =>
        if t.core.held ≠ .none then .next (s'.heldBy [t.core.held])
        else if fallsOff t then .next (s'.takePrecise (.plain .illegalOperation 0))
        else endBundle h s'.core.heads t.firstIssue
    | .fault f => .fault f
    | .refused r => .refused r) fun t => .next (s.leaveGroup t)

/-- A decoded slot is NOP. -/
def isNopSlot (d : Except DecodeError Instr) : Prop := d = .ok .nopControl ∨ ∃ n, d = .ok (.nop n)

end Sys2Proof.Machine
end

