-- ==== Sys2Proof/Certificates/Slice0/Obligations.lean ====
section
/-! DEFINITION. The statements about this model that are put to the provers. -/

section

open Sys2Proof Sys2Proof.Machine

/-- Decoding an encoded instruction gives it back: for every instruction that slot k executes and that is well formed the
encoder gives a word, and slot k reads that word as the instruction (03 R32 to R54). -/
def Obligations.DecodeOfEncode : Prop :=
  ∀ (i : Instr) (k : Nat), slotOf i = some k → i.wf = true → ∃ w : SlotWord, encode i = some w ∧ decodeSlot k w = .ok i

/-- What slot k decodes is well formed, is executed by slot k, and has the word read as its encoding, without the header bits
in slot 0 (03 R33, R42, R57). -/
def Obligations.DecodedIsWellFormed : Prop :=
  ∀ (k : Nat) (w : SlotWord) (i : Instr), k < 8 → decodeSlot k w = .ok i →
    i.wf = true ∧ slotOf i = some k ∧ encode i = some (if k = 0 then controlBits w else w)

/-- NOP (03 R43). -/
def Obligations.NopEncodingAndEffect : Prop :=
  (∀ k : Nat, 1 ≤ k → k < 8 → decodeSlot k 0 = .ok (.nop (BitVec.ofNat 3 k)))
  ∧ (∀ w : SlotWord, controlBits w = 0 → decodeSlot 0 w = .ok .nopControl)
  ∧ (∀ (n : BitVec 3) (s : State), exec (.nop n) s = .next s) ∧ (∀ s : State, exec .nopControl s = .next s)
  ∧ (∀ d ∈ decodeBundle 0, isNopSlot d.2)
  ∧ (∀ (k : Nat) (w : SlotWord), 1 ≤ k → k < 8 → fld w 22 6 = 0 → w ≠ 0 → decodeSlot k w = .error .nopOperands)
  ∧ (∀ w : SlotWord, fld (controlBits w) 14 6 = 0 → controlBits w ≠ 0 → decodeSlot 0 w = .error .nopOperands)

/-- Words that the spec gives for its examples decode as the instructions they stand for. -/
def Obligations.ExampleWordsDecode : Prop :=
  decodeSlot 0 0x00024000 = .ok (.brk 0) ∧ decodeSlot 0 0x00224000 = .ok (.brk 2)
  ∧ decodeSlot 0 0x00034000 = .ok (.wsamp 0)
  ∧ decodeSlot 1 0x00460840 = .ok (.add 0 0 3 1 2 0) ∧ decodeSlot 2 0x00C20002 = .ok (.addi 1 0 1 0 1 0)
  ∧ decodeSlot 1 0x00900842 = .ok (.cmp 0 0 2 1 2 2) ∧ decodeSlot 1 0x03080001 = .ok (.cmpi 0 0 1 1 0 0)
  ∧ decodeSlot 2 0x04001248 = .ok (.ldl 1 0 1 4 1 0 1 0) ∧ decodeSlot 1 0x044032C8 = .ok (.stl 0 0 3 5 1 0 1 0)
  ∧ decodeSlot 1 0x04860102 = .ok (.lds 0 0 3 2 0 2)
  ∧ decodeSlot 3 0x0DC81060 = .ok (.frsqs 0 0 2 0 1 6 0) ∧ decodeSlot 4 0x0E4C1860 = .ok (.fnrsq 1 0 3 0 1 16 6 0)
  ∧ decodeSlot 5 0x00404000 = .ok (.mma 0 0 1 0 0 0 0) ∧ decodeSlot 5 0x008CA410 = .ok (.mmaz 0 3 2 1 8 1 0)
  ∧ decodeSlot 6 0x01818000 = .ok (.spw 0 0 3)
  ∧ decodeSlot 7 0x03C40000 = .ok (.xwr 0 0 4) ∧ decodeSlot 7 0x04100000 = .ok (.xrd 0 1)
  ∧ decodeSlot 7 0x04506400 = .ok (.xst 0 1 3 1)

/-- The values that the spec gives for reset and launch (04 R64, 10 R178, R188, 11 R196, 15 R265, 16 R286, 19 R345, R351, 20
R354, 21 R384 to R389, 22 R391).  R196, R265 and R286 give their values for launch: that State.reset, with no kernel resident, holds them
is log entry 3, a DESIGN CHOICE of the model. -/
def Obligations.ResetValues : Prop :=
  let c := State.reset.core
  (∀ n : BitVec 5, c.r.readA n = 0 ∧ c.r.readM n = 0) ∧ (∀ n : BitVec 4, c.r.readV n = 0 ∧ c.r.readSt n = 0)
  ∧ (∀ n : BitVec 3, c.r.readP n = decide (n = 0)) ∧ (∀ n : BitVec 3, c.r.readK n = if n = 0 then 0xFFFFFFFF else 0)
  ∧ (∀ sp : BitVec 10, c.r.readPlane sp = 0) ∧ c.r.tc.toList.all (fun t => t.t.toList.all (· == 0) && !t.v) = true
  ∧ c.r.qcap.toList.all (· == 16) = true ∧ c.r.qmin.toList.all (· == 0) = true
  ∧ c.r.preb = 65536 ∧ c.r.esnap = true ∧ c.r.eflt = false ∧ c.r.fmode = 0 ∧ c.fstat = 0 ∧ c.slip = 0
  ∧ c.ovs = { nb := 0, cause := 0, fs := false, st := 0 } ∧ c.vlog.toList.all (· == 0) = true
  ∧ c.seq.loops = [] ∧ c.heads.toList.all (·.isNone) = true ∧ c.mark.inForce = false ∧ c.gate = []
  ∧ c.mx = .launch ∧ c.sp = .launch
  ∧ State.reset.part.st.toList.all (· == 0) = true ∧ State.reset.part.credits = 0 ∧ State.reset.part.resident = none
  ∧ State.reset.links.toList.all (fun l => decide (l.st = .down)) = true
  ∧ State.reset.region.st = .off ∧ bitsAt State.reset.region.rv 48 8 = 16 ∧ State.reset.memoriesWf = true

/-- Memory reads what was last written to it, little-endian (00 R3); a write keeps every other byte and the canonical form. -/
def Obligations.MemoryReadsWhatWasWritten : Prop :=
  (∀ (m : Memory) (a : Nat) (x : Byte), m.wf = true →
    (m.setByte a x).wf = true ∧ ∀ b : Nat, (m.setByte a x).byte b = if b = a then x else m.byte b)
  ∧ (∀ (m : Memory) (a n x : Nat), m.wf = true →
    (m.writeNat a n x).wf = true ∧ (m.writeNat a n x).readNat a n = x % 256 ^ n
    ∧ (∀ i : Nat, i < n → (m.writeNat a n x).byte (a + i) = BitVec.ofNat 8 (x / 256 ^ i))
    ∧ ∀ b : Nat, (b < a ∨ a + n ≤ b) → (m.writeNat a n x).byte b = m.byte b)

/-- The hard-wired registers (03 R38, 11 R195, R196) and the elements that a plane line names (03 R39, 11 R192). -/
def Obligations.RegisterFiles : Prop :=
  ((∀ r : Regs, r.readA 0 = 0 ∧ r.readM 0 = 0 ∧ r.readP 0 = true ∧ r.readK 0 = 0xFFFFFFFF)
  ∧ ∀ (s : State) (l : Landing) (f : RegFile), l.dst = 0 → l.file = some f → (f = .a ∨ f = .m ∨ f = .p ∨ f = .k) →
      s.push l = { s with core := { s.core with
        land := insertBy Landing.le { l with seq := s.core.seqNo, file := none } s.core.land, seqNo := s.core.seqNo + 1 } })
  ∧ ((∀ (p : BitVec 3) (i : BitVec 5) (k : Nat), k < 32 →
    planeKey (p ++ (0 : BitVec 2) ++ i) k = 1024 * p.toNat + 32 * i.toNat + k
    ∧ planeKey (p ++ (1 : BitVec 2) ++ i) k = 1024 * p.toNat + 32 * k + i.toNat
    ∧ planeKey (p ++ (2 : BitVec 2) ++ i) k = 1024 * p.toNat + 32 * k + (k + i.toNat) % 32
    ∧ planeKey (p ++ (3 : BitVec 2) ++ i) k = 1024 * p.toNat + 32 * k + (i.toNat + 32 - k) % 32)
  ∧ ∀ (r : Regs) (sp : BitVec 10) (val sel : Line) (k : Nat), Tab.okAbove (0 : Lane32) 0 r.plane = true → k < 32 →
      lane ({ r with plane := planeWrite r.plane sp val sel 32 }.readPlane sp) k
        = mergeBits (lane (r.readPlane sp) k) (lane val k) (lane sel k))

/-- A result is sent without changing anything else (03 R59, 21 R377) and lands in its destination register alone (03 R41, 04 R65, 11 R201). -/
def Obligations.ResultsInFlight : Prop :=
  (∀ (s : State) (l : Landing), OnlySends s (s.push l)
    ∧ (∃ l' ∈ (s.push l).core.land, l' = { l with seq := s.core.seqNo, file := l'.file }
        ∧ l'.file = (match l.file with
            | some f => if discards f l.dst then none else some f
            | none => none)
        ∧ (s.push l).core.undo = s.core.undo
            + (if l'.file.isSome ∧ ¬(l'.file = some .special ∧ l.dst = 0x41) then 1 else 0))
    ∧ (∀ x ∈ s.core.land, x ∈ (s.push l).core.land) ∧ (s.push l).core.land.length = s.core.land.length + 1
    ∧ (s.push l).core.seqNo = s.core.seqNo + 1)
  ∧ (∀ (c : Core) (l : Landing),
    (c.landOne l).lat = c.lat.take l.latch l.lval l.lsel
    ∧ (l.latch = .x → (c.landOne l).lat.lx1 = c.lat.lx0 ∧ (c.landOne l).lat.lx0 = mergeBits c.lat.lx0 l.lval l.lsel)
    ∧ (l.latch = .y → (c.landOne l).lat.ly1 = c.lat.ly0 ∧ (c.landOne l).lat.ly0 = mergeBits c.lat.ly0 l.lval l.lsel)
    ∧ (l.latch ≠ .x → (c.landOne l).lat.lx0 = c.lat.lx0 ∧ (c.landOne l).lat.lx1 = c.lat.lx1)
    ∧ (l.latch ≠ .y → (c.landOne l).lat.ly0 = c.lat.ly0 ∧ (c.landOne l).lat.ly1 = c.lat.ly1)
    ∧ (l.file ≠ some .special → (c.landOne l).fstat = c.fstat ||| l.flg)
    ∧ (l.file = some .special → l.dst = 0x41 → (c.landOne l).fstat = (c.fstat ||| l.flg)
        &&& ~~~(bitsAt l.val 0 9 &&& ~~~((if c.flagAt = c.cyc + 1 then c.flagNew else 0) ||| l.flg)))
    ∧ (∀ f : BitVec 9, (c.setFlags f).fstat = c.fstat ||| f ∧ ∀ w, ((c.setFlags f).clearFlags w).fstat &&& f = f)
    ∧ (c.landOne l).scratch = c.scratch ∧ (c.landOne l).seq = c.seq ∧ (c.landOne l).mx = c.mx ∧ (c.landOne l).sp = c.sp
    ∧ (l.file = none → (c.landOne l).r = c.r)
    ∧ (∀ n : Fin 32, l.file = some .a → l.dst.toNat = n.val →
        (c.landOne l).r = { c.r with a := c.r.a.set n.val (mergeBits c.r.a[n] (bitsAt l.val 0 64) (bitsAt l.sel 0 64)) })
    ∧ (∀ n : Fin 32, l.file = some .m → l.dst.toNat = n.val →
        (c.landOne l).r = { c.r with m := c.r.m.set n.val (mergeBits c.r.m[n] (bitsAt l.val 0 64) (bitsAt l.sel 0 64)) })
    ∧ (∀ n : Fin 16, l.file = some .v → l.dst.toNat = n.val →
        (c.landOne l).r = { c.r with v := c.r.v.set n.val (mergeBits c.r.v[n] l.val l.sel) })
    ∧ (∀ n : Fin 8, l.file = some .p → l.dst.toNat = n.val →
        (c.landOne l).r = { c.r with p := c.r.p.set n.val (bitAt l.val 0) })
    ∧ (∀ n : Fin 8, l.file = some .k → l.dst.toNat = n.val →
        (c.landOne l).r = { c.r with k := c.r.k.set n.val (mergeBits c.r.k[n] (bitsAt l.val 0 32) (bitsAt l.sel 0 32)) })
    ∧ (∀ n : Fin 16, l.file = some .st → l.dst.toNat = n.val →
        (c.landOne l).r = { c.r with st := c.r.st.set n.val (mergeBits c.r.st[n] (bitsAt l.val 0 512) (bitsAt l.sel 0 512)) })
    ∧ (∀ n : Fin 4, l.file = some .tc → l.dst.toNat = 16 + n.val →
        (c.landOne l).r = { c.r with tc := c.r.tc.set n.val (TileCoord.mk (Vector.ofFn fun k => elem l.val 16 k.val) (bitAt l.val 96)) })
    ∧ (l.file = some .plane → (c.landOne l).r = { c.r with plane := planeWrite c.r.plane l.dst l.val l.sel 32 }))

/-- A step runs the instruction that the word at the PC decodes to (03 R32, R57, R58, 18 R323, R324, 19 R350), and an external event before
it when one waits (the order of events is the model's: log entry 13). -/
def Obligations.StepRunsTheDecodedInstruction : Prop :=
  (∀ (s : State) (i : Instr) (t : List Instr), s.inputs = i :: t → ofBundle i = false →
    (s.dev.boot ≠ .failed ∨ byMillCore i = false) →
    step s = bindOut (exec i { s with inputs := t }) fun u => .next (State.forwardNow { s with inputs := t } i u.settle))
  ∧ (∀ (s : State) (i : Instr) (t : List Instr), s.inputs = i :: t → (ofBundle i = true ∨ (s.dev.boot = .failed ∧ byMillCore i = true)) →
    step s = .fault .notDue)
  ∧ (∀ s : State, s.inputs = [] → s.region.clocked = true → 0 < s.region.gap → step s = .next s.pulseOrWait)
  ∧ (∀ (s : State) (h : Header), s.inputs = [] → s.region.clocked = true → s.region.gap = 0 →
    (s.inFabric = true → s.swallows = (false, s)) →
    s.core.gate = [] → s.core.run = .running → s.core.dead = 0 → s.core.wait = .none → s.core.held = .none →
    s.core.fault = none → s.core.mark.inForce = false → s.nullified s.core.bundle = false →
    (s.core.r.preb = 0 ∨ s.core.psCount < s.core.r.preb.toNat) → s.core.bundlePoisoned = false →
    h = Header.of (s.core.slotWord 0) →
    let after := fun (t : State) => Host.Outcome.next (State.nextCycle (State.completes (State.afterIssue s t)))
    (h.rm = false → (h.ps && s.core.preReq) = false → illegalBundle s h s.core.bundle = none →
      ∀ k : Nat, k < 8 → (∀ j, j < 8 → j ≠ k → isNopSlot (decodeSlot j (s.core.slotWord j))) →
        (∀ i : Instr, decodeSlot k (s.core.slotWord k) = .ok i → step s = bindOut (issueAlone s h k i) after)
        ∧ ∀ e, decodeSlot k (s.core.slotWord k) = .error e → s.core.newGroup = false → s.core.taken = none →
          step s = after (s.takePrecise (.plain .illegalOperation (if s.core.seq.fallsOff then 0 else k))))
    ∧ ∀ k : Nat, illegalBundle s h s.core.bundle = some k → s.core.newGroup = false →
        step s = after (s.takePrecise (.plain .illegalBundle k)))
  ∧ ∀ (s : State) (h : Header) (b : Bundle),
    let overlap := ∃ g, g ∈ wordGroups (b.slot 3) ∧ g ∈ wordGroups (b.slot 4)
    let misplaced := h.ps = true ∧ s.core.seq.atBoundary = false
    (illegalBundle s h b = some 0 ↔ h.res = true ∨ (¬overlap ∧ misplaced)) ∧ (illegalBundle s h b = some 4 ↔ h.res = false ∧ overlap)
    ∧ (illegalBundle s h b = none ↔ h.res = false ∧ ¬overlap ∧ ¬misplaced)

/-- An instruction whose guard is false does nothing (03 R35); that this holds of a transfer or loop whose target or body is out of range
as well is log entry 16 (DEDUCED), the model's reading. -/
def Obligations.GuardFalseDoesNothing : Prop :=
  ∀ (k : Nat) (w : SlotWord) (i : Instr) (s : State), k < 8 → decodeSlot k w = .ok i →
    (s.guardOn (guardOf k w) = false → exec i s = .next s) ∧ s.guardOn 8 = false ∧ s.guardOn 0 = true

/-- No instruction of a slot writes a register, a latch, a flag or a byte of memory in the cycle it issues: results land, and
stores perform, later (00 R7, 03 R59, 07 R126).  The bank file and the tiles stay as well. -/
def Obligations.SlotInstructionsActLater : Prop :=
  ∀ (i : Instr) (k : Nat) (s t : State), slotOf i = some k → exec i s = .next t →
    KeepsRegisters s t ∧ KeepsMemory s t ∧ t.core.mx.tile = s.core.mx.tile ∧ t.core.mx.anchor = s.core.mx.anchor
    ∧ t.core.sp.bank = s.core.sp.bank ∧ t.web = s.web

/-- The sixteen scalar operations of two sources (12 R208, R209). -/
def Obligations.ScalarOfTwoSources : Prop :=
  ∀ (u : BitVec 1) (g : BitVec 4) (d : BitVec 5) (a b : BitVec 6) (w : BitVec 1) (s : State), s.guardOn g = true →
    s.waitsA a = false → s.waitsA b = false →
    let x := s.srcA a
    let y := s.srcA b
    let sh := y.toNat % 64
    let send := fun (n : Nat) (r : Word) => Host.Outcome.next (s.push (unitResult s u w d n r))
    exec (.add u g d a b w) s = send 1 (BitVec.ofNat 64 (x.toNat + y.toNat))
    ∧ exec (.sub u g d a b w) s = send 1 (BitVec.ofInt 64 ((x.toNat : Int) - y.toNat))
    ∧ exec (.and u g d a b w) s = send 1 (x &&& y)
    ∧ exec (.or u g d a b w) s = send 1 (x ||| y)
    ∧ exec (.xor u g d a b w) s = send 1 (x ^^^ y)
    ∧ exec (.shl u g d a b w) s = send 1 (BitVec.ofNat 64 (x.toNat * 2 ^ sh))
    ∧ exec (.shr u g d a b w) s = send 1 (BitVec.ofNat 64 (x.toNat / 2 ^ sh))
    ∧ exec (.sar u g d a b w) s = send 1 (BitVec.ofInt 64 (x.toInt / 2 ^ sh))
    ∧ exec (.mul u g d a b w) s = send 3 (BitVec.ofNat 64 (x.toNat * y.toNat))
    ∧ exec (.mulh u g d a b w) s = send 3 (BitVec.ofInt 64 (x.toInt * y.toInt / 2 ^ 64))
    ∧ exec (.mulhu u g d a b w) s = send 3 (BitVec.ofNat 64 (x.toNat * y.toNat / 2 ^ 64))
    ∧ exec (.min u g d a b w) s = send 1 (if x.toInt ≤ y.toInt then x else y)
    ∧ exec (.max u g d a b w) s = send 1 (if x.toInt ≤ y.toInt then y else x)
    ∧ exec (.minu u g d a b w) s = send 1 (if x.toNat ≤ y.toNat then x else y)
    ∧ exec (.maxu u g d a b w) s = send 1 (if x.toNat ≤ y.toNat then y else x)
    ∧ exec (.andn u g d a b w) s = send 1 (x &&& ~~~y)

/-- The immediate forms, comparisons, modifiers and LANE (12 R208, R210 to R213). -/
def Obligations.ScalarOfOneSource : Prop :=
  ∀ (u : BitVec 1) (g : BitVec 4) (d : BitVec 5) (a b : BitVec 6) (w : BitVec 1) (s : State), s.guardOn g = true →
    s.waitsA a = false → s.waitsA b = false →
    let x := s.srcA a
    let y := s.srcA b
    let lt := if u = 0 then Latch.la else Latch.lb
    let send := fun (n : Nat) (r : Word) => Host.Outcome.next (s.push (unitResult s u w d n r))
    (∀ im : BitVec 10,
      exec (.addi u g d a im w) s = send 1 (BitVec.ofInt 64 (x.toNat + im.toInt))
      ∧ exec (.andi u g d a im w) s = send 1 (x &&& im.signExtend 64)
      ∧ exec (.ori u g d a im w) s = send 1 (x ||| im.signExtend 64)
      ∧ exec (.xori u g d a im w) s = send 1 (x ^^^ im.signExtend 64)
      ∧ exec (.muli u g d a im w) s = send 3 (BitVec.ofInt 64 (x.toInt * im.toInt))
      ∧ exec (.imx u g d a im w) s = send 1 (BitVec.ofNat 64 (x.toNat * 1024) ||| im.zeroExtend 64))
    ∧ (∀ im : BitVec 6,
      exec (.shli u g d a im w) s = send 1 (BitVec.ofNat 64 (x.toNat * 2 ^ im.toNat))
      ∧ exec (.shri u g d a im w) s = send 1 (BitVec.ofNat 64 (x.toNat / 2 ^ im.toNat))
      ∧ exec (.sari u g d a im w) s = send 1 (BitVec.ofInt 64 (x.toInt / 2 ^ im.toNat)))
    ∧ (∀ p : BitVec 3,
      let pr := fun (r : Bool) => Host.Outcome.next (s.push (scalarResult s (1 + u.toNat) 1 (some .p) p.toNat (if r then 1 else 0) lt))
      exec (.cmp u g p a b 0) s = pr (decide (x = y)) ∧ exec (.cmp u g p a b 1) s = pr (decide (x ≠ y))
      ∧ exec (.cmp u g p a b 2) s = pr (decide (x.toInt < y.toInt)) ∧ exec (.cmp u g p a b 3) s = pr (decide (y.toInt ≤ x.toInt))
      ∧ exec (.cmp u g p a b 4) s = pr (decide (x.toInt ≤ y.toInt)) ∧ exec (.cmp u g p a b 5) s = pr (decide (y.toInt < x.toInt))
      ∧ exec (.cmp u g p a b 6) s = pr (decide (x.toNat < y.toNat)) ∧ exec (.cmp u g p a b 7) s = pr (decide (y.toNat ≤ x.toNat))
      ∧ ∀ im : BitVec 10, let z := im.signExtend 64
        exec (.cmpi u g p 0 a im) s = pr (decide (x = z)) ∧ exec (.cmpi u g p 1 a im) s = pr (decide (x ≠ z))
        ∧ exec (.cmpi u g p 2 a im) s = pr (decide (x.toInt < im.toInt)) ∧ exec (.cmpi u g p 3 a im) s = pr (decide (im.toInt ≤ x.toInt))
        ∧ exec (.cmpi u g p 4 a im) s = pr (decide (x.toInt ≤ im.toInt)) ∧ exec (.cmpi u g p 5 a im) s = pr (decide (im.toInt < x.toInt))
        ∧ exec (.cmpi u g p 6 a im) s = pr (decide (x.toNat < z.toNat)) ∧ exec (.cmpi u g p 7 a im) s = pr (decide (z.toNat ≤ x.toNat)))
    ∧ (∀ (m : BitVec 5) (im : BitVec 10), ∃ l : Landing,
      exec (.mset u g m a im) s = .next (s.push l) ∧ l.due = s.core.cyc + 1 ∧ l.file = some .m ∧ l.dst = BitVec.ofNat 10 m.toNat
      ∧ l.latch = lt ∧ bitsAt l.lval 0 64 = x + im.signExtend 64 ∧ bitsAt l.val 0 56 = bitsAt (x + im.signExtend 64) 0 56
      ∧ bitsAt l.val 56 6 = 0 ∧ bitsAt l.val 62 2 = bitsAt (x + im.signExtend 64) 62 2 ∧ l.sel = BitVec.allOnes 1024)
    ∧ (∀ m : BitVec 5, exec (.aupd u g d m b w) s = match modUpdate (s.core.r.readM m) y with
      | some r => send 1 r
      | none => .next (s.takePrecise (.plain .illegalOperation (1 + u.toNat))))
    ∧ ∀ (sf : BitVec 10) (im : BitVec 5) (k : BitVec 1),
      let src := s.srcLine k sf
      let i := (s.core.r.readA im).toNat
      let la := fun (r : Word) => Host.Outcome.next (s.push (scalarResult s (1 + u.toNat) 2 none 0 r lt))
      exec (.lane u g sf im 0 k 0) s = la ((elem src 32 (i % 32)).signExtend 64)
      ∧ exec (.lane u g sf im 0 k 1) s = la ((elem src 32 (i % 32)).zeroExtend 64)
      ∧ exec (.lane u g sf im 1 k 0) s = la ((elem src 16 (i % 64)).signExtend 64)
      ∧ exec (.lane u g sf im 1 k 1) s = la ((elem src 16 (i % 64)).zeroExtend 64)
      ∧ exec (.lane u g sf im 2 k 0) s = la ((elem src 8 (i % 128)).signExtend 64)
      ∧ exec (.lane u g sf im 2 k 1) s = la ((elem src 8 (i % 128)).zeroExtend 64)
      ∧ exec (.lane u g sf im 3 k 0) s = la (elem src 64 (i % 16))

/-- An empty bound queue head among its sources holds an instruction (10 R181). -/
def Obligations.QueueHeads : Prop :=
  (∀ (u : BitVec 1) (g : BitVec 4) (d : BitVec 5) (a b : BitVec 6) (w : BitVec 1) (s : State), s.guardOn g = true →
    s.waitsA a = true ∨ s.waitsA b = true →
    let hold := Host.Outcome.next (s.hold .queueHead)
    exec (.add u g d a b w) s = hold ∧ exec (.sub u g d a b w) s = hold ∧ exec (.and u g d a b w) s = hold
    ∧ exec (.or u g d a b w) s = hold ∧ exec (.xor u g d a b w) s = hold ∧ exec (.shl u g d a b w) s = hold
    ∧ exec (.shr u g d a b w) s = hold ∧ exec (.sar u g d a b w) s = hold ∧ exec (.mul u g d a b w) s = hold
    ∧ exec (.mulh u g d a b w) s = hold ∧ exec (.mulhu u g d a b w) s = hold ∧ exec (.min u g d a b w) s = hold
    ∧ exec (.max u g d a b w) s = hold ∧ exec (.minu u g d a b w) s = hold ∧ exec (.maxu u g d a b w) s = hold
    ∧ exec (.andn u g d a b w) s = hold
    ∧ ∀ (p c : BitVec 3), exec (.cmp u g p a b c) s = hold)
  ∧ (∀ (u : BitVec 1) (g : BitVec 4) (d : BitVec 5) (a : BitVec 6) (w : BitVec 1) (s : State), s.guardOn g = true → s.waitsA a = true →
    let hold := Host.Outcome.next (s.hold .queueHead)
    (∀ im : BitVec 10, exec (.addi u g d a im w) s = hold ∧ exec (.andi u g d a im w) s = hold ∧ exec (.ori u g d a im w) s = hold
      ∧ exec (.xori u g d a im w) s = hold ∧ exec (.muli u g d a im w) s = hold ∧ exec (.imx u g d a im w) s = hold
      ∧ (∀ (p c : BitVec 3), exec (.cmpi u g p c a im) s = hold) ∧ exec (.mset u g d a im) s = hold)
    ∧ (∀ im : BitVec 6, exec (.shli u g d a im w) s = hold ∧ exec (.shri u g d a im w) s = hold ∧ exec (.sari u g d a im w) s = hold)
    ∧ ∀ m : BitVec 5, exec (.aupd u g d m a w) s = hold)
  ∧ (∀ (u : BitVec 1) (g : BitVec 4) (d : BitVec 4) (a b : BitVec 5) (w : BitVec 1) (z k : BitVec 3) (s : State),
    s.guardOn g = true → s.waitsV a = true ∨ s.waitsV b = true →
    let hold := Host.Outcome.next (s.hold .queueHead)
    exec (.vfadd u g d w a b z k) s = hold ∧ exec (.vfsub u g d w a b z k) s = hold ∧ exec (.vfmul u g d w a b z k) s = hold
    ∧ exec (.vfma u g d w a b z k) s = hold ∧ exec (.vfms u g d w a b z k) s = hold ∧ exec (.vfnma u g d w a b z k) s = hold
    ∧ exec (.vfmin u g d w a b z k) s = hold ∧ exec (.vfmax u g d w a b z k) s = hold ∧ exec (.vadd u g d w a b z k) s = hold
    ∧ exec (.vsub u g d w a b z k) s = hold ∧ exec (.vmul u g d w a b z k) s = hold ∧ exec (.vand u g d w a b z k) s = hold
    ∧ exec (.vor u g d w a b z k) s = hold ∧ exec (.vxor u g d w a b z k) s = hold ∧ exec (.vshl u g d w a b z k) s = hold
    ∧ exec (.vperm u g d w a b z k) s = hold ∧ exec (.vzip u g d w a b z k) s = hold ∧ exec (.vuzp u g d w a b z k) s = hold
    ∧ exec (.vsel u g d w a b z k) s = hold ∧ exec (.fnrcp u g d w a b z k) s = hold ∧ exec (.fnrsq u g d w a b z k) s = hold
    ∧ exec (.fscale u g d w a b z k) s = hold ∧ exec (.vrng u g d w a b z k) s = hold
    ∧ (∀ ux : BitVec 1, exec (.vmulh u g d w a b z k ux) s = hold ∧ exec (.vadds u g d w a b z k ux) s = hold ∧ exec (.vmin u g d w a b z k ux) s = hold
      ∧ exec (.vmax u g d w a b z k ux) s = hold ∧ exec (.vshr u g d w a b z k ux) s = hold
      ∧ ∀ e c : BitVec 3, exec (.vfcmp u g e w a b z c) s = hold ∧ exec (.vcmp u g e w a b z c ux) s = hold))
  ∧ (∀ (u : BitVec 1) (g : BitVec 4) (d : BitVec 4) (a : BitVec 5) (w : BitVec 1) (z k : BitVec 3) (r : BitVec 2) (s : State),
    s.guardOn g = true → s.waitsV a = true →
    let hold := Host.Outcome.next (s.hold .queueHead)
    exec (.vfabs u g d w a z k) s = hold ∧ exec (.vmov u g d w a z k) s = hold ∧ exec (.vrsum u g d w a z k) s = hold
    ∧ exec (.vrmax u g d w a z k) s = hold ∧ exec (.vrmin u g d w a z k) s = hold ∧ exec (.vrisum u g d w a z k) s = hold
    ∧ exec (.vscan u g d w a z k) s = hold ∧ exec (.frcps u g d w a z k) s = hold ∧ exec (.frsqs u g d w a z k) s = hold
    ∧ exec (.fgete u g d w a z k) s = hold ∧ exec (.fgetm u g d w a z k) s = hold
    ∧ exec (.frint u g d w a z r) s = hold ∧ exec (.vcfs u g d w a z r) s = hold ∧ exec (.vcsf u g d w a z r) s = hold
    ∧ (∀ im : BitVec 9, exec (.vaddi u g d w a im z) s = hold ∧ exec (.vandi u g d w a im z) s = hold)
    ∧ (∀ (im : BitVec 5) (ux : BitVec 1), exec (.vshli u g d w a im z) s = hold ∧ exec (.vshri u g d w a ux im z) s = hold
      ∧ (im.toNat < lanesOf z → exec (.vbcst u g d w a im z k) s = hold ∧ exec (.vxch u g d w a im z k) s = hold)
      ∧ exec (.vqnt u g d w a r ux) s = hold ∧ exec (.vdqn u g d w a r ux) s = hold
      ∧ ∀ f t : BitVec 3, exec (.vcfi u g d w a f t z r ux) s = hold ∧ exec (.vcif u g d w a f t z r ux) s = hold
        ∧ exec (.vcfn u g d w a t z r) s = hold ∧ exec (.vcnf u g d w a t z r) s = hold)
    ∧ ∀ e : BitVec 3, exec (.kmovNz u g e w a z) s = hold ∧ exec (.kmovBits u g e w a z) s = hold)
  ∧ (∀ (s : State) (h : BitVec 2), s.core.heads[h.toNat] = none →
    s.waitsA (44 + h.zeroExtend 6) = false ∧ s.srcA (44 + h.zeroExtend 6) = 0 ∧ s.srcV (28 + h.zeroExtend 5) = 0)
  ∧ (∀ (s : State) (h : BitVec 2) (q : BitVec 5) (m : Msg) (rest : List Msg), s.core.heads[h.toNat] = some q →
    (s.core.rq[q.toNat]).msgs.drop (s.core.rq[q.toNat]).popped = m :: rest →
    s.waitsA (44 + h.zeroExtend 6) = false ∧ s.waitsV (28 + h.zeroExtend 5) = false
    ∧ s.srcV (28 + h.zeroExtend 5) = m.data ∧ s.srcA (44 + h.zeroExtend 6) = bitsAt m.data 0 64)
  ∧ (∀ (g : BitVec 4) (cp : BitVec 8) (h : BitVec 2) (s : State), s.guardOn g = true →
    let e := Tab.get 0 s.core.caps cp.toNat
    let ok := bitAt e 63 = true ∧ bitsAt e 60 3 = 1 ∧ bitAt e 58 = true ∧ s.core.heads[h.toNat] = none
      ∧ ∀ k : Fin 4, s.core.heads[k] ≠ some (bitsAt e 45 5)
    let binds := fun (q : Option (BitVec 5)) => Host.Outcome.next { s with core := { s.core with heads := s.core.heads.set h.toNat q } }
    (ok → exec (.chb g cp h) s = binds (some (bitsAt e 45 5)))
    ∧ (¬ok → exec (.chb g cp h) s = .next (s.takePrecise { FaultInfo.plain .capability 7 with va := BitVec.ofNat 48 cp.toNat }))
    ∧ exec (.chu g h) s = binds none)
  ∧ ∀ (m : BitVec 4) (s : State), (∀ i j : Fin 4, s.core.heads[i] = s.core.heads[j] → s.core.heads[i] ≠ none → i = j) →
    ∃ t : State, exec (.pop m) s = .next t ∧ KeepsRegisters s t ∧ KeepsMemory s t ∧ t.core.heads = s.core.heads
      ∧ ∀ q : Fin 32, (t.core.rq[q]).msgs = (s.core.rq[q]).msgs
        ∧ ((∃ h : Fin 4, bitAt m h.val = true ∧ s.core.heads[h] = some (BitVec.ofNat 5 q.val)) → (s.core.rq[q]).popped < (s.core.rq[q]).msgs.length →
            (t.core.rq[q]).popped = (s.core.rq[q]).popped + 1)
        ∧ ((∀ h : Fin 4, bitAt m h.val = true → s.core.heads[h] ≠ some (BitVec.ofNat 5 q.val)) ∨ (s.core.rq[q]).msgs.length ≤ (s.core.rq[q]).popped →
            (t.core.rq[q]).popped = (s.core.rq[q]).popped)

/-- LDL, LDS, LDB and LDG of the scratchpad queue a load of exactly their bytes (12 R217 to R220). -/
def Obligations.LoadsOfTheScratchpad : Prop :=
  ∀ (u : BitVec 1) (g : BitVec 4) (n : BitVec 5) (m : BitVec 1) (s : State) (nb : Option Word) (off : Nat),
    s.guardOn g = true → s.newBase n m = some nb →
    (∀ (sf : BitVec 10) (w : BitVec 2) (t : BitVec 1) (h : BitVec 2), w ≠ 3 →
      let first := if w = 0 then 0 else if w = 1 then 16 * (h.toNat % 2) else 8 * h.toNat
      let count := if w = 0 then 32 else if w = 1 then 16 else 8
      s.checkAccess (1 + u.toNat) (s.core.r.readA n) (4 * count) (4 * count) .read = .pad off →
      LoadsPad s (exec (.ldl u g sf n m w t h) s) u n nb ((List.range (4 * count)).map fun i => (4 * first + i, off + i)) .line
        (if t = 0 then .plane else .v) sf (laneSel fun i => decide (first ≤ i ∧ i < first + count)))
    ∧ (∀ (d : BitVec 5) (k : BitVec 4),
      let size := if k.toNat % 8 = 0 then 1 else if k.toNat % 8 = 1 then 2 else if k.toNat % 8 = 2 then 4 else 8
      k ∈ [0, 1, 2, 3, 8, 9, 10] → s.checkAccess (1 + u.toNat) (s.core.r.readA n) size size .read = .pad off →
      LoadsPad s (exec (.lds u g d n m k) s) u n nb ((List.range size).map fun i => (i, off + i)) (.scalar size (decide (k.toNat < 8)))
        .a (BitVec.ofNat 10 d.toNat) (BitVec.allOnes 1024))
    ∧ (∀ (sf : BitVec 10) (w : BitVec 2) (t f : BitVec 1) (e : BitVec 2),
      let first := if w = 0 then 0 else if w = 1 then 16 * f.toNat else if w = 2 then 8 * f.toNat else 16 + 8 * f.toNat
      let count := if w = 0 then 32 else if w = 1 then 16 else 8
      let size := if e = 0 then 4 else if e = 1 then 2 else if e = 2 then 1 else 8
      s.checkAccess (1 + u.toNat) (s.core.r.readA n) size size .read = .pad off →
      LoadsPad s (exec (.ldb u g sf n m w t f e) s) u n nb ((List.range size).map fun i => (i, off + i)) (.bcast size)
        (if t = 0 then .plane else .v) sf (laneSel fun i => decide (first ≤ i ∧ i < first + count)))
    ∧ ∀ (v : BitVec 4) (w : BitVec 2) (k : BitVec 4), w ≠ 3 →
      let size := if w = 0 then 4 else if w = 1 then 2 else 1
      let va := (s.core.r.readA n).toNat
      va % size = 0 →
      (∀ i, i < 128 / size → va + size * (elem (s.core.r.readV k) (8 * size) i).toNat + size ≤ Config.scratchBytes) →
      LoadsPad s (exec (.ldg u g v n m w k) s) u n nb
        ((List.range (128 / size)).map fun i => (List.range size).map fun j =>
          (size * i + j, va + size * (elem (s.core.r.readV k) (8 * size) i).toNat + j)).flatten
        .line .v (BitVec.ofNat 10 v.toNat) (BitVec.allOnes 1024)

/-- A load of the quire window (09 R161, 05 R100 to R103, 12 R227, 21 R383); that a violation does not count in ACC is log entry 41
(DEDUCED), the model's reading. -/
def Obligations.LoadsOfTheQuireWindow : Prop :=
  ∀ (u : BitVec 1) (g : BitVec 4) (n : BitVec 5) (m : BitVec 1) (s : State) (nb : Option Word) (ent off : Nat) (zeros viol : Bool),
    s.guardOn g = true → s.newBase n m = some nb →
    (∀ (sf : BitVec 10) (w : BitVec 2) (t : BitVec 1) (h : BitVec 2), w ≠ 3 →
      let first := if w = 0 then 0 else if w = 1 then 16 * (h.toNat % 2) else 8 * h.toNat
      let count := if w = 0 then 32 else if w = 1 then 16 else 8
      s.checkAccess (1 + u.toNat) (s.core.r.readA n) (4 * count) (4 * count) .read = .quire ent off zeros viol →
      (s.reloads = false → LoadsQuire s (exec (.ldl u g sf n m w t h) s) u n nb
        ((List.range (4 * count)).map fun i => (4 * first + i, off + i)) ent zeros viol .line
        (if t = 0 then .plane else .v) sf (laneSel fun i => decide (first ≤ i ∧ i < first + count)))
      ∧ (s.reloads = true → exec (.ldl u g sf n m w t h) s = .next (s.hold .mirrorReload)))
    ∧ (∀ (d : BitVec 5) (k : BitVec 4),
      let size := if k.toNat % 8 = 0 then 1 else if k.toNat % 8 = 1 then 2 else if k.toNat % 8 = 2 then 4 else 8
      k ∈ [0, 1, 2, 3, 8, 9, 10] → s.checkAccess (1 + u.toNat) (s.core.r.readA n) size size .read = .quire ent off zeros viol →
      (s.reloads = false → LoadsQuire s (exec (.lds u g d n m k) s) u n nb ((List.range size).map fun i => (i, off + i)) ent zeros viol
        (.scalar size (decide (k.toNat < 8))) .a (BitVec.ofNat 10 d.toNat) (BitVec.allOnes 1024))
      ∧ (s.reloads = true → exec (.lds u g d n m k) s = .next (s.hold .mirrorReload)))
    ∧ (∀ (sf : BitVec 10) (w : BitVec 2) (t f : BitVec 1) (e : BitVec 2),
      let first := if w = 0 then 0 else if w = 1 then 16 * f.toNat else if w = 2 then 8 * f.toNat else 16 + 8 * f.toNat
      let count := if w = 0 then 32 else if w = 1 then 16 else 8
      let size := if e = 0 then 4 else if e = 1 then 2 else if e = 2 then 1 else 8
      s.checkAccess (1 + u.toNat) (s.core.r.readA n) size size .read = .quire ent off zeros viol →
      (s.reloads = false → LoadsQuire s (exec (.ldb u g sf n m w t f e) s) u n nb ((List.range size).map fun i => (i, off + i)) ent zeros viol
        (.bcast size) (if t = 0 then .plane else .v) sf (laneSel fun i => decide (first ≤ i ∧ i < first + count)))
      ∧ (s.reloads = true → exec (.ldb u g sf n m w t f e) s = .next (s.hold .mirrorReload)))
    ∧ (∀ (sf : BitVec 10) (st : BitVec 4) (k : BitVec 1),
      let d := s.core.r.readSt st
      s.checkAccess (1 + u.toNat) (BitVec.ofNat 64 (stAddr d)) 128 128 .read = .quire ent off zeros viol →
      (s.reloads = false → ReadsQuire s (exec (.ldt u g sf st k) s) u (s.push (streamMoved s u st (1024 / fmtBits (stFmt d)))).core.land
        ((List.range 128).map fun i => (i, off + i)) ent zeros viol .line (if k = 0 then .plane else .v) sf (BitVec.allOnes 1024))
      ∧ (s.reloads = true → exec (.ldt u g sf st k) s = .next (s.hold .mirrorReload)))
    ∧ (∀ (va : Word) (len : Nat), s.checkAccess (1 + u.toNat) va len len .read = .quire ent off zeros viol →
      ∃ e pa, s.core.translate va.toNat = .phys ent e pa ∧ quireOff pa = some off ∧ bitAt e 0 = true
        ∧ zeros = decide (bitsAt e 3 2 = 2) ∧ (zeros = true ∨ bitsAt e 3 2 = 1)
        ∧ (viol = false ↔ ∃ r ∈ s.part.quireShare, r.1 ≤ off ∧ off + len ≤ r.1 + r.2))
    ∧ ∀ l : Load, l.quire = true → l.markRem = none →
      let t' := s.readLoad l
      let spoilt := l.poison = false ∧ l.zeros = false ∧ ∃ b ∈ l.bytes, poisonGran true b.2 ∈ s.core.poison
      let got := fun (a : Nat) => if l.poison = true ∨ (l.zeros = false ∧ poisonGran true a ∈ s.core.poison)
        then elem (0x7FC00000 : Lane32) 8 (a % 4) else if l.zeros then 0 else Memory.byte s.mirror a
      let lands := fun (v : Line) => ∃ r ∈ t'.core.land, r = { l.land with val := v, lval := v, bad := r.bad }
        ∧ (¬spoilt → r.bad = l.land.bad)
        ∧ (spoilt → ∃ i, r.bad = some i ∧ i.kind = .uncorrectableData ∧ i.resumes = false ∧ i.slot = l.land.slot ∧ i.word = l.word)
      KeepsRegisters s t' ∧ KeepsMemory s t'
      ∧ (l.form = .line → (l.bytes.map (·.1)).Nodup → (∀ b ∈ l.bytes, b.1 < 128) → ∃ v : Line, lands v
          ∧ (∀ b ∈ l.bytes, elem v 8 b.1 = got b.2) ∧ ∀ p, (∀ b ∈ l.bytes, b.1 ≠ p) → elem v 8 p = 0)
      ∧ ∀ a k : Nat, k ∈ [1, 2, 4, 8] → l.bytes = ((List.range k).map fun i => (i, a + i)) →
        ∃ x : BitVec (8 * k), (∀ i, i < k → elem x 8 i = got (a + i))
          ∧ (l.form = .scalar k false → lands (x.zeroExtend 1024))
          ∧ (l.form = .scalar k true → lands ((x.signExtend 64).zeroExtend 1024))
          ∧ (l.form = .bcast k → ∃ v : Line, lands v ∧ ∀ i, i < 128 / k → elem v (8 * k) i = x)

/-- A load lands the bytes that the visible scratchpad holds in its reading cycle (07 R126, 12 R217 to R220), and a store changes exactly its bytes when it performs (17 R306). -/
def Obligations.AccessesPerformExactly : Prop :=
  (∀ (s : State) (l : Load), l.quire = false → l.zeros = false → l.poison = false → s.loadPoisoned l = false → l.markRem = none →
    let t := s.readLoad l
    let lands := fun (v : Line) => ({ l.land with val := v, lval := v } : Landing) ∈ t.core.land
    KeepsRegisters s t ∧ KeepsMemory s t
    ∧ (l.form = .line → (l.bytes.map (·.1)).Nodup → (∀ b ∈ l.bytes, b.1 < 128) → ∃ v : Line, lands v
        ∧ (∀ b ∈ l.bytes, elem v 8 b.1 = Memory.byte s.core.scratch b.2)
        ∧ ∀ p, (∀ b ∈ l.bytes, b.1 ≠ p) → elem v 8 p = 0)
    ∧ ∀ a n : Nat, n ∈ [1, 2, 4, 8] → l.bytes = ((List.range n).map fun i => (i, a + i)) →
      let x : BitVec (8 * n) := BitVec.ofNat (8 * n) (Memory.readNat s.core.scratch a n)
      (l.form = .scalar n false → lands (x.zeroExtend 1024))
      ∧ (l.form = .scalar n true → lands ((x.signExtend 64).zeroExtend 1024))
      ∧ (l.form = .bcast n → ∃ v : Line, lands v ∧ ∀ i, i < 128 / n → elem v (8 * n) i = x))
  ∧ (∀ (c : Core) (x : Store), Memory.wf c.scratch = true →
    let c' := c.showStore x
    Memory.wf c'.scratch = true
    ∧ (∀ a : Nat, Memory.byte c'.scratch a = (match lastAt a x.bytes with
        | some b => b
        | none => Memory.byte c.scratch a))
    ∧ c' = { c with scratch := c'.scratch, poison := c'.poison, stores := c'.stores }
    ∧ (∀ g ∈ c'.poison, g ∈ c.poison)
    ∧ c'.stores = c.stores.map fun y => if y.seq = x.seq
        then { y with applied := true, old := x.bytes.map fun b => (b.1, Memory.byte c.scratch b.1) } else y)

/-- STL, STS and STG store exactly the bytes of their operands, or wait at a restart point (12 R217 to R219, 17 R307). -/
def Obligations.StoresOfTheScratchpad : Prop :=
  ∀ (u : BitVec 1) (g : BitVec 4) (n : BitVec 5) (m : BitVec 1) (s : State) (nb : Option Word) (off : Nat),
    s.guardOn g = true → s.blocked (.store []) = false → s.newBase n m = some nb →
    (∀ (sf : BitVec 10) (w : BitVec 2) (t : BitVec 1) (h : BitVec 2), w ≠ 3 →
      let first := if w = 0 then 0 else if w = 1 then 16 * (h.toNat % 2) else 8 * h.toNat
      let count := if w = 0 then 32 else if w = 1 then 16 else 8
      let src := if t = 0 then s.core.r.readPlane sf else s.core.r.readV (BitVec.ofNat 4 sf.toNat)
      s.checkAccess (1 + u.toNat) (s.core.r.readA n) (4 * count) (4 * count) .write = .pad off →
      StoresPad s (exec (.stl u g sf n m w t h) s) u n nb
        ((List.range (4 * count)).map fun i => (off + i, elem src 8 (4 * first + i))))
    ∧ (∀ (sf : BitVec 5) (k : BitVec 4),
      let size := if k.toNat % 8 = 0 then 1 else if k.toNat % 8 = 1 then 2 else if k.toNat % 8 = 2 then 4 else 8
      k ∈ [0, 1, 2, 3, 8, 9, 10] → s.checkAccess (1 + u.toNat) (s.core.r.readA n) size size .write = .pad off →
      StoresPad s (exec (.sts u g sf n m k) s) u n nb
        ((List.range size).map fun i => (off + i, elem (s.core.r.readA sf) 8 i)))
    ∧ ∀ (v : BitVec 4) (w : BitVec 2) (k : BitVec 4), w ≠ 3 →
      let size := if w = 0 then 4 else if w = 1 then 2 else 1
      let va := (s.core.r.readA n).toNat
      va % size = 0 →
      (∀ i, i < 128 / size → va + size * (elem (s.core.r.readV k) (8 * size) i).toNat + size ≤ Config.scratchBytes) →
      StoresPad s (exec (.stg u g v n m w k) s) u n nb
        ((List.range (128 / size)).map fun i => (List.range size).map fun j =>
          (va + size * (elem (s.core.r.readV k) (8 * size) i).toNat + j, elem (s.core.r.readV v) 8 (size * i + j))).flatten

/-- The base of an access (12 R214, R216) and its update under a modifier (11 R195). -/
def Obligations.BasesAndModifiers : Prop :=
  ((∀ (s : State) (n : BitVec 5), s.newBase n 0 = some none)
  ∧ (∀ (s : State) (n : BitVec 5), s.newBase n 1 = (modUpdate (s.core.r.readM n) (s.core.r.readA n)).map some)
  ∧ (∀ (s : State) (k : Nat) (n : BitVec 5), s.bumpBase k n none = s ∧ ∀ x, s.bumpBase k 0 (some x) = s
      ∧ (n ≠ 0 → s.bumpBase k n (some x) = s.push (scalarResult s k 1 (some .a) n.toNat x .none)))
  ∧ ∀ (u : BitVec 1) (g : BitVec 4) (n : BitVec 5) (s : State), s.guardOn g = true → s.newBase n 1 = none →
      let bad := Host.Outcome.next (s.takePrecise (.plain .illegalOperation (1 + u.toNat)))
      (∀ sf w t h, exec (.ldl u g sf n 1 w t h) s = bad) ∧ (∀ d k, exec (.lds u g d n 1 k) s = bad)
      ∧ (∀ v w k, exec (.ldg u g v n 1 w k) s = bad) ∧ (∀ sf w t f e, exec (.ldb u g sf n 1 w t f e) s = bad)
      ∧ (s.blocked (.store []) = false → (∀ sf w t h, exec (.stl u g sf n 1 w t h) s = bad)
        ∧ (∀ sf k, exec (.sts u g sf n 1 k) s = bad) ∧ ∀ v w k, exec (.stg u g v n 1 w k) s = bad))
  ∧ (∀ m a : Word,
    let inc := (bitsAt m 0 32).toInt
    let len := (bitsAt m 32 24).toNat
    let n := (bitsAt m 32 5).toNat
    (bitsAt m 62 2 = 0 ∨ (bitsAt m 62 2 = 1 ∧ len = 0) → modUpdate m a = some (BitVec.ofInt 64 (a.toNat + inc)))
    ∧ (bitsAt m 62 2 = 1 → len ≠ 0 → modUpdate m a
        = some (BitVec.ofInt 64 ((a.toNat : Int) - a.toNat % len + ((a.toNat % len : Int) + inc) % len)))
    ∧ (bitsAt m 62 2 = 2 → 1 ≤ n → n ≤ 24 → ∃ r : Word, modUpdate m a = some r ∧ r.toNat / 2 ^ n = a.toNat / 2 ^ n
        ∧ ∀ i, i < n → bitAt r i = bitAt (BitVec.ofInt n ((revBits n (a.toNat % 2 ^ n) : Int) + inc)) (n - 1 - i))
    ∧ (bitsAt m 62 2 = 2 → (n = 0 ∨ 24 < n) → modUpdate m a = none) ∧ (bitsAt m 62 2 = 3 → modUpdate m a = none))

/-- The faults of an access and their order (12 R214, R215, 05 R97 to R100, 21 R376).  ENTRY 0 in the record of a fault that has no entry
is log entry 20 (DEDUCED), the model's reading. -/
def Obligations.AccessFaults : Prop :=
  ∀ (s : State) (k : Nat) (va : Word) (n al : Nat) (d : Doing), k < 8 →
    let flt := fun (x : FaultKind) (e : Nat) => Checked.bad { FaultInfo.plain x k with
      acc := (match d with
        | .read => 0
        | .write => 1
        | .atomic => 2), entry := BitVec.ofNat 10 e, va := BitVec.ofNat 48 va.toNat, resumes := decide (x = .residency) }
    (va.toNat % al ≠ 0 → s.checkAccess k va n al d = flt .misalignment 0)
    ∧ (va.toNat % al = 0 →
      (∀ off, s.core.translate va.toNat = .pad off →
        s.checkAccess k va n al d = if off + n ≤ Config.scratchBytes then .pad off else flt .outOfTable 0)
      ∧ (s.core.translate va.toNat = .none → s.checkAccess k va n al d = flt .outOfTable 0)
      ∧ ∀ e ent pa, s.core.translate va.toNat = .phys ent e pa →
        (quireOff pa = none → s.checkAccess k va n al d = flt .outOfTable ent)
        ∧ ∀ off, quireOff pa = some off →
          (d ≠ .read ∨ bitAt e 0 = false → s.checkAccess k va n al d = flt .permission ent)
          ∧ (d = .read → bitAt e 0 = true → bitsAt e 3 2 ≠ 1 → bitsAt e 3 2 ≠ 2 → s.checkAccess k va n al d = flt .residency ent))
    ∧ (∀ v : Nat, v < Config.scratchBytes → s.core.translate v = .pad v)
    ∧ (∀ v : Nat, 2 ^ 48 ≤ v → s.core.translate v = .none)
    ∧ ∀ (u : BitVec 1) (g : BitVec 4) (nn : BitVec 5) (m : BitVec 1) (nb : Option Word) (i : FaultInfo), s.guardOn g = true →
      s.newBase nn m = some nb →
      (∀ dd, s.checkAccess (1 + u.toNat) (s.core.r.readA nn) 8 8 .read = .bad i → exec (.lds u g dd nn m 3) s = .next (s.takePrecise i))
      ∧ (∀ sf t h, s.checkAccess (1 + u.toNat) (s.core.r.readA nn) 128 128 .read = .bad i →
          exec (.ldl u g sf nn m 0 t h) s = .next (s.takePrecise i))
      ∧ (s.blocked (.store []) = false → ∀ sf, s.checkAccess (1 + u.toNat) (s.core.r.readA nn) 8 8 .write = .bad i →
          exec (.sts u g sf nn m 3) s = .next (s.takePrecise i))
      ∧ (s.blocked (.store []) = false → ∀ sf t h, s.checkAccess (1 + u.toNat) (s.core.r.readA nn) 128 128 .write = .bad i →
          exec (.stl u g sf nn m 0 t h) s = .next (s.takePrecise i))

/-- Bank phases and MARK (07 R125, 17 R305, R308). -/
def Obligations.BankPhasesAndMark : Prop :=
  (∀ (c : Core) (gs : List Nat),
    let r := c.loadPhase gs
    c.cyc + 4 ≤ r.1 ∧ c.minB0 ≤ r.1 ∧ (∀ g ∈ gs, (c.ldFree[g % 32]?).getD 0 ≤ r.1)
    ∧ (∀ b : Nat, c.cyc + 4 ≤ b → c.minB0 ≤ b → (∀ g ∈ gs, (c.ldFree[g % 32]?).getD 0 ≤ b) → r.1 ≤ b)
    ∧ r.2.1 = demand gs ∧ 1 ≤ demand gs
    ∧ (∀ b : Nat, b < 32 → (gs.filter fun g => g % 32 == b).length ≤ demand gs)
    ∧ (∀ g ∈ gs, (r.2.2.ldFree[g % 32]?).getD 0 = r.1 + demand gs)
    ∧ (∀ b : Nat, b < 32 → (∀ g ∈ gs, g % 32 ≠ b) → r.2.2.ldFree[b]? = c.ldFree[b]?)
    ∧ r.2.2.stFree = c.stFree ∧ r.2.2.lastE = Nat.max c.lastE (r.1 + demand gs - 1))
  ∧ (∀ (c : Core) (gs : List Nat),
    let r := c.storePhase gs
    let b0 := r.1 + 1 - demand gs
    c.cyc + 4 ≤ b0 ∧ c.minW ≤ r.1 ∧ (∀ g ∈ gs, (c.stFree[g % 32]?).getD 0 ≤ b0)
    ∧ (∀ b : Nat, c.cyc + 4 ≤ b → c.minW ≤ b + demand gs - 1 → (∀ g ∈ gs, (c.stFree[g % 32]?).getD 0 ≤ b) → b0 ≤ b)
    ∧ (∀ g ∈ gs, (r.2.stFree[g % 32]?).getD 0 = r.1 + 1) ∧ r.2.ldFree = c.ldFree ∧ r.2.lastW = Nat.max c.lastW r.1)
  ∧ (∀ (c : Core) (gs : List Nat),
    let r := c.enginePhase gs
    c.cyc + 4 ≤ r.1 ∧ (∀ g ∈ gs, (c.ldFree[g % 32]?).getD 0 ≤ r.1)
    ∧ (∀ b : Nat, c.cyc + 4 ≤ b → (∀ g ∈ gs, (c.ldFree[g % 32]?).getD 0 ≤ b) → r.1 ≤ b)
    ∧ r.2.1 = demand gs ∧ (∀ g ∈ gs, (r.2.2.ldFree[g % 32]?).getD 0 = r.1 + demand gs)
    ∧ r.2.2 = { c with ldFree := r.2.2.ldFree })
  ∧ ∀ (g : BitVec 4) (s : State), s.guardOn g = true →
    exec (.mark g) s = .next { s with core := { s.core with
      minB0 := Nat.max s.core.minB0 (s.core.lastW + 1), minW := Nat.max s.core.minW (s.core.lastE + 1) } }

/-- The stream instructions (11 R197, R198, 12 R221 to R228).  That an advance writes the six indices as one field is log entry 8
(DEDUCED), the model's reading. -/
def Obligations.Streams : Prop :=
  ((∀ (u : BitVec 1) (g : BitVec 4) (s : State), s.guardOn g = true →
    (∀ (v : BitVec 4) (h : BitVec 1) (st : BitVec 4),
      let d : BitVec 512 := elem (s.core.r.readV v) 512 h.toNat
      let bad := 8 < (bitsAt d 48 4).toNat ∨ 2 < (bitsAt d 52 4).toNat
      (bad → exec (.sdef u g v h st) s = .next (s.takePrecise (.plain .illegalOperation (1 + u.toNat))))
      ∧ (¬bad → ∃ l : Landing, exec (.sdef u g v h st) s = .next (s.push l) ∧ l.due = s.core.cyc + 1 ∧ l.file = some .st
          ∧ l.dst = BitVec.ofNat 10 st.toNat ∧ l.latch = .none ∧ bitsAt l.sel 0 512 = BitVec.allOnes 512
          ∧ bitsAt l.val 56 8 = 0 ∧ bitsAt l.val 0 56 = bitsAt d 0 56 ∧ bitsAt l.val 64 448 = bitsAt d 64 448))
    ∧ (∀ (d : BitVec 5) (st f : BitVec 4),
      let x := s.core.r.readSt st
      ∃ r : Word, exec (.srdf u g d st f) s = .next (s.push (unitResult s u 0 d 1 r))
        ∧ (f = 0 → r = (bitsAt x 0 48).zeroExtend 64) ∧ (f = 1 → r = (bitsAt x 48 8).zeroExtend 64)
        ∧ (f = 2 → r = (bitsAt x 64 48).zeroExtend 64) ∧ (f = 3 → r = (bitsAt x 112 16).signExtend 64)
        ∧ (∀ k : Nat, k < 6 → f.toNat = 4 + k →
            bitsAt r 0 16 = bitsAt x (224 + 16 * k) 16 ∧ bitsAt r 16 16 = bitsAt x (128 + 16 * k) 16 ∧ bitsAt r 32 32 = 0)
        ∧ (∀ k : Nat, k < 6 → f.toNat = 10 + k → r = (bitsAt x (320 + 32 * k) 32).signExtend 64))
    ∧ (∀ (n : BitVec 5) (st d : BitVec 4), ∃ l : Landing, exec (.sadv u g n st d) s = .next (s.push l) ∧ l.due = s.core.cyc + 1
        ∧ l.file = some .st ∧ l.dst = BitVec.ofNat 10 st.toNat ∧ l.latch = .none
        ∧ (∀ b, bitAt l.sel b = decide (224 ≤ b ∧ b < 320))
        ∧ ∀ k, k < 6 → bitsAt l.val (224 + 16 * k) 16 = BitVec.ofNat 16 (nth 0
            (advanceIdx (stCount (s.core.r.readSt st)) (stIdx (s.core.r.readSt st)) d.toNat 6 0 (s.core.r.readA n).toNat) k))
    ∧ ∀ st : BitVec 4, ∃ l : Landing, exec (.srst u g st) s = .next (s.push l) ∧ l.due = s.core.cyc + 1 ∧ l.file = some .st
        ∧ l.dst = BitVec.ofNat 10 st.toNat ∧ l.latch = .none ∧ l.val = 0 ∧ ∀ b, bitAt l.sel b = decide (224 ≤ b ∧ b < 320))
  ∧ ∀ (cnt idx : Nat → Nat) (d n : Nat), (∀ k, 1 ≤ cnt k) → (∀ k, idx k < cnt k) → d < 6 →
    let l := advanceIdx cnt idx d 6 0 n
    (∀ k, k < d → nth 0 l k = idx k) ∧ (∀ k, d ≤ k → k < 6 → nth 0 l k < cnt k)
    ∧ ∃ laps : Nat, ((List.range (6 - d)).map fun i => nth 0 l (d + i) * ((List.range i).map fun j => cnt (d + j)).prod).sum
        + laps * ((List.range (6 - d)).map fun j => cnt (d + j)).prod
      = ((List.range (6 - d)).map fun i => idx (d + i) * ((List.range i).map fun j => cnt (d + j)).prod).sum + n)
  ∧ (∀ (u : BitVec 1) (g : BitVec 4) (sf : BitVec 10) (st : BitVec 4) (k : BitVec 1) (s : State), s.guardOn g = true →
    let d := s.core.r.readSt st
    let va : Word := BitVec.ofNat 64 (stAddr d)
    let moved := streamMoved s u st (1024 / fmtBits (stFmt d))
    (∀ off, s.checkAccess (1 + u.toNat) va 128 128 .read = .pad off → ∃ (t : State) (l : Load),
      exec (.ldt u g sf st k) s = .next t ∧ QueuesLoad s t l ∧ t.core.land = (s.push moved).core.land
      ∧ l.bytes = ((List.range 128).map fun i => (i, off + i)) ∧ l.form = .line ∧ l.land.dst = sf
      ∧ l.land.file = some (if k = 0 then .plane else .v) ∧ l.land.sel = BitVec.allOnes 1024
      ∧ l.readAt + 4 = (s.core.loadPhase (granulesOf ((List.range 128).map fun i => off + i))).1)
    ∧ (∀ ent off zeros viol, s.checkAccess (1 + u.toNat) va 128 128 .read = .quire ent off zeros viol →
      (s.reloads = false → ReadsQuire s (exec (.ldt u g sf st k) s) u (s.push moved).core.land
        ((List.range 128).map fun i => (i, off + i)) ent zeros viol .line (if k = 0 then .plane else .v) sf (BitVec.allOnes 1024))
      ∧ (s.reloads = true → exec (.ldt u g sf st k) s = .next (s.hold .mirrorReload)))
    ∧ (∀ i, s.checkAccess (1 + u.toNat) va 128 128 .read = .bad i → exec (.ldt u g sf st k) s = .next (s.takePrecise i))
    ∧ (s.blocked (.store []) = false →
      (∀ off, s.checkAccess (1 + u.toNat) va 128 128 .write = .pad off → ∃ t : State,
        exec (.stt u g sf st k) s = .next t ∧ t.core.land = (s.push moved).core.land
        ∧ StoresCells s t (1 + u.toNat) ((List.range 128).map fun i =>
            (off + i, elem (if k = 0 then s.core.r.readPlane sf else s.core.r.readV (BitVec.ofNat 4 sf.toNat)) 8 i)))
      ∧ ∀ i, s.checkAccess (1 + u.toNat) va 128 128 .write = .bad i → exec (.stt u g sf st k) s = .next (s.takePrecise i)))

/-- The floating-point vector instructions (13 R233 to R236). -/
def Obligations.VectorFloat : Prop :=
  ∀ (u : BitVec 1) (g : BitVec 4) (d : BitVec 4) (w : BitVec 1) (a b : BitVec 5) (z k : BitVec 3) (s : State),
    s.guardOn g = true → s.waitsV a = false → s.waitsV b = false →
    let x := fun i => lane (s.srcV a) i
    let y := fun i => lane (s.srcV b) i
    let v := fun i => lane (s.core.r.readV d) i
    let kk := s.core.r.readK k
    let m := s.core.r.fmode.toNat
    LandsLanes s (exec (.vfadd u g d w a b z k) s) u w d 4 z kk (fun i => fadd32 m (x i) (y i))
    ∧ LandsLanes s (exec (.vfsub u g d w a b z k) s) u w d 4 z kk (fun i => fsub32 m (x i) (y i))
    ∧ LandsLanes s (exec (.vfmul u g d w a b z k) s) u w d 4 z kk (fun i => fmul32 m (x i) (y i))
    ∧ LandsLanes s (exec (.vfma u g d w a b z k) s) u w d 4 z kk (fun i => fma32 m false false (x i) (y i) (v i))
    ∧ LandsLanes s (exec (.vfms u g d w a b z k) s) u w d 4 z kk (fun i => fma32 m false true (x i) (y i) (v i))
    ∧ LandsLanes s (exec (.vfnma u g d w a b z k) s) u w d 4 z kk (fun i => fma32 m true false (x i) (y i) (v i))
    ∧ LandsLanes s (exec (.vfmin u g d w a b z k) s) u w d 2 z kk (fun i => quiet (fmin32 (x i) (y i)).toNat)
    ∧ LandsLanes s (exec (.vfmax u g d w a b z k) s) u w d 2 z kk (fun i => quiet (fmax32 (x i) (y i)).toNat)
    ∧ LandsLanes s (exec (.vfabs u g d w a z k) s) u w d 2 z kk (fun i =>
        quiet (if isNan32 (x i) then 0x7FC00000 else (x i).toNat % 2 ^ 31))
    ∧ ∀ (e c : BitVec 3), LandsMask s (exec (.vfcmp u g e w a b z c) s) u w e z (fun i =>
        let un := isNan32 (x i) || isNan32 (y i)
        let lt := decide (value32 (x i) < value32 (y i))
        let eq := decide (value32 (x i) = value32 (y i))
        (if c = 0 then !un && eq else if c = 1 then un || !eq else if c = 2 then !un && lt else if c = 3 then !un && !lt
          else if c = 4 then !un && (lt || eq) else if c = 5 then !un && !(lt || eq) else if c = 6 then un else !un,
         if un ∧ 2 ≤ c.toNat ∧ c.toNat ≤ 5 then 1 else 0))

/-- The rounding of an exact value is correct in every direction (03 R59, 04 R60 to R64). -/
def Obligations.RoundingIsCorrect : Prop :=
  ∀ (f : Fmt) (mode : Nat) (neg : Bool) (m : Nat) (e : Int), (f = fp32 ∨ f = bf16 ∨ f = fp16) → mode < 4 → m ≠ 0 →
    let r := f.roundNum mode neg m e
    let x := ratOf neg m e
    let tiny := |x| < (2 : ℚ) ^ (f.qmin + f.p - 1)
    let largest : ℚ := (2 ^ f.p - 1) * (2 : ℚ) ^ ((f.bias : Int) - f.p + 1)
    (∃ q : Int, (tiny → q = f.qmin) ∧ (¬tiny → (2 : ℚ) ^ (q + f.p - 1) ≤ |x| ∧ |x| < (2 : ℚ) ^ (q + f.p))
      ∧ let y : ℚ := roundDir mode (x / (2 : ℚ) ^ q) * (2 : ℚ) ^ q
        (r.f &&& ofFlag ≠ 0 ↔ largest < |y|) ∧ (r.f &&& ufFlag ≠ 0 ↔ tiny ∧ y ≠ x)
        ∧ (|y| ≤ largest → ∃ (m' : Nat) (e' : Int), f.decode r.v = .num neg m' e' ∧ ratOf neg m' e' = y
          ∧ (y = x → r.f = 0) ∧ (y ≠ x → r.f &&& nxFlag ≠ 0 ∧ r.f &&& ~~~(nxFlag ||| ufFlag) = 0)))
    ∧ (r.f &&& ofFlag = 0 → ∃ (m' : Nat) (e' : Int), f.decode r.v = .num neg m' e'
      ∧ (r.f &&& nxFlag = 0 ↔ ratOf neg m' e' = x)
      ∧ (mode = 1 → ratOf false m' e' ≤ ratOf false m e) ∧ (mode = 2 → x ≤ ratOf neg m' e') ∧ (mode = 3 → ratOf neg m' e' ≤ x)
      ∧ (mode = 0 → ∀ (y : Nat) (n : Bool) (m'' : Nat) (e'' : Int), f.decode y = .num n m'' e'' →
          |ratOf neg m' e' - x| ≤ |ratOf n m'' e'' - x|))
    ∧ (r.f &&& ofFlag ≠ 0 → r.f = ofFlag ||| nxFlag
      ∧ r.v = f.signBit neg + (if mode = 0 ∨ (mode = 2 ∧ neg = false) ∨ (mode = 3 ∧ neg = true) then f.inf else f.inf - 1))

/-- The vector arithmetic is exact before its one rounding (13 R233, R234). -/
def Obligations.FloatArithmeticIsExact : Prop :=
  (∀ (mode : Nat) (a b c : Lane32) (na nb nc : Bool) (ma mb mc : Nat) (ea eb ec : Int),
    fp32Of a = .num na ma ea → fp32Of b = .num nb mb eb → fp32Of c = .num nc mc ec →
    let va := ratOf na ma ea
    let vb := ratOf nb mb eb
    let vc := ratOf nc mc ec
    let is := RoundsExactly mode
    is (fadd32 mode a b) (va + vb) ∧ is (fsub32 mode a b) (va - vb) ∧ is (fmul32 mode a b) (va * vb)
    ∧ is (fma32 mode false false a b c) (va * vb + vc) ∧ is (fma32 mode false true a b c) (va * vb - vc)
    ∧ is (fma32 mode true false a b c) (vc - va * vb)
    ∧ (va + vb = 0 → (va ≠ 0 ∨ na ≠ nb) → fadd32 mode a b = quiet (if mode = 3 then 0x80000000 else 0))
    ∧ (va - vb = 0 → (va ≠ 0 ∨ na = nb) → fsub32 mode a b = quiet (if mode = 3 then 0x80000000 else 0))
    ∧ (va * vb = 0 → fmul32 mode a b = quiet (if na = nb then 0 else 0x80000000)))
  ∧ (∀ (mode : Nat) (a b : Lane32), isNan32 a = true ∨ isNan32 b = true →
    fadd32 mode a b = quiet 0x7FC00000 ∧ fsub32 mode a b = quiet 0x7FC00000 ∧ fmul32 mode a b = quiet 0x7FC00000
    ∧ ∀ (p q : Bool) (c : Lane32), fma32 mode p q a b c = quiet 0x7FC00000)
  ∧ (∀ (mode : Nat) (p q : Bool) (a b c : Lane32), isNan32 c = true → (fma32 mode p q a b c).v = 0x7FC00000)
  ∧ (∀ mode : Nat, fadd32 mode 0x7F800000 0xFF800000 = { v := 0x7FC00000, f := nvFlag }
    ∧ fadd32 mode 0xFF800000 0x7F800000 = { v := 0x7FC00000, f := nvFlag }
    ∧ fsub32 mode 0x7F800000 0x7F800000 = { v := 0x7FC00000, f := nvFlag }
    ∧ fsub32 mode 0xFF800000 0xFF800000 = { v := 0x7FC00000, f := nvFlag })
  ∧ (∀ (mode : Nat) (p q na nb nc : Bool), let w := fun (n : Bool) => if n then (0xFF800000 : Lane32) else 0x7F800000
    ((na != nb) != p) ≠ (nc != q) → fma32 mode p q (w na) (w nb) (w nc) = { v := 0x7FC00000, f := nvFlag })
  ∧ ∀ (mode : Nat) (x y : Lane32), x.toNat % 2 ^ 31 = 0x7F800000 → y.toNat % 2 ^ 31 = 0 →
    fmul32 mode x y = { v := 0x7FC00000, f := nvFlag } ∧ fmul32 mode y x = { v := 0x7FC00000, f := nvFlag }
    ∧ ∀ (p q : Bool) (c : Lane32),
      fma32 mode p q x y c = { v := 0x7FC00000, f := nvFlag } ∧ fma32 mode p q y x c = { v := 0x7FC00000, f := nvFlag }

/-- The integer vector instructions (13 R237 to R239). -/
def Obligations.VectorIntegers : Prop :=
  ∀ (u : BitVec 1) (g : BitVec 4) (d : BitVec 4) (w : BitVec 1) (a b : BitVec 5) (z k : BitVec 3) (s : State),
    s.guardOn g = true → s.waitsV a = false → s.waitsV b = false →
    let x := fun i => lane (s.srcV a) i
    let y := fun i => lane (s.srcV b) i
    let kk := s.core.r.readK k
    let q := fun (r : Lane32) => quiet r.toNat
    let num := fun (ux : BitVec 1) (r : Lane32) => if ux = 1 then (r.toNat : Int) else r.toInt
    let lo := fun (ux : BitVec 1) => if ux = 1 then (0 : Int) else -2147483648
    let hi := fun (ux : BitVec 1) => if ux = 1 then (4294967295 : Int) else 2147483647
    LandsLanes s (exec (.vadd u g d w a b z k) s) u w d 2 z kk (fun i => q (BitVec.ofNat 32 ((x i).toNat + (y i).toNat)))
    ∧ LandsLanes s (exec (.vsub u g d w a b z k) s) u w d 2 z kk (fun i => q (BitVec.ofInt 32 ((x i).toInt - (y i).toInt)))
    ∧ LandsLanes s (exec (.vmul u g d w a b z k) s) u w d 2 z kk (fun i => q (BitVec.ofInt 32 ((x i).toInt * (y i).toInt)))
    ∧ LandsLanes s (exec (.vand u g d w a b z k) s) u w d 2 z kk (fun i => q (x i &&& y i))
    ∧ LandsLanes s (exec (.vor u g d w a b z k) s) u w d 2 z kk (fun i => q (x i ||| y i))
    ∧ LandsLanes s (exec (.vxor u g d w a b z k) s) u w d 2 z kk (fun i => q (x i ^^^ y i))
    ∧ LandsLanes s (exec (.vshl u g d w a b z k) s) u w d 2 z kk (fun i => q (BitVec.ofNat 32 ((x i).toNat * 2 ^ ((y i).toNat % 64))))
    ∧ (∀ ux : BitVec 1,
      LandsLanes s (exec (.vmulh u g d w a b z k ux) s) u w d 2 z kk (fun i =>
        q (BitVec.ofInt 32 (num ux (x i) * num ux (y i) / 2 ^ 32)))
      ∧ LandsLanes s (exec (.vadds u g d w a b z k ux) s) u w d 2 z kk (fun i =>
        q (BitVec.ofInt 32 (max (lo ux) (min (hi ux) (num ux (x i) + num ux (y i))))))
      ∧ LandsLanes s (exec (.vmin u g d w a b z k ux) s) u w d 2 z kk (fun i =>
        q (BitVec.ofInt 32 (min (num ux (x i)) (num ux (y i)))))
      ∧ LandsLanes s (exec (.vmax u g d w a b z k ux) s) u w d 2 z kk (fun i =>
        q (BitVec.ofInt 32 (max (num ux (x i)) (num ux (y i)))))
      ∧ LandsLanes s (exec (.vshr u g d w a b z k ux) s) u w d 2 z kk (fun i =>
        q (BitVec.ofInt 32 (num ux (x i) / 2 ^ ((y i).toNat % 64))))
      ∧ ∀ (e c : BitVec 3), LandsMask s (exec (.vcmp u g e w a b z c ux) s) u w e z (fun i =>
        (if c = 0 then decide (x i = y i) else if c = 1 then decide (x i ≠ y i)
         else if c = 2 then decide (num ux (x i) < num ux (y i)) else if c = 3 then decide (num ux (y i) ≤ num ux (x i))
         else if c = 4 then decide (num ux (x i) ≤ num ux (y i)) else decide (num ux (y i) < num ux (x i)), 0)))
    ∧ (∀ im : BitVec 9,
      LandsLanes s (exec (.vaddi u g d w a im z) s) u w d 2 z 0xFFFFFFFF (fun i => q (BitVec.ofInt 32 ((x i).toInt + im.toInt)))
      ∧ LandsLanes s (exec (.vandi u g d w a im z) s) u w d 2 z 0xFFFFFFFF (fun i => q (x i &&& im.signExtend 32))
      ∧ LandsLanes s (exec (.vmovi u g d w im z) s) u w d 2 z 0xFFFFFFFF (fun _ => q (im.signExtend 32)))
    ∧ ∀ im : BitVec 5,
      LandsLanes s (exec (.vshli u g d w a im z) s) u w d 2 z 0xFFFFFFFF (fun i => q (BitVec.ofNat 32 ((x i).toNat * 2 ^ im.toNat)))
      ∧ LandsLanes s (exec (.vshri u g d w a 0 im z) s) u w d 2 z 0xFFFFFFFF (fun i => q (BitVec.ofNat 32 ((x i).toNat / 2 ^ im.toNat)))
      ∧ LandsLanes s (exec (.vshri u g d w a 1 im z) s) u w d 2 z 0xFFFFFFFF (fun i => q (BitVec.ofInt 32 ((x i).toInt / 2 ^ im.toNat)))

/-- The conversions (13 R240, R241, 04 R77).  That a saturating float to integer conversion raises NV and no NX is the model's choice
(assumption 23, DEDUCED). -/
def Obligations.Conversions : Prop :=
  (∀ (u : BitVec 1) (g : BitVec 4) (d : BitVec 4) (w : BitVec 1) (a : BitVec 5) (z : BitVec 3) (r : BitVec 2) (s : State),
    s.guardOn g = true → s.waitsV a = false →
    let x := fun (n i : Nat) => opElem z (s.srcV a) n i
    (∀ (f t : BitVec 3) (ux : BitVec 1),
      LandsPacked s (exec (.vcfi u g d w a f t z r ux) s) u w d 3 z (intBits t.toNat)
        (fun i => toIntW r.toNat (intBits t.toNat) (ux == 1) ((fmtOf f.toNat).decode (x (floatBits f.toNat) i)))
      ∧ LandsPacked s (exec (.vcif u g d w a f t z r ux) s) u w d 3 z (floatBits t.toNat)
        (fun i => (fmtOf t.toNat).round r.toNat (.num (decide (intValue (intBits f.toNat) (ux == 1) (x (intBits f.toNat) i) < 0))
          (intValue (intBits f.toNat) (ux == 1) (x (intBits f.toNat) i)).natAbs 0)))
    ∧ (∀ t : BitVec 3,
      LandsPacked s (exec (.vcfn u g d w a t z r) s) u w d 3 z 16 (fun i => (fmtOf t.toNat).round r.toNat (fp32.decode (x 32 i)))
      ∧ LandsPacked s (exec (.vcnf u g d w a t z r) s) u w d 3 z 32 (fun i => fp32.round r.toNat ((fmtOf t.toNat).decode (x 16 i))))
    ∧ LandsPacked s (exec (.vcfs u g d w a z r) s) u w d 3 z 32 (fun i => spOfFp32 r.toNat (BitVec.ofNat 32 (x 32 i)))
    ∧ LandsPacked s (exec (.vcsf u g d w a z r) s) u w d 3 z 32 (fun i => fp32OfSp r.toNat (BitVec.ofNat 32 (x 32 i))))
  ∧ (∀ (mode n : Nat) (uns : Bool), toIntW mode n uns .nan = { v := 0, f := nvFlag })
  ∧ (∀ (mode n : Nat) (uns neg : Bool), n ∈ [8, 16, 32] → toIntW mode n uns (.inf neg)
      = { v := if neg then (if uns then 0 else 2 ^ (n - 1)) else if uns then 2 ^ n - 1 else 2 ^ (n - 1) - 1, f := nvFlag })
  ∧ (∀ (mode : Nat) (x : Lane32),
      (isNan32 x = true → spOfFp32 mode x = quiet 0xFFFFFFFF) ∧ (x.toNat % 2 ^ 31 = 0 → spOfFp32 mode x = quiet 0)
      ∧ spOfFp32 mode 0x7F800000 = quiet 0xFFFF0000 ∧ spOfFp32 mode 0xFF800000 = { v := 0xFFFFFFFF, f := nvFlag }
      ∧ ∀ (neg : Bool) (m : Nat) (e : Int), fp32Of x = .num neg m e → m ≠ 0 →
        (neg = true → spOfFp32 mode x = { v := 0xFFFFFFFF, f := nvFlag })
        ∧ (neg = false → mode < 4 → IsSpRounded mode (spOfFp32 mode x) (ratOf false m e)))
  ∧ (∀ (mode : Nat) (w : Lane32),
      let ex : Nat := w.toNat / 2 ^ 16
      let fr : Nat := w.toNat % 2 ^ 16
      (ex = 0 → fp32OfSp mode w = { v := 0, f := if fr = 0 then 0 else sprFlag })
      ∧ (ex = 65535 → fp32OfSp mode w = quiet (if fr = 0 then 0x7F800000 else 0x7FC00000))
      ∧ (0 < ex → ex < 65535 → fp32OfSp mode w = fp32.roundNum mode false (2 ^ 16 + fr) ((ex : Int) - 32783)))
  ∧ (∀ (mode n : Nat) (uns neg : Bool) (m : Nat) (e : Int), n ∈ [8, 16, 32] → mode < 4 →
    let lo : Int := if uns then 0 else -(2 ^ (n - 1))
    let hi : Int := if uns then 2 ^ n - 1 else 2 ^ (n - 1) - 1
    let v := ratOf neg m e
    let k : Int := if mode = 0 then roundHalfEven v else if mode = 1 then (if neg then ⌈v⌉ else ⌊v⌋) else if mode = 2 then ⌈v⌉ else ⌊v⌋
    toIntW mode n uns (.num neg m e) = if k < lo then { v := (lo % 2 ^ n).toNat, f := nvFlag }
      else if hi < k then { v := (hi % 2 ^ n).toNat, f := nvFlag }
      else { v := (k % 2 ^ n).toNat, f := if (k : ℚ) = v then 0 else nxFlag })
  ∧ ∀ (x : Nat), x < 2 ^ 16 → (fp32.round 0 (bf16.decode x)).f = 0 ∧ (fp32.round 0 (fp16.decode x)).f = 0

/-- VQNT and VDQN (13 R242, R243). -/
def Obligations.BlockQuantisation : Prop :=
  (∀ (u : BitVec 1) (g : BitVec 4) (d : BitVec 4) (w : BitVec 1) (a : BitVec 5) (r : BitVec 2) (ux : BitVec 1) (s : State),
    s.guardOn g = true → s.waitsV a = false →
    let n := if ux = 1 then 4 else 8
    let xs := (List.range 32).map fun i => lane (s.srcV a) i
    let q := quantBlock (ux == 1) r.toNat xs
    (∃ l : Landing, exec (.vqnt u g d w a r ux) s = .next (s.push l) ∧ l.due = s.core.cyc + 3 ∧ l.slot = 3 + u.toNat
      ∧ l.file = (if w = 0 then some .v else none) ∧ l.dst = BitVec.ofNat 10 d.toNat ∧ l.latch = (if u = 0 then .x else .y)
      ∧ l.sel = BitVec.allOnes 1024 ∧ l.lsel = l.sel ∧ l.lval = l.val ∧ l.flg = q.2.2
      ∧ (∀ i, i < 32 → elem l.val n i = BitVec.ofInt n (nth 0 q.1 i)) ∧ elem l.val 8 (32 * n / 8) = BitVec.ofNat 8 q.2.1
      ∧ ∀ b, 32 * n + 8 ≤ b → bitAt l.val b = false)
    ∧ LandsLanes s (exec (.vdqn u g d w a r ux) s) u w d 3 6 0xFFFFFFFF (fun i =>
        let e := (elem (s.srcV a) 8 (32 * n / 8)).toNat
        let v := (elem (s.srcV a) n i).toInt
        if e = 255 then { v := 0x7FC00000, f := nvFlag }
        else fp32.round r.toNat (.num (decide (v < 0)) v.natAbs ((e : Int) - 127))))
  ∧ ∀ (q4 : Bool) (mode : Nat) (xs : List Lane32), xs.length = 32 →
    let q := quantBlock q4 mode xs
    let lim : Int := if q4 then 7 else 127
    q.1.length = 32 ∧ (∀ v ∈ q.1, -lim ≤ v ∧ v ≤ lim) ∧ q.2.1 ≤ 255
    ∧ ((∃ x ∈ xs, 0x7F800000 ≤ x.toNat % 2 ^ 31) → q = (List.replicate 32 0, 255, nvFlag))
    ∧ ((∀ x ∈ xs, x.toNat % 2 ^ 31 = 0) → q = (List.replicate 32 0, 127, 0))
    ∧ ((∀ x ∈ xs, x.toNat % 2 ^ 31 < 0x7F800000) → q.2.1 ≤ 254 ∧ q.2.2 &&& nvFlag = 0
      ∧ (mode < 4 → ∀ top : Int, IsTop top (xs.map (valueOf fp32)) →
        let at_ := fun (i : Nat) => valueOf fp32 (nth 0 xs i)
        (q.2.1 : Int) = max 0 (min 254 (top + if q4 then 125 else 121))
        ∧ (∀ i, i < 32 → nth 0 q.1 i = max (-lim) (min lim (roundDir mode (at_ i * (2 : ℚ) ^ (127 - (q.2.1 : Int))))))
        ∧ (q.2.2 = 0 ∨ q.2.2 = nxFlag)
        ∧ (q.2.2 = nxFlag ↔ ∃ i, i < 32 ∧ ((nth (0 : Int) q.1 i : Int) : ℚ) * (2 : ℚ) ^ ((q.2.1 : Int) - 127) ≠ at_ i)))

/-- Permutes, selections and plane moves (13 R244 to R247), and the lane-mask instructions (13 R248). -/
def Obligations.PermutesAndLaneMasks : Prop :=
  (∀ (u : BitVec 1) (g : BitVec 4) (d : BitVec 4) (w : BitVec 1) (a b : BitVec 5) (z k : BitVec 3) (s : State),
    s.guardOn g = true → s.waitsV a = false → s.waitsV b = false →
    let first := if z.toNat < 4 then 8 * z.toNat else if z = 5 then 16 else 0
    let count := if z.toNat < 4 then 8 else if z.toNat < 6 then 16 else 32
    let x := fun i => lane (s.srcV a) (first + i)
    let y := fun i => lane (s.srcV b) (first + i)
    let kk := s.core.r.readK k
    let q := fun (r : Lane32) => quiet r.toNat
    LandsLanes s (exec (.vperm u g d w a b z k) s) u w d 3 z kk (fun i => quiet (elemsNat 8 (fun j =>
        let v := (elem (s.srcV b) 8 (4 * i + j)).toNat
        if v < 128 ∧ v < 4 * count then (elem (s.srcV a) 8 (4 * first + v)).toNat else 0) 4))
    ∧ (∀ j : BitVec 5, j.toNat < count → LandsLanes s (exec (.vbcst u g d w a j z k) s) u w d 3 z kk (fun _ => q (x j.toNat))
      ∧ LandsLanes s (exec (.vxch u g d w a j z k) s) u w d 3 z kk (fun i => q (x ((i - first) ^^^ j.toNat))))
    ∧ (∀ j : BitVec 5, count ≤ j.toNat → exec (.vbcst u g d w a j z k) s = .next (s.takePrecise (.plain .illegalOperation (3 + u.toNat)))
      ∧ exec (.vxch u g d w a j z k) s = .next (s.takePrecise (.plain .illegalOperation (3 + u.toNat))))
    ∧ LandsLanes s (exec (.vzip u g d w a b z k) s) u w d 3 z kk (fun i =>
        q (if (i - first) % 2 = 0 then x ((i - first) / 2) else y ((i - first) / 2)))
    ∧ LandsLanes s (exec (.vuzp u g d w a b z k) s) u w d 3 z kk (fun i =>
        q (if i - first < count / 2 then x (2 * (i - first)) else y (2 * (i - first - count / 2))))
    ∧ LandsLanes s (exec (.vmov u g d w a z k) s) u w d 3 z kk (fun i => q (x (i - first)))
    ∧ LandsLanes s (exec (.vsel u g d w a b z k) s) u w d 2 z 0xFFFFFFFF (fun i =>
        q (if bitAt kk i then lane (s.srcV a) i else lane (s.srcV b) i))
    ∧ ∀ p : BitVec 10, ∀ dir : BitVec 1, ∃ l : Landing, exec (.vpmov u g p d dir z k) s = .next (s.push l)
        ∧ l.due = s.core.cyc + 3 ∧ l.slot = 3 + u.toNat ∧ l.file = some (if dir = 0 then .plane else .v)
        ∧ l.dst = (if dir = 0 then p else BitVec.ofNat 10 d.toNat) ∧ l.latch = (if u = 0 then .x else .y) ∧ l.flg = 0
        ∧ l.lval = l.val ∧ l.lsel = l.sel ∧ l.bad = none
        ∧ (∀ i, i < 32 → lane l.sel i = if takesPart z kk i then 0xFFFFFFFF else 0)
        ∧ ∀ i, i < 32 → takesPart z kk i = true →
          lane l.val i = lane (if dir = 0 then s.core.r.readV d else s.core.r.readPlane p) i)
  ∧ (∀ (u : BitVec 1) (g : BitVec 4) (d : BitVec 3) (w : BitVec 1) (a b : BitVec 3) (v : BitVec 5) (z : BitVec 3) (s : State),
    s.guardOn g = true → s.waitsV v = false →
    let x := s.core.r.readK a
    let y := s.core.r.readK b
    let first := if z.toNat < 4 then 8 * z.toNat else if z = 5 then 16 else 0
    LandsMask s (exec (.kand u g d w a b z) s) u w d z (fun i => (bitAt (x &&& y) i, 0))
    ∧ LandsMask s (exec (.kor u g d w a b z) s) u w d z (fun i => (bitAt (x ||| y) i, 0))
    ∧ LandsMask s (exec (.kxor u g d w a b z) s) u w d z (fun i => (bitAt (x ^^^ y) i, 0))
    ∧ LandsMask s (exec (.kmov u g d w a z) s) u w d z (fun i => (bitAt x i, 0))
    ∧ LandsMask s (exec (.kmovNz u g d w v z) s) u w d z (fun i => (decide (lane (s.srcV v) i ≠ 0), 0))
    ∧ LandsMask s (exec (.kmovBits u g d w v z) s) u w d z (fun i => (bitAt (lane (s.srcV v) first) i, 0)))

/-- The reductions and the scan (13 R249, R250, 04 R85, R86). -/
def Obligations.Reductions : Prop :=
  ∀ (u : BitVec 1) (g : BitVec 4) (d : BitVec 4) (w : BitVec 1) (a : BitVec 5) (z k : BitVec 3) (s : State),
    s.guardOn g = true → s.waitsV a = false →
    let kk := s.core.r.readK k
    let ps := (List.range 32).filter fun i => takesPart z kk i
    let xs := ps.map fun i => lane (s.srcV a) i
    let m := s.core.r.fmode.toNat
    let root := fun (pad : Lane32) (op : Lane32 → Lane32 → Flagged) =>
      nth { v := pad, ok := false, f := 0 } (treeFold op (Nat.log2 (lanesOf z)) (leaves z kk pad (s.srcV a))) 0
    let out := fun (o : Out) (v : Lane32) (flg : FFlags) => ∃ l : Landing, o = .next (s.push l) ∧ l.due = s.core.cyc + 8
      ∧ l.slot = 3 + u.toNat ∧ l.file = (if w = 0 then some .v else none) ∧ l.dst = BitVec.ofNat 10 d.toNat
      ∧ l.latch = (if u = 0 then .x else .y) ∧ l.lval = l.val ∧ l.lsel = l.sel ∧ l.flg = flg
      ∧ (∀ i, i < 32 → lane l.sel i = if takesPart z 0xFFFFFFFF i then 0xFFFFFFFF else 0)
      ∧ ∀ i, i < 32 → takesPart z 0xFFFFFFFF i = true → lane l.val i = v
    let sum := root 0x80000000 (redAdd32 m)
    let big := root 0xFF800000 (fun x y => quiet (fmax32 x y).toNat)
    let small := root 0x7F800000 (fun x y => quiet (fmin32 x y).toNat)
    out (exec (.vrsum u g d w a z k) s) (if ps = [] then 0 else sum.v) sum.f
    ∧ out (exec (.vrmax u g d w a z k) s) (if ps = [] then 0xFF800000 else big.v) 0
    ∧ out (exec (.vrmin u g d w a z k) s) (if ps = [] then 0x7F800000 else small.v) 0
    ∧ out (exec (.vrisum u g d w a z k) s) (BitVec.ofNat 32 (xs.map (·.toNat)).sum) 0
    ∧ (ps ≠ [] → (∃ x ∈ xs, isNan32 x = true) → big.v = 0x7FC00000 ∧ small.v = 0x7FC00000)
    ∧ (ps ≠ [] → (∀ x ∈ xs, isNan32 x = false) → big.v ∈ xs ∧ small.v ∈ xs
      ∧ ∀ x ∈ xs, order32 x ≤ order32 big.v ∧ order32 small.v ≤ order32 x)
    ∧ ∃ l : Landing, exec (.vscan u g d w a z k) s = .next (s.push l) ∧ l.due = s.core.cyc + 8 ∧ l.lval = l.val
      ∧ l.file = (if w = 0 then some .v else none) ∧ l.dst = BitVec.ofNat 10 d.toNat ∧ l.latch = (if u = 0 then .x else .y)
      ∧ (∀ i, i < 32 → lane l.sel i = if takesPart z 0xFFFFFFFF i then 0xFFFFFFFF else 0)
      ∧ let p := scanLevels (redAdd32 m) (Nat.log2 (lanesOf z)) 0 (leaves z kk 0x80000000 (s.srcV a)) 0
        l.flg = p.2 ∧ ∀ i, i < lanesOf z → opLane z l.val i =
          (let n := nth { v := 0, ok := false, f := 0 } p.1 i
           if n.ok then (if isNan32 n.v then 0x7FC00000 else n.v) else 0)

/-- The seeds, Newton steps, exponent helpers and the generator (14 R253 to R260). -/
def Obligations.VectorHelpers : Prop :=
  (∀ (u : BitVec 1) (g : BitVec 4) (d : BitVec 4) (w : BitVec 1) (a b : BitVec 5) (z k : BitVec 3) (s : State),
    s.guardOn g = true → s.waitsV a = false → s.waitsV b = false →
    let x := fun i => lane (s.srcV a) i
    let y := fun i => lane (s.srcV b) i
    let kk := s.core.r.readK k
    LandsLanes s (exec (.frcps u g d w a z k) s) u w d 3 z kk (fun i => rcpSeed (x i))
    ∧ LandsLanes s (exec (.frsqs u g d w a z k) s) u w d 3 z kk (fun i => rsqSeed (x i))
    ∧ LandsLanes s (exec (.fnrcp u g d w a b z k) s) u w d 3 z kk (fun i => newton false (x i) (y i))
    ∧ LandsLanes s (exec (.fnrsq u g d w a b z k) s) u w d 3 z kk (fun i => newton true (x i) (y i))
    ∧ LandsLanes s (exec (.fgete u g d w a z k) s) u w d 3 z kk (fun i => getExp (x i))
    ∧ LandsLanes s (exec (.fgetm u g d w a z k) s) u w d 3 z kk (fun i => getSig (x i))
    ∧ LandsLanes s (exec (.fscale u g d w a b z k) s) u w d 2 z kk (fun i => fscale32 s.core.r.fmode.toNat (x i) (y i))
    ∧ LandsLanes s (exec (.vrng u g d w a b z k) s) u w d 3 z kk (fun i => cbr32 i (x i) (y i))
    ∧ ∀ r : BitVec 2, LandsLanes s (exec (.frint u g d w a z r) s) u w d 2 z 0xFFFFFFFF (fun i => rint r.toNat (x i)))
  ∧ (∀ (i : Nat) (c key : Lane32),
      let v0 : Lane32 := c + BitVec.ofNat 32 i + key
      let v1 := (v0 ^^^ (v0 >>> 15)) * 0x2C1B3C6D
      let v2 := (v1 ^^^ (v1 >>> 12)) * 0x297A2D39
      let n : Nat := (v2 ^^^ (v2 >>> 15)).toNat / 256
      (cbr32 i c key).f = 0 ∧ ∃ (m : Nat) (e : Int), fp32.decode (cbr32 i c key).v = .num false m e ∧ ratOf false m e = (n : ℚ) / 2 ^ 24)
  ∧ (∀ (mode : Nat) (x : Lane32) (n : Bool) (m : Nat) (e : Int), mode < 4 → fp32Of x = .num n m e →
      (rint mode x).f = 0 ∧ ∃ (m' : Nat) (e' : Int), fp32.decode (rint mode x).v = .num n m' e'
        ∧ ratOf n m' e' = if mode = 0 then (roundHalfEven (ratOf n m e) : ℚ)
            else if mode = 1 then (if n then (⌈ratOf n m e⌉ : ℚ) else ⌊ratOf n m e⌋)
            else if mode = 2 then (⌈ratOf n m e⌉ : ℚ) else ⌊ratOf n m e⌋)
  ∧ (∀ (x : Lane32) (n : Bool) (m : Nat) (e : Int), fp32Of x = .num n m e → m ≠ 0 →
      ∃ (m' : Nat) (e' : Int), fp32.decode (getSig x).v = .num n m' e' ∧ (getSig x).f = 0
        ∧ 1 ≤ ratOf false m' e' ∧ ratOf false m' e' < 2 ∧ ratOf n m e = ratOf n m' e' * 2 ^ magExp m e
        ∧ ∃ (ne : Bool) (me : Nat) (ee : Int), fp32.decode (getExp x).v = .num ne me ee ∧ ratOf ne me ee = magExp m e)
  ∧ (∀ (x : Lane32) (n : Bool) (m : Nat) (e : Int), fp32Of x = .num n m e → m ≠ 0 →
      let k := magExp m e
      let i : Int := ⌊(ratOf false m e / (2 : ℚ) ^ k - 1) * 1024⌋
      (∃ t : Nat, |(t : ℚ) / 2 ^ 15 - 1024 / (1024 + i)| ≤ 1 / 2 ^ 16 ∧ rcpSeed x = fp32.roundNum 0 n t (-15 - k))
      ∧ (n = true → rsqSeed x = { v := 0x7FC00000, f := nvFlag })
      ∧ (n = false → ∃ t : Nat, let h : ℚ := (if k % 2 = 0 then 1 else 2) * (1024 + i) / 1024
          1 ≤ t ∧ ((2 * t - 1 : ℚ) / 2 ^ 16) ^ 2 * h ≤ 1 ∧ 1 ≤ ((2 * t + 1 : ℚ) / 2 ^ 16) ^ 2 * h
          ∧ rsqSeed x = fp32.roundNum 0 false t (-15 - (if k % 2 = 0 then k / 2 else (k - 1) / 2))))
  ∧ (∀ (sq : Bool) (x y : Lane32) (nx ny : Bool) (mx my : Nat) (ex ey : Int), fp32Of x = .num nx mx ex → fp32Of y = .num ny my ey →
      mx ≠ 0 → my ≠ 0 →
      let vx := ratOf nx mx ex
      let vy := ratOf ny my ey
      let gap := 1 - vx * (if sq then vy * vy else vy)
      ∃ e d : Flagged, newton sq x y = { d with f := d.f ||| e.f } ∧ RoundsExactly 0 e gap ∧ (gap = 0 → e = quiet 0)
        ∧ ∀ (ne : Bool) (me : Nat) (ee : Int), fp32Of e.lane = .num ne me ee →
          RoundsExactly 0 d (vy + vy * ratOf ne me ee / (if sq then 2 else 1)))
  ∧ (∀ (sq : Bool) (x y : Lane32),
      (isNan32 y = true → newton sq x y = quiet 0x7FC00000)
      ∧ (y.toNat % 2 ^ 31 = 0 ∨ y.toNat % 2 ^ 31 = 0x7F800000 → newton sq x y = quiet y.toNat)
      ∧ (isNan32 y = false → x.toNat % 2 ^ 31 = 0 ∨ x.toNat % 2 ^ 31 = 0x7F800000 → newton sq x y = quiet y.toNat)
      ∧ (y.toNat % 2 ^ 31 ≠ 0 → y.toNat % 2 ^ 31 < 0x7F800000 → isNan32 x = true → newton sq x y = quiet 0x7FC00000))
  ∧ (∀ (mode : Nat) (x y : Lane32) (n : Bool) (m : Nat) (e : Int), fp32Of x = .num n m e → m ≠ 0 →
      (∀ (ny : Bool) (my : Nat) (ey : Int), fp32Of y = .num ny my ey →
        let q := ratOf ny my ey
        fscale32 mode x y = fp32.roundNum mode n m (e + max (-512) (min 512 (if q < 0 then ⌈q⌉ else ⌊q⌋))))
      ∧ fscale32 mode x 0x7F800000 = fp32.roundNum mode n m (e + 512) ∧ fscale32 mode x 0xFF800000 = fp32.roundNum mode n m (e - 512))
  ∧ (∀ (mode : Nat) (x y : Lane32), (isNan32 y = true → fscale32 mode x y = { v := 0x7FC00000, f := nvFlag })
      ∧ (isNan32 y = false → (isNan32 x = true → fscale32 mode x y = quiet 0x7FC00000)
        ∧ (x.toNat % 2 ^ 31 = 0 ∨ x.toNat % 2 ^ 31 = 0x7F800000 → fscale32 mode x y = quiet x.toNat)))
  ∧ (∀ x : Lane32, isNan32 x = true → rcpSeed x = quiet 0x7FC00000 ∧ rsqSeed x = quiet 0x7FC00000 ∧ getExp x = quiet 0x7FC00000
      ∧ getSig x = quiet 0x7FC00000 ∧ ∀ mode, rint mode x = quiet 0x7FC00000)
  ∧ (∀ mode : Nat, rint mode 0x7F800000 = quiet 0x7F800000 ∧ rint mode 0xFF800000 = quiet 0xFF800000)
  ∧ rcpSeed 0 = { v := 0x7F800000, f := dzFlag } ∧ rcpSeed 0x80000000 = { v := 0xFF800000, f := dzFlag }
  ∧ rcpSeed 0x7F800000 = quiet 0 ∧ rcpSeed 0xFF800000 = quiet 0x80000000
  ∧ rsqSeed 0 = { v := 0x7F800000, f := dzFlag } ∧ rsqSeed 0x80000000 = { v := 0xFF800000, f := dzFlag }
  ∧ rsqSeed 0x7F800000 = quiet 0 ∧ rsqSeed 0xFF800000 = { v := 0x7FC00000, f := nvFlag }
  ∧ (∀ x : Lane32, x.toNat % 2 ^ 31 = 0 → getExp x = { v := 0xFF800000, f := dzFlag }
      ∧ getSig x = quiet (if x = 0 then 0x3F800000 else 0xBF800000))
  ∧ getExp 0x7F800000 = quiet 0x7F800000 ∧ getExp 0xFF800000 = quiet 0x7F800000
  ∧ getSig 0x7F800000 = quiet 0x3F800000 ∧ getSig 0xFF800000 = quiet 0xBF800000

/-- The residue form is exact (04 R72 to R74, 15 R271). -/
def Obligations.ResidueFormIsExact : Prop :=
  (∀ x : Int,
    let r := Residue.ofInt x
    (r.c255 : Int) = x % 255 ∧ (r.c256 : Int) = x % 256 ∧ (r.c257 : Int) = x % 257
    ∧ r.word / 2 ^ 27 = 0 ∧ r.word / 2 ^ 18 % 2 ^ 9 = r.c257 ∧ r.word / 2 ^ 9 % 2 ^ 9 = r.c256 ∧ r.word % 2 ^ 9 = r.c255
    ∧ (let a1 : Int := r.c256
       let a2 := ((r.c255 : Int) - a1) % 255
       let a3 := (((r.c257 : Int) - a1) * 256 - a2) * 128 % 257
       let v := a1 + 256 * a2 + 65280 * a3
       r.value = if 8388480 ≤ v then v - 16776960 else v)
    ∧ r.value % 16776960 = x % 16776960 ∧ -8388480 ≤ r.value ∧ r.value ≤ 8388479
    ∧ (-8388480 ≤ x → x ≤ 8388479 → r.value = x))
  ∧ (∀ x y : Int, Residue.add (.ofInt x) (.ofInt y) = .ofInt (x + y) ∧ Residue.mul (.ofInt x) (.ofInt y) = .ofInt (x * y))
  ∧ ∀ (q : Int) (a b : List Lane32), (q = 8 ∨ q = 128) → a.length = 32 → b.length = 32 →
    (∀ x ∈ a, -q ≤ x.toInt ∧ x.toInt < q) → (∀ x ∈ b, -q ≤ x.toInt ∧ x.toInt < q) →
    let sum := (List.zipWith (fun x y => x.toInt * y.toInt) a b).sum
    (residueDot a b).value = sum ∧ |sum| ≤ (if q = 8 then 2048 else 524288)

/-- Contributions to, and readout of, an EXA element (04 R78 to R80).  That V keeps its value when an element is marked invalid is the
model's choice (assumption 24, DEDUCED). -/
def Obligations.ExactAccumulator : Prop :=
  (∀ (anchor : Int) (x : Exa) (i e : Int),
    let c : ℚ := (i : ℚ) * (2 : ℚ) ^ e
    let n : Int := ⌊c * (2 : ℚ) ^ (128 - anchor)⌋
    let r := x.addTerm anchor i e
    (r.2 = true ↔ (n : ℚ) ≠ c * (2 : ℚ) ^ (128 - anchor))
    ∧ r.1.v = x.v + BitVec.ofInt 256 n
    ∧ (-(2 ^ 255) ≤ x.v.toInt + n → x.v.toInt + n < 2 ^ 255 → r.1.v.toInt = x.v.toInt + n ∧ r.1.tag = x.tag)
    ∧ (¬(-(2 ^ 255) ≤ x.v.toInt + n ∧ x.v.toInt + n < 2 ^ 255) → r.1.tag = if x.tag = 1 then 1 else 2)
    ∧ (x.spoil.tag = 1 ∧ x.spoil.v = x.v)
    ∧ ∀ j f : Int, ((x.addTerm anchor i e).1.addTerm anchor j f).1.v = ((x.addTerm anchor j f).1.addTerm anchor i e).1.v)
  ∧ ∀ (anchor : Int) (x : Exa) (mode : Nat), mode < 4 →
    (x.tag ≠ 0 → (∀ f, f < 3 → x.readout anchor f mode = { v := (fmtOf f).nan, f := nvFlag }) ∧ x.readout anchor 3 mode = { v := 0, f := nvFlag })
    ∧ (x.tag = 0 → x.v = 0 → ∀ f, f < 4 → x.readout anchor f mode = quiet 0)
    ∧ (x.tag = 0 → x.v ≠ 0 → (∀ f, f < 3 → x.readout anchor f mode
          = (fmtOf f).roundNum mode (decide (x.v.toInt < 0)) x.v.toInt.natAbs (anchor - 128))
        ∧ x.readout anchor 3 mode = toIntW mode 32 false (.num (decide (x.v.toInt < 0)) x.v.toInt.natAbs (anchor - 128)))

/-- A block lands in its tile (15 R266, R271, R272, R274).  That the other windows of a block are still added, and V kept, under an invalid
tag, and that a code 0xFF of an applied entry counts as the number 255 in the contribution, is the model's choice (assumption 24,
DEDUCED). -/
def Obligations.BlockLanding : Prop :=
  (∀ (c : Core) (b : Block),
    let c' := c.landBlock b
    (∀ i, i < 1024 → c'.mx.el b.tile i =
      (let old := if b.z then { v := 0, tag := 0 } else c.mx.el b.tile i
       let t := b.terms (i / 32) (i % 32)
       let sum := t.adds.foldl (fun x t => (x.addTerm (c.mx.anchor[b.tile.toNat]).toInt t.1 t.2).1) old
       if t.inv then { sum with tag := 1 } else sum))
    ∧ (∀ (t : BitVec 1) (i : Nat), t ≠ b.tile → i < 1024 → c'.mx.el t i = c.mx.el t i)
    ∧ c' = { c with mx := { c.mx with tile := c'.mx.tile }, fstat := c'.fstat, flagAt := c'.flagAt, flagNew := c'.flagNew, lateDue := c.raiseLate b.late }
    ∧ (c.fstat ||| b.flg) &&& c'.fstat = c.fstat ||| b.flg ∧ c'.fstat ||| xllFlag = c.fstat ||| b.flg ||| xllFlag
    ∧ ((∃ i, i < 1024 ∧ (b.terms (i / 32) (i % 32)).lost = true) → c'.fstat &&& xllFlag = xllFlag))
  ∧ (∀ (b : Block) (m n : Nat) (row col : List Lane32), b.prof.toNat < 3 → b.a[m]? = some row → b.b[n]? = some col →
    row.length = 32 → col.length = 32 → (∀ x ∈ row, -128 ≤ x.toInt ∧ x.toInt < 128) → (∀ x ∈ col, -128 ≤ x.toInt ∧ x.toInt < 128) →
    let sum := (List.zipWith (fun x y => x.toInt * y.toInt) row col).sum
    let own := nth 0 b.ea m == 0xFF || nth 0 b.eb n == 0xFF || nth false b.bad n
    (b.scale = none → b.terms m n = { inv := own, adds := [(sum, 0)], lost := false })
    ∧ ∀ (e : ScaleEntry) (bias : BitVec 8), b.scale = some (e, bias) →
      b.terms m n = Terms.mk (own || nth 0 e.ea m == 0xFF || nth 0 e.eb n == 0xFF)
        [(sum, ((nth 0 e.ea m).toNat : Int) + (nth 0 e.eb n).toNat - 254 + bias.toInt)] false)
  ∧ ∀ (b : Block) (m n : Nat) (row col : List Lane32), b.prof = 8 ∨ b.prof = 9 ∨ b.prof = 12 → b.a[m]? = some row → b.b[n]? = some col →
    row.length = 32 → col.length = 32 →
    let f := if b.prof = 8 then bf16 else if b.prof = 9 then fp16 else fp32
    let size := if b.prof = 12 then 8 else 32
    let fin := fun (k : Nat) => ∃ x mx ex y my ey, f.decode (nth 0 row k).toNat = .num x mx ex ∧ f.decode (nth 0 col k).toNat = .num y my ey
    ((b.terms m n).inv = true ↔ ∃ k, k < 32 ∧ ¬fin k)
    ∧ ∃ gs : List Nat, gs.Pairwise (· < ·) ∧ (b.terms m n).adds.length = gs.length
      ∧ (∀ g : Nat, g ∈ gs ↔ g < 32 / size ∧ ∀ k, k < size → fin (size * g + k))
      ∧ (let ps := fun (g : Nat) => (List.range size).map fun k => valueOf f (nth 0 row (size * g + k)) * valueOf f (nth 0 col (size * g + k))
         let win : Int := if b.prof = 12 then 94 else 62
         (∀ j, j < gs.length →
           let add := nth (0, 0) (b.terms m n).adds j
           let v : ℚ := (add.1 : ℚ) * (2 : ℚ) ^ add.2
           ((∀ p ∈ ps (nth 0 gs j), p = 0) → v = 0) ∧ ∀ top, IsTop top (ps (nth 0 gs j)) → v = windowValue win top (ps (nth 0 gs j)))
         ∧ ((b.terms m n).lost = true ↔ ∃ g ∈ gs, ∃ top, IsTop top (ps g) ∧ ∃ p ∈ ps g,
             (⌊p * (2 : ℚ) ^ (win - top)⌋ : ℚ) ≠ p * (2 : ℚ) ^ (win - top)))

/-- MMA and MMAZ issue a block (15 R268 to R277, 04 R70, R71). -/
def Obligations.MatrixIssue : Prop :=
  (∀ (w : Memory) (q4 : Bool) (cur : Nat),
    let byte := fun (j : Nat) => Memory.byte w ((cur + j) % Config.wbufBytes)
    let mask := ((List.range 4).map fun j => (byte j).toNat * 256 ^ j).sum
    let kind := (byte 5).toNat
    let isQ4 := kind = 2 ∨ kind = 3
    let rank := fun (i : Nat) => ((List.range i).filter fun j => mask.testBit j).length
    let void := 3 < kind ∨ ((kind = 0 ∨ kind = 2) ∧ mask ≠ 0xFFFFFFFF) ∨ ¬(isQ4 ↔ q4 = true)
    let v := if isQ4 then (rank 32 + 1) / 2 else rank 32
    let r := readWcb w q4 cur
    (r.bad = true ↔ void) ∧ r.eb = byte 4 ∧ r.size = 6 + v + (6 + v) % 2 ∧ r.col.length = 32
    ∧ ∀ i, i < 32 → nth 0 r.col i = if void ∨ mask.testBit i = false then 0
        else if isQ4 then (elem (byte (6 + rank i / 2)) 4 (rank i % 2)).signExtend 32 else (byte (6 + rank i)).signExtend 32)
  ∧ (∀ (w : Memory) (q4 : Bool) (cur k : Nat), (readWcbs w q4 cur k).length = k
    ∧ ∀ n, n < k → (readWcbs w q4 cur k)[n]? = some (readWcb w q4 (cur + (((readWcbs w q4 cur k).take n).map (·.size)).sum)))
  ∧ (∀ (s : State) (b : Block), s.core.poison = [] → b.prof ∈ ([0, 1, 2, 8, 9, 12] : List (BitVec 6)) →
    let f := s.fetchBlock b
    let bits := if b.prof = 0 ∨ b.prof = 2 then 8 else if b.prof = 1 then 4 else if b.prof = 12 then 32 else 16
    f = { b with a := f.a, ea := f.ea } ∧ f.a.length = b.rows.length ∧ f.ea.length = 32
    ∧ (∀ m i row, b.rows[m]? = some row → i < 32 →
        let e : BitVec bits := elem (BitVec.ofNat 1024 (Memory.readNat s.core.scratch row (4 * bits))) bits i
        nth 0 (nth [] f.a m) i = if bits < 16 then e.signExtend 32 else e.zeroExtend 32)
    ∧ ∀ m, m < 32 → nth 0 f.ea m = match b.scaleAt with
        | some x => Memory.byte s.core.scratch (x + m)
        | none => 127)
  ∧ ∀ (g : BitVec 4) (a b : BitVec 4) (t : BitVec 1) (p : BitVec 6) (y hx : BitVec 1) (s : State), s.guardOn g = true →
    let busy := Host.Outcome.next (s.hold .busyBit)
    let da := s.core.r.readSt a
    let db := s.core.r.readSt b
    let free := if 8 ≤ p.toNat then s.core.mx.fltFree else s.core.mx.resFree
    let fmtA := if p = 0 ∨ p = 2 then 7 else if p = 1 then 8 else if p = 8 then 1 else if p = 9 then 2 else 0
    let fmtB := if p = 0 then 7 else if p = 1 ∨ p = 2 then 8 else fmtA
    let residue := p = 0 ∨ p = 1 ∨ p = 2
    let bytes := if fmtA = 7 then 32 else if fmtA = 8 then 16 else if fmtA = 0 then 128 else 64
    let moves := fun (st : BitVec 4) (val sel : Line) => 
      Landing.mk (s.core.cyc + 1) 0 5 (some .st) (BitVec.ofNat 10 st.toNat) val sel 0 .none 0 0 none
    let done := fun (z : Bool) (o : Out) => ∃ (s' : State) (k : Block), o = .next s' ∧ s'.core.mx.blocks = s.core.mx.blocks ++ [k]
      ∧ KeepsRegisters s s' ∧ KeepsMemory s s' ∧ KeepsEngines s s' ∧ s'.core.mx.writes = s.core.mx.writes
      ∧ k.tile = t ∧ k.z = z ∧ k.prof = p ∧ (s.core.poison = [] → s.core.wbufSeen = s.core.wbuf ∧ k.late = none)
      ∧ (let ws := readWcbs s.core.wbufSeen (p != 0) (stBase db) 32
         residue → k.b = ws.map (·.col) ∧ k.eb = ws.map (·.eb) ∧ k.bad = ws.map (·.bad) ∧ k.flg = if ∃ x ∈ ws, x.bad = true then wcbeFlag else 0)
      ∧ (¬residue → k.eb = [] ∧ k.bad = [] ∧ k.flg = 0 ∧ k.b.length = 32 ∧ ∀ n i, n < 32 → i < 32 → nth 0 (nth [] k.b n) i
          = BitVec.ofNat 32 ((List.range (bytes / 32)).map fun j => (Memory.byte s.core.wbufSeen
              (((((stAddr db : Int) + n * stStride db 0) % 2 ^ 48).toNat + bytes / 32 * i + j) % Config.wbufBytes)).toNat * 256 ^ j).sum)
      ∧ k.rows = (List.range 32).map (fun m => (((stAddr da : Int) + m * stStride da 0) % 2 ^ 48).toNat)
      ∧ k.scaleAt = (if stGeom da = 1 then some (((stSBase da : Int) + blockNumber da * stSStr da) % 2 ^ 48).toNat else none)
      ∧ (let gs := distinct ((k.rows.map fun x => granulesFrom x bytes).flatten ++ (match k.scaleAt with
            | some x => granulesFrom x 32
            | none => []))
         let ph := s.core.enginePhase gs
         let dl := ph.1 - (s.core.cyc + 4) + (ph.2.1 - (if p = 12 then 4 else 2))
         k.readAt + 4 = ph.1 ∧ s'.core.ldFree = ph.2.2.ldFree ∧ k.allocAt = s.core.cyc + 3 + dl ∧ k.portAt = s.core.cyc + 7 + dl
          ∧ k.landAt = s.core.cyc + (if p = 1 then 9 else if p = 8 ∨ p = 9 then 22 else if p = 12 then 70 else 9) + dl
          ∧ (if 8 ≤ p.toNat then s'.core.mx.fltFree else s'.core.mx.resFree)
            = s.core.cyc + (if p = 1 then 2 else if p = 8 ∨ p = 9 then 16 else if p = 12 then 64 else 4) + dl)
      ∧ ∃ cursor : Line, bitsAt cursor 0 48 = BitVec.ofNat 48 (stBase db / 2 ^ 17 * 2 ^ 17
            + (stBase db + ((readWcbs s.core.wbufSeen (p != 0) (stBase db) 32).map (·.size)).sum) % 2 ^ 17)
        ∧ s'.core.land = (let s0 : State := { s with core := { s.core with seqNo := s.core.seqNo + 1 } }
            let s1 := if hx = 0 then s0.push (moves a (stAdvanced da 0 32) idxSel) else s0
            if y = 1 then s1
            else if stGeom db = 2 then s1.push (moves b cursor (BitVec.ofNat 1024 (2 ^ 48 - 1)))
            else if a = b ∧ hx = 0 then s1 else s1.push (moves b (stAdvanced db 0 32) idxSel)).core.land
    p ∈ ([0, 1, 2, 8, 9, 12] : List (BitVec 6)) →
    (s.core.cyc < free → exec (.mma g a b t p y hx) s = busy ∧ exec (.mmaz g a b t p y hx) s = busy)
    ∧ (s.core.mx.busy t = true → exec (.mmaz g a b t p y hx) s = busy)
    ∧ (free ≤ s.core.cyc → (s.mmaFault a b p = none → done false (exec (.mma g a b t p y hx) s))
      ∧ (∀ i, s.mmaFault a b p = some i → exec (.mma g a b t p y hx) s = .next (s.takePrecise i))
      ∧ (s.core.mx.busy t = false → (s.mmaFault a b p = none → done true (exec (.mmaz g a b t p y hx) s))
        ∧ ∀ i, s.mmaFault a b p = some i → exec (.mmaz g a b t p y hx) s = .next (s.takePrecise i)))
    ∧ (let row := fun (m : Nat) => (((stAddr da : Int) + m * stStride da 0) % 2 ^ 48).toNat
       let scale := (((stSBase da : Int) + blockNumber da * stSStr da) % 2 ^ 48).toNat
       let odd := fun (va : Nat) => some ({ FaultInfo.plain .misalignment 5 with va := BitVec.ofNat 48 va } : FaultInfo)
       let out := fun (va : Nat) => some ({ FaultInfo.plain .outOfTable 5 with va := BitVec.ofNat 48 va } : FaultInfo)
       let badForm := stFmt da ≠ fmtA ∨ (stGeom da ≠ 0 ∧ ¬(residue ∧ stGeom da = 1)) ∨ stFmt db ≠ fmtB ∨ stGeom db ≠ (if residue then 2 else 0)
       let oddA := stIdx da 0 % 32 ≠ 0 ∨ stAddr da % bytes ≠ 0 ∨ stStride da 0 % bytes ≠ 0
       let oddB := ¬residue ∧ (stIdx db 0 % 32 ≠ 0 ∨ stAddr db % bytes ≠ 0 ∨ stStride db 0 % bytes ≠ 0)
       let oddS := stGeom da = 1 ∧ scale % 32 ≠ 0
       let far := fun (m : Nat) => m < 32 ∧ Config.scratchBytes < row m + bytes
       (badForm → s.mmaFault a b p = some (.plain .illegalOperation 5))
       ∧ (¬badForm → oddA → s.mmaFault a b p = odd (stAddr da))
       ∧ (¬badForm → ¬oddA → oddB → s.mmaFault a b p = odd (stAddr db))
       ∧ (¬badForm → ¬oddA → ¬oddB → oddS → s.mmaFault a b p = odd scale)
       ∧ (¬badForm → ¬oddA → ¬oddB → ¬oddS → ∀ m, far m → (∀ j, j < m → ¬far j) → s.mmaFault a b p = out (row m))
       ∧ (¬badForm → ¬oddA → ¬oddB → ¬oddS → (∀ m, ¬far m) → s.mmaFault a b p =
           if stGeom da = 1 ∧ Config.scratchBytes < scale + 32 then out scale else none))

/-- The vector helpers, MMA and MMAZ, CHB, CHU and POP complete (14 R253 to R260, 15 R266 to R276, 10 R181 to R185). -/
def Obligations.HelpersBlocksAndHeadsComplete : Prop :=
  ∀ (s : State) (g : BitVec 4),
    let runs := fun (i : Instr) => ∃ t : State, exec i s = .next t ∧ t.core.fault = s.core.fault ∧ t.core.held = s.core.held
      ∧ t.core.run = s.core.run ∧ KeepsRegisters s t ∧ KeepsMemory s t
    (∀ m : BitVec 4, runs (.pop m))
    ∧ (s.guardOn g = true →
      (∀ h : BitVec 2, runs (.chu g h))
      ∧ (∀ (cp : BitVec 8) (h : BitVec 2),
        let e := Tab.get 0 s.core.caps cp.toNat
        bitAt e 63 = true → bitsAt e 60 3 = 1 → bitAt e 58 = true → s.core.heads[h.toNat] = none →
        (∀ k : Fin 4, s.core.heads[k] ≠ some (bitsAt e 45 5)) → runs (.chb g cp h))
      ∧ (∀ (u w : BitVec 1) (d : BitVec 4) (a b : BitVec 5) (z k : BitVec 3) (r : BitVec 2), s.waitsV a = false →
        runs (.frcps u g d w a z k) ∧ runs (.frsqs u g d w a z k) ∧ runs (.fgete u g d w a z k) ∧ runs (.fgetm u g d w a z k)
        ∧ runs (.frint u g d w a z r)
        ∧ (s.waitsV b = false → runs (.fnrcp u g d w a b z k) ∧ runs (.fnrsq u g d w a b z k) ∧ runs (.fscale u g d w a b z k)
          ∧ runs (.vrng u g d w a b z k)))
      ∧ ∀ (a b : BitVec 4) (t y hx : BitVec 1) (p : BitVec 6),
        let da := s.core.r.readSt a
        let db := s.core.r.readSt b
        let free := if 8 ≤ p.toNat then s.core.mx.fltFree else s.core.mx.resFree
        let fmtA := if p = 0 ∨ p = 2 then 7 else if p = 1 then 8 else if p = 8 then 1 else if p = 9 then 2 else 0
        let fmtB := if p = 0 then 7 else if p = 1 ∨ p = 2 then 8 else fmtA
        let residue := p = 0 ∨ p = 1 ∨ p = 2
        let bytes := if fmtA = 7 then 32 else if fmtA = 8 then 16 else if fmtA = 0 then 128 else 64
        let row := fun (m : Nat) => (((stAddr da : Int) + m * stStride da 0) % 2 ^ 48).toNat
        let scale := (((stSBase da : Int) + blockNumber da * stSStr da) % 2 ^ 48).toNat
        p ∈ ([0, 1, 2, 8, 9, 12] : List (BitVec 6)) → free ≤ s.core.cyc →
        stFmt da = fmtA → (stGeom da = 0 ∨ (residue ∧ stGeom da = 1)) → stFmt db = fmtB → stGeom db = (if residue then 2 else 0) →
        stIdx da 0 % 32 = 0 → stAddr da % bytes = 0 → stStride da 0 % bytes = 0 →
        (¬residue → stIdx db 0 % 32 = 0 ∧ stAddr db % bytes = 0 ∧ stStride db 0 % bytes = 0) →
        (∀ m, m < 32 → row m + bytes ≤ Config.scratchBytes) →
        (stGeom da = 1 → scale % 32 = 0 ∧ scale + 32 ≤ Config.scratchBytes) →
        runs (.mma g a b t p y hx) ∧ (s.core.mx.busy t = false → runs (.mmaz g a b t p y hx)))

/-- MRD, MRDX, MWRX, MCLR, MANC and MSC (15 R276 to R281). -/
def Obligations.TileInstructions : Prop :=
  (∀ (g : BitVec 4) (t : BitVec 1) (r : BitVec 5) (s : State), s.guardOn g = true →
    let hold := Host.Outcome.next (s.hold .busyBit)
    let anchor := s.core.mx.anchor[t.toNat]
    let el := fun (n : Nat) => s.core.mx.el t (32 * r.toNat + n)
    let write := fun (n : Nat) (op : TileOp) => Host.Outcome.next { s with core := { s.core with mx := { s.core.mx with
      writes := s.core.mx.writes ++ [{ due := s.core.cyc + n, tile := t, op := op }] } } }
    (s.core.mx.busy t = true → (∀ l f e, exec (.mrd g t r l f e) s = hold) ∧ (∀ v c, exec (.mrdx g t r v c) s = hold ∧ exec (.mwrx g t r v c) s = hold)
      ∧ exec (.mclr g t) s = hold ∧ ∀ a, exec (.manc g t a) s = hold)
    ∧ (s.core.mx.busy t = false →
      (∀ (ln : BitVec 10) (f : BitVec 3) (e : BitVec 2), ∃ l : Landing, exec (.mrd g t r ln f e) s = .next (s.push l) ∧ l.due = s.core.cyc + 6
        ∧ l.file = some .plane ∧ l.dst = ln ∧ l.sel = BitVec.allOnes 1024 ∧ l.latch = .lmx ∧ l.lval = l.val
        ∧ (∀ n, n < 32 → lane l.val n = ((el n).readout anchor.toInt f.toNat e.toNat).lane)
        ∧ l.flg = orFlags ((List.range 32).map fun n => ((el n).readout anchor.toInt f.toNat e.toNat).f))
      ∧ (∀ (v c : BitVec 4), (∃ l : Landing, exec (.mrdx g t r v c) s = .next (s.push l) ∧ l.due = s.core.cyc + 3
        ∧ l.file = some .v ∧ l.dst = BitVec.ofNat 10 v.toNat ∧ l.sel = BitVec.allOnes 1024 ∧ l.latch = .lmx ∧ l.lval = l.val ∧ l.flg = 0
        ∧ (c.toNat < 8 → ∀ e, e < 4 → elem l.val 256 e = (el (4 * c.toNat + e)).v)
        ∧ (c = 8 → (∀ n, n < 32 → elem l.val 2 n = (el n).tag) ∧ bitsAt l.val 64 16 = anchor ∧ bitsAt l.val 80 944 = 0))
        ∧ exec (.mwrx g t r v c) s = write 2 (.chunk r c (s.core.r.readV v)))
      ∧ exec (.mclr g t) s = write 1 (.clear none) ∧ ∀ a, exec (.manc g t a) s = write 1 (.clear (some a)))
    ∧ ∀ bias, exec (.msc g bias) s = .next { s with core := { s.core with mx := { s.core.mx with msc := some bias } } })
  ∧ (∀ (m : Matrix) (d : Nat) (t : BitVec 1),
    (∀ i, i < 1024 → (m.landWrite { due := d, tile := t, op := .clear none }).el t i = { v := 0, tag := 0 })
    ∧ (m.landWrite { due := d, tile := t, op := .clear none }).anchor = m.anchor
    ∧ (∀ a, (m.landWrite { due := d, tile := t, op := .clear (some a) }).anchor = m.anchor.set t.toNat a)
    ∧ (∀ (op : TileOp) (o : BitVec 1) (i : Nat), o ≠ t → i < 1024 → (m.landWrite { due := d, tile := t, op := op }).el o i = m.el o i)
    ∧ ∀ (r : BitVec 5) (c : BitVec 4) (x : Line) (i : Nat), i < 1024 →
      let m' := m.landWrite { due := d, tile := t, op := .chunk r c x }
      (c.toNat < 8 → m'.anchor = m.anchor ∧ m'.el t i =
        if 32 * r.toNat + 4 * c.toNat ≤ i ∧ i < 32 * r.toNat + 4 * c.toNat + 4 then
          let v : BitVec 256 := elem x 256 (i - (32 * r.toNat + 4 * c.toNat))
          { v := v, tag := if v.toNat = 2 ^ 255 then 1 else (m.el t i).tag }
        else m.el t i)
      ∧ (c = 8 → m'.anchor = m.anchor.set t.toNat (bitsAt x 64 16) ∧ m'.el t i =
        if 32 * r.toNat ≤ i ∧ i < 32 * r.toNat + 32 then
          { m.el t i with tag := if elem x 2 (i - 32 * r.toNat) = 3 then 1 else elem x 2 (i - 32 * r.toNat) }
        else m.el t i))

/-- MLDW (15 R282, 17 R311).  That it takes its bank phase after the loads of its bundle, with no bound from MARK, is the model's reading
of R311 (assumption 26, DEDUCED). -/
def Obligations.WeightBufferLoad : Prop :=
  (∀ (g : BitVec 4) (st : BitVec 4) (f : BitVec 12) (s : State), s.guardOn g = true →
    let d := s.core.r.readSt st
    (4092 < f.toNat → exec (.mldw g st f) s = .next (s.takePrecise (.plain .illegalOperation 5)))
    ∧ (f.toNat ≤ 4092 → ∀ off, s.checkAccess 5 (BitVec.ofNat 64 (stAddr d)) 128 128 .read = .pad off → ∃ (t : State) (l : Load),
      exec (.mldw g st f) s = .next t ∧ QueuesLoad s t l ∧ l.bytes = ((List.range 128).map fun i => (i, off + i))
      ∧ l.form = .wbuf (32 * f.toNat) ∧ l.land.file = none ∧ l.land.latch = .none ∧ l.done = false
      ∧ (let ph := s.core.enginePhase (granulesOf ((List.range 128).map fun i => off + i))
         l.readAt + 4 = ph.1 ∧ l.land.due = ph.1 + ph.2.1 + 9)
      ∧ ∃ m : Landing, t.core.land = (s.push m).core.land ∧ m.file = some .st ∧ m.dst = BitVec.ofNat 10 st.toNat ∧ m.due = s.core.cyc + 1
        ∧ m.sel = idxSel ∧ m.val = stAdvanced d 0 (1024 / fmtBits (stFmt d)))
    ∧ (f.toNat ≤ 4092 → ∀ ent off zeros viol, s.checkAccess 5 (BitVec.ofNat 64 (stAddr d)) 128 128 .read = .quire ent off zeros viol →
      (s.reloads = true → exec (.mldw g st f) s = .next (s.hold .mirrorReload))
      ∧ (s.reloads = false → ∃ (t : State) (l : Load), exec (.mldw g st f) s = .next t ∧ QueuesLoad s t l
        ∧ l.bytes = ((List.range 128).map fun i => (i, off + i)) ∧ l.form = .wbuf (32 * f.toNat) ∧ l.quire = true ∧ l.zeros = zeros ∧ l.poison = viol
        ∧ l.land.file = none ∧ l.land.latch = .none ∧ l.done = false ∧ l.readAt = s.core.cyc ∧ l.land.due = s.core.cyc + 18
        ∧ (l.land.bad = none ↔ viol = false) ∧ (∀ i, l.land.bad = some i → i.kind = .violation ∧ i.vkind = 1 ∧ i.slot = 5)
        ∧ ∃ m : Landing, t.core.land = (s.push m).core.land ∧ m.file = some .st ∧ m.dst = BitVec.ofNat 10 st.toNat ∧ m.due = s.core.cyc + 1
          ∧ m.sel = idxSel ∧ m.val = stAdvanced d 0 (1024 / fmtBits (stFmt d))))
    ∧ (∀ l : Load, l.form = .wbuf (32 * f.toNat) → (l.bytes.map (·.1)).Nodup → (∀ b ∈ l.bytes, b.1 < 128) → s.core.loads = [l] → s.core.poison = [] →
      let v := fun (a : Nat) => if l.poison then elem (0x7FC00000 : Lane32) 8 (a % 4) else if l.zeros then 0
        else Memory.byte (if l.quire then s.mirror else s.core.scratch) a
      ∃ x : Line, (s.readLoad l).core.loads = [{ l with done := true, land := { l.land with val := x, lval := x } }] ∧ (s.readLoad l).core.land = s.core.land
        ∧ ∀ b ∈ l.bytes, elem x 8 b.1 = v b.2)
    ∧ (f.toNat ≤ 4092 → ∀ i, s.checkAccess 5 (BitVec.ofNat 64 (stAddr d)) 128 128 .read = .bad i →
      exec (.mldw g st f) s = .next (s.takePrecise i)))
  ∧ ∀ (c : Core) (l : Load) (off : Nat), Memory.wf c.wbuf = true → c.loads = [l] → l.form = .wbuf off → l.done = true → l.land.due ≤ c.cyc →
    c.loadsLand.loads = [] ∧ c.loadsLand.r = c.r ∧ c.loadsLand.scratch = c.scratch
    ∧ ∀ a : Nat, Memory.byte c.loadsLand.wbuf a = if off ≤ a ∧ a < off + 128 then elem l.land.val 8 (a - off) else Memory.byte c.wbuf a

/-- A node of a sum-product tree (16 R292 to R294, 04 R75, R76). -/
def Obligations.SumProductNodes : Prop :=
  (∀ (sp : Bool) (h : BitVec 64) (ws : List Lane32) (i : Nat) (a b : Node),
    let add := fun x y => if sp then spAdd x y else redAdd32 0 x y
    let mul := fun x y => if sp then spMul x y else fmul32 0 x y
    let n := nodeValue sp h ws i a b
    let op := (bitsAt h (3 * i) 3).toNat
    let passed := fun (x : Node) => 
      Node.mk (if sp then (spCanon x.v).lane else if isNan32 x.v then 0x7FC00000 else x.v) true
        (a.f ||| b.f ||| (if sp then (spCanon x.v).f else 0))
    (op = 6 → n.ok = false ∧ n.f = a.f ||| b.f)
    ∧ (a.ok = false → b.ok = false → n.ok = false)
    ∧ (op ≠ 6 → a.ok = true → b.ok = true →
      (op = 0 ∨ op = 7 → n = { v := (add a.v b.v).lane, ok := true, f := a.f ||| b.f ||| (add a.v b.v).f })
      ∧ (op = 1 → n = { v := (mul a.v b.v).lane, ok := true, f := a.f ||| b.f ||| (mul a.v b.v).f })
      ∧ (op = 3 → sp = true → n = { v := (if spDecode a.v = (.nan, 0) ∨ spDecode b.v = (.nan, 0) then 0xFFFFFFFF
            else if (spCanon b.v).v ≤ (spCanon a.v).v then (spCanon a.v).lane else (spCanon b.v).lane), ok := true, f := a.f ||| b.f ||| ((spCanon a.v).f ||| (spCanon b.v).f) })
      ∧ (op = 3 → sp = false → n = { v := fmax32 a.v b.v, ok := true, f := a.f ||| b.f })
      ∧ (op = 4 → n = passed a) ∧ (op = 5 → n = passed b))
    ∧ (op = 2 → a.ok = true ∨ b.ok = true →
      let one := quiet (if sp then 0 else 0x80000000)
      let x := if a.ok then mul (nth 0 ws (2 * i)) a.v else one
      let y := if b.ok then mul (nth 0 ws (2 * i + 1)) b.v else one
      let r := add x.lane y.lane
      n = { v := r.lane, ok := true, f := a.f ||| b.f ||| (r.f ||| x.f ||| y.f) }))
  ∧ (∀ w : Lane32,
    let ex : Nat := w.toNat / 2 ^ 16
    let fr : Nat := w.toNat % 2 ^ 16
    (ex = 0 → spDecode w = (.zero, if fr = 0 then 0 else sprFlag)) ∧ (ex = 65535 → spDecode w = (if fr = 0 then .sat else .nan, 0))
    ∧ (0 < ex → ex < 65535 → ∃ (m : Nat) (e : Int), spDecode w = (.num m e, 0)
      ∧ ratOf false m e = (1 + (fr : ℚ) / 65536) * (2 : ℚ) ^ ((ex : Int) - 32767)))
  ∧ (∀ x y : Lane32,
    let a := (spDecode x).1
    let b := (spDecode y).1
    let gives := fun (r : Flagged) (v : Nat) (f : FFlags) => r = { v := v, f := f ||| (spDecode x).2 ||| (spDecode y).2 }
    (a = .nan ∨ b = .nan → gives (spAdd x y) 0xFFFFFFFF 0 ∧ gives (spMul x y) 0xFFFFFFFF 0)
    ∧ (a ≠ .nan → b ≠ .nan → a = .sat ∨ b = .sat → gives (spAdd x y) 0xFFFF0000 0
      ∧ (a = .zero ∨ b = .zero → gives (spMul x y) 0xFFFFFFFF nvFlag) ∧ (a ≠ .zero → b ≠ .zero → gives (spMul x y) 0xFFFF0000 0))
    ∧ (a = .zero → b ≠ .nan → b ≠ .sat → gives (spAdd x y) (if b = .zero then 0 else y.toNat) 0 ∧ gives (spMul x y) 0 0)
    ∧ (b = .zero → a ≠ .nan → a ≠ .sat → gives (spAdd x y) (if a = .zero then 0 else x.toNat) 0 ∧ gives (spMul x y) 0 0))
  ∧ (∀ (x y : Lane32) (m n : Nat) (e f : Int) (fx fy : FFlags), spDecode x = (.num m e, fx) → spDecode y = (.num n f, fy) →
    IsSpRounded 0 (spAdd x y) (ratOf false m e + ratOf false n f) ∧ IsSpRounded 0 (spMul x y) (ratOf false m e * ratOf false n f))
  ∧ ∀ (x y : Lane32) (m n : Nat) (e f : Int) (fx fy : FFlags), spDecode x = (.num m e, fx) → spDecode y = (.num n f, fy) →
    let isRounded := fun (r : Flagged) (v : ℚ) =>
      (r.f &&& (ofFlag ||| ufFlag) = 0 → ∃ (m' : Nat) (e' : Int), spDecode r.lane = (.num m' e', 0)
        ∧ (r.f &&& nxFlag = 0 ↔ ratOf false m' e' = v)
        ∧ ∀ (z : Lane32) (p : Nat) (q : Int) (fz : FFlags), spDecode z = (.num p q, fz) → |ratOf false m' e' - v| ≤ |ratOf false p q - v|)
      ∧ (r.f &&& ofFlag ≠ 0 → r = { v := 0xFFFF0000, f := ofFlag ||| nxFlag })
      ∧ (r.f &&& ufFlag ≠ 0 → r = { v := 0, f := ufFlag ||| nxFlag })
    isRounded (spAdd x y) (ratOf false m e + ratOf false n f) ∧ isRounded (spMul x y) (ratOf false m e * ratOf false n f)

/-- SPU and SPD (16 R288 to R291, R293, R296 to R298).  That an SPD writes its leaves' cells alone, and not the root's, is the model's reading
of R298 beside 03 R53 (assumption 88, DEDUCED). -/
def Obligations.SumProductPasses : Prop :=
  (∀ (s : State) (p : SpPass),
    let t := s.finishPass p
    let none_ : Node := { v := 0, ok := false, f := 0 }
    let leaves := passLeaves p.sp32 p.shape (p.leaves.map fun x => x.2.2.getD 0)
    let nodes := passNodes p.sp32 p.shape p.weights leaves
    let top := nth none_ nodes 14
    let op := (bitsAt p.shape 42 3).toNat
    let root : Lane32 := if top.ok then top.v
      else if op = 1 then (if p.sp32 then 0x7FFF0000 else 0x3F800000) else if op = 3 then (if p.sp32 then 0 else 0xFF800000) else 0
    nodes.length = 15
    ∧ (∀ i, i < 15 → nth none_ nodes i = nodeValue p.sp32 p.shape p.weights i
        (if i < 8 then nth none_ leaves (2 * i) else nth none_ nodes (2 * (i - 8)))
        (if i < 8 then nth none_ leaves (2 * i + 1) else nth none_ nodes (2 * (i - 8) + 1)))
    ∧ (∀ j, j < 16 → (∀ x, p.leaves[j]? = some x → nth none_ leaves j = { v := x.2.2.getD 0, ok := true, f := 0 })
      ∧ (p.leaves.length ≤ j → (nth none_ leaves j).ok = false))
    ∧ KeepsRegisters s t ∧ KeepsMemory s t ∧ KeepsEngines s t ∧ t.core.sp.stash = s.core.sp.stash
    ∧ (∀ x ∈ s.core.land, x ∈ t.core.land) ∧ t.core.land.length = s.core.land.length + 1
    ∧ (∃ l ∈ t.core.land, l.due = p.landAt ∧ l.slot = 6 ∧ l.file = none ∧ l.latch = .lsp ∧ bitsAt l.lval 0 32 = root ∧ l.flg = top.f)
    ∧ (p.toLatch = true → t.core.sp.writes = s.core.sp.writes)
    ∧ (p.toLatch = false → ∃ w : BankWrite, t.core.sp.writes = s.core.sp.writes ++ [w] ∧ w.req = p.landAt ∧ w.rank = p.tree.toNat
        ∧ w.val = root ∧ w.acc = none ∧ ∀ x rest, p.leaves = x :: rest → w.addr = BitVec.ofNat 12 (16 * p.row.toNat + x.1.toNat % 16))
    ∧ (p.noStash = true → t.core.sp.sets = s.core.sp.sets)
    ∧ (p.noStash = false → ∃ e : StashSet, t.core.sp.sets = s.core.sp.sets ++ [e] ∧ e.due = p.landAt ∧ e.tree = p.tree
        ∧ (bitAt p.shape 50 = false → e.stash = none)
        ∧ (bitAt p.shape 50 = true → e.stash = some { num := p.num, shape := p.shape, sp32 := p.sp32, weights := p.weights, leaves := leaves.map (fun n => (n.v, n.ok)), nodes := nodes.map (fun n => (n.v, n.ok)) })))
  ∧ (∀ (c : Core) (e : StashSet), c.frozen c.cyc = false → c.sp.sets = [e] → c.sp.writes = [] →
    (e.due ≤ c.cyc → c.sumProdLand.sp.stash = c.sp.stash.set e.tree.toNat e.stash ∧ c.sumProdLand.sp.sets = [])
    ∧ (c.cyc < e.due → c.sumProdLand = c))
  ∧ (∀ (c : Core) (w : BankWrite), Tab.okAbove (0 : Lane32) 0 c.sp.bank = true →
    let old := Tab.get 0 c.sp.bank w.addr.toNat
    let r : Flagged := match w.acc with
      | none => quiet w.val.toNat
      | some sp32 => if sp32 then spAdd old w.val else redAdd32 0 old w.val
    (∀ a, Tab.get 0 (c.bankWrite w).sp.bank a = if a = w.addr.toNat then r.lane else Tab.get 0 c.sp.bank a)
    ∧ (c.bankWrite w).fstat = c.fstat ||| r.f ∧ w ∉ (c.bankWrite w).sp.writes ∧ ∀ x ∈ c.sp.writes, x ≠ w → x ∈ (c.bankWrite w).sp.writes)
  ∧ (∀ (now b : Nat) (ws : List BankWrite),
    let waits := fun (w : BankWrite) => w ∈ ws ∧ w.req ≤ now ∧ w.addr.toNat % 16 = b
    (bankChoice now b ws = none → ∀ w, ¬waits w)
    ∧ ∀ w, bankChoice now b ws = some w → waits w
      ∧ ∀ x, waits x → ¬[x.req, x.rank, x.seq, x.ord] < [w.req, w.rank, w.seq, w.ord])
  ∧ (∀ (sp32 : Bool) (h : BitVec 64) (ws : List Lane32) (i : Nat) (d : Lane32) (a b : Lane32 × Bool),
    let r := downNode sp32 h ws i d a b
    let op := (bitsAt h (3 * i) 3).toNat
    let mul := fun (x y : Lane32) => if sp32 then spMul x y else fmul32 0 x y
    let same := fun (x : Lane32) => if sp32 then spCanon x else quiet (if isNan32 x then 0x7FC00000 else x.toNat)
    let seen := if sp32 then (spDecode a.1).2 ||| (spDecode b.1).2 else 0
    let nans := if sp32 then (spDecode a.1).1 = .nan ∨ (spDecode b.1).1 = .nan else isNan32 a.1 = true ∨ isNan32 b.1 = true
    let left := if sp32 then (spCanon b.1).v ≤ (spCanon a.1).v else order32 b.1 ≤ order32 a.1
    let sends := fun (x y : Flagged) (more : FFlags) => r.1 = (if a.2 then some x.lane else none) ∧ r.2.1 = (if b.2 then some y.lane else none)
      ∧ r.2.2 = (if a.2 then x.f else 0) ||| (if b.2 then y.f else 0) ||| more
    (op = 0 → sends (same d) (same d) 0) ∧ (op = 1 → sends (mul d b.1) (mul d a.1) 0)
    ∧ (op = 2 → sends (mul (nth 0 ws (2 * i)) d) (mul (nth 0 ws (2 * i + 1)) d) 0)
    ∧ (op = 3 → nans → let n := quiet (if sp32 then 0xFFFFFFFF else 0x7FC00000); sends n n seen)
    ∧ (op = 3 → ¬nans → left → sends (same d) (quiet 0) seen) ∧ (op = 3 → ¬nans → ¬left → sends (quiet 0) (same d) seen)
    ∧ (op = 4 → sends (same d) (quiet 0) 0) ∧ (op = 5 → sends (quiet 0) (same d) 0) ∧ (op = 6 → r = (none, none, 0))
    ∧ (op = 7 → sends (same d) (if sp32 then spAdd d a.1 else redAdd32 0 d a.1) 0))
  ∧ (∀ (st : Stash) (seed : Lane32), st.leaves.length = 16 → st.nodes.length = 15 →
    ∃ (ad : Nat → Option Lane32) (fl : Nat → FFlags), ad 14 = some seed ∧ (downPass st seed).2 = orFlags ((List.range 15).map fl)
      ∧ ∀ i, i < 15 →
        let kid := fun (k : Nat) => if i < 8 then nth (0, false) st.leaves (2 * i + k) else nth (0, false) st.nodes (2 * (i - 8) + k)
        let got := fun (k : Nat) => if i < 8 then nth none (downPass st seed).1 (2 * i + k) else ad (2 * (i - 8) + k)
        (ad i = none → got 0 = none ∧ got 1 = none ∧ fl i = 0)
        ∧ ∀ d, ad i = some d → (got 0, got 1, fl i) = downNode st.sp32 st.shape st.weights i d (kid 0) (kid 1))
  ∧ ∀ (g : BitVec 4) (t : BitVec 3) (h : BitVec 6) (v : BitVec 4) (r : BitVec 8) (f : BitVec 1) (s : State), s.guardOn g = true →
    let c := s.core
    let d := c.r.readV v
    (c.cyc < c.sp.busy → exec (.spu g t h v r f) s = .next (s.hold .bankExtension) ∧ exec (.spd g t h v r f) s = .next (s.hold .bankExtension))
    ∧ (c.sp.busy ≤ c.cyc →
      let shape := Tab.get 0 c.sp.shape h.toNat
      let n := (bitsAt shape 45 5).toNat
      let leaf := fun (j : Nat) => (bitsAt (lane d j) 0 12).toNat
      let rank := fun (j : Nat) => ((List.range j).filter fun i => leaf i % 16 == leaf j % 16).length
      let reserved := fun (n : Nat) => ∃ j, j < n ∧ lane d j &&& 0xF000F000 ≠ 0
      (n = 0 ∨ reserved n → exec (.spu g t h v r f) s = .next (s.takePrecise (.plain .illegalOperation 6)))
      ∧ (n ≠ 0 → ¬reserved n → ∃ (e : Nat) (p : SpPass), (∀ j, j < n → rank j / 2 ≤ e) ∧ (∃ j, j < n ∧ rank j / 2 = e)
        ∧ exec (.spu g t h v r f) s = .next { s with core := { c with seqNo := c.seqNo + 1, sp := { c.sp with
            busy := c.cyc + 1 + e, passes := c.sp.passes ++ [p], last := c.sp.last.set t.toNat (c.cyc + 9 + e) } } }
        ∧ p.tree = t ∧ p.num = h ∧ p.shape = shape ∧ p.sp32 = c.sp.mode[t.toNat] ∧ p.row = r ∧ p.toLatch = (f == 1) ∧ p.landAt = c.cyc + 9 + e
        ∧ p.weights = ((List.range 30).map fun i => Tab.get 0 c.sp.weight (30 * t.toNat + i)) ∧ p.noStash = false
        ∧ p.leaves = (List.range n).map fun j => (bitsAt (lane d j) 0 12, c.cyc + rank j / 2, none))
      ∧ (c.sp.stash[t.toNat] = none → exec (.spd g t h v r f) s = .next (s.takePrecise (.plain .stash 6)))
      ∧ ∀ st, c.sp.stash[t.toNat] = some st →
        let m := (bitsAt st.shape 45 5).toNat
        let seed := Tab.get 0 c.sp.bank (16 * r.toNat + leaf 0 % 16)
        (st.num ≠ h ∨ c.cyc < c.sp.last[t.toNat] → exec (.spd g t h v r f) s = .next (s.takePrecise (.plain .stash 6)))
        ∧ (st.num = h → c.sp.last[t.toNat] ≤ c.cyc → reserved m → exec (.spd g t h v r f) s = .next (s.takePrecise (.plain .illegalOperation 6)))
        ∧ (st.num = h → c.sp.last[t.toNat] ≤ c.cyc → ¬reserved m → ∃ (s' : State) (ws : List BankWrite), exec (.spd g t h v r f) s = .next s'
          ∧ KeepsRegisters s s' ∧ KeepsMemory s s' ∧ KeepsEngines s s' ∧ s'.core.sp.writes = c.sp.writes ++ ws
          ∧ (∀ w ∈ ws, w.req = c.cyc + 11 ∧ w.rank = t.toNat ∧ w.acc = if f = 1 then none else some st.sp32)
          ∧ (∀ (j : Nat) (x : Lane32), j < m → nth none (downPass st seed).1 j = some x → ∃ w ∈ ws, w.addr = bitsAt (lane d j) 16 12 ∧ w.val = x ∧ w.ord = j)
          ∧ (∀ w ∈ ws, w.ord < m ∧ w.addr = bitsAt (lane d w.ord) 16 12 ∧ nth none (downPass st seed).1 w.ord = some w.val)
          ∧ ws.Pairwise (fun w w' => w.ord < w'.ord)
          ∧ (∀ (j : Nat) (x : Lane32), nth none (downPass st seed).1 j = some x → (nth (0, false) st.leaves j).2 = true)
          ∧ ∃ l ∈ s'.core.land, l.due = c.cyc + 11 ∧ l.latch = .lsp ∧ bitsAt l.lval 0 32 = seed ∧ l.file = none ∧ l.flg = (downPass st seed).2))

/-- SPLD, SPST, SPSH, SPW, SPCV, SPSC and SPCL (16 R299 to R303). -/
def Obligations.SumProductMoves : Prop :=
  ∀ (g : BitVec 4) (v : BitVec 4) (s : State), s.guardOn g = true →
    let c := s.core
    let x := c.r.readV v
    let bad := Host.Outcome.next (s.takePrecise (.plain .illegalOperation 6))
    let hold := Host.Outcome.next (s.hold .bankExtension)
    let onlySp := fun (t : State) => t = { s with core := { c with seqNo := t.core.seqNo, sp := t.core.sp } }
    (c.cyc < c.sp.busy → (∀ r e, exec (.spld g v r e) s = hold ∧ exec (.spst g v r e) s = hold) ∧ (∀ h, exec (.spsh g h v) s = hold)
      ∧ (∀ t, exec (.spw g t v) s = hold ∧ exec (.spcl g t) s = hold) ∧ (∀ r n e, exec (.spcv g r n e) s = hold) ∧ ∀ t m, exec (.spsc g t m) s = hold)
    ∧ (c.sp.busy ≤ c.cyc →
      (∀ (r : BitVec 8) (e : BitVec 2), ∃ (t : State) (new : List BankWrite) (wide : Nat → Lane32), exec (.spld g v r e) s = .next t ∧ onlySp t ∧ t.core.sp = { c.sp with writes := c.sp.writes ++ new } 
          ∧ new = (List.range 32).map (fun k => ({ req := c.cyc + 2, rank := 8, seq := c.seqNo, ord := k, addr := BitVec.ofNat 12 (16 * r.toNat + k), val := wide k, acc := none } : BankWrite))
          ∧ ∀ k, k < 32 → (e ≠ 1 → wide k = lane x k)
            ∧ (e = 1 → wide k = if 0x7F80 < (elem x 16 k : BitVec 16).toNat % 2 ^ 15 then 0x7FC00000 else BitVec.ofNat 32 ((elem x 16 k : BitVec 16).toNat * 2 ^ 16)))
      ∧ (∀ (r : BitVec 8) (e : BitVec 2), ∃ l : Landing, exec (.spst g v r e) s = .next (s.push l) ∧ l.due = c.cyc + 3 ∧ l.file = some .v
        ∧ l.dst = BitVec.ofNat 10 v.toNat ∧ l.sel = BitVec.allOnes 1024 ∧ l.latch = .none
        ∧ (e ≠ 1 → l.flg = 0 ∧ ∀ k, k < 32 → lane l.val k = Tab.get 0 c.sp.bank (16 * r.toNat + k))
        ∧ (e = 1 → bitsAt l.val 512 512 = 0 ∧ (∀ k, k < 32 → elem l.val 16 k
            = BitVec.ofNat 16 (bf16.round 0 (fp32Of (Tab.get 0 c.sp.bank (16 * r.toNat + k)))).v)
          ∧ l.flg = orFlags ((List.range 32).map fun k => (bf16.round 0 (fp32Of (Tab.get 0 c.sp.bank (16 * r.toNat + k)))).f)))
      ∧ (∀ h : BitVec 6, let w := bitsAt x 0 64
        let lc := (bitsAt w 45 5).toNat
        (bitsAt w 51 13 ≠ 0 ∨ lc = 0 ∨ 16 < lc → exec (.spsh g h v) s = bad)
        ∧ (bitsAt w 51 13 = 0 → lc ≠ 0 → lc ≤ 16 → exec (.spsh g h v) s
            = .next { s with core := { c with sp := { c.sp with shape := Tab.put 0 c.sp.shape h.toNat w } } }))
      ∧ (∀ t : BitVec 3, ∃ t' : State, exec (.spw g t v) s = .next t' ∧ t' = { s with core := { c with sp := { c.sp with weight := t'.core.sp.weight } } }
        ∧ (Tab.okAbove (0 : Lane32) 0 c.sp.weight = true → ∀ i, Tab.get 0 t'.core.sp.weight i =
            if 30 * t.toNat ≤ i ∧ i < 30 * t.toNat + 30 then lane x (i - 30 * t.toNat) else Tab.get 0 c.sp.weight i))
      ∧ (∀ (r n : BitVec 8) (e : BitVec 1), (256 < r.toNat + n.toNat + 1 → exec (.spcv g r n e) s = bad)
        ∧ (r.toNat + n.toNat + 1 ≤ 256 → exec (.spcv g r n e) s = .next { s with core := { c with seqNo := c.seqNo + 1, sp := { c.sp with
            busy := c.cyc + n.toNat + 1, convs := c.sp.convs ++ (List.range (n.toNat + 1)).map (fun j =>
              ({ at_ := c.cyc + j, seq := c.seqNo, row := r.toNat + j, toSp := e == 0, flagAt := c.cyc + 1 + (n.toNat + 1) } : SpConv)) } } }))
      ∧ (∀ (t : BitVec 3) (m : BitVec 1), ∃ t' : State, exec (.spsc g t m) s = .next t' ∧ onlySp t' ∧ t'.core.sp.mode = c.sp.mode.set t.toNat (m == 1)
        ∧ t'.core.sp.stash = c.sp.stash.set t.toNat none ∧ t'.core.sp.bank = c.sp.bank ∧ t'.core.sp.weight = c.sp.weight ∧ t'.core.sp.shape = c.sp.shape)
      ∧ ∀ t : BitVec 3, ∃ t' : State, exec (.spcl g t) s = .next t' ∧ onlySp t' ∧ t'.core.sp.mode = c.sp.mode
        ∧ t'.core.sp.stash = c.sp.stash.set t.toNat none ∧ t'.core.sp.bank = c.sp.bank ∧ t'.core.sp.shape = c.sp.shape
        ∧ (Tab.okAbove (0 : Lane32) 0 c.sp.weight = true → ∀ i, Tab.get 0 t'.core.sp.weight i =
            if 30 * t.toNat ≤ i ∧ i < 30 * t.toNat + 30 then 0 else Tab.get 0 c.sp.weight i))

/-- The gated instructions of the port slot (07 R136, R138, 08 R149, 09 R163 to R167, 10 R183, 17 R318, R319, 20 R366, 21
R377, R383).  The model's choices among its clauses: the PND count and the state check of QWR, QAT and HBM atomics (assumptions 41 and 42,
DEDUCED), the share span of a QAT (42), the capability fault for a core of the partition that the kernel has not (50, DESIGN CHOICE), and
what a capability outside the partition raises (93). -/
def Obligations.PortSlotEffects : Prop :=
  ∀ (g : BitVec 4) (n m k : BitVec 5) (v : BitVec 4) (kk : BitVec 3) (s : State), s.guardOn g = true →
    let a := s.core.r.readA n
    let x := s.core.r.readA m
    let word := s.core.slotWord 7
    let tries := fun (i : Instr) (e : Eff) (ok : Prop) =>
      (s.blocked e = true → exec i s = .next (s.hold .queueCap)) ∧ (s.blocked e = false → ok → Acts s (exec i s) 7 e)
    let inPad := fun (al : Nat) => a.toNat % al = 0 ∧ a.toNat < Config.scratchBytes
    let dk := Memory.readNat s.core.scratch a.toNat 8 / 2 ^ 52 % 16
    tries (.cpy g n m) (.cpy a.toNat x word)
        (inPad 128 ∧ (m = 0 ∨ (x.toNat % 16 = 0 ∧ (dk = 0 ∨ dk = 2 → (s.core.wordPlace x.toNat).isSome = true))))
    ∧ (∀ (b : BitVec 1) (t : BitVec 16),
        tries (.wms g n b t) (.wms a.toNat (BitVec.ofNat 32 (if b = 1 then 64 * t.toNat else t.toNat))) (inPad 16))
    ∧ (let dw := fun i => Memory.readNat s.core.scratch (a.toNat + 8 * i) 8
       let len := if dw 2 / 2 ^ 63 % 2 = 1 then 1 else dw 1 % 2 ^ 32 + 4
       tries (.ovl g n) (.ovl a.toNat word (~~~s.core.seq.half))
        (inPad 128 ∧ ∀ va ∈ pageStarts (dw 0 % 2 ^ 48) len, s.core.overlaySource va = none))
    ∧ (∀ c : BitVec 8,
        let e := Tab.get 0 s.core.caps c.toNat
        let ok := bitAt e 63 = true ∧ bitAt e 59 = true
          ∧ ((bitsAt e 60 3 = 0 ∧ s.namesCore e = true ∧ s.capOutside e = false) ∨ (bitsAt e 60 3 = 2 ∧ (s.links[(bitsAt e 18 4).toNat]).st ≠ .down))
        tries (.send g c n) (.send c false (BitVec.ofNat 1024 a.toNat)) ok
        ∧ tries (.sendLine g c v) (.send c true (s.core.r.readV v)) ok
        ∧ (s.capOutside e = true ↔ bitAt e 63 = true ∧ bitAt e 59 = true ∧ bitsAt e 60 3 = 0 ∧ s.inPartition (bitsAt e 22 6).toNat = false)
        ∧ ∀ (i : Instr) (x : Eff), (i, x) ∈ [(Instr.sendLine g c v, Eff.send c true (s.core.r.readV v)),
            (.send g c n, .send c false (BitVec.ofNat 1024 a.toNat))] → s.blocked x = false → ¬ok →
            exec i s = .next (s.takePrecise (if s.capOutside e then { accessFault .violation 7 .write 0 c.toNat with vkind := 3 }
              else { FaultInfo.plain .capability 7 with va := BitVec.ofNat 48 c.toNat })))
    ∧ (∀ off : Nat,
        let pk := fun (op : BitVec 4) (mask : Lane32) =>
          ({ party := 0, wme := false, wma := 0, sz := false, aux := 0, op := op, mask := mask, addr := BitVec.ofNat 17 (off / 16),
             payload := s.core.r.readV v } : FeltPacket)
        let km := s.core.r.readK kk
        let bytes := fun (j : Nat) => if bitAt km (8 * j) then 0xFF * 2 ^ (8 * j) else 0
        let tries := fun (i : Instr) (e : BitVec 10 → Eff) (r : Except FaultInfo (BitVec 10 × Nat)) =>
          (s.blocked (e 0) = true → exec i s = .next (s.hold .queueCap))
          ∧ (s.blocked (e 0) = false → ∀ ent : BitVec 10, r = .ok (ent, off) →
              Acts { s with core := s.core.pend ent.toNat true } (exec i s) 7 (e ent))
        tries (.qwr g n v kk) (.felt (pk 0 km) false) (s.feltTarget a.toNat 32 128 .write fun o => (o, 128))
        ∧ tries (.qwrWm g n v) (.felt (pk 1 0) false) (s.feltTarget a.toNat 16 16 .write fun o => (o, 16))
        ∧ tries (.qwrXadd g n v kk) (.felt (pk 2 (BitVec.ofNat 32 (bytes 0 + bytes 1 + bytes 2 + bytes 3))) false)
            (s.feltTarget a.toNat 128 128 .write fun o => (o, 128))
        ∧ ∀ (o : BitVec 3) (b : BitVec 1), o.toNat ≤ 6 →
          let w := if b = 1 then 8 else 4
          tries (.qat g n v o b) (.felt { pk 3 (BitVec.ofNat 32 ((if b = 1 then 3 else 1) * 2 ^ (off % 32 / 4))) with
              addr := BitVec.ofNat 17 (off / 32 * 32 / 16), sz := (b == 1), aux := BitVec.ofNat 4 o.toNat } true)
            (s.feltTarget a.toNat w w .atomic fun o => (o / 32 * 32, 128)))
    ∧ (∀ (c : BitVec 5) (cnt : BitVec 7) (t : BitVec 1) (r : BitVec 5),
        let ok := s.part.cells.1 ≤ c.toNat ∧ c.toNat < s.part.cells.1 + s.part.cells.2
        tries (.gcs g c cnt n) (.gcs c cnt a false word) ok ∧ tries (.gcsReam g c cnt n) (.gcs c cnt a true word) ok
        ∧ (s.core.mx.busy t = true → exec (.gcm g c t r) s = .next (s.hold .busyBit))
        ∧ (s.core.mx.busy t = false → tries (.gcm g c t r) (.gcm c t r word) ok))
    ∧ (∀ (o : BitVec 3) (b : BitVec 1), o.toNat ≤ 6 → (o = 6 ∨ k = 0) →
        let w := if b = 1 then 8 else 4
        let y := s.core.r.readA k
        let cap : BitVec 8 := bitsAt a 56 8
        let e := Tab.get 0 s.core.caps cap.toNat
        (∀ off, s.core.translate a.toNat = .pad off → tries (.atm g n m k o b 0) (.atmLocal o (b == 1) off x y) (a.toNat % w = 0))
        ∧ (∀ ent te pa, s.core.translate a.toNat = .phys ent te pa → quireOff pa = none → isHbm pa = true →
            a.toNat % w = 0 → s.blocked (.atmLocal o (b == 1) 0 0 0) = false →
            (within s.part.frames pa w = true → permits te .atomic = true → stateAllows te .atomic = true → Acts { s with core := s.core.pend (BitVec.ofNat 10 ent).toNat true } (exec (.atm g n m k o b 0) s) 7
              (.atmHbm o (b == 1) pa (BitVec.ofNat 10 ent) x y))
            ∧ (within s.part.frames pa w = false → ∃ i : FaultInfo, i.kind = .violation ∧ i.va = BitVec.ofNat 48 a.toNat
              ∧ Acts s (exec (.atm g n m k o b 0) s) 7 (.atmPoison (b == 1) pa i)))
        ∧ tries (.atm g n m k o b 1) (.atmRemote o (b == 1) cap (a.toNat % 2 ^ 20) x y)
            (a.toNat % 2 ^ 20 % w = 0 ∧ bitsAt a 20 36 = 0 ∧ a.toNat % 2 ^ 20 < Config.scratchBytes ∧ bitAt e 63 = true ∧ bitsAt e 60 3 = 0
              ∧ bitAt e 59 = true ∧ s.capOutside e = false ∧ s.namesCore e = true ∧ s.pairExists (BitVec.ofNat 7 (bitsAt e 22 6).toNat) s.core.pos = true)
        ∧ tries (.atm g n m k o b 1) (.atmOutside (b == 1) { accessFault .violation 7 .atomic 0 cap.toNat with word := word, vkind := 3 })
            (a.toNat % 2 ^ 20 % w = 0 ∧ bitsAt a 20 36 = 0 ∧ a.toNat % 2 ^ 20 < Config.scratchBytes ∧ s.capOutside e = true))
    ∧ tries (.abn g n m) (.abn a.toNat (bitsAt x 0 32)) (inPad 64)
    ∧ (∀ p : BitVec 2,
        let ok := bitAt (s.core.xp[p.toNat]).cfg 63 = true ∧ bitAt (s.core.xp[p.toNat]).cfg 62 = false
          ∧ bitsAt (s.core.xp[p.toNat]).cfg 40 11 = s.core.tix
        tries (.xwr g p v) (.xwr p (s.core.r.readV v) (BitVec.ofNat 64 s.region.smpc)) ok
        ∧ (s.blocked (.xwr p 0 0) = false → ¬ok → exec (.xwr g p v) s = .next (s.takePrecise (.plain .illegalOperation 7))))
    ∧ ∀ (va al span : Nat) (d : Doing) (packet : Nat → Nat × Nat) (k : BitVec 10) (off : Nat),
        s.feltTarget va al span d packet = .ok (k, off) ↔
        va % al = 0 ∧ ∃ ent te pa, s.core.translate va = .phys ent te pa ∧ k = BitVec.ofNat 10 ent ∧ quireOff pa = some off
          ∧ (packet off).1 + (packet off).2 ≤ Config.quireBytes
          ∧ permits te d = true ∧ stateAllows te d = true ∧ (∃ j, j < 64 ∧ s.ownsFelt j = true)
          ∧ ∃ r ∈ s.part.quireShare, r.1 ≤ off ∧ off + span ≤ r.1 + r.2

/-- An effect that is taken enters its queue (07 R130, R138, 09 R158, R166, R167, 10 R183, 17 R318, R319, 20 R366).  The time at which the
poison pattern of a remote atomic outside the partition returns is the model's choice (assumption 93). -/
def Obligations.EffectsEnterTheirQueues : Prop :=
  ∀ (s : State) (q : Nat),
    let c := s.core
    (∀ e : Eff, KeepsRegisters s (s.applyEff q e) ∧ KeepsMemory s (s.applyEff q e) ∧ KeepsEngines s (s.applyEff q e)
      ∧ (s.applyEff q e).core.land = c.land ∧ (s.applyEff q e).core.loads = c.loads)
    ∧ (∀ desc wm word half, (∃ k : Cmd, (s.applyEff q (.cpy desc wm word)).core.cmds = c.cmds ++ [k] ∧ k.ovl = false ∧ k.desc = desc
          ∧ k.wm = wm ∧ k.word = word ∧ k.start = c.cyc ∧ k.startWeb = s.web ∧ k.raw = none ∧ k.finish = none)
      ∧ ∃ k : Cmd, (s.applyEff q (.ovl desc word half)).core.cmds = c.cmds ++ [k] ∧ k.ovl = true ∧ k.desc = desc ∧ k.half = half
          ∧ k.word = word ∧ k.start = c.cyc ∧ k.raw = none ∧ k.finish = none)
    ∧ (∀ off tgt, ∃ w : EngWrite, (s.applyEff q (.wms off tgt)).core.engW = c.engW ++ [w] ∧ w.due = c.cyc + 1 ∧ w.place = .pad off ∧ w.wms = some tgt)
    ∧ (∀ (cap : BitVec 8) (line : Bool) (data : Line), ∃ new : List SendItem,
        (s.applyEff q (.send cap line data)).core.sendQ = c.sendQ ++ new ∧ new.length = (if line then 2 else 1)
        ∧ (∀ f ∈ new, f.cap = cap ∧ f.beat = none ∧ f.first = false ∧ f.fl.src = c.pos ∧ s.web + 2 ≤ f.ready
          ∧ f.fl.dst = if bitsAt (Tab.get 0 c.caps cap.toNat) 60 3 = 2 then 64 else BitVec.ofNat 7 (bitsAt (Tab.get 0 c.caps cap.toNat) 22 6).toNat)
        ∧ ∀ i, i < new.length → (new[i]?.map fun f => f.fl.data) = some (elem data 512 i))
    ∧ (∀ (pk : FeltPacket) (qat : Bool) (ent : BitVec 10), ∃ f : FeltItem,
        (s.applyEff q (.felt pk qat ent)).core.feltQ = c.feltQ ++ [f] ∧ f.pk = pk ∧ f.qat = qat ∧ f.seq = q
        ∧ s.web ≤ f.entry ∧ f.beat = none ∧ f.ent = some ent.toNat
        ∧ (s.applyEff q (.felt pk qat ent)).core.awaiting = c.awaiting ++ (if qat then [{ seq := q, src := .felt, due := none }] else []))
    ∧ (∀ (op : BitVec 3) (i64 : Bool) (off : Nat) (x y : Word),
        let n := if i64 then 8 else 4
        let ph := c.fencedPhase (granulesFrom off n)
        (s.applyEff q (.atmLocal op i64 off x y)).core.atoms = c.atoms ++ [(AtomAccess.mk q (ph.1 - 3) (.atmLocal op i64 off x y) (ph.1 + ph.2.1 - 1)
          (ph.1 + ph.2.1 + 9))])
    ∧ (∀ (off : Nat) (x : BitVec 32),
        let ph := c.fencedPhase (granulesFrom off 64)
        (s.applyEff q (.abn off x)).core.atoms = c.atoms ++ [(AtomAccess.mk q (ph.1 - 3) (.abn off x) (ph.1 + ph.2.1 - 1) 0)])
    ∧ (∀ (gs : List Nat),
        let ph := c.fencedPhase gs
        c.cyc + 4 ≤ ph.1 ∧ c.lastW < ph.1 ∧ c.lastE < ph.1 + ph.2.1 - 1 ∧ (∀ x ∈ gs, (c.ldFree[x % 32]?).getD 0 ≤ ph.1 ∧ (c.stFree[x % 32]?).getD 0 ≤ ph.1)
        ∧ ph.1 + ph.2.1 - 1 < ph.2.2.minB0 ∧ ph.1 + ph.2.1 - 1 < ph.2.2.minW)
    ∧ (∀ (op : BitVec 3) (i64 : Bool) (pa : Nat) (ent : BitVec 10) (x y : Word), ∃ h : SlotHold,
        (s.applyEff q (.atmHbm op i64 pa ent x y)).core.slotsHeld = c.slotsHeld ++ [h] ∧ h.channel = pa / Config.channelBytes ∧ h.write = true
        ∧ h.grp = none ∧ h.atm = some (.atmHbm op i64 pa ent x y) ∧ h.seq = q ∧ s.web + 8 ≤ h.start
        ∧ (let mine := fun (k : Nat) => s.ownsHbm h.channel true k
           ((∃ k, mine k = true) → ent ∉ s.dev.followExt → h.best = false ∧ h.start % Config.slotCycles = 0
              ∧ mine (h.start / Config.slotCycles) = true ∧ c.slotHeld h.channel h.start = false
              ∧ ∀ t, s.web + 8 ≤ t → t % Config.slotCycles = 0 → mine (t / Config.slotCycles) = true → c.slotHeld h.channel t = false → h.start ≤ t)
           ∧ ((∀ k, mine k = false) ∨ ent ∈ s.dev.followExt → h.best = true))
        ∧ (s.applyEff q (.atmHbm op i64 pa ent x y)).core.awaiting = c.awaiting ++ [{ seq := q, src := .hbm, due := none }])
    ∧ (∀ (op : BitVec 3) (i64 : Bool) (cap : BitVec 8) (off : Nat) (x y : Word), ∃ f : SendItem,
        (s.applyEff q (.atmRemote op i64 cap off x y)).core.sendQ = c.sendQ ++ [f] ∧ f.fl.body = .atm op i64 off x y ∧ f.cap = cap
        ∧ f.fl.dst = BitVec.ofNat 7 (bitsAt (Tab.get 0 c.caps cap.toNat) 22 6).toNat
        ∧ s.web + 2 ≤ f.ready
        ∧ (s.applyEff q (.atmRemote op i64 cap off x y)).core.awaiting = c.awaiting ++ [{ seq := q, src := .core f.fl.dst, due := none }])
    ∧ (∀ (i64 : Bool) (i : FaultInfo), let t := s.applyEff q (.atmOutside i64 i)
        t.core.sendQ = c.sendQ ∧ t.core.awaiting = c.awaiting ++ [{ seq := q, src := .hbm, due := none }]
        ∧ ∃ n, s.web + 8 ≤ n ∧ t.agenda = s.agenda ++ [(n, .remoteAtmReturn q (if i64 then 0x7FC000007FC00000 else 0x7FC00000))])
    ∧ (∀ (cell : BitVec 5) (n : BitVec 7) (dest : Word) (ream : Bool) (word : SlotWord), ∃ g : GwSet,
        (s.applyEff q (.gcs cell n dest ream word)).gw.sets = s.gw.sets ++ [g] ∧ g.due = c.cyc + 6 ∧ g.cell = cell ∧ g.n = n.toNat + 1
        ∧ g.dest = dest ∧ g.ream = ream)
    ∧ (∀ (cell : BitVec 5) (t : BitVec 1) (r : BitVec 5) (word : SlotWord), ∃ g : GwAdd,
        (s.applyEff q (.gcm cell t r word)).gw.adds = s.gw.adds ++ [g] ∧ g.due = c.cyc + 14 ∧ g.cell = cell ∧ g.con.own = true
        ∧ g.con.anchor = c.mx.anchor[t.toNat] ∧ g.con.els = (List.range 32).map fun j => ((c.mx.el t (32 * r.toNat + j)).v, (c.mx.el t (32 * r.toNat + j)).tag))
    ∧ ∀ (p : BitVec 2) (ln : Line) (stamp : BitVec 64),
        let t := s.applyEff q (.xwr p ln stamp)
        t.core.xp = c.xp.set p.toNat { c.xp[p.toNat] with
          written := (c.xp[p.toNat]).written + 1, enters := ((c.xp[p.toNat]).enters.filter fun t => decide (c.cyc < t)) ++ [c.cyc + 2] }
        ∧ (t.dev.sent = .line p ln stamp :: s.dev.sent ∧ t.core.xline = c.xline
          ∨ t.dev = s.dev ∧ ∃ r : BitVec 2, t.core.xline = c.xline ++ [(c.cyc + 2, r, ln, stamp)])

/-- ATM, ABN and BFOLD (17 R317 to R320, 04 R82, R83). -/
def Obligations.AtomicsAndBinSets : Prop :=
  (∀ (s : State) (a : AtomAccess) (op : BitVec 3) (i64 : Bool) (off : Nat) (x y : Word), a.eff = .atmLocal op i64 off x y →
    Memory.wf s.core.scratch = true →
    let n := if i64 then 8 else 4
    let w := 8 * n
    let old := s.core.padNat off n
    let t := s.atomAct a
    Memory.wf t.core.scratch = true ∧ (s.core.poison = [] → old = Memory.readNat s.core.scratch off n)
    ∧ (∀ b : Nat, Memory.byte t.core.scratch b = if off ≤ b ∧ b < off + n
        then BitVec.ofNat 8 (atomicNew op w old (x.toNat % 2 ^ w) (y.toNat % 2 ^ w) / 256 ^ (b - off)) else Memory.byte s.core.scratch b)
    ∧ KeepsRegisters s t ∧ t.core.wbuf = s.core.wbuf ∧ t.hbm = s.hbm ∧ t.quire = s.quire ∧ t.mirror = s.mirror
    ∧ ∃ l ∈ t.core.land, l.due = a.due ∧ l.latch = .lda ∧ l.file = none ∧ l.flg = 0 ∧ l.lval = BitVec.ofNat 1024 old
      ∧ (s.core.poison = [] → l.bad = none))
  ∧ (∀ (s : State) (a : AtomAccess) (off : Nat) (x : BitVec 32), a.eff = .abn off x → Memory.wf s.core.scratch = true →
    let old := s.core.padNat off 64
    let set : BitVec 512 := BitVec.ofNat 512 old
    let t := s.atomAct a
    Memory.wf t.core.scratch = true ∧ (s.core.poison = [] → old = Memory.readNat s.core.scratch off 64)
    ∧ (∀ b : Nat, Memory.byte t.core.scratch b = if off ≤ b ∧ b < off + 64 then elem (s.binAdd set x).1 8 (b - off)
        else Memory.byte s.core.scratch b)
    ∧ KeepsRegisters s t ∧ t.core.land = s.core.land ∧ t.core.wbuf = s.core.wbuf ∧ t.hbm = s.hbm ∧ t.quire = s.quire ∧ t.mirror = s.mirror
    ∧ (s.core.poison = [] → t.core.lateDue = s.core.lateDue))
  ∧ (∀ (s : State) (set : BitVec 512) (x : BitVec 32) (n : Bool) (m : Nat) (e : Int), fp32Of x = .num n m e →
    let r := (s.binAdd set x).1
    let w7 := (elem set 64 7 : BitVec 64)
    let w7' := (elem r 64 7 : BitVec 64)
    let anchor := (bitsAt w7 0 16 : BitVec 16).toInt
    let v := ratOf false m e
    let sum := fun (b : Nat) =>
      let part : Int := ⌊v * (2 : ℚ) ^ (32 * (b + 1) - anchor)⌋ % 2 ^ 32
      (elem set 64 b : BitVec 64).toInt + (if n then -part else part)
    let leaves := fun (b : Nat) => sum b < -(2 ^ 63) ∨ 2 ^ 63 ≤ sum b
    (∀ b, b < 7 → ¬leaves b → (elem r 64 b : BitVec 64).toInt = sum b)
    ∧ (bitAt w7' 20 = true ↔ bitAt w7 20 = true ∨ (2 : ℚ) ^ anchor ≤ v ∨ ∃ b, b < 7 ∧ leaves b)
    ∧ (bitAt w7' 16 = true ↔ bitAt w7 16 = true ∨ (⌊v * (2 : ℚ) ^ (224 - anchor)⌋ : ℚ) ≠ v * (2 : ℚ) ^ (224 - anchor)))
  ∧ (∀ (w old x y : Nat), (w = 32 ∨ w = 64) → old < 2 ^ w → x < 2 ^ w →
    let sg := fun (n : Nat) => (BitVec.ofNat w n).toInt
    atomicNew 0 w old x y = (old + x) % 2 ^ w ∧ atomicNew 3 w old x y = min old x ∧ atomicNew 4 w old x y = max old x
    ∧ atomicNew 5 w old x y = x ∧ atomicNew 6 w old x y = (if old = y then x else old)
    ∧ sg (atomicNew 1 w old x y) = min (sg old) (sg x) ∧ sg (atomicNew 2 w old x y) = max (sg old) (sg x))
  ∧ (∀ (s : State) (set : BitVec 512) (x : BitVec 32),
    let r := (s.binAdd set x).1
    let w7 := (elem set 64 7 : BitVec 64)
    let w7' := (elem r 64 7 : BitVec 64)
    let anchor := (bitsAt w7 0 16 : BitVec 16).toInt
    bitAt w7' 21 = true ∧ bitAt w7' 22 = (bitAt w7 22 || decide (x ≠ 0x80000000)) ∧ bitsAt w7' 0 16 = bitsAt w7 0 16
    ∧ bitsAt w7' 23 41 = bitsAt w7 23 41
    ∧ (isNan32 x = true → bitAt w7' 17 = true ∧ (∀ b, b < 7 → elem r 64 b = (elem set 64 b : BitVec 64)))
    ∧ (x = 0x7F800000 → bitAt w7' 18 = true ∧ ∀ b, b < 7 → elem r 64 b = (elem set 64 b : BitVec 64))
    ∧ (x = 0xFF800000 → bitAt w7' 19 = true ∧ ∀ b, b < 7 → elem r 64 b = (elem set 64 b : BitVec 64))
    ∧ ∀ (n : Bool) (m : Nat) (e : Int), fp32Of x = .num n m e → (∀ b, b < 7 → |(elem set 64 b : BitVec 64).toInt| < 2 ^ 62) →
        ratOf false m e < (2 : ℚ) ^ anchor →
        let units : Int := ⌊ratOf false m e * (2 : ℚ) ^ (224 - anchor)⌋
        binSum r = binSum set + (if n then -units else units)
        ∧ bitAt w7' 20 = bitAt w7 20 ∧ bitAt w7' 16 = (bitAt w7 16 || decide ((units : ℚ) ≠ ratOf false m e * (2 : ℚ) ^ (224 - anchor))))
  ∧ ∀ (g : BitVec 4) (n m : BitVec 5) (e : BitVec 2) (s : State), s.guardOn g = true →
    let a := (s.core.r.readA n).toNat
    let ph := s.core.fencedPhase (granulesFrom a 64)
    (a % 64 ≠ 0 → exec (.bfold g n m e) s = .next (s.takePrecise (accessFault .misalignment 7 .read 0 a)))
    ∧ (a % 64 = 0 → Config.scratchBytes ≤ a → exec (.bfold g n m e) s = .next (s.takePrecise (accessFault .outOfTable 7 .read 0 a)))
    ∧ (a % 64 = 0 → a < Config.scratchBytes → ∃ (t : State) (l : Load), exec (.bfold g n m e) s = .next t ∧ QueuesLoad s t l
      ∧ l.bytes = ((List.range 64).map fun i => (i, a + i)) ∧ l.form = .bfold e ∧ l.readAt + 4 = ph.1 ∧ l.land.due = ph.1 + ph.2.1 + 11
      ∧ l.land.file = (if m = 0 then none else some .a) ∧ l.land.dst = BitVec.ofNat 10 m.toNat ∧ l.land.latch = .lda)

/-- The fold of a BIN set (04 R84). -/
def Obligations.BinFoldTable : Prop :=
  ∀ (set : BitVec 512) (mode : Nat),
    let w7 := (elem set 64 7 : BitVec 64)
    let e := (bitsAt w7 0 16 : BitVec 16).toInt
    let bin := fun (b : Nat) => (elem set 64 b : BitVec 64).toInt
    let nan := bitAt w7 17
    let pinf := bitAt w7 18
    let ninf := bitAt w7 19
    let bov := bitAt w7 20
    let sum := bin 0 * 2 ^ 192 + bin 1 * 2 ^ 160 + bin 2 * 2 ^ 128 + bin 3 * 2 ^ 96 + bin 4 * 2 ^ 64 + bin 5 * 2 ^ 32 + bin 6
    (nan = true ∨ bov = true ∨ (pinf = true ∧ ninf = true) → binFold set mode = { v := 0x7FC00000, f := nvFlag })
    ∧ (nan = false → bov = false →
      (pinf = true → ninf = false → binFold set mode = { v := 0x7F800000, f := 0 })
      ∧ (pinf = false → ninf = true → binFold set mode = { v := 0xFF800000, f := 0 })
      ∧ (pinf = false → ninf = false →
        (sum = 0 → binFold set mode = { v := if bitAt w7 21 = true ∧ bitAt w7 22 = false then 0x80000000 else 0, f := 0 })
        ∧ (sum ≠ 0 → binFold set mode = fp32.roundNum mode (decide (sum < 0)) sum.natAbs (e - 224))))
    ∧ (∀ other : BitVec 512, (∀ b, b < 7 → elem other 64 b = (elem set 64 b : BitVec 64)) →
      (elem other 64 7 : BitVec 64) ||| 0x10000 = w7 ||| 0x10000 → binFold other mode = binFold set mode)
    ∧ ∀ (l : Landing) (rnd : BitVec 2), (LoadForm.bfold rnd).fill set.toNat l = { l with
        val := BitVec.ofNat 1024 (binFold set rnd.toNat).v, lval := BitVec.ofNat 1024 (binFold set rnd.toNat).v, flg := (binFold set rnd.toNat).f }

/-- XRD, XST and the arrival of a line (20 R365 to R371).  Which instant of the far end an XST knows of is free within the crossing bound
(assumption 7, DESIGN CHOICE), as is what the estimator measures (assumption 2). -/
def Obligations.CrossingPorts : Prop :=
  (∀ (g : BitVec 4) (n : BitVec 2) (s : State), s.guardOn g = true →
    let p := s.core.xp[n.toNat]
    let mine := bitAt p.cfg 63 = true ∧ bitsAt p.cfg 40 11 = s.core.tix
    let reader := bitAt p.cfg 62 = true
    let mode := (bitsAt p.cfg 60 2).toNat
    let taps := (bitsAt p.cfg 55 4).toNat + 1
    let dly := (bitsAt p.cfg 51 4).toNat
    let est := bitAt p.cfg 59 = true
    let at_ := if est then p.pos + p.est else p.j * (bitsAt p.cfg 16 15).toNat
    let unit := if est then 65536 else max 1 (bitsAt p.cfg 1 15).toNat
    let first : Int := (at_ / unit : Nat) - (dly : Int)
    let phase := 64 * (at_ % unit) / unit
    let still := s.region.st = .hold ∨ s.region.st = .frozen ∨ s.region.st = .relock
    (¬(mine ∧ reader) → exec (.xrd g n) s = .next (s.takePrecise (.plain .illegalOperation 7)))
    ∧ (mine → reader → ∃ (x : Line) (f : FFlags) (q : Port),
      exec (.xrd g n) s = .next (State.push { s with core := { s.core with xp := s.core.xp.set n.toNat q } }
        { due := s.core.cyc + 3, seq := 0, slot := 7, file := none, dst := 0, val := x, sel := BitVec.allOnes 1024, flg := f,
          latch := .lcx, lval := x, lsel := BitVec.allOnes 1024 })
      ∧ q.j = p.j + 1 ∧ q.cfg = p.cfg ∧ q.fifo = p.fifo ∧ q.hist = p.hist ∧ q.lost = p.lost
      ∧ (mode = 0 → ∀ y rest, p.fifo.drop p.popped = y :: rest →
          x = y ∧ f = 0 ∧ q.popped = p.popped + 1 ∧ q.lastTaken = y ∧ q.stale = false)
      ∧ (mode = 0 → p.fifo.drop p.popped = [] → x = p.lastTaken ∧ f = 0 ∧ q.popped = p.popped ∧ q.stale = true)
      ∧ (mode = 1 → ∀ k y rest, p.hist = (k, y) :: rest → x = y ∧ f = 0 ∧ q.lastStamp = some k ∧ q.stale = decide (p.lastStamp = some k))
      ∧ (mode = 1 → p.hist = [] → x = 0 ∧ q.stale = true)
      ∧ (mode = 2 → p.hist.Pairwise (fun l m => m.1.toNat < l.1.toNat) → ∃ (y : Nat → Line) (acc : Nat → Nat → Flagged),
        let w := fun (t : Nat) => Tab.get 0 p.xw (16 * phase + t)
        (∀ t, t < taps → let i := first + t
          ((i < 0 ∨ ∀ l ∈ p.hist, i < l.1.toNat) → y t = 0)
          ∧ (0 ≤ i → ∀ l ∈ p.hist, (l.1.toNat : Int) ≤ i → (∀ m ∈ p.hist, (m.1.toNat : Int) ≤ i → m.1.toNat ≤ l.1.toNat) → y t = l.2))
        ∧ (∀ k, acc k 0 = fmul32 0 (w 0) (lane (y 0) k)
          ∧ ∀ t, acc k (t + 1) = fma32 0 false false (w (t + 1)) (lane (y (t + 1)) k) (acc k t).lane)
        ∧ (∀ k, k < 32 → lane x k = (acc k (taps - 1)).lane)
        ∧ f = orFlags ((List.range 32).map fun k => orFlags ((List.range taps).map fun t => (acc k t).f))
        ∧ (q.stale = true ↔ ∃ t, t < taps ∧ 0 ≤ first + t ∧ ∀ l ∈ p.hist, (l.1.toNat : Int) < first + t)
        ∧ q.pos = if est then at_ else p.pos))
    ∧ ∀ (d : BitVec 3) (sel : BitVec 3),
      (¬mine ∨ 4 < sel.toNat → exec (.xst g n d sel) s = .next (s.takePrecise (.plain .illegalOperation 7)))
      ∧ (mine → sel.toNat ≤ 4 → ∃ (b : Bool) (s' : State), exec (.xst g n d sel) s = .next (s'.push (scalarResult s 7 1 (some .p) d.toNat (if b then 1 else 0) .none))
        ∧ KeepsRegisters s s' ∧ KeepsMemory s s' ∧ s'.core.land = s.core.land
        ∧ (reader → sel = 1 → b = p.stale ∧ s' = s) ∧ (reader → sel = 4 → b = p.lost ∧ s' = s)
        ∧ (reader → sel = 2 → b = (decide (mode = 0) && decide (16 ≤ (p.fifo.drop p.popped).length)) ∧ s' = s)
        ∧ (reader → sel = 0 → s' = s ∧ (mode = 0 → b = !(p.fifo.drop p.popped).isEmpty)
          ∧ (mode = 1 → (b = true ↔ ∃ k y rest, p.hist = (k, y) :: rest ∧ p.lastStamp ≠ some k))
          ∧ (mode = 2 → (b = true ↔ ∀ t, t < taps → first + t < 0 ∨ ∃ k ∈ p.stamps, (k.toNat : Int) = first + t)))
        ∧ (let partner := (bitsAt p.cfg 33 7).toNat
           let known := fun (P : PortFacts → Bool) => ∃ w, w ≤ s.web ∧ (s.inFabric = true → w = s.web)
             ∧ b = P (if partner = s.core.region then (p.facts.head?.map (·.2)).getD noFacts
               else ((p.facts.find? fun f => decide (f.1 ≤ w)).map (·.2)).getD noFacts)
           (reader → sel = 3 → (partner = s.core.region → (b = true ↔ still) ∧ s' = s) ∧ (partner ≠ s.core.region → known (·.stopped)))
           ∧ (¬reader → sel = 3 → (b = true ↔ still) ∧ s' = s)
           ∧ (¬reader → s.core.loopPort p.cfg = none → (sel = 0 → known (·.avail)) ∧ (sel = 1 → known (·.stale)) ∧ (sel = 4 → known (·.lost))
             ∧ (sel = 2 → known fun f => decide (mode = 0) && decide (16 ≤ p.written - f.taken)))
           ∧ ∀ k, ¬reader → s.core.loopPort p.cfg = some k →
             let r := s.core.xp[k.toNat]
             (sel = 1 → b = r.stale ∧ s' = s) ∧ (sel = 4 → b = r.lost ∧ s' = s) ∧ (sel = 0 → b = r.avail ∧ s' = s)
             ∧ (sel = 2 → b = (decide ((bitsAt r.cfg 60 2).toNat = 0)
                 && decide (16 ≤ (r.fifo.drop r.popped).length + (s.core.xline.filter fun l => l.2.1 == k).length)) ∧ s' = s))))
  ∧ (∀ (s : State) (n : BitVec 2),
    let p := s.core.xp[n.toNat]
    let put := fun (q : Port) => Host.Outcome.next { s with core := { s.core with xp := s.core.xp.set n.toNat q } }
    (∀ (x : Line) (k : BitVec 64),
      (bitAt p.cfg 63 = false ∨ bitAt p.cfg 62 = false → exec (.crossingLineArrival n (.line x k)) s = .fault .notDue)
      ∧ (bitAt p.cfg 63 = true → bitAt p.cfg 62 = true → s.core.xline = [] → exec (.crossingLineArrival n (.line x k)) s = put (p.receive x k))
      ∧ ∀ t, t ≤ s.core.cyc → bitAt p.cfg 63 = true → bitAt p.cfg 62 = true → s.core.xline = [(t, n, x, k)] →
        exec (.crossingLineArrival n (.line x k)) s = .next { s with core := { s.core with xp := s.core.xp.set n.toNat (p.receive x k), xline := [] } })
    ∧ (exec (.crossingLineArrival n .restart) s = if bitAt p.cfg 63 = true ∧ bitAt p.cfg 62 = true then put { p with window := 0 } else .fault .notDue)
    ∧ ∀ f : PortFacts, (bitAt p.cfg 63 = false ∨ (s.core.loopPort p.cfg).isSome = true → exec (.crossingLineArrival n (.facts f)) s = .fault .notDue)
      ∧ (bitAt p.cfg 63 = true → bitAt p.cfg 62 = true → s.core.loopPort p.cfg = none →
        exec (.crossingLineArrival n (.facts f)) s = put { p with facts := (s.web, f) :: p.facts.filter fun y => y.1 != s.web })
      ∧ (bitAt p.cfg 62 = false → p.written < f.taken → exec (.crossingLineArrival n (.facts f)) s = .fault .notDue))
  ∧ ∀ (p : Port) (x : Line) (k : BitVec 64),
    let mode := (bitsAt p.cfg 60 2).toNat
    let q := p.receive x k
    (mode = 0 → (p.fifo.drop p.popped).length < 16 → q = { p with fifo := p.fifo ++ [x] })
    ∧ (mode = 0 → 16 ≤ (p.fifo.drop p.popped).length → q = { p with lost := true })
    ∧ (mode = 1 → q = { p with hist := [(k, x)] })
    ∧ (mode = 2 → p.hist.Pairwise (fun l m => m.1.toNat < l.1.toNat) → p.hist.length ≤ 32 →
      q.hist.Pairwise (fun l m => m.1.toNat < l.1.toNat) ∧ q.hist.length ≤ 32 ∧ q.fifo = p.fifo
      ∧ ((k, x) ∈ q.hist ∨ (q.hist.length = 32 ∧ ∀ m ∈ q.hist, k.toNat < m.1.toNat)) ∧ k ∈ q.stamps ∧ (∀ y ∈ p.stamps, y ∈ q.stamps)
      ∧ (∀ l ∈ q.hist, l = (k, x) ∨ (l ∈ p.hist ∧ l.1 ≠ k))
      ∧ (∀ l ∈ p.hist, l.1 ≠ k → l ∈ q.hist ∨ ((∀ m ∈ q.hist, l.1.toNat < m.1.toNat) ∧ q.hist.length = 32))
      ∧ (q.lost = true ↔ p.lost = true ∨ (p.hist.length = 32 ∧ ∀ l ∈ p.hist, l.1 ≠ k)))

/-- Taken transfers, loop levels and the loop step (18 R324 to R330, 11 R202).  That BRK keeps every outer level, and
that a LOOPA with count 0 pushes nothing while its body must still fit, is the model's reading (assumption 35, DEDUCED). -/
def Obligations.ControlTransfers : Prop :=
  (∀ (g : BitVec 4) (s : State), s.guardOn g = true →
    let q := s.core.seq
    let i := q.index.toNat
    let bad := Host.Outcome.next (s.takePrecise (.plain .illegalOperation 0))
    let taken := fun (u : State) (t : Nat) (ls : List Level) =>
      Host.Outcome.next { u with core := { u.core with taken := some { half := q.half, index := t, loops := ls } } }
    let keep := fun (t : Nat) => q.loops.filter fun l => decide (l.start.toNat ≤ t ∧ t ≤ l.stop.toNat)
    let goes := fun (o : Out) (target : Int) (ls : Nat → List Level) =>
      (∀ t : Nat, target = t → t < 1024 → o = taken s t (ls t)) ∧ (target < 0 ∨ 1024 ≤ target → o = bad)
    let linked := s.push (scalarResult s 0 1 (some .a) 31 (BitVec.ofNat 64 (i + 1)) .none)
    let calls := fun (o : Out) (target : Int) => (q.loops ≠ [] → o = bad)
      ∧ (q.loops = [] → (∀ t : Nat, target = t → t < 1024 → o = taken linked t [])
        ∧ (target < 0 ∨ 1024 ≤ target → ∃ t, o = .next t ∧ t.core.fault.map (fun f => (f.kind, f.slot)) = some (.illegalOperation, 0)))
    let fits := fun (e : Nat) => e ≤ 1023 ∧ ∀ (l : Level) (t : List Level), q.loops = l :: t → e ≤ l.stop.toNat ∧ l.stop ≠ q.index
    let pushes := fun (o : Out) (l : BitVec 6) (rem : BitVec 32) (opn : Bool) =>
      (fits (i + l.toNat + 1) → q.loops.length < 6 → o = .next { s with core.seq.loops :=
        { start := q.index + 1, stop := BitVec.ofNat 10 (i + l.toNat + 1), rem := rem, idx := 0, opn := opn } :: q.loops })
      ∧ (¬fits (i + l.toNat + 1) ∨ 6 ≤ q.loops.length → o = bad)
    (∀ d : BitVec 14, goes (exec (.br g d) s) (i + d.toInt) keep ∧ calls (exec (.call g d) s) (i + d.toInt))
    ∧ (∀ (n : BitVec 5) (im : BitVec 9), goes (exec (.bri g n im) s) ((s.core.r.readA n).toInt + im.toInt) keep
        ∧ calls (exec (.calli g n im) s) ((s.core.r.readA n).toInt + im.toInt))
    ∧ goes (exec (.ret g) s) (s.core.r.readA 31).toInt (fun _ => [])
    ∧ (q.loops = [] → exec (.brk g) s = bad)
    ∧ (∀ (l : Level) (t : List Level), q.loops = l :: t → goes (exec (.brk g) s) (l.stop.toNat + 1) (fun _ => t))
    ∧ (∀ (c : BitVec 7) (l : BitVec 6), pushes (exec (.loop g c l) s) l (BitVec.ofNat 32 c.toNat) false)
    ∧ ∀ (n : BitVec 5) (l : BitVec 6),
      let x := (s.core.r.readA n).toNat
      (2 ^ 32 ≤ x → exec (.loopa g n l) s = bad ∧ exec (.loopn g n l) s = bad)
      ∧ (x < 2 ^ 32 → pushes (exec (.loopn g n l) s) l (BitVec.ofInt 32 ((x : Int) - 1)) (x == 0))
      ∧ (x < 2 ^ 32 → x ≠ 0 → pushes (exec (.loopa g n l) s) l (BitVec.ofNat 32 (x - 1)) false)
      ∧ (x = 0 → fits (i + l.toNat + 1) → goes (exec (.loopa g n l) s) (i + l.toNat + 2) keep)
      ∧ (x = 0 → ¬fits (i + l.toNat + 1) → exec (.loopa g n l) s = bad))
  ∧ (∀ g : BitVec 4, encode (.brk g) = some (BitVec.ofNat 32 (g.toNat * 2 ^ 20 + 9 * 2 ^ 14)) ∧ decodeSlot 0 (BitVec.ofNat 32 (g.toNat * 2 ^ 20 + 9 * 2 ^ 14)) = .ok (.brk g))
  ∧ encode (.brk 0) = some 0x00024000 ∧ encode (.brk 2) = some 0x00224000
  ∧ (∀ (h : Header) (heads : Vector (Option (BitVec 5)) 4) (s : State), h.pop = 0 → s.core.run = .running → s.core.stepOnce = false →
    (∀ t, s.core.taken = some t → ∃ u, endBundle h heads s = .next u ∧ u.core.seq = { half := t.half, index := BitVec.ofNat 10 t.index, loops := t.loops }
      ∧ u.core.dead = 1 ∧ u.core.taken = none ∧ u.core.lat = { lx0 := 0, lx1 := 0, ly0 := 0, ly1 := 0, la := 0, lb := 0, lda := 0, ldb := 0, lsp := 0, lmx := 0, lcx := 0 }
      ∧ u.core.r = s.core.r ∧ u.core.land = s.core.land ∧ u.core.newGroup = true ∧ u.enterGroup = { u with core := { u.core with lat := Latches.zero, newGroup := false } }
      ∧ ∀ v w : State, v.core.newGroup = true → w.core.newGroup = false → v.leaveGroup w = { w with core := { w.core with
          lat := v.core.lat, newGroup := decide (w.core.held ≠ .none) } })
    ∧ (s.core.taken = none → (∀ t, s.core.wait ≠ .bswap t) → ∃ u, endBundle h heads s = .next u ∧ u.core.seq = s.core.seq.advance
      ∧ u.core.dead = s.core.dead ∧ u.core.lat = s.core.lat ∧ u.core.r = s.core.r ∧ u.core.land = s.core.land ∧ u.enterGroup = u))
  ∧ (∀ s : State, s.core.run = .running → s.core.dead = 1 → issueStage s = .next { s with core := { s.core with dead := 0 } })
  ∧ ∀ (q : Seq) (l : Level) (t : List Level),
    (q.loops = [] ∨ (q.loops = l :: t ∧ l.stop ≠ q.index) → q.advance = { q with index := q.index + 1 })
    ∧ (q.loops = l :: t → l.stop = q.index → (l.opn = true ∨ l.rem ≠ 0) → q.advance = { q with
        index := l.start, loops := { l with rem := if l.opn then l.rem else l.rem - 1, idx := l.idx + 1 } :: t })
    ∧ (q.loops = l :: t → l.stop = q.index → l.opn = false → l.rem = 0 → q.advance = Seq.advance { q with loops := t })

/-- The waits and holds, and their ends (07 R139, 08 R151, R152, 17 R310, 19 R350, 20 R363).  The model's choices among its clauses: WMW goes
on whatever the permission of its entry (assumption 36, DEDUCED), a poisoned word is a late fault of slot 0 (95), and the end of a WSAMP
hold starts the watchdog's count again (97, DEDUCED). -/
def Obligations.WaitsAndTheirEnds : Prop :=
  (∀ (g : BitVec 4) (s : State), s.guardOn g = true →
    let c := s.core
    let await := fun (w : Wait) => Host.Outcome.next { s with core := { c with wait := w } }
    (∀ b n, exec (.waitc g b n) s = await (.waitc (b == 1) n))
    ∧ (∀ p, exec (.ifence g p) s = .next { s with core := { c with wait := .ifence p, undo := c.undo + (if p = 0 then 0 else 1) } })
    ∧ (s.region.smpc = c.lw.toNat → exec (.wsamp g) s = .next { s with core := { c with wait := .wsamp, lw := BitVec.ofNat 64 (s.region.smpc + 1) } })
    ∧ (s.region.smpc ≠ c.lw.toNat → exec (.wsamp g) s = .next { s with
        core := { c with lw := BitVec.ofNat 64 s.region.smpc }, region := s.region.count s.moment 0 0 0 (s.region.smpc - c.lw.toNat) })
    ∧ (∀ im, (c.seq.loops ≠ [] → exec (.bswap g im) s = .next (s.takePrecise (.plain .illegalOperation 0)))
      ∧ (c.seq.loops = [] → exec (.bswap g im) s = await (.bswap im)))
    ∧ ∀ (n : BitVec 5) (e : BitVec 9),
      let va := (c.r.readA n).toNat
      (va % 16 ≠ 0 → exec (.wmw g n e) s = .next (s.takePrecise (accessFault .misalignment 0 .read 0 va)))
      ∧ (va % 16 = 0 → c.wordPlace va = none → exec (.wmw g n e) s = .next (s.takePrecise (accessFault .outOfTable 0 .read 0 va)))
      ∧ ∀ quire off, va % 16 = 0 → c.wordPlace va = some (quire, off) →
        let gen := Memory.readNat (if quire then s.mirror else c.scratch) (off + 8) 4 % 512
        let reached := (gen + 512 - e.toNat) % 512 < 256
        let reloads := quire = true ∧ s.reloads = true
        (reloads → exec (.wmw g n e) s = .next { s with core := { c with
            wait := .wmw quire off e none, slip := BitVec.ofNat 32 (min (c.slip.toNat + 1) 0xFFFFFFFF) } })
        ∧ (¬reloads → reached → off / 32 + (if quire then 2 ^ 20 else 0) ∉ c.poison → exec (.wmw g n e) s = .next s)
        ∧ (¬reloads → ¬reached ∨ off / 32 + (if quire then 2 ^ 20 else 0) ∈ c.poison → exec (.wmw g n e) s = await (.wmw quire off e none)))
  ∧ (∀ (r : Region) (web k : Nat), (r.count web 0 0 0 k).ovr = BitVec.ofNat 16 (min (r.ovr.toNat + k) 0xFFFF)
    ∧ (r.count web 0 0 0 k).phev = r.phev ∧ (r.count web 0 0 0 k).miss = r.miss ∧ (r.count web 0 0 0 k).drop = r.drop)
  ∧ (∀ s : State,
    let c := s.core
    let go := Host.Outcome.next { s with core := { c with wait := .none } }
    (∀ q off e n, c.wait = .wmw q off e (some n) → (n + 3 ≤ c.cyc → (q = true → s.reloads = false) → exec .wmwResume s = go)
      ∧ (c.cyc < n + 3 → exec .wmwResume s = .fault .notDue))
    ∧ (∀ b n, c.wait = .waitc b n → ((if b then c.scnt else c.lcnt) ≤ n.toNat → exec .waitcResume s = go)
      ∧ (n.toNat < (if b then c.scnt else c.lcnt) → exec .waitcResume s = .fault .notDue))
    ∧ (c.wait = .wsamp → (c.lw.toNat ≤ s.region.smpc → exec .wsampResume s
          = .next { s with core := { c with wait := .none, psCount := 0 } })
      ∧ (s.region.smpc < c.lw.toNat → exec .wsampResume s = .fault .notDue))
    ∧ (∀ p, c.wait = .ifence p → c.overlaysDone c.cyc = false → exec .ifenceResume s = .fault .notDue)
    ∧ (∀ p, c.wait = .fenced p → exec .ifenceResume s = .next (if c.overlaysDone (c.cyc - 1) = true
        then { s with core := { c with wait := .none, ovs := { c.ovs with fs := false } } } else { s with core := { c with wait := .ifence p } }))
    ∧ (∀ p, c.wait = .ifence p → c.overlaysDone c.cyc = true → ∃ t, exec .ifenceResume s = .next t
      ∧ (c.overlaysDone (c.cyc - 1) = true → t.core.wait = .none ∧ t.core.ovs = { c.ovs with fs := false })
      ∧ (c.overlaysDone (c.cyc - 1) = false → t.core.wait = .fenced p ∧ t.core.ovs = c.ovs)
      ∧ t.core.seq = c.seq ∧ t.core.lat = c.lat ∧ t.core.r = c.r
      ∧ (p = 0 → t.core.land = c.land)
      ∧ (p ≠ 0 → ∃ l : Landing, t.core.land = insertBy Landing.le l c.land ∧ l.due = c.cyc ∧ l.file = some .p ∧ l.dst = BitVec.ofNat 10 p.toNat
        ∧ l.latch = .none ∧ l.sel = BitVec.allOnes 1024 ∧ l.flg = 0 ∧ l.val = if c.ovs.st = 2 ∧ c.ovs.fs = false then 1 else 0))
    ∧ (∀ im, c.wait = .bswap im → c.overlaysDone c.cyc = true → ∃ t, exec .ifenceResume s = .next t ∧ t.core.wait = .none ∧ t.core.dead = 1
      ∧ t.core.seq = { half := ~~~c.seq.half, index := im, loops := [] } ∧ t.core.lat = Latches.zero ∧ t.core.r = c.r)
    ∧ (∀ t : Nat, c.overlaysDone t = true ↔ (∀ k ∈ c.cmds, k.ovl = false) ∧ c.ovlEnd ≤ t)
    ∧ (∀ ev h, (ev, h) ∈ [(Instr.queueHeadResume, Held.queueHead), (.busyBitResume, .busyBit), (.queueCapResume, .queueCap),
        (.queueCapResume, .mirrorReload), (.bankExtensionResume, .bankExtension)] → c.held = h →
        exec ev s = .next { s with core := { c with held := .none } })
    ∧ (∀ e t, c.gate = e :: t → e.committed = true → c.room e.eff = true →
        exec .gateEntryRelease s = .next (State.applyEff { s with core := { c with gate := t } } e.seq e.eff))
    ∧ (c.run = .running → c.dead = 0 → c.r.preb = 0 →
      (c.wait = .wsamp → s.region.smpc < c.lw.toNat → issueStage s = .next s)
      ∧ (∀ b n, c.wait = .waitc b n → issueStage s = .next s)
      ∧ (∀ q off e n, c.wait = .wmw q off e n → off / 32 + (if q then 2 ^ 20 else 0) ∈ c.poison → issueStage s = .next { s with
          core := { c with lateDue := c.lateDue ++ [(c.cyc, { accessFault .uncorrectableData 7 .read 0 off with slot := 0, word := c.slotWord 0 })] } })
      ∧ ∀ p, (c.wait = .ifence p → c.overlaysDone c.cyc = false → issueStage s = .next s)
        ∧ (c.wait = .fenced p → c.overlaysDone (c.cyc - 1) = false → issueStage s = .next s)))

/-- PLOG, PSET, NXT, SNAP, TRAP, SYSC and HALT (18 R331, R335 to R337, 19 R349, 21 R390).  That the runtime resumes a core after a TRAP when
TRES of its launch entry is 1 is the model's reading of R336 (assumption 33, DEDUCED). -/
def Obligations.PredicatesTilesAndStops : Prop :=
  (∀ (g : BitVec 4) (s : State), s.guardOn g = true →
    let c := s.core
    let pred := fun (n : Nat) (d : BitVec 3) (b : Bool) => scalarResult s 0 n (some .p) d.toNat (if b then 1 else 0) .none
    (∀ (d o : BitVec 3) (a b : BitVec 4), (2 < o.toNat → exec (.plog g d o a b) s = .next (s.takePrecise (.plain .illegalOperation 0)))
      ∧ (o = 0 → exec (.plog g d o a b) s = .next (s.push (pred 1 d (s.guardOn a && s.guardOn b))))
      ∧ (o = 1 → exec (.plog g d o a b) s = .next (s.push (pred 1 d (s.guardOn a || s.guardOn b))))
      ∧ (o = 2 → exec (.plog g d o a b) s = .next (s.push (pred 1 d (s.guardOn a != s.guardOn b)))))
    ∧ (∀ (d : BitVec 3) (v : BitVec 1), exec (.pset g d v) s = .next (s.push (pred 1 d (v == 1))))
    ∧ (∀ d : BitVec 3,
      let more := decide (c.walk < c.walkEnd)
      ∃ (l : Landing) (t : State), exec (.nxt g d) s = .next t ∧ t = { (s.push l).push (pred 24 d more) with
          core.tctr := c.tctr + 1, core.walk := c.walk + (if more then 1 else 0) }
        ∧ l.due = c.cyc + 24 ∧ l.file = some .tc ∧ l.dst = BitVec.ofNat 10 (16 + c.tctr.toNat) ∧ l.latch = .none ∧ l.flg = 0
        ∧ (more = false → l.val = 0)
        ∧ (more = true → bitAt l.val 96 = true ∧ ∀ k, k < 6 → elem l.val 16 k
            = BitVec.ofNat 16 (tileDigits c.loopTab (levelsOf c.loopTab 0 ++ levelsOf c.loopTab 1 ++ levelsOf c.loopTab 2) c.walk k)))
    ∧ (c.r.esnap = false → exec (.snap g) s = .next s)
    ∧ (c.r.esnap = true → c.snapTrg = true → exec (.snap g) s = .next s)
    ∧ (c.r.esnap = true → c.snapTrg = false → exec (.snap g) s = .next { s with
        core := { c with snapTrg := true, snapSrc := 0, trgAt := s.moment + 1 }, dev := { s.dev with snapAt := s.dev.snapAt ++ [s.web + 24] } })
    ∧ (∀ (n : BitVec 5) (code : BitVec 9),
      let stop := fun (sysc : Bool) => Host.Outcome.next { s with
        core := { c with run := .trapped, trapRec := some { sysc := sysc, code := code, arg := c.r.readA n, half := c.seq.half, index := c.seq.index } } }
      exec (.trap g n code) s = stop false ∧ exec (.sysc g n code) s = stop true)
    ∧ exec (.halt g) s = .next { s.commitGate with core.run := .halted }
    ∧ (c.gate = [] → let t := s.commitGate
      KeepsRegisters s t ∧ KeepsMemory s t ∧ KeepsEngines s t ∧ t.core.land = c.land ∧ t.core.stores = c.stores)
    ∧ (∀ (e : GateEntry) (rest : List GateEntry), c.gate = e :: rest → c.room e.eff = true →
      s.commitGate = (State.applyEff { s with core := { c with gate := rest.map fun x => { x with committed := true } } } e.seq e.eff).commitGate)
    ∧ (∀ (e : GateEntry) (rest : List GateEntry), c.gate = e :: rest → c.room e.eff = false →
      s.commitGate.core.gate = c.gate.map fun x => { x with committed := true, waited := true })
    ∧ (c.run ≠ .trapped → s.reportTrap = s)
    ∧ ∀ r : TrapRecord, c.run = .trapped → c.trapRec = some r →
      let r' : TrapRecord := { r with half := c.seq.half, index := c.seq.index }
      let told : State := { s with core := { c with trapRec := some r' }, dev := { s.dev with sent := .trap r' :: s.dev.sent } }
      (r.sysc = true ∨ c.tres = true → s.reportTrap = told)
      ∧ (r.sysc = false → c.tres = false → s.reportTrap = State.abortKernel { told with part := { s.part with tcode := r.code } } 2
        ∧ s.reportTrap.part.cause = 2 ∧ s.reportTrap.part.tcode = r.code ∧ s.reportTrap.part.resident = none
        ∧ s.reportTrap.core.run = .aborted ∧ KeepsRegisters s s.reportTrap ∧ KeepsMemory s s.reportTrap))
  ∧ (∀ (tab : Vector (BitVec 32) 6) (k : Nat), (levelsOf tab k).Pairwise (· < ·)
    ∧ ∀ l, l ∈ levelsOf tab k ↔ l < 6 ∧ (tab[l]?.getD 0).toNat / 2 ^ 30 = k)
  ∧ (∀ (s : State) (e : BitVec 3) (code : Nat × Nat × Nat) (pl : List (Nat × Nat)) (hs : List Home),
    let t := s.launchCore e.toNat code pl hs
    let i := s.core.tix.toNat
    let p := s.part.coresOf e.toNat + 1
    let tiles := (t.loopTab.toList.map fun w => w.toNat % 2 ^ 16).prod
    t.tctr = 0 ∧ (i < p → t.walk = i * tiles / p ∧ t.walkEnd = (i + 1) * tiles / p) ∧ (p ≤ i → t.walkEnd = t.walk ∧ t.run = .halted))
  ∧ ∀ (tab : Vector (BitVec 32) 6) (ls : List Nat) (n : Nat), ls.Nodup → (∀ l ∈ ls, l < 6 ∧ 0 < (tab[l]?.getD 0).toNat % 2 ^ 16) →
    let count := fun (l : Nat) => (tab[l]?.getD 0).toNat % 2 ^ 16
    (∀ l ∈ ls, tileDigits tab ls n l < count l)
    ∧ ∃ laps : Nat, n = ((List.range ls.length).map fun i => tileDigits tab ls n (nth 0 ls i) * ((ls.take i).map count).prod).sum + laps * (ls.map count).prod

/-- SRD and SWR (18 R338, 11 R200, 20 R364, 21 R383).  What a read of ovrc leaves of the present moment's counts is the model's reading of 00
R10 (assumption 89, DEDUCED). -/
def Obligations.SpecialRegisters : Prop :=
  (∀ (g : BitVec 4) (n : BitVec 9) (a : BitVec 5) (s : State), s.guardOn g = true →
    let c := s.core
    let barred := 0x100 ≤ n.toNat ∧ n.toNat < 0x140 ∧ c.priv = false
    let sends := fun (u : State) (x : Nat) => exec (.srd g n a) s = .next (u.push (scalarResult u 0 1 (some .a) a.toNat (BitVec.ofNat 64 x) .none))
    let viol := fun (acc : BitVec 2) => Host.Outcome.next (s.takePrecise { FaultInfo.plain .violation 0 with
      acc := acc, va := BitVec.ofNat 48 n.toNat, vkind := 2 })
    (readable n = false → exec (.srd g n a) s = .next (s.takePrecise (.plain .illegalOperation 0)))
    ∧ (writable n = false → exec (.swr g n a) s = .next (s.takePrecise (.plain .illegalOperation 0)))
    ∧ (readable n = true → barred → exec (.srd g n a) s = viol 0) ∧ (writable n = true → barred → exec (.swr g n a) s = viol 1)
    ∧ (readable n = true → ¬barred →
      (n ≠ 0x082 → n ≠ 0x083 → sends s (s.special n.toNat))
      ∧ (n = 0x082 → s.inFabric = true → sends s (s.wheelAt s.web))
      ∧ (n = 0x082 → ∃ (u : State) (x : Nat), sends u x ∧ u.core = c)
      ∧ (n = 0x083 → ∃ (u : State) (x : Nat), sends u x ∧ u.core = c ∧ u.region = s.region.uncount s.moment)
      ∧ (n = 0x083 → s.hasMates = false → s.region.newAt ≠ s.moment + 1 →
        sends { s with region := { s.region with phev := 0, miss := 0, drop := 0, ovr := 0 } } (s.special 0x083)))
    ∧ (writable n = true → ¬barred → (n = 0x083 → exec (.swr g n a) s = .next s)
      ∧ (n ≠ 0x083 → exec (.swr g n a) s = .next (s.push (scalarResult s 0 1 (some .special) n.toNat (c.r.readA a) .none)))))
  ∧ (∀ s : State,
    let c := s.core
    s.special 0x000 = c.cyc ∧ s.special 0x001 = c.tix.toNat ∧ s.special 0x002 = c.sheet.toNat ∧ s.special 0x003 = c.slipSeen.toNat
    ∧ s.special 0x004 = c.lcnt ∧ s.special 0x005 = c.scnt ∧ s.special 0x040 = c.r.fmode.toNat ∧ s.special 0x041 = c.fstat.toNat
    ∧ s.special 0x080 = s.region.smpc ∧ s.special 0x100 = c.r.preb.toNat
    ∧ s.special 0x083 = s.region.phev.toNat * 2 ^ 48 + s.region.miss.toNat * 2 ^ 32 + s.region.drop.toNat * 2 ^ 16 + s.region.ovr.toNat
    ∧ s.special 0x081 = s.region.bud * 2 ^ 32 + s.region.cis
    ∧ s.special 0x010 = c.ovs.nb.toNat * 2 ^ 16 + c.ovs.cause.toNat * 2 ^ 4 + (if c.ovs.fs then 8 else 0) + c.ovs.st.toNat
    ∧ s.special 0x0C0 = c.snapSeq.toNat * 2 ^ 32 + (if c.snapTrg then 2 ^ 7 else 0) + c.snapSrc.toNat * 2 ^ 4
        + (if c.r.eflt then 4 else 0) + (if c.r.esnap then 2 else 0)
    ∧ (∀ i : Fin 4, s.special (0x021 + 2 * i.val) = (if (c.r.tc[i]).v then 2 ^ 32 else 0)
        + ((c.r.tc[i]).t[5]?.getD 0).toNat * 2 ^ 16 + ((c.r.tc[i]).t[4]?.getD 0).toNat)
    ∧ (∀ i : Fin 32, s.special (0x120 + i.val) = (c.r.qcap[i]).toNat * 2 ^ 16 + (c.r.qmin[i]).toNat)
    ∧ (∀ i : Fin 8, s.special (0x0C1 + i.val) = (c.vlog[i]).toNat)
    ∧ (∀ i : Fin 4, s.special (0x020 + 2 * i.val) = elemsNat 16 (fun k => ((c.r.tc[i]).t[k]?.getD 0).toNat) 4))
  ∧ (∀ n : BitVec 9,
    (readable n = true ↔ n.toNat ≤ 5 ∨ n = 0x010 ∨ (0x020 ≤ n.toNat ∧ n.toNat ≤ 0x027) ∨ n = 0x040 ∨ n = 0x041
      ∨ (0x080 ≤ n.toNat ∧ n.toNat ≤ 0x083) ∨ (0x0C0 ≤ n.toNat ∧ n.toNat ≤ 0x0C8) ∨ n = 0x100 ∨ (0x120 ≤ n.toNat ∧ n.toNat ≤ 0x13F))
    ∧ (writable n = true ↔ n = 0x040 ∨ n = 0x041 ∨ n = 0x083 ∨ n = 0x0C0 ∨ n = 0x100 ∨ (0x120 ≤ n.toNat ∧ n.toNat ≤ 0x13F)))
  ∧ ∀ (c0 : Core) (l : Landing), l.file = some .special → l.flg = 0 → l.bad = none → l.latch = .none →
    let new := if c0.flagAt = c0.cyc + 1 then c0.flagNew else 0
    let c : Core := { c0 with flagAt := c0.cyc + 1, flagNew := new }
    let lands := fun (d : Core) => c0.landOne l = d
    (l.dst = 0x040 → lands { c with r := { c.r with fmode := bitsAt l.val 0 2 } })
    ∧ (l.dst = 0x041 → lands { c with fstat := c.fstat &&& ~~~(bitsAt l.val 0 9 &&& ~~~new) })
    ∧ (l.dst = 0x100 → lands { c with r := { c.r with preb := bitsAt l.val 0 32 } })
    ∧ (l.dst = 0x0C0 → lands { c with r := { c.r with eflt := bitAt l.val 2, esnap := bitAt l.val 1 }, snapTrg := c.snapTrg && !bitAt l.val 7 })
    ∧ ∀ i : Fin 32, l.dst = BitVec.ofNat 10 (0x120 + i.val) → lands { c with r := { c.r with
        qcap := c.r.qcap.set i.val (bitsAt l.val 16 10), qmin := c.r.qmin.set i.val (bitsAt l.val 0 10) } }

/-- Taking a precise fault, and the resumption (21 R375, R376, R381, R386, 19 R345).  The model's choices among its clauses: the watchdog's slot
0 (assumption 34, DEDUCED), what an abort keeps of the landings and of the committed entries of the gate buffer (44, DEDUCED), and that an
entry submitted in the same web cycle is PEND (89, DEDUCED). -/
def Obligations.PreciseFaults : Prop :=
  (∀ (s : State) (i : FaultInfo),
    let t := s.takePrecise i
    let c := s.core
    KeepsRegisters s t ∧ KeepsMemory s t ∧ KeepsEngines s t ∧ t.core.seq = c.seq ∧ t.core.land = c.land ∧ t.core.loads = c.loads
    ∧ t.core.stores = c.stores ∧ t.core.late = false ∧ t.core.stopAt = some c.cyc
    ∧ t.core.fault = some { i with word := c.slotWord i.slot }
    ∧ t.core.frec = #v[BitVec.ofNat 64 ((c.slotWord i.slot).toNat * 2 ^ 32 + i.slot * 2 ^ 8 + i.kind.code),
        BitVec.ofNat 64 (c.seq.half.toNat * 2 ^ 10 + c.seq.index.toNat),
        BitVec.ofNat 64 (i.acc.toNat * 2 ^ 58 + i.entry.toNat * 2 ^ 48 + i.va.toNat), BitVec.ofNat 64 c.cyc]
    ∧ t.dev.sent = .fault t.core.frec.toList :: s.dev.sent
    ∧ (i.kind ≠ .violation → t.core.vlog = c.vlog ∧ t.dev.vlogB = s.dev.vlogB ∧ t.dev.vlogN = s.dev.vlogN)
    ∧ (i.kind = .violation →
      let e : Word := BitVec.ofNat 64 (2 ^ 63 + i.vkind.toNat * 2 ^ 60 + (4 * (c.tix.toNat / 8 % 4) + c.tix.toNat % 4) * 2 ^ 56 + i.va.toNat)
      t.core.vlog[0] = e ∧ (∀ k : Fin 7, t.core.vlog[k.val + 1] = c.vlog[k.val])
      ∧ t.dev.vlogB = ((e, s.part.number) :: s.dev.vlogB).take 256 ∧ t.dev.vlogN = s.dev.vlogN + 1)
    ∧ (c.r.eflt = true → c.snapTrg = false → t.core.snapTrg = true ∧ t.core.snapSrc = 1 ∧ t.dev.snapAt = s.dev.snapAt ++ [s.web + 24])
    ∧ (i.resumes = true → t.core.run = .faulted ∧ t.part = s.part ∧ t.core.gate = c.gate)
    ∧ (i.resumes = false → t.core.run = .aborted ∧ t.core.gate = c.gate.filter (·.committed) ∧ t.part.cause = 3 ∧ t.part.resident = none
      ∧ (s.part.resident = none → t.part.st = s.part.st)
      ∧ ∀ e, s.part.resident = some e → t.part.st = s.part.st.setIfInBounds e.toNat (if (s.part.subAt[e.toNat]?).getD 0 = s.web + 1 then 1 else 4)))
  ∧ (∀ s : State, (s.core.r.preb ≠ 0 → s.core.r.preb.toNat ≤ s.core.psCount → exec .watchdog s = .next (s.takePrecise (.plain .watchdog 0)))
    ∧ (s.core.r.preb = 0 ∨ s.core.psCount < s.core.r.preb.toNat → exec .watchdog s = .fault .notDue))
  ∧ (∀ (s : State) (f : FaultInfo), s.core.run = .faulted → s.core.fault = some f → f.resumes = true → s.core.late = false →
    ∃ t : State, exec (.resume []) s = .next t ∧ t.core.run = .running ∧ t.core.fault = none ∧ t.core.stopAt = none ∧ t.core.dead = s.core.stopAt.getD s.core.cyc - s.core.cyc
      ∧ t.core.lat = Latches.zero ∧ t.core.r = s.core.r ∧ t.core.seq = s.core.seq ∧ t.core.fstat = s.core.fstat ∧ t.core.cyc = s.core.cyc
      ∧ KeepsMemory s t ∧ t.core.slipOnIssue = true
      ∧ ∀ n, s.core.stopAt = some n → n ≤ s.core.cyc → t.core.land = s.core.land.map fun l =>
          { l with due := if n < l.due then l.due + (s.core.cyc - n) else l.due })
  ∧ (∀ (s : State) (r : TrapRecord), s.core.run = .trapped → s.core.trapRec = some r → s.core.stopAt = none → s.core.fault = none →
    (∃ t : State, exec (.resume []) s = .next t ∧ t.core.run = (if s.core.stepOnce then .debugHalted else .running) ∧ t.core.dead = 0
      ∧ t.core.lat = Latches.zero ∧ t.core.r = s.core.r ∧ t.core.seq = s.core.seq ∧ t.core.fstat = s.core.fstat ∧ t.core.cyc = s.core.cyc
      ∧ t.core.land = s.core.land ∧ t.core.stores = s.core.stores ∧ t.core.gate = s.core.gate ∧ KeepsMemory s t ∧ t.core.slipOnIssue = true
      ∧ t.core.psCount = 0)
    ∧ (r.sysc = false → ∀ wr, wr ≠ [] → exec (.resume wr) s = .fault .notDue)
    ∧ (r.sysc = true → ∀ (x : RegFile × BitVec 10 × BitVec 1024) (rest : List (RegFile × BitVec 10 × BitVec 1024)),
        exec (.resume (x :: rest)) s = exec (.resume rest) (s.setRegister x.1 x.2.1 x.2.2)))
  ∧ (∀ (s : State) (v : BitVec 1024),
    let c := s.core
    let set := fun (r : Regs) => { s with core := { c with r := r, flagAt := c.cyc + 1, flagNew := if c.flagAt = c.cyc + 1 then c.flagNew else 0 } }
    s.setRegister .a 0 v = s
    ∧ (∀ n : Fin 32, n ≠ 0 → s.setRegister .a (BitVec.ofNat 10 n.val) v = set { c.r with a := c.r.a.set n.val (bitsAt v 0 64) })
    ∧ ∀ n : Fin 16, s.setRegister .v (BitVec.ofNat 10 n.val) v = set { c.r with v := c.r.v.set n.val v })
  ∧ ∀ s : State, s.core.run = .running ∨ s.core.run = .halted ∨ s.core.run = .idle ∨ s.core.run = .aborted → exec (.resume []) s = .fault .notDue

/-- The restart mark and the rollback to it (21 R378 to R380). -/
def Obligations.RestartAndRollback : Prop :=
  (∀ s : State, (s.core.mx.inFlight = true → exec .restartMark s = .next (s.hold .busyBit))
    ∧ (s.core.mx.inFlight = false → exec .restartMark s = .next s.commitGate)
    ∧ (s.core.gate = [] →
      let t := s.commitGate
      let c := s.core
      KeepsRegisters s t ∧ KeepsMemory s t ∧ KeepsEngines s t ∧ t.core.land = c.land ∧ t.core.stores = c.stores ∧ t.core.gate = []
      ∧ (∀ i : Fin 32, t.core.rq[i] = { c.rq[i] with msgs := (c.rq[i]).msgs.drop (c.rq[i]).popped, popped := 0 })
      ∧ (let m := t.core.mark
         t.core.undo = (c.land.filter fun l => l.file.isSome).length + (c.loads.filter fun l => !l.done && l.land.file.isSome).length
          ∧ m.inForce = true ∧ m.cyc = c.cyc ∧ m.regs = c.r ∧ m.seq = c.seq ∧ m.fstat = c.fstat ∧ m.tctr = c.tctr ∧ m.walk = c.walk ∧ m.lw = c.lw
          ∧ m.heads = c.heads ∧ m.known = c.known ∧ m.snap = c.land))
    ∧ ∀ (e : GateEntry) (rest : List GateEntry), s.core.gate = e :: rest →
      (s.core.room e.eff = true → s.commitGate
        = (State.applyEff { s with core := { s.core with gate := rest.map fun x => { x with committed := true } } } e.seq e.eff).commitGate)
      ∧ (s.core.room e.eff = false → s.commitGate.core.gate = s.core.gate.map (fun x => { x with committed := true, waited := true })
        ∧ s.commitGate.core.slip.toNat = min (s.core.slip.toNat + (s.core.gate.filter fun x => !x.waited).length) 0xFFFFFFFF))
  ∧ (∀ (s : State) (i : FaultInfo), s.core.mark.inForce = true →
    let t := s.takeLate i
    let m := s.core.mark
    t.core.r = m.regs ∧ t.core.seq = m.seq ∧ t.core.fstat = m.fstat ∧ t.core.tctr = m.tctr ∧ t.core.walk = m.walk ∧ t.core.lw = m.lw
    ∧ t.core.heads = m.heads ∧ t.core.known = m.known ∧ KeepsMemory s t ∧ t.core.stores = s.core.stores ∧ t.core.land = [] ∧ t.core.mx.blocks = [] ∧ t.core.mx.writes = []
    ∧ t.core.sp.passes = [] ∧ t.core.sp.writes = [] ∧ t.core.mx.tile = s.core.mx.tile ∧ t.core.sp.bank = s.core.sp.bank
    ∧ t.core.gate = s.core.gate.filter (·.committed) ∧ t.core.late = true ∧ t.core.stopAt = some s.core.cyc
    ∧ t.core.fault = some i ∧ t.core.frec = #v[BitVec.ofNat 64 (i.word.toNat * 2 ^ 32 + 2 ^ 11 + i.slot * 2 ^ 8 + i.kind.code),
        BitVec.ofNat 64 (m.seq.half.toNat * 2 ^ 10 + m.seq.index.toNat),
        BitVec.ofNat 64 (i.acc.toNat * 2 ^ 58 + i.entry.toNat * 2 ^ 48 + i.va.toNat), BitVec.ofNat 64 s.core.cyc]
    ∧ (∀ k : Nat, (t.core.rq[k]?).map (·.msgs) = (s.core.rq[k]?).map (·.msgs) ∧ ∀ r, t.core.rq[k]? = some r → r.popped = 0)
    ∧ (i.resumes = false → t.core.run = .aborted ∧ t.part.cause = 3 ∧ t.part.resident = none
      ∧ ∀ e, s.part.resident = some e → s.part.subAt[e.toNat] ≠ s.web + 1 → t.part.st = s.part.st.set e.toNat 4)
    ∧ (i.resumes = true → t.core.run = .faulted ∧ t.part = s.part
      ∧ ∀ (n : Nat) (s' : State), s' = { t with core := { t.core with cyc := t.core.cyc + n } } →
        ∃ u, exec (.resume []) s' = .next u ∧ u.core.run = .running ∧ u.core.fault = none ∧ u.core.dead = 0 ∧ u.core.r = m.regs ∧ u.core.seq = m.seq
          ∧ u.core.lat = Latches.zero ∧ u.core.psCount = 0 ∧ u.core.slipOnIssue = true
          ∧ u.core.land = (m.snap.filter fun l => decide ¬(l.slot = 6 ∧ l.file = none ∧ ∃ x ∈ s.core.land, x.seq = l.seq ∧ x.slot = 6 ∧ x.file = none)).map
              (fun l => { l with due := s.core.cyc + n + (l.due - m.cyc) })
          ∧ (∀ k ∈ u.core.cmds, k.stopped = false ∧ (k ∈ t.core.cmds ∨ (k.start = s.core.cyc + n ∧ k.raw = none ∧ k.checked = false)))
          ∧ u.core.cmds.length = t.core.cmds.length))
  ∧ ∀ (s : State) (i : FaultInfo), s.core.mark.inForce = false →
    let t := s.takeLate i
    let m := s.core.mark
    let back := s.core.acted = false ∧ s.core.undo ≤ 256
    t.hbm = s.hbm ∧ t.quire = s.quire ∧ t.core.late = true ∧ t.core.stopAt = some s.core.cyc
    ∧ (back → t.core.r = m.regs ∧ t.core.seq = m.seq ∧ t.core.fstat = m.fstat ∧ t.core.heads = m.heads ∧ t.core.land = [] ∧ t.core.loads = []
      ∧ t.core.stores = [] ∧ t.core.atoms = [] ∧ t.core.cmds = [] ∧ t.core.feltQ = [] ∧ t.core.slotsHeld = [] ∧ t.core.awaiting = []
      ∧ (∀ f ∈ t.core.sendQ, f.first = true) ∧ t.core.run = (if i.resumes then .faulted else .aborted)
      ∧ (s.core.stores = [] → t.core.scratch = s.core.scratch)
      ∧ ∀ (x : Store) (a : Nat) (b o : Byte), Memory.wf s.core.scratch = true → s.core.stores = [x] → x.applied = true → s.core.cyc < x.w →
        x.bytes = [(a, b)] → x.old = [(a, o)] → ∀ y : Nat, Memory.byte t.core.scratch y = if y = a ∧ Memory.byte s.core.scratch a = b then o
          else Memory.byte s.core.scratch y)
    ∧ (¬back → t.core.run = .aborted ∧ t.part.cause = 3 ∧ t.core.r = s.core.r ∧ t.core.scratch = s.core.scratch ∧ t.core.land = s.core.land)

/-- Copy commands and overlays: start, check, beats, slots and finish (07 R128 to R141, 08 R144, R149, 05 R91 to R95, 17
R318, 22 R397).  The model's choices among its clauses: a named watermark in neither window is found at S+1 (assumption 101), a capability
outside the partition is a violation of KIND 3 there (93), the delay of a staging beat and whose turn a best-effort slot is are free (2), and
an atomic that loses its slot moves alone (92), the packet of a beat into the window's last 64 bytes begins 64 bytes lower (106), a poisoned
descriptor is a late fault of slot 7 at S (95), and a beat that a freeze delays is late by the slots that its groups would have had (122). -/
def Obligations.CopyEngine : Prop :=
  (∀ (s : State) (k : Cmd), s.core.cmd k.id = some k → k.stopped = false → k.checked = false →
    let ev := exec (.copyCommandStart k.id) s
    let found := if k.ovl then k.ovlFault else s.cpyFault k
    let spoilt := ∃ g ∈ granulesFrom k.desc 128, g ∈ s.core.poison
    (k.raw = none → s.core.cyc < k.start → ev = .fault .notDue)
    ∧ (k.raw = none → k.ovl = false → k.start ≤ s.core.cyc → ¬spoilt → ev = .next { s with core := s.core.setCmd k.id fun x =>
        { x with raw := some (BitVec.ofNat 1024 (Memory.readNat s.core.scratch k.desc 128)) } })
    ∧ (k.raw = none → k.start ≤ s.core.cyc → spoilt → ev = .next (s.stopCmd k (accessFault .uncorrectableData 7 .read 0 k.desc)))
    ∧ (k.raw.isSome = true → k.start < s.core.cyc → (∀ i, found = some i → ev = .next (s.stopCmd k i))
      ∧ (found = none → ∃ t : State, ev = .next t ∧ KeepsRegisters s t ∧ KeepsMemory s t ∧ t.core.engW = s.core.engW
          ∧ (t.core.cmd k.id).map (fun x => (x.checked, x.stopped, x.beats, x.done)) = some (true, false, k.beatCount, k.done)))
    ∧ ∀ i, let t := s.stopCmd k i
      t.core.lateDue = s.core.lateDue ++ [(s.core.cyc, { i with slot := 7, word := k.word })] ∧ KeepsRegisters s t ∧ KeepsMemory s t
      ∧ (t.core.cmd k.id).map (·.stopped) = some true ∧ ∀ w ∈ t.core.engW, w ∈ s.core.engW ∧ w.cmd.map (·.1) ≠ some k.id)
  ∧ (∀ (s : State) (k : Cmd), k.ovl = false →
    let dk := k.dw 0 / 2 ^ 52 % 16
    let cap := Tab.get 0 s.core.caps (k.dw 0 / 2 ^ 56 % 256)
    let src := s.core.side k.src
    let dst := s.core.side k.dst
    let reached := fun (x : Side) => x ≠ .reserved ∧ x ≠ .none
    let inside := fun (n : Nat) => 0 ≤ k.extent.1 ∧ k.extent.2 ≤ n
    (s.cpyFault k = none ↔
      (dk ≤ 2 ∧ k.dw 0 / 2 ^ 48 % 16 = 0 ∧ k.dw 1 / 2 ^ 48 % 2 ^ 16 = 0 ∧ k.dw 3 / 2 ^ 32 % 2 ^ 32 = 0 ∧ ∀ i, i < 7 → k.dw (i + 9) = 0)
      ∧ (k.src % 64 = 0 ∧ k.dst % 64 = 0 ∧ ∀ d, 1 ≤ d → d ≤ 5 → k.srcStride d % 64 = 0 ∧ k.dstStride d % 64 = 0) ∧ k.beatCount ≤ 2 ^ 32
      ∧ reached src ∧ (dk = 0 → reached dst ∧ (src = .pad ∨ dst = .pad) ∧ (dst = .quire → ∃ j, j < 64 ∧ s.ownsFelt j = true))
      ∧ (dk ≠ 0 → src = .pad)
      ∧ (dk = 1 → s.capOutside cap = false ∧ bitAt cap 63 = true ∧ bitsAt cap 60 3 = 0 ∧ bitAt cap 59 = true ∧ s.namesCore cap = true
        ∧ inside Config.scratchBytes)
      ∧ (dk = 2 → inside Config.wbufBytes)
      ∧ (dk ≠ 1 → k.hasWm = true → ∃ q off, s.core.wordPlace k.wm.toNat = some (q, off) ∧ (q = true → dk = 0 ∧ dst = .quire)))
    ∧ (∀ i, s.cpyFault k = some i → i = FaultInfo.plain .copyCommand 7 ∨ i.kind = .outOfTable
      ∨ (dk = 1 ∧ s.capOutside cap = true ∧ i.kind = .violation ∧ i.vkind = 3))
    ∧ ∀ n, n < k.beatCount → let at_ : Int := (k.dst + 64 * k.index n 0 : Nat) + ((List.range 5).map fun d => (k.index n (d + 1) : Int) * k.dstStride (d + 1)).sum
      k.extent.1 ≤ at_ ∧ at_ + 64 ≤ k.extent.2)
  ∧ (∀ k : Cmd, (∀ i, k.ovlFault = some i → i = FaultInfo.plain .copyCommand 7)
    ∧ (k.ovlFault = none ↔ k.dw 0 / 2 ^ 48 % 2 ^ 16 = 0 ∧ k.dw 1 / 2 ^ 48 % 2 ^ 16 = 0 ∧ k.dw 2 / 2 ^ 48 % 2 ^ 15 = 0 ∧ k.dw 3 / 2 ^ 32 % 2 ^ 32 = 0
      ∧ (∀ i, i < 12 → k.dw (i + 4) = 0) ∧ k.dstb ≤ 1023 ∧ 1 ≤ k.len ∧ k.len ≤ 65535 ∧ k.rbase % 64 = 0
      ∧ k.rsize % 64 = 0 ∧ 64 ≤ k.rsize ∧ k.rsize ≤ 2 ^ 31 ∧ (k.ring = true → k.rbase ≤ k.src ∧ k.src < k.rbase + k.rsize)))
  ∧ (∀ (k : Cmd) (n : Nat), k.ovl = false → n < k.beatCount →
    n = ((List.range 6).map fun d => k.index n d * ((List.range d).map k.count).prod).sum)
  ∧ (∀ (s : State) (k : Cmd) (n : Nat), s.core.cmd k.id = some k →
    let ev := exec (.copyBeat k.id n) s
    let slips := fun (t : State) (m : Nat) => t.core.slip.toNat = min (s.core.slip.toNat + m) 0xFFFFFFFF
    let moved := fun (t : State) (w : EngWrite) (a b : Reach) => t.core.engW = s.core.engW ++ [w] ∧ w.cmd = some (k.id, n) ∧ w.place = k.place n b
      ∧ w.wm = s.core.localWm k ∧ w.wms = none ∧ w.atm = none ∧ KeepsRegisters s t ∧ KeepsMemory s t
      ∧ (∀ i, a.viol = some i → w.bad = some { i with word := k.word } ∧ ∀ j, j < 16 → elem w.data 32 j = 0x7FC00000)
      ∧ (a.viol = none → a.zeros = true → w.bad = none ∧ w.data = 0)
      ∧ (a.viol = none → a.zeros = false →
        (a.side = .pad → (∀ g ∈ granulesFrom a.addr 64, g ∉ s.core.poison) → w.bad = none ∧ w.data = BitVec.ofNat 512 (Memory.readNat s.core.scratch a.addr 64))
        ∧ (a.side = .pad → (∃ g ∈ granulesFrom a.addr 64, g ∈ s.core.poison) → ∃ f, w.bad = some f ∧ f.kind = .uncorrectableData ∧ f.resumes = false)
        ∧ (a.side = .quire → s.core.poison = [] → w.bad = none ∧ w.data = BitVec.ofNat 512 (Memory.readNat s.mirror a.addr 64))
        ∧ (a.side = .staging → w.bad = none ∧ w.data = BitVec.ofNat 512 (Memory.readNat s.hbm a.addr 64)))
    (s.beatDue k n = none → ev = .fault .notDue)
    ∧ (s.beatDue k n = some .local_ → (∀ i, s.reachBeat k n = .error i → ev = .next (s.stopCmd k i))
      ∧ ∀ a b : Reach, s.reachBeat k n = .ok (a, b) → ∃ (t : State) (w : EngWrite), ev = .next t ∧ moved t w a b ∧ w.due = s.core.cyc + 2)
    ∧ (s.beatDue k n = some .quireSrc → ∀ a b : Reach, s.reachBeat k n = .ok (a, b) →
      (s.reloads = false → ∃ (t : State) (w : EngWrite), ev = .next t ∧ moved t w a b ∧ w.due = s.core.cyc + 2)
      ∧ (s.reloads = true → ∃ t : State, ev = .next t ∧ t.core.engW = s.core.engW ∧ slips t (if k.stalled then 0 else 1)
          ∧ (t.core.cmd k.id).map (·.stall) = some (k.stall + 1)))
    ∧ (s.beatDue k n = some .staging → ∀ a b : Reach, s.reachBeat k n = .ok (a, b) → ∃ (t : State) (w : EngWrite), ev = .next t ∧ moved t w a b
      ∧ s.core.cyc + 4 ≤ w.due ∧ k.stagingEnd < w.due ∧ slips t (if s.core.cyc + 4 < w.due then 1 else 0))
    ∧ (s.beatDue k n = some .quireDst → k.feltWait = [] →
      (8 ≤ s.core.feltQ.length + s.core.feltGone.length → ∃ t : State, ev = .next t ∧ t.core.feltQ = s.core.feltQ ∧ slips t 1 ∧ (t.core.cmd k.id).map (·.feltWait) = some [n])
      ∧ (s.core.feltQ.length + s.core.feltGone.length < 8 → (∀ i, s.reachBeat k n = .error i → ev = .next (s.stopCmd k i))
        ∧ ∀ a b : Reach, s.reachBeat k n = .ok (a, b) → ∃ (t : State) (f : FeltItem), ev = .next t ∧ t.core.feltQ = s.core.feltQ ++ [f]
          ∧ f.beat = some (k.id, n, a.addr) ∧ f.pk.op = 0 ∧ f.ent = b.ent ∧ KeepsRegisters s t ∧ KeepsMemory s t
          ∧ (if Config.quireBytes ≤ b.addr + 64 then f.pk.mask = 0xFFFF0000 ∧ f.pk.addr = BitVec.ofNat 17 ((b.addr - 64) / 16)
             else f.pk.mask = 0xFFFF ∧ f.pk.addr = BitVec.ofNat 17 (b.addr / 16))))
    ∧ (s.beatDue k n = some .remote → ∃ (t : State) (x : SendItem), ev = .next t ∧ x ∈ t.core.sendQ ∧ t.core.sendQ.length = s.core.sendQ.length + 1
      ∧ (∀ y ∈ s.core.sendQ, y ∈ t.core.sendQ) ∧ x.beat = some (k.id, n) ∧ s.web ≤ x.ready ∧ (s.inFabric = true → x.ready = s.web + 2)
      ∧ x.fl.dst = BitVec.ofNat 7 (bitsAt (Tab.get 0 s.core.caps (k.dw 0 / 2 ^ 56 % 256)) 22 6).toNat
      ∧ x.fl.body = .beat (k.beatDst n) (if k.hasWm = true ∧ n ∉ k.counted then some k.wm.toNat else none) ∧ slips t (if k.webLate then 1 else 0) ∧ KeepsRegisters s t ∧ KeepsMemory s t)
    ∧ (s.beatDue k n = some .hbm → (∀ i, s.groupReach k (s.core.groupBeats k n) = .error i → ev = .next (s.stopCmd k i))
      ∧ ∀ gs, s.groupReach k (s.core.groupBeats k n) = .ok gs → ∃ (t : State) (h : SlotHold), ev = .next t ∧ t.core.slotsHeld = s.core.slotsHeld ++ [h]
        ∧ h.grp = some (k.id, gs) ∧ h.atm = none ∧ (s.inFabric = false → k.startWeb + 8 ≤ h.start) ∧ s.web ≤ h.start
        ∧ (∀ st, k.lastSlot = some (h.channel, st) → st < h.start) ∧ (k.ideal = none → h.ideal = none)
        ∧ (∀ p, k.ideal = some p → h.best = false → let i := s.idealSlot k h.channel h.write p
            h.ideal = if i < h.start then some i else none)
        ∧ KeepsRegisters s t ∧ KeepsMemory s t))
  ∧ (∀ (s : State) (k : Cmd) (n b : Nat) (r : Row), k.base = some b → k.shifted = false →
    (s.beatDue k n = some r ↔ (k.stopped = false ∧ k.checked = true ∧ n < k.beats ∧ n ∉ k.took) ∧ s.core.row k n = r ∧ match r with
      | .local_ => s.core.cyc + 2 = k.localBase + n
      | .quireSrc => s.core.cyc = b + 8 + n + k.stall
      | .staging => s.core.cyc = b + 44 + n
      | .quireDst => s.core.cyc = b + 4 + n ∨ n ∈ k.feltWait
      | .remote => s.core.cyc + (if s.inFabric = true then 2 else 0) = b + 4 + n
      | .hbm => s.groupDue k = true ∧ s.core.hbmBeat k = some n))
  ∧ (∀ (c : Core) (k : Cmd) (n : Nat),
    let a := c.side (k.beatSrc n)
    let b := if k.ovl = true ∨ k.dKind ≠ 0 then Side.pad else c.side (k.beatDst n)
    (k.ovl = false → k.dKind = 1 → c.row k n = .remote)
    ∧ (k.ovl = true ∨ k.dKind ≠ 1 → (a = .pad → b = .pad → c.row k n = .local_) ∧ (a = .quire → b = .pad → c.row k n = .quireSrc)
      ∧ (a = .pad → b = .quire → c.row k n = .quireDst) ∧ (a = .staging ∧ b = .pad ∨ a = .pad ∧ b = .staging → c.row k n = .staging)
      ∧ (a = .hbm ∧ b = .pad ∨ a = .pad ∧ b = .hbm → c.row k n = .hbm)))
  ∧ (∀ (c : Core) (k : Cmd) (b n : Nat), c.cmd k.id = some k → n < k.beatCount → c.rowOf k n = some .local_ →
    (∀ m, n < m → m < k.beatCount → ∃ r, r ≠ Row.local_ ∧ c.rowOf k m = some r) →
    let p := max (b + 6) (c.localEnd + 1)
    ((c.planCmd k b).cmd k.id).map (·.localBase) = some p ∧ (c.planCmd k b).localEnd = p + n)
  ∧ (∀ (s : State) (w : EngWrite) (off : Nat), w.atm = none → w.wms = none → Memory.wf s.core.scratch = true → Memory.wf s.core.wbuf = true →
    let t := s.performWrite w
    (w.place = .pad off → (∀ i, i < 64 → Memory.byte t.core.scratch (off + i) = elem w.data 8 i)
      ∧ (∀ a, a < off ∨ off + 64 ≤ a → Memory.byte t.core.scratch a = Memory.byte s.core.scratch a)
      ∧ KeepsRegisters s t ∧ KeepsEngines s t ∧ t.hbm = s.hbm ∧ t.quire = s.quire ∧ t.mirror = s.mirror ∧ t.core.wbuf = s.core.wbuf)
    ∧ (w.place = .wbuf off → (∀ i, i < 64 → Memory.byte t.core.wbuf (off + i) = elem w.data 8 i)
      ∧ (∀ a, a < off ∨ off + 64 ≤ a → Memory.byte t.core.wbuf a = Memory.byte s.core.wbuf a) ∧ KeepsRegisters s t ∧ t.core.scratch = s.core.scratch))
  ∧ (∀ (s : State) (ch : BitVec 9),
    (s.web % 9 ≠ 0 ∨ 384 ≤ ch.toNat → exec (.hbmSlot ch) s = .fault .notDue)
    ∧ (s.web % 9 = 0 → ch.toNat < 384 → (∀ h ∈ s.core.slotsHeld, h.channel = ch.toNat → if h.best then s.web < h.start else h.start ≠ s.web) →
      exec (.hbmSlot ch) s = .next s)
    ∧ ∀ (h : SlotHold), s.web % 9 = 0 → ch.toNat < 384 → s.core.slotsHeld = [h] → h.channel = ch.toNat →
      let lat := if ch.toNat / 16 = s.core.sheet.toNat then 160 else 184
      let ev := exec (.hbmSlot ch) s
      let still := s.region.st = .frozen ∨ s.region.st = .relock
      let reads := fun (t : State) (id : Nat) (g : GroupBeat) => h.write = false → g.bad = none → g.zeros = false → ∃ w : EngWrite,
          t.arriving = s.arriving ++ [(s.web + lat + g.pa % 256 / 64, w)] ∧ w.place = g.place ∧ w.cmd = some (id, g.n) ∧ w.bad = none
          ∧ w.data = BitVec.ofNat 512 (Memory.readNat s.hbm g.pa 64) ∧ KeepsRegisters s t ∧ KeepsMemory s t
      let slipsBy := fun (t : State) (n : Nat) => t.core.slip.toNat = min (s.core.slip.toNat + n) 0xFFFFFFFF
      let lateBy := if h.ideal.any (fun i => decide (i < s.web)) = true then 1 else 0
      let moves := fun (heat : Bool) => ∃ (t : State) (x : SlotHold), ev = .next t ∧ t.core.slotsHeld = [x]
        ∧ x.grp = h.grp ∧ x.atm = h.atm ∧ h.start < x.start ∧ x.start % 9 = 0 ∧ slipsBy t (if heat then 1 else 0)
        ∧ x.ideal = (if heat then h.ideal else some (h.ideal.getD h.start)) ∧ t.arriving = s.arriving ∧ KeepsRegisters s t ∧ KeepsMemory s t ∧ t.dev.thlogN = s.dev.thlogN + (if heat then 1 else 0)
      (h.start = s.web → h.best = false → s.withheld ch.toNat h.write (s.web / 9) = true → moves true)
      ∧ (h.start = s.web → h.best = false → s.withheld ch.toNat h.write (s.web / 9) = false →
        (∀ (id : Nat) (gs : List GroupBeat), h.grp = some (id, gs) → still → moves false)
        ∧ (∀ (id : Nat) (g : GroupBeat), h.grp = some (id, [g]) → ¬still →
          (∃ t : State, ev = .next t ∧ t.core.slotsHeld = [] ∧ slipsBy t lateBy ∧ reads t id g)
          ∧ (∀ i, h.write = false → g.bad = some i → ∃ (t : State) (w : EngWrite), ev = .next t ∧ t.arriving = s.arriving ++ [(s.web + lat + g.pa % 256 / 64, w)]
            ∧ w.bad = some i ∧ ∀ j, j < 16 → elem w.data 32 j = 0x7FC00000)
          ∧ (∀ off, h.write = true → g.place = .pad off → s.inFabric = true → s.core.poison = [] → Memory.wf s.hbm = true →
            ∃ t : State, ev = .next t ∧ t.core.slotsHeld = [] ∧ slipsBy t lateBy ∧ KeepsRegisters s t ∧ t.core.scratch = s.core.scratch
              ∧ (∀ i, i < 64 → Memory.byte t.hbm (g.pa + i) = Memory.byte (match s.core.hist.find? fun x => x.cyc == s.core.cyc - 8 with
                | some x => x.mem
                | none => s.core.scratch) (off + i))
              ∧ ∀ a, a < g.pa ∨ g.pa + 64 ≤ a → Memory.byte t.hbm a = Memory.byte s.hbm a)
          ∧ (∀ off k, h.write = true → g.place = .pad off → s.core.cmd id = some k → (∃ y ∈ granulesFrom off 64, y ∈ s.core.poison) →
            ∃ (t : State) (w : EngWrite) (f : FaultInfo), ev = .next t ∧ t.arriving = s.arriving ++ [(s.web, w)] ∧ w.bad = some f
              ∧ f.kind = .uncorrectableData ∧ f.word = k.word))
        ∧ ∀ op i64 pa ent x cmp, h.grp = none → h.atm = some (.atmHbm op i64 pa ent x cmp) →
          let n := if i64 then 8 else 4
          let old := Memory.readNat s.hbm pa n
          ∃ t : State, ev = .next t ∧ KeepsRegisters s t ∧ t.core.scratch = s.core.scratch
            ∧ t.hbm = Memory.writeNat s.hbm pa n (atomicNew op (8 * n) old (x.toNat % 2 ^ (8 * n)) (cmp.toNat % 2 ^ (8 * n)))
            ∧ t.agenda = s.agenda ++ [(s.web + lat, .remoteAtmReturn h.seq (BitVec.ofNat 64 old))])
      ∧ (h.best = true → h.start ≤ s.web → s.web / 9 % 32 = 31 ∨ (still ∧ h.grp.isSome = true) →
          ∃ (t : State) (x : Option Nat), ev = .next t ∧ t.core.slotsHeld = [{ h with ideal := x }] ∧ (x = h.ideal ∨ x = some s.web) ∧ t.arriving = s.arriving ∧ KeepsRegisters s t ∧ KeepsMemory s t)
      ∧ ∀ (id : Nat) (g : GroupBeat), h.best = true → h.start ≤ s.web → h.grp = some (id, [g]) → h.write = false → ∃ t : State, ev = .next t ∧ KeepsRegisters s t
        ∧ KeepsMemory s t ∧ (((∃ x, t.core.slotsHeld = [{ h with ideal := x }] ∧ (x = h.ideal ∨ x = some s.web)) ∧ t.arriving = s.arriving) ∨ (t.core.slotsHeld = [] ∧ reads t id g)))
  ∧ ∀ (s : State) (k : Cmd), s.core.cmd k.id = some k →
    (k.image.2 = 0 → (crc32 ((List.range k.len).map k.streamByte)).toNat = elemsNat 8 (fun j => (k.streamByte (k.len + j)).toNat) 4)
    ∧ (∀ f, k.finish = some f → s.core.cyc < f → exec (.overlayFinish k.id) s = .fault .notDue) ∧ (k.stopped = true → exec (.overlayFinish k.id) s = .fault .notDue)
    ∧ ∀ f, k.stopped = false → k.finish = some f → f ≤ s.core.cyc → Tab.okAbove (0 : Bundle) 0 s.core.istore = true →
      ∃ t : State, exec (.overlayFinish k.id) s = .next t ∧ t.core.cmd k.id = none ∧ t.core.ovlEnd = f
        ∧ KeepsRegisters s t ∧ t.core.scratch = s.core.scratch ∧ Tab.okAbove (0 : Bundle) 0 t.core.istore = true
        ∧ (∀ i, i < k.image.1.length → Tab.get 0 t.core.istore (1024 * k.half.toNat + k.dstb + i) = nth 0 k.image.1 i)
        ∧ (∀ a, a < 1024 * k.half.toNat + k.dstb ∨ 1024 * k.half.toNat + k.dstb + k.image.1.length ≤ a →
            Tab.get 0 t.core.istore a = Tab.get 0 s.core.istore a)
        ∧ ((∀ x ∈ s.core.cmds, x.ovl = true → x.id = k.id) → t.core.ovs =
          { nb := BitVec.ofNat 11 k.image.1.length, cause := BitVec.ofNat 4 k.image.2, fs := s.core.ovs.fs || decide (k.image.2 ≠ 0), st := if k.image.2 = 0 then 2 else 3 })

/-- The felt and the gateway: packets sent, applied, shown and refused, settings and contributions (09 R156 to R169).  The model's
choice: a setting whose ream capability is not usable, or whose bits [63:8] are not zero, is refused as the others are (log 52). -/
def Obligations.FeltAndGateway : Prop :=
  (∀ s : State, (s.feltReady = none → exec (.feltSend false) s = .fault .notDue) ∧ (s.gatewayReady = none → exec (.feltSend true) s = .fault .notDue)
    ∧ (∀ (f : FeltItem) (rest : List FeltItem), s.core.feltQ = f :: rest →
      (s.feltReady = some f ↔ s.web % 2 = 0 ∧ s.ownsFelt (s.web / 2) = true ∧ f.entry + 2 ≤ s.web ∧ s.core.feltLast ≤ s.web ∧ s.sheetAsleep = false)
      ∧ (s.feltReady = some f → ∃ (t : State) (x : FeltSent), exec (.feltSend false) s = .next t ∧ t.core.feltQ = rest
        ∧ t.felt = insertBy (fun y z => decide (y.beat ≤ z.beat)) x s.felt ∧ x.beat = s.web / 2 ∧ x.applied = false ∧ x.own.isSome = true
        ∧ (let p : FeltPacket := { f.pk with party := BitVec.ofNat 12 (s.core.sheet.toNat * 128 + s.torusPos) }
          let bytes := fun (off : Nat) => BitVec.ofNat 1024 (Memory.readNat s.core.scratch off 64 * if f.pk.mask = 0xFFFF0000 then 2 ^ 512 else 1)
          (f.beat = none → x.pk = p) ∧ ∀ id n off, f.beat = some (id, n, off) → s.core.poison = [] → x.pk = { p with payload := bytes off })
        ∧ KeepsRegisters s t ∧ KeepsMemory s t))
    ∧ ∀ (n : Nat) (c : BitVec 5) (pk : FeltPacket) (rest : List (Nat × BitVec 5 × FeltPacket)), s.gw.q = (n, c, pk) :: rest →
      s.gatewayReady = some (n, c, pk) → ∃ (t : State) (x : FeltSent), exec (.feltSend true) s = .next t ∧ t.gw.q = rest
        ∧ t.felt = insertBy (fun y z => decide (y.beat ≤ z.beat)) x s.felt ∧ x.beat = s.web / 2 ∧ x.applied = false ∧ x.own = none ∧ x.pk = { pk with party := BitVec.ofNat 12 (s.core.sheet.toNat * 128 + 64) }
        ∧ t.gw.cells[c.toNat].left = s.gw.cells[c.toNat].left - 1 ∧ KeepsRegisters s t ∧ KeepsMemory s t)
  ∧ (∀ (s : State) (x : FeltSent), s.felt.find? (fun f => f.beat == s.web / 2 - 5) = some x →
    (x.applied = false → exec (.feltPacketApply x.pk) s = .next { s.baseTakes x.pk with
        core := s.core.forget (x.own.bind fun it => if it.beat.isNone then it.ent else none).toList
        felt := s.felt.map fun f => if f.beat = s.web / 2 - 5 then { f with applied := true } else f })
    ∧ (x.applied = true → exec (.feltPacketApply x.pk) s = .fault .notDue)
    ∧ s.baseTakes x.pk = { s with quire := applyPacket x.pk s.quire, dev := { s.dev with basePoison := (s.baseTakes x.pk).dev.basePoison } })
  ∧ (∀ (s : State) (pk : FeltPacket), s.felt.find? (fun f => f.beat == s.web / 2 - 5) = none →
    let own := s.ownsFelt (s.web / 2 - 5) || s.gatewayOwns (s.web / 2 - 5)
    (s.web < 10 ∨ own = true ∨ s.web / 2 - 5 ∈ s.dev.refused → exec (.feltPacketApply pk) s = .fault .notDue)
    ∧ (10 ≤ s.web → own = false → s.web / 2 - 5 ∉ s.dev.refused → ∃ t : State, exec (.feltPacketApply pk) s = .next t ∧ t.quire = applyPacket pk s.quire ∧ t.mirror = s.mirror ∧ t.core = s.core))
  ∧ (∀ (s : State) (f : FeltSent), f.applied = true →
    let t := s.showPacket f
    (t.mirror = if s.sheetAsleep then s.mirror else applyPacket f.pk s.mirror)
    ∧ t.felt = s.felt.filter (fun x => x.beat != f.beat) ∧ KeepsRegisters s t ∧ t.quire = s.quire ∧ t.hbm = s.hbm ∧ t.core.scratch = s.core.scratch
    ∧ (∀ (it : FeltItem) (b w x cmp : Nat), f.own = some it → it.qat = true → s.core.poison = [] → s.reload = none → atomicOperand f.pk = (b, w, x, cmp) →
      t.agenda = s.agenda ++ [(s.web, .remoteAtmReturn it.seq (BitVec.ofNat 64 (Memory.readNat s.mirror b (w / 8))))])
    ∧ (s.inFabric = true → s.felt = [f] → (s.web < 2 * f.beat + 16 → s.feltLater.mirror = s.mirror)
      ∧ (2 * f.beat + 16 ≤ s.web → s.feltLater.felt = [] ∧ s.feltLater.mirror = if s.sheetAsleep then s.mirror else applyPacket f.pk s.mirror)))
  ∧ (∀ (pk : FeltPacket) (m : Memory), Memory.wf m = true → pk.wme = false → 16 * pk.addr.toNat + 128 ≤ Config.quireBytes →
    let a := 16 * pk.addr.toNat
    let m' := applyPacket pk m
    Memory.wf m' = true
    ∧ (pk.op = 0 → (∀ i, i < 32 → bitAt pk.mask i = true → Memory.readNat m' (a + 4 * i) 4 = (lane pk.payload i).toNat)
      ∧ ∀ b, (∀ i, i < 32 → bitAt pk.mask i = true → b < a + 4 * i ∨ a + 4 * i + 4 ≤ b) → Memory.byte m' b = Memory.byte m b)
    ∧ (pk.op = 2 → (∀ e, e < 4 → bitAt pk.mask (8 * e) = true →
        let old : BitVec 256 := BitVec.ofNat 256 (Memory.readNat m (a + 32 * e) 32)
        let x : BitVec 256 := elem pk.payload 256 e
        BitVec.ofNat 256 (Memory.readNat m' (a + 32 * e) 32) =
          if old = quirePoison ∨ bitAt pk.aux e = true ∨ old.toInt + x.toInt ≤ -2 ^ 255 ∨ 2 ^ 255 ≤ old.toInt + x.toInt then quirePoison else old + x)
      ∧ ∀ b, (∀ e, e < 4 → bitAt pk.mask (8 * e) = true → b < a + 32 * e ∨ a + 32 * e + 32 ≤ b) → Memory.byte m' b = Memory.byte m b)
    ∧ ∀ b w x cmp, pk.op = 3 → atomicOperand pk = (b, w, x, cmp) →
      Memory.readNat m' b (w / 8) = atomicNew (BitVec.ofNat 3 pk.aux.toNat) w (Memory.readNat m b (w / 8)) x cmp
      ∧ ∀ y, y < b ∨ b + w / 8 ≤ y → Memory.byte m' y = Memory.byte m y)
  ∧ (∀ (pk : FeltPacket) (m : Memory), (pk.wme = false → pk.op = 1 → applyPacket pk m = raiseWord m (16 * pk.addr.toNat) (lane pk.payload 0).toNat)
    ∧ (pk.wme = true → 16 * pk.addr.toNat + 128 ≤ Config.quireBytes → applyPacket pk m =
        raiseWord (applyPacket { pk with wme := false } m) (16 * pk.wma.toNat)
          (if pk.op = 0 then 4 * ((List.range 32).filter fun i => bitAt pk.mask i).length
           else if pk.op = 2 then 32 * ((List.range 4).filter fun e => bitAt pk.mask (8 * e)).length else 0)))
  ∧ (∀ (m : Memory) (a b : Nat), Memory.wf m = true →
    let m' := raiseWord m a b
    let tgt := Memory.readNat m a 4
    let total := Memory.readNat m (a + 4) 4 + b
    let cnt := if 2 ^ 32 ≤ total then 2 ^ 32 - 1 else total
    Memory.wf m' = true ∧ Memory.readNat m' a 4 = tgt ∧ Memory.readNat m' (a + 4) 4 = (if tgt = 0 then cnt else cnt % tgt)
    ∧ Memory.readNat m' (a + 8) 4 = (if tgt = 0 then Memory.readNat m (a + 8) 4 else (Memory.readNat m (a + 8) 4 + cnt / tgt) % 2 ^ 32)
    ∧ (∀ i, (Memory.readNat m' (a + 12) 4).testBit i =
        ((Memory.readNat m (a + 12) 4).testBit i || (i == 0 && decide (2 ^ 32 ≤ total)) || (i == 1 && decide (tgt = 0))))
    ∧ ∀ x, x < a ∨ a + 16 ≤ x → Memory.byte m' x = Memory.byte m x)
  ∧ (∀ (s : State) (off : Nat), s.core.raised = [] → Memory.wf s.core.scratch = true →
    (s.core.raises ≠ [] → (∀ r ∈ s.core.raises, r.off = off ∧ r.due ≤ s.core.cyc) →
      s.raisesDue.core.scratch = raiseWord s.core.scratch off (s.core.raises.map (·.bytes)).sum ∧ s.raisesDue.core.raises = []
      ∧ KeepsRegisters s s.raisesDue)
    ∧ ∀ a b, ((s.raiseOne off a).raiseOne off b).core.scratch = raiseWord s.core.scratch off (a + b))
  ∧ (∀ (s : State) (f : FeltSent) (it : FeltItem), s.felt.find? (fun x => x.beat == f.beat) = some f → f.own = some it → it.beat = none →
    f.applied = false →
    (s.web / 2 ≠ f.beat + 2 → exec (.refusal f.beat f.pk) s = .fault .notDue)
    ∧ (s.web / 2 = f.beat + 2 → ∃ t : State, exec (.refusal f.beat f.pk) s = .next t ∧ t.core.feltQ = it :: s.core.feltQ
      ∧ t.core.slip.toNat = min (s.core.slip.toNat + 1) 0xFFFFFFFF ∧ t.dev.err[5] = s.dev.err[5] + 1
      ∧ t.felt = s.felt.filter (fun x => x.beat != f.beat) ∧ KeepsRegisters s t ∧ KeepsMemory s t))
  ∧ (∀ (s : State) (n : BitVec 5) (m : BitVec 7) (dest : Word) (ream : Bool) (cap : BitVec 64),
    let c := s.gw.cells[n.toNat]
    let dst := (bitsAt dest 0 32).toNat
    let wm := (bitsAt dest 32 32).toNat
    let good := (ream = true → dest.toNat < 256 ∧ bitAt cap 63 = true ∧ bitsAt cap 60 3 = 2)
      ∧ (ream = false → dst % 128 = 0 ∧ dst + 1024 ≤ Config.quireBytes ∧ within s.part.quireShare dst 1024 = true ∧ (∃ j, j < 64 ∧ s.gatewayOwns j = true)
        ∧ (wm = 0xFFFFFFFF ∨ (wm % 16 = 0 ∧ wm + 16 ≤ Config.quireBytes ∧ within s.part.quireShare wm 16 = true)))
    (¬good ∨ c.state s.web ≠ 0 → exec (.gatewayContribution n (.set m dest ream cap)) s = .next s)
    ∧ (good → c.state s.web = 0 → ∃ t : State, exec (.gatewayContribution n (.set m dest ream cap)) s = .next t ∧ t.core = s.core ∧ KeepsMemory s t
      ∧ (t.gw.cells[n.toNat]).st = 1 ∧ (t.gw.cells[n.toNat]).n = m.toNat + 1 ∧ (t.gw.cells[n.toNat]).got = 0
      ∧ (t.gw.cells[n.toNat]).sums = List.replicate 32 (0, 0) ∧ (t.gw.cells[n.toNat]).dest = dest ∧ (t.gw.cells[n.toNat]).ream = ream
      ∧ (t.gw.cells[n.toNat]).cap = cap ∧ ∀ i : Fin 32, i.val ≠ n.toNat → t.gw.cells[i] = s.gw.cells[i]))
  ∧ (∀ (s : State) (n : BitVec 5) (con : Contribution), con.own = false →
    let c := s.gw.cells[n.toNat]
    (c.state s.web ≠ 1 → exec (.gatewayContribution n (.add con)) s = .next s)
    ∧ (c.state s.web = 1 → c.got + 1 < c.n → exec (.gatewayContribution n (.add con)) s = .next { s with gw := { s.gw with cells := s.gw.cells.set n.toNat (c.add con) } })
    ∧ (c.state s.web = 1 → c.n ≤ c.got + 1 → c.ream = false → c.sums.length = 32 → s.gw.q = [] → s.badSetting c.dest false c.cap = false →
      let sums := (c.add con).sums
      let wm := (bitsAt c.dest 32 32).toNat
      ∃ t : State, exec (.gatewayContribution n (.add con)) s = .next t ∧ t.core = s.core ∧ KeepsMemory s t ∧ t.gw.q.length = 8
        ∧ (t.gw.cells[n.toNat]).st = 2 ∧ (t.gw.cells[n.toNat]).left = 8
        ∧ ∀ j, j < 8 → ∃ pk : FeltPacket, t.gw.q[j]? = some (s.web + 4, n, pk) ∧ pk.op = 2 ∧ pk.mask = 0xFFFFFFFF
          ∧ 16 * pk.addr.toNat = (bitsAt c.dest 0 32).toNat + 128 * j ∧ (pk.wme = true ↔ wm ≠ 0xFFFFFFFF) ∧ (wm ≠ 0xFFFFFFFF → 16 * pk.wma.toNat = wm)
          ∧ ∀ e, e < 4 → let x := nth (0, 0) sums (4 * j + e)
            elem pk.payload 256 e = BitVec.ofInt 256 x.1
            ∧ (bitAt pk.aux e = true ↔ x.2 ≠ 0 ∨ x.1 < -2 ^ 255 ∨ 2 ^ 255 ≤ x.1)))
  ∧ (∀ (s : State) (n : BitVec 5) (con : Contribution) (a : GwAdd), con.own = true → s.gw.adds = [a] → a.cell = n → a.con = con →
    let c := s.gw.cells[n.toNat]
    let here := (a.at_ = none ∧ s.inFabric = true ∧ a.due ≤ s.core.cyc) ∨ ∃ t0, a.at_ = some t0 ∧ t0 ≤ s.web
    (¬here → exec (.gatewayContribution n (.add con)) s = .fault .notDue)
    ∧ (here → c.state s.web ≠ 1 → ∃ t : State, exec (.gatewayContribution n (.add con)) s = .next t
      ∧ t.core.lateDue = s.core.lateDue ++ [(s.core.cyc, a.info)] ∧ t.gw.cells = s.gw.cells ∧ t.gw.adds = [])
    ∧ (here → c.state s.web = 1 → c.got + 1 < c.n → exec (.gatewayContribution n (.add con)) s = .next { s with
        gw := { s.gw with adds := [], cells := s.gw.cells.set n.toNat (c.add con) } }))
  ∧ ∀ (c : GwCell) (k : Contribution), c.sums.length = 32 → k.els.length = 32 →
    let c' := c.add k
    c'.got = c.got + 1 ∧ c'.n = c.n ∧ (c.got = 0 → c'.anchor = k.anchor) ∧ (c.got ≠ 0 → c'.anchor = c.anchor)
    ∧ ∀ i, i < 32 → let x := nth (0, 0) c.sums i
      let y := nth (0, 0) k.els i
      (nth (0, 0) c'.sums i).1 = x.1 + y.1.toInt
      ∧ (nth (0, 0) c'.sums i).2 = if c.got ≠ 0 ∧ c.anchor ≠ k.anchor then 1 else joinTags x.2 y.2

/-- The web and the ream links (10 R172 to R191, 17 R312, R318, 19 R340, 20 R374).  The model's choices among its clauses: a whole packet
whose SEQ is not the next one is discarded (log 51), and a read of LINKST leaves the counts of the present web cycle (log 89), what
other cores have sent on a link and has not reached the gateway is free (log 2), and the replay buffer counts web flits without headers
(log 120). -/
def Obligations.WebAndLinks : Prop :=
  (∀ (s : State), (s.slotWanted = false → exec .webFlitSend s = .fault .notDue)
    ∧ ∀ (f : SendItem) (dst : BitVec 7), s.slotDst = some dst → s.returning dst = none → s.headTo dst = some f → f.beat = none →
      f.ready ≤ s.web →
      let here := dst = s.core.pos ∨ dst = 64
      let goes := fun (t : State) => t.core.sendQ.map (·.fl) = (s.core.sendQ.erase f).map (·.fl)
        ∧ (here → t.agenda = s.agenda ++ [(s.web + flitTime f.fl.src f.fl.dst, .webFlitArrival f.fl)] ∧ t.dev.sent = s.dev.sent)
        ∧ (¬here → t.agenda = s.agenda ∧ t.dev.sent = .flit f.fl :: s.dev.sent)
      let stays := fun (t : State) => t.core.sendQ.map (·.fl) = s.core.sendQ.map (·.fl) ∧ t.agenda = s.agenda
        ∧ (s.region.still = false → t.core.sendQ = s.core.sendQ ∧ t.core.slip.toNat = min (s.core.slip.toNat + 1) 0xFFFFFFFF)
      ((s.overAllowance f).1 = true → s.region.still = false → ∃ t : State, exec .webFlitSend s = .next t ∧ KeepsRegisters s t ∧ KeepsMemory s t
        ∧ t.core.sendQ.map (·.fl) = s.core.sendQ.map (·.fl) ∧ t.agenda = s.agenda ∧ t.dev.sent = s.dev.sent
        ∧ t.core.slip.toNat = min (s.core.slip.toNat + if f.delayed then 0 else 1) 0xFFFFFFFF)
      ∧ ((s.overAllowance f).1 = false → ∃ t : State, exec .webFlitSend s = .next t ∧ KeepsRegisters s t ∧ KeepsMemory s t ∧ (goes t ∨ stays t)
        ∧ (∀ qn line half wm, f.fl.body = .msg qn line half wm → dst = s.core.pos → if s.queueTakes qn.toNat then goes t else stays t)
        ∧ (∀ op i64 off x y, f.fl.body = .atm op i64 off x y → goes t)
        ∧ (∀ old, f.fl.body = .atmRet old → goes t)))
  ∧ (∀ (s : State) (f : SendItem), (s.core.beyond f.cap = true → (s.overAllowance f).1 = true)
    ∧ (s.core.beyond f.cap = false → flitLink f.fl = none → (s.overAllowance f).1 = false)
    ∧ ∀ lk n, s.core.beyond f.cap = false → flitLink f.fl = some lk →
      (Tab.get 0 s.part.reamShare lk.toNat = 0 → (s.overAllowance f).1 = false)
      ∧ (Tab.get 0 s.part.reamShare lk.toNat = n + 1 → n ≤ Tab.get 0 s.part.reamSent lk.toNat → (s.overAllowance f).1 = true)
      ∧ (Tab.get 0 s.part.reamShare lk.toNat = n + 1 → Tab.get 0 s.part.reamSent lk.toNat < n → s.matesHere = false → (s.overAllowance f).1 = false))
  ∧ (∀ p q : BitVec 7, p.toNat < 64 → q.toNat < 64 → flitTime p q = 2 * hops p.toNat q.toNat + 3 ∧ flitTime p 64 = 5 ∧ flitTime 64 q = 5
    ∧ hops p.toNat q.toNat ≤ 8 ∧ hops p.toNat q.toNat = hops q.toNat p.toNat)
  ∧ (∀ (s : State) (fl : Flit), fl.dst ≠ 64 →
    (fl.dst ≠ s.core.pos ∨ s.core.run = .parked ∨ (if fl.src = 64 then s.gwPort else s.webPort) = s.web + 1 → exec (.webFlitArrival fl) s = .fault .notDue)
    ∧ (fl.dst = s.core.pos → s.core.run ≠ .parked → (if fl.src = 64 then s.gwPort else s.webPort) ≠ s.web + 1 →
      let port := if fl.src = 64 then 1 else 2
      let buffers := fun (x : InItem) (ps : Vector RQueue 32 → Prop) => ∃ t : State, exec (.webFlitArrival fl) s = .next t ∧ KeepsRegisters s t ∧ KeepsMemory s t
        ∧ t.core.inbound = s.core.inbound ++ [{ tau := s.web, port := port, item := x }] ∧ ps t.core.rq
        ∧ (if fl.src = 64 then t.gwPort else t.webPort) = s.web + 1
      (∀ qn half wm, fl.body = .msg qn false half wm → buffers (.msg qn false ((elem fl.data 64 0).zeroExtend 1024) wm) fun _ => True)
      ∧ (∀ qn wm, fl.body = .msg qn true false wm → ∃ t : State, exec (.webFlitArrival fl) s = .next t ∧ KeepsRegisters s t ∧ KeepsMemory s t
        ∧ t.core.inbound = s.core.inbound ∧ (t.core.rq[qn.toNat]).partials = (s.core.rq[qn.toNat]).partials.filter (fun p => p.1 != fl.src) ++ [(fl.src, fl.data)])
      ∧ (∀ qn wm lo, fl.body = .msg qn true true wm → (s.core.rq[qn.toNat]).partials = [(fl.src, lo)] →
        buffers (.msg qn true (fl.data ++ lo) wm) fun v => (v[qn.toNat]).partials = [])
      ∧ (∀ off wm, fl.body = .beat off wm → ∃ w : EngWrite, w.place = .pad off ∧ w.data = fl.data ∧ w.wm = wm ∧ w.port = port ∧ w.bad = none
        ∧ buffers (.write w) fun v => v = s.core.rq)
      ∧ (∀ op i64 off x cmp, fl.body = .atm op i64 off x cmp → ∃ w : EngWrite, w.place = .pad off ∧ w.atm = some (op, i64, x, cmp, fl.src)
        ∧ w.port = port ∧ w.bad = none ∧ w.wm = none ∧ w.cmd = none ∧ w.ents = [] ∧ buffers (.write w) fun v => v = s.core.rq)))
  ∧ (∀ (s : State) (w : EngWrite) (op : BitVec 3) (i64 : Bool) (off : Nat) (x cmp : Word) (src : BitVec 7), w.place = .pad off →
    w.atm = some (op, i64, x, cmp, src) → w.bad = none → w.wm = none → w.cmd = none → w.ents = [] → Memory.wf s.core.scratch = true → s.core.poison = [] →
    let t := s.performWrite w
    let n := if i64 then 8 else 4
    let old := Memory.readNat s.core.scratch off n
    KeepsRegisters s t ∧ t.core.wbuf = s.core.wbuf ∧ t.hbm = s.hbm ∧ t.quire = s.quire ∧ t.mirror = s.mirror
    ∧ Memory.readNat t.core.scratch off n = atomicNew op (8 * n) old (x.toNat % 2 ^ (8 * n)) (cmp.toNat % 2 ^ (8 * n))
    ∧ (∀ b, b < off ∨ off + n ≤ b → Memory.byte t.core.scratch b = Memory.byte s.core.scratch b)
    ∧ ∃ y : SendItem, t.core.sendQ = s.core.sendQ ++ [y] ∧ y.first = true ∧ y.beat = none ∧ s.web + 4 ≤ y.ready ∧ (s.inFabric = true → y.ready = s.web + 4)
      ∧ y.fl.src = s.core.pos ∧ y.fl.dst = src ∧ y.fl.body = .atmRet (BitVec.ofNat 64 old))
  ∧ (∀ (s : State) (x : Inbound),
    let t := s.takeIn x
    KeepsRegisters s t ∧ KeepsMemory s t
    ∧ (∀ w, x.item = .write w → t.core.engW = s.core.engW ++ [{ w with due := s.core.cyc }])
    ∧ (∀ qn line data wm, x.item = .msg qn line data wm → t.core.pushes = s.core.pushes ++ [(s.core.cyc, x.port, qn, { line := line, data := data })]
      ∧ t.core.raises = s.core.raises ++ (match (wm : Option (BitVec 16)) with
        | some w => [{ due := s.core.cyc, off := 16 * w.toNat, bytes := if line then 128 else 8 }]
        | none => []))
    ∧ (s.inFabric = true → x.tau ≤ s.web → s.overdue x.tau = false → s.core.inbound = [x] →
      s.takeInbound = State.takeIn { s with core := { s.core with inbound := [] } } x))
  ∧ (∀ (s : State) (num : Nat) (old : Word),
    let lands := fun (t : State) => KeepsRegisters s t ∧ KeepsMemory s t ∧ ∃ l : Landing, t.core.land = insertBy Landing.le l s.core.land
      ∧ l.due = s.core.cyc ∧ l.seq = num ∧ l.file = none ∧ l.latch = .lda ∧ l.lval = old.zeroExtend 1024 ∧ l.lsel = BitVec.allOnes 1024
    (s.core.awaiting.find? (fun a => a.seq == num && a.due.isNone) = none → exec (.remoteAtmReturn num old) s = .fault .notDue)
    ∧ (∀ a, s.core.awaiting.find? (fun a => a.seq == num && a.due.isNone) = some a →
      (a.src = .felt → ∃ t : State, exec (.remoteAtmReturn num old) s = .next t ∧ lands t)
      ∧ (a.src ≠ .felt → exec (.remoteAtmReturn num old) s = .next { s with core := { s.core with
          inbound := s.core.inbound ++ [{ tau := s.web, port := 5, item := .old num old }] } }))
    ∧ ∀ tau port, lands (s.takeIn { tau := tau, port := port, item := .old num old }))
  ∧ (∀ pk : ReamPacket, pk.flits ≠ [] → pk.flits.length ≤ 16 → readWire (packetWire pk) = some pk)
  ∧ (∀ (s : State) (fl : Flit) (lk : BitVec 4) (dtix : BitVec 11) (qn : BitVec 5) (line half : Bool) (n : Nat),
    fl.dst = 64 → fl.body = .ream lk dtix qn line half → fl.src ≠ s.core.pos → s.inPartition fl.src.toNat = true → 5 ≤ s.web % 256 →
    Tab.get 0 s.part.reamShare lk.toNat = n + 1 → n ≤ Tab.get 0 s.part.reamSent lk.toNat → exec (.webFlitArrival fl) s = .fault .notDue)
  ∧ (∀ (s : State) (fl : Flit) (lk : BitVec 4) (dtix : BitVec 11) (qn : BitVec 5) (line half : Bool),
    let l := s.link_ lk
    let share := Tab.get 0 s.part.reamShare lk.toNat
    fl.dst = 64 → fl.body = .ream lk dtix qn line half →
    fl.src = s.core.pos ∨ s.inPartition fl.src.toNat = false ∨ share = 0 ∨ (5 ≤ s.web % 256 ∧ Tab.get 0 s.part.reamSent lk.toNat + 1 < share) →
    (line = true → half = false → ∃ t : State, exec (.webFlitArrival fl) s = .next t ∧ t.core = s.core ∧ KeepsMemory s t
      ∧ t.link_ lk = { l with gather := l.gather ++ [(fl.src, dtix, qn, fl.data)] } ∧ t.dev.sent = s.dev.sent)
    ∧ ∀ lo, line = false ∨ (half = true ∧ l.gather = [(fl.src, dtix, qn, lo)]) →
      let pk : ReamPacket := { seq := l.seqTx, dtix := dtix, qn := qn, gline := false, scalar := !line, flits := if line then [lo, fl.data] else [fl.data] }
      let room := (l.st = .timed ∨ l.st = .slipped) ∧ flitsOf l.replay + pk.flits.length ≤ 512 ∧ l.waiting = []
      ∃ t : State, exec (.webFlitArrival fl) s = .next t ∧ KeepsRegisters s t ∧ KeepsMemory s t
        ∧ (room → (t.link_ lk).seqTx = l.seqTx + 1 ∧ (t.link_ lk).replay = l.replay ++ [pk] ∧ (t.link_ lk).waiting = []
          ∧ t.dev.sent = .ream lk (packetWire pk) :: s.dev.sent ∧ t.core.slip = s.core.slip)
        ∧ (¬room → (t.link_ lk).replay = l.replay ∧ t.dev.sent = s.dev.sent
          ∧ t.core.slip.toNat = min (s.core.slip.toNat + if fl.src = s.core.pos then 1 else 0) 0xFFFFFFFF
          ∧ (t.link_ lk).waiting = l.waiting ++ [(decide (fl.src = s.core.pos), { pk with seq := 0 })]))
  ∧ (∀ (s : State) (lk : BitVec 4) (fls : List LinkFlit),
    let l := s.link_ lk
    let up := l.st = .timed ∨ l.st = .slipped
    (∀ pk, readWire fls = some pk →
      (¬up ∨ 64 < l.held + pk.flits.length → exec (.reamPacketReceive lk fls) s = .fault .notDue)
      ∧ (up → l.held + pk.flits.length ≤ 64 → pk.seq ≠ l.seqRx → exec (.reamPacketReceive lk fls) s = .next s)
      ∧ (up → l.held + pk.flits.length ≤ 64 → pk.seq = l.seqRx → ∃ t : State, exec (.reamPacketReceive lk fls) s = .next t ∧ t.core = s.core
        ∧ t.link_ lk = { l with seqRx := l.seqRx + 1, recv := l.recv ++ [{ due := s.web, dtix := pk.dtix, flits := packetFlits pk }] }
        ∧ t.dev.sent = .ream lk [{ type := 0, data := BitVec.ofNat 256 pk.seq.toNat }] :: s.dev.sent))
    ∧ (∀ h ds, fls = h :: ds → readWire fls = none → h.type = 1 → up ∨ (l.st = .train ∧ l.unsched = true) →
      exec (.reamPacketReceive lk fls) s = .next (s.setLink lk fun l => { l with cut := some s.web }))
    ∧ (∀ h, fls = [h] → h.type = 0 → up → exec (.reamPacketReceive lk fls) s = .next (s.setLink lk fun l => l.acknowledged (bitsAt h.data 0 16))))
  ∧ (∀ (s : State) (lk : BitVec 4) (m : GwMessage) (f : Flit) (fs : List Flit) (rest : List GwMessage) (qn : BitVec 5) (line half : Bool),
    (s.link_ lk).recv = m :: rest → m.flits = f :: fs → f.body = .msg qn line half none → f.dst = s.core.pos → m.dtix = s.core.tix →
    (s.web < m.due ∨ s.pairOwns 64 f.dst s.web = false ∨ s.gwSent = s.web + 1 → exec (.gatewayForward lk) s = .fault .notDue)
    ∧ (m.due ≤ s.web → s.pairOwns 64 f.dst s.web = true → s.gwSent ≠ s.web + 1 → s.core.run ≠ .parked →
      (s.queueTakes qn.toNat = false → exec (.gatewayForward lk) s = .next s)
      ∧ (s.queueTakes qn.toNat = true → ∃ t : State, exec (.gatewayForward lk) s = .next t ∧ KeepsRegisters s t ∧ KeepsMemory s t
        ∧ t.gwSent = s.web + 1 ∧ t.core.rq = s.core.rq
        ∧ t.core.forwarded = s.core.forwarded ++ (if line = true ∧ half = false then [] else [(qn, decide ((s.link_ lk).st = .slipped))])
        ∧ t.agenda = s.agenda ++ [(s.web + 5, .webFlitArrival f)] ∧ (t.link_ lk).recv = if fs = [] then rest else { m with flits := fs } :: rest)))
  ∧ (∀ (s : State) (lk : BitVec 4),
    let l := s.link_ lk
    let moved := fun (o : Out) (st : LinkSt) => ∃ t : State, o = .next t ∧ (t.link_ lk).st = st ∧ t.core = s.core ∧ KeepsMemory s t
      ∧ ∀ n : Fin 16, n.val ≠ lk.toNat → t.links[n] = s.links[n]
    let no : Out := .fault .notDue
    (l.st = .down → moved (exec (.linkInitialisation lk) s) .train) ∧ (l.st ≠ .down → exec (.linkInitialisation lk) s = no)
    ∧ (∀ lat : BitVec 20, (l.st ≠ .train → exec (.linkTrained lk lat) s = no)
      ∧ (l.st = .train → l.unsched = true → moved (exec (.linkTrained lk lat) s) .slipped)
      ∧ (l.st = .train → l.unsched = false → lat.toNat ≤ l.lat.toNat → moved (exec (.linkTrained lk lat) s) .timed)
      ∧ (l.st = .train → l.unsched = false → l.lat.toNat < lat.toNat → exec (.linkTrained lk lat) s = .next { s with
          dev := { s.dev with tlog := lk :: s.dev.tlog } }))
    ∧ (l.st = .train → moved (exec (.trainingTimeout lk) s) .down
        ∧ (l.replay ≠ [] → ∃ t, exec (.trainingTimeout lk) s = .next t ∧ t.dev.sent = .lost lk l.replay :: s.dev.sent)) ∧ (l.st ≠ .train → exec (.trainingTimeout lk) s = no)
    ∧ (l.st = .timed → s.linkInUse lk = false → moved (exec (.retrain lk) s) .train)
    ∧ (l.st ≠ .timed ∨ s.linkInUse lk = true → exec (.retrain lk) s = no)
    ∧ (l.st = .timed ∨ l.st = .slipped → moved (exec (.unscheduledRetrain lk) s) .train ∧ ∃ t, exec (.unscheduledRetrain lk) s = .next t
        ∧ t.part.tf = (s.part.tf || s.linkInUse lk) ∧ t.dev.tlog = lk :: s.dev.tlog ∧ (t.link_ lk).unsched = true
        ∧ (t.link_ lk).rtr.toNat = min (l.rtr.toNat + 1) 0xFFFF)
    ∧ (l.st = .down ∨ l.st = .train → exec (.unscheduledRetrain lk) s = no)
    ∧ (l.st = .slipped → moved (exec (.synchronisationPoint lk) s) .timed) ∧ (l.st ≠ .slipped → exec (.synchronisationPoint lk) s = no)
    ∧ (∀ t0, l.cut = some t0 → (s.web < t0 → exec (.missedArrival lk) s = no) ∧ (t0 ≤ s.web → ∃ t, exec (.missedArrival lk) s = .next t
        ∧ (t.link_ lk).cut = none ∧ (t.link_ lk).miss.toNat = min (l.miss.toNat + 1) 0xFFFF ∧ t.core = s.core))
    ∧ (l.cut = none → exec (.missedArrival lk) s = no)
    ∧ ∃ t, exec (.linkstRead lk) s = .next t ∧
      let n := if l.newAt = s.web + 1 then l.new else Vector.replicate 3 0
      (t.link_ lk) = { l with rpl := n[0], miss := n[1], rtr := n[2] }
      ∧ ∃ x : Word, t.dev.sent = .value x :: s.dev.sent ∧ bitsAt x 48 16 = l.rpl - n[0] ∧ bitsAt x 32 16 = l.miss - n[1] ∧ bitsAt x 16 16 = l.rtr - n[2]
        ∧ bitsAt x 0 2 = (match l.st with
          | .down => 0
          | .train => 1
          | .timed => 2
          | .slipped => 3))
  ∧ ∀ (div : BitVec 2) (s : State), div ≠ 3 → (s.fabricKind = false → exec (.paceMessage div) s = .next s)
    ∧ (s.fabricKind = true → ∃ t : State, exec (.paceMessage div) s = .next t ∧ t.core = s.core
      ∧ (bitsAt t.region.rv 0 2 = if s.region.fast = true ∨ div = 1 then 1 else if bitAt s.region.alm 2 = true ∨ div = 2 then 2 else 0)
      ∧ ∀ b : Nat, 2 ≤ b → b < 64 → bitAt t.region.rv b = bitAt s.region.rv b)

/-- The region: samples, synthesiser, throttling, errors, voltage and heat (20 R355 to R374, 21 R382, 22 R391 to R396).  The model's
choices among its clauses: the boundary moves by at most one pulse when the edge comes in the budget's last cycle or within a pulse of its
end (log 78), a fast throttle stands until its release although ALM is clear (log 54), errors come as events (log 43), one in another SRAM is a late fault of the
slot that reads it (log 95), and what the runtime finds of a quadrant changes the resource map (log 90). -/
def Obligations.RegionEvents : Prop :=
  ∀ s : State,
    let r := s.region
    let no : Out := .fault .notDue
    let keeps := fun (t : State) => t.core.r = s.core.r ∧ t.core.lat = s.core.lat ∧ t.core.seq = s.core.seq ∧ t.core.cyc = s.core.cyc
      ∧ t.core.land = s.core.land ∧ KeepsMemory s t
    let only := fun (o : Out) (f : Region → Prop) => ∃ t : State, o = .next t ∧ keeps t ∧ f t.region
    let plus := fun (x : BitVec 16) (n : Nat) => BitVec.ofNat 16 (min (x.toNat + n) 0xFFFF)
    let begins := fun (u : Region) => u.smpc = (if r.fresh then 0 else r.smpc + 1)
      ∧ u.bud = (u.smpc + 1) * r.num / r.den - u.smpc * r.num / r.den
      ∧ u.cis = 0 ∧ u.gated = decide (u.bud = 0) ∧ u.fresh = false ∧ u.pending = false ∧ u.ovr = r.ovr
    let rvBut := fun (u : Region) (p : Nat → Bool) => ∀ b : Nat, b < 64 → p b = false → bitAt u.rv b = bitAt r.rv b
    (∀ far n, (r.st = .off → exec (.sourceEdge far n) s = .next s)
      ∧ (r.st = .acq → r.locked = false → exec (.sourceEdge far n) s = .next s)
      ∧ (r.st = .acq → r.locked = true → only (exec (.sourceEdge far n) s) fun u => begins u ∧ u.st = .track ∧ u.base = s.web)
      ∧ (r.st = .track ∨ r.st = .limit → s.occupied = true → s.inFabric = false → s.onWebRef = true →
        (r.gated = true → only (exec (.sourceEdge far n) s) fun u => begins u ∧ u.st = .track ∧ u.drop = r.drop
          ∧ u.miss = (if r.fresh = false ∧ 2 ≤ n then plus r.miss (n - 1) else r.miss)
          ∧ u.phev = (if r.fresh = false ∧ n < 2 ∧ far = true ∧ s.web ≤ r.ended + r.pulse then plus r.phev 1 else r.phev))
        ∧ (r.gated = false → only (exec (.sourceEdge far n) s) fun u => u.pending = true ∧ u.st = .track ∧ u.gated = false
          ∧ u.smpc = r.smpc ∧ u.cis = r.cis ∧ u.bud = r.bud ∧ u.miss = r.miss ∧ u.drop = (if r.pending then plus r.drop 1 else r.drop)
          ∧ u.phev = (if r.pending = false ∧ far = true ∧ r.bud ≤ r.cis + 1 then plus r.phev 1 else r.phev)))
      ∧ (r.st = .track ∨ r.st = .limit → s.occupied = false → only (exec (.sourceEdge far n) s) fun u => u = { r with st := u.st }
          ∧ (u.st = .track ∨ u.st = .limit) ∧ (s.onWebRef = true → u.st = .track))
      ∧ (r.st = .hold → only (exec (.sourceEdge far n) s) fun u => u.st = .track ∧ u.pending = true ∧ u.phev = plus r.phev 1
          ∧ u.drop = (if r.pending then plus r.drop 1 else r.drop) ∧ u.smpc = r.smpc)
      ∧ (r.st = .frozen → only (exec (.sourceEdge far n) s) fun u => u = { r with st := .relock, locked := false })
      ∧ (r.st = .relock → r.locked = false → exec (.sourceEdge far n) s = .next s)
      ∧ (r.st = .relock → r.locked = true → only (exec (.sourceEdge far n) s) fun u => begins u ∧ u.st = .track ∧ u.base = s.web
          ∧ (r.fresh = false → u.miss = plus r.miss (n - 1))))
    ∧ (r.cis < r.bud ∨ r.gated = true → exec .budgetEnd s = no)
    ∧ (r.bud ≤ r.cis → r.gated = false →
      (r.pending = true ∨ (r.st ≠ .hold ∧ s.inFabric = true) → only (exec .budgetEnd s) begins)
      ∧ (r.pending = false → r.st = .hold → only (exec .budgetEnd s) fun u => u = { r with st := .frozen, gated := true, ended := s.web + 1 })
      ∧ (r.pending = false → r.st ≠ .hold → s.inFabric = false → exec .budgetEnd s = .next { s with region := { r with gated := true, ended := s.web + 1 } }))
    ∧ ((r.st = .track ∨ r.st = .limit) → only (exec .edgesAbsent s) fun u => u = { r with st := if r.gated then .frozen else .hold })
    ∧ (r.st = .relock → only (exec .edgesAbsent s) fun u => u = { r with st := .frozen, locked := false })
    ∧ (r.st = .off ∨ r.st = .acq ∨ r.st = .hold ∨ r.st = .frozen → exec .edgesAbsent s = no)
    ∧ (r.st = .acq ∨ r.st = .relock → exec .lockAchieved s = .next { s with region := { r with locked := true } })
    ∧ (r.st ≠ .acq → r.st ≠ .relock → exec .lockAchieved s = no)
    ∧ (s.occupied = true → exec .startAcquisition s = .next s ∧ exec .synthesiserStop s = .next s)
    ∧ (s.occupied = false → r.st = .off → only (exec .startAcquisition s) fun u => u.st = .acq ∧ bitAt u.rclk 63 = true
        ∧ (∀ b, b < 63 → bitAt u.rclk b = bitAt r.rclk b) ∧ u.locked = false ∧ u.gated = true)
    ∧ (s.occupied = false → only (exec .synthesiserStop s) fun u => u.st = .off ∧ bitAt u.rclk 63 = false
        ∧ (∀ b, b < 63 → bitAt u.rclk b = bitAt r.rclk b) ∧ u.gated = true)
    ∧ (∀ a : BitVec 4, let b := a &&& 0b1011
      let off := (b = 0 ∧ r.fast = false) ∨ (bitAt a 3 = true ∧ s.dev.mcap = 0)
      (off → exec (.fastThrottle a) s = no)
      ∧ (¬off → only (exec (.fastThrottle a) s) fun u => u.fast = true ∧ u.div = 1 ∧ u.alm = (r.alm &&& 0b0100) ||| b
          ∧ rvBut u fun b => b < 2 || (16 ≤ b && b < 20)))
    ∧ (r.fast = false ∨ r.alm &&& 0b1011 ≠ 0 → exec .throttleRelease s = no)
    ∧ (r.fast = true → r.alm &&& 0b1011 = 0 → only (exec .throttleRelease s) fun u => u.fast = false ∧ u.alm = r.alm
        ∧ u.div = (if r.peer = 1 then 1 else if bitAt r.alm 2 = true ∨ r.peer = 2 then 2 else 0) ∧ rvBut u fun b => b < 2)
    ∧ (s.part.capw = 0 → exec (.capThrottling true) s = no)
    ∧ (s.part.capw ≠ 0 → only (exec (.capThrottling true) s) fun u => u.alm = r.alm ||| 0b0100
        ∧ u.div = (if r.fast = true ∨ r.peer = 1 then 1 else 2) ∧ rvBut u fun b => b < 2 || (16 ≤ b && b < 20))
    ∧ only (exec (.capThrottling false) s) (fun u => u.alm = r.alm &&& 0b1011
        ∧ u.div = (if r.fast = true ∨ r.peer = 1 then 1 else if r.peer = 2 then 2 else 0) ∧ rvBut u fun b => b < 2 || (16 ≤ b && b < 20))
    ∧ (∃ t : State, exec (.correctableError 0) s = .next t ∧ t.region = { r with swallow := r.swallow + 12 } ∧ t.core = s.core
        ∧ t.dev.err[0] = s.dev.err[0] + 1 ∧ KeepsMemory s t)
    ∧ (∃ t u : State, exec (.correctableError 2) s = .next t ∧ exec (.correctableError 4) s = .next u ∧ t.region = r ∧ u.region = r
        ∧ t.core = s.core ∧ u.core = s.core ∧ t.dev.err[2] = s.dev.err[2] + 1 ∧ u.dev.err[4] = s.dev.err[4] + 1 ∧ KeepsMemory s t ∧ KeepsMemory s u)
    ∧ (∀ (g base limit : Nat) (at_ : ErrorAt), (at_, base, limit) ∈ [(ErrorAt.pad g, 0, 0x6000), (.quire g, 2 ^ 20, 0x10000), (.wbuf g, 2 ^ 21, 0x1000), (.istore g, 2 ^ 22, 2048)] →
      let ev := exec (.uncorrectableError at_) s
      (limit ≤ g → ev = no)
      ∧ (g < limit → ∃ t : State, ev = .next t ∧ keeps t ∧ t.dev.err[1] = s.dev.err[1] + 1 ∧ ∀ x, x ∈ t.core.poison ↔ x ∈ s.core.poison ∨ x = base + g))
    ∧ (∀ g : Nat, (0x10000 ≤ g → exec (.uncorrectableError (.base g)) s = no)
      ∧ (g < 0x10000 → ∃ t : State, exec (.uncorrectableError (.base g)) s = .next t ∧ t.core = s.core ∧ t.region = r ∧ KeepsMemory s t
          ∧ t.dev.err[1] = s.dev.err[1] + 1 ∧ ∀ x, x ∈ t.dev.basePoison ↔ x ∈ s.dev.basePoison ∨ x = 2 ^ 20 + g))
    ∧ (∀ slot : BitVec 3, ∃ (t : State) (i : FaultInfo), exec (.uncorrectableError (.other slot)) s = .next t ∧ keeps t
        ∧ t.core.lateDue = s.core.lateDue ++ [(s.core.cyc, i)] ∧ i.kind = .uncorrectableData ∧ i.slot = slot.toNat ∧ i.resumes = false
        ∧ t.dev.err[1] = s.dev.err[1] + 1)
    ∧ (∀ (q : BitVec 7) (w : BitVec 52), (96 ≤ q.toNat → exec (.uncorrectableError (.quadrant q w)) s = no)
      ∧ (q.toNat < 96 → Tab.okAbove (0 : Word) 0 s.dev.rmap = true → ∃ t : State, exec (.uncorrectableError (.quadrant q w)) s = .next t ∧ t.core = s.core ∧ t.region = r ∧ KeepsMemory s t
          ∧ (let x := Tab.get 0 t.dev.rmap q.toNat
             bitsAt x 0 52 = w ∧ bitAt x 52 = bitAt (Tab.get 0 s.dev.rmap q.toNat) 52)
          ∧ ∀ k : Nat, k ≠ q.toNat → Tab.get 0 t.dev.rmap k = Tab.get 0 s.dev.rmap k))
    ∧ (∀ (i : Nat) (tsv : Bool) (at_ : Nat) (w : EngWrite), s.arriving[i]? = some (at_, w) → w.place ≠ .away → w.atm = none → w.wms = none →
      ∃ (t : State) (x : EngWrite), exec (.uncorrectableError (.transit i tsv)) s = .next t ∧ keeps t ∧ t.arriving = s.arriving.set i (at_, x)
        ∧ x.place = (match w.place with
          | .remote fl => .remote { fl with data := x.data }
          | p => p)
        ∧ x.cmd = w.cmd ∧ (∀ k, k < 16 → elem x.data 32 k = 0x7FC00000)
        ∧ (w.bad = none → ∀ id n k, w.cmd = some (id, n) → s.core.cmd id = some k →
            x.bad.map (fun f => (f.kind, f.resumes, f.word)) = some (.uncorrectableData, true, k.word))
        ∧ t.dev.err[6] = s.dev.err[6] + (if tsv then 1 else 0) ∧ t.dev.err[3] = s.dev.err[3] + (if tsv = false ∧ w.port = 0 then 1 else 0))
    ∧ (let v := (bitsAt r.rv 32 16).toNat
      let vout := fun (o : Out) (n : Nat) => only o fun u => (bitsAt u.rv 32 16).toNat = n ∧ rvBut u fun b => 32 ≤ b && b < 48
      (bitAt r.rv 63 = true → exec .canaryFailure s = no ∧ exec .voutStepDown s = no)
      ∧ (bitAt r.rv 63 = false → vout (exec .canaryFailure s) (min (v + 5) 0xFFFF) ∧ vout (exec .voutStepDown s) (v - 5))
      ∧ ∀ (up : Bool) (mv : BitVec 3), (bitAt r.rv 63 = false ∨ 5 < mv.toNat → exec (.replicaTrim up mv) s = no)
        ∧ (bitAt r.rv 63 = true → mv.toNat ≤ 5 → vout (exec (.replicaTrim up mv) s)
            (if up then min (v + mv.toNat) 0xFFFF else v - mv.toNat)))
    ∧ ∀ (k : BitVec 4) (l : BitVec 2), (12 ≤ k.toNat → exec (.heatLevelChange k l) s = no)
      ∧ (k.toNat < 12 → ∃ t : State, exec (.heatLevelChange k l) s = .next t ∧ t.core = s.core ∧ t.region = r ∧ t.dev.htl = s.dev.htl
          ∧ (t.heatLevels.dev.htl[k.toNat]?) = some l ∧ (s.dev.htlNext = [] → ∀ j : Nat, j < 12 → j ≠ k.toNat → t.heatLevels.dev.htl[j]? = s.dev.htl[j]?))

/-- Launch entries, the start and end of a kernel, and pre-emption (19 R340 to R347, 21 R387, R388, 11 R196).  The model's choices among its
clauses: a launch waits for the scan of the access counters (log 14), the credit is taken when the entry is chosen (62), the count since the
last PS bundle is restored (68), a launch beyond the partition's slots fails placement (82), a SUB written in the web cycle in which the
kernel ends takes effect instead (89), KERNEL_START and KERNEL_COMPLETE bring shares and other cores' aborts (90), the
section of the core's own region comes with the shares (87), and the tables are judged in the order in which they are read (107). -/
def Obligations.LaunchAndPreEmption : Prop :=
  (∀ (s : State) (e : BitVec 3),
    let p := s.part
    let no : Out := .fault .notDue
    let q := { p with subAt := p.subAt.set e.toNat (s.web + 1) }
    (p.stOf e.toNat = 2 → exec (.submission e) s = .next { s with part := q })
    ∧ (p.stOf e.toNat ≠ 2 → e.toNat ∈ p.deps e.toNat → exec (.submission e) s = .next { s with part := { q with
        st := p.st.set e.toNat 4, cause := 6 } })
    ∧ (p.stOf e.toNat ≠ 2 → e.toNat ∉ p.deps e.toNat → exec (.submission e) s = .next { s with part := { q with
        st := p.st.set e.toNat 1, sub := p.sub.set e.toNat p.nextSub, nextSub := p.nextSub + 1 } })
    ∧ exec .go s = .next { s with part := { p with credits := min 8 (p.credits + 1) } }
    ∧ (p.ready e.toNat = true ↔ p.stOf e.toNat = 1 ∧ ∀ f ∈ p.deps e.toNat, p.stOf f = 3 ∨ p.stOf f = 0)
    ∧ ∀ sh : Option Shares,
      (p.subAt[e.toNat] = s.web + 1 → exec (.kernelStart e sh) s = no)
    ∧ (p.subAt[e.toNat] ≠ s.web + 1 → p.stOf e.toNat = 1 → (∃ f ∈ p.deps e.toNat, p.stOf f = 4) → exec (.kernelStart e sh) s = .next { s with part := { p with
        st := p.st.set e.toNat 4, cause := 4 } })
    ∧ (p.subAt[e.toNat] ≠ s.web + 1 → p.blockedBy e.toNat = false →
      let sharesFit := ∀ x, sh = some x → sharesOk x = true
      (p.resident.isSome = true ∨ p.credits = 0 ∨ p.isNext e.toNat = false ∨ s.web % 4608 ≠ 0 ∨ s.dev.scanDue = true ∨ ¬sharesFit ∨ s.regionsOk e.toNat = false →
        exec (.kernelStart e sh) s = no)
      ∧ ((∃ k ∈ kernelRegions (p.coresOf e.toNat), let ck := (s.regionRegs k).1
          (bitsAt ck 39 20).toNat < (bitsAt ck 27 12).toNat ∨ 10 ≤ (bitsAt ck 59 4).toNat
          ∨ 2700000000 * ((bitsAt ck 27 12).toNat + 1) < ((bitsAt ck 39 20).toNat + 1) * (bitsAt (s.regionRegs k).2 0 28).toNat) → s.regionsOk e.toNat = false)
      ∧ (p.resident = none → p.credits ≠ 0 → p.isNext e.toNat = true → s.web % 4608 = 0 → s.dev.scanDue = false → sharesFit → s.regionsOk e.toNat = true →
        let u := State.reshare { s with part := { p with credits := p.credits - 1 } } sh
        let q := u.part
        let aborts := fun (o : Out) (cause : BitVec 5) => ∃ t : State, o = .next t ∧ t.part = { q with
          st := p.st.set e.toNat 4, cause := cause } ∧ t.core = s.core ∧ KeepsMemory s t
        let w := p.dw e.toNat
        let code := u.sectionOf e.toNat sh
        (sh = none → u = { s with part := { p with credits := p.credits - 1 } })
        ∧ (∀ x, sh = some x → Tab.okAbove (0 : Word) 0 s.dev.rmap = true → ∀ k, k < 96 → bitAt (Tab.get 0 u.dev.rmap k) 52 = !x.regions.contains k)
        ∧ (∀ x, sh = some x → q.frames = x.frames ∧ q.quireShare = x.quire ∧ q.cells = x.cells ∧ q.hbmShare = x.hbmSlots ∧ q.feltShare = x.feltSlots)
        ∧ code = (match sh.bind (·.code) with
          | some (img, len, entry) => (img.toNat, len.toNat, entry.toNat)
          | none => (w 0, w 1 % 2 ^ 11, w 1 / 2 ^ 32 % 2 ^ 10))
        ∧ (u.placement (p.coresOf e.toNat) (u.phys (w 6) 8) = none ∨ u.slotsFit (w 6) = false → u.place e.toNat = none)
        ∧ (p.wellFormed e.toNat = false ∨ u.tablesOk e.toNat = false → aborts (exec (.kernelStart e sh) s) 5)
        ∧ (p.wellFormed e.toNat = true → u.tablesOk e.toNat = true →
          (u.place e.toNat = none → aborts (exec (.kernelStart e sh) s) 1)
          ∧ ∀ pl hs, u.place e.toNat = some (pl, hs) →
            (u.loadsOk e.toNat = false → aborts (exec (.kernelStart e sh) s) 5)
            ∧ (u.loadsOk e.toNat = true → u.movesPend hs = true → exec (.kernelStart e sh) s = no)
            ∧ (u.loadsOk e.toNat = true → u.movesPend hs = false → ∃ t : State, exec (.kernelStart e sh) s = .next t
              ∧ t.part.st = p.st.set e.toNat 2 ∧ t.part.resident = some e ∧ t.part.credits = p.credits - 1
              ∧ t.part.cores.toNat = p.coresOf e.toNat ∧ t.core.tix = s.core.tix ∧ t.core.cyc = 0 ∧ t.core.fstat = 0 ∧ t.core.slip = 0
              ∧ t.core.seq = { half := 0, index := BitVec.ofNat 10 code.2.2, loops := [] }
              ∧ (∀ k, k ≤ code.2.1 → Tab.get 0 t.core.istore k = BitVec.ofNat 256 (u.phys (code.1 + 32 * k) 32)) ∧ t.core.lat = Latches.zero
              ∧ t.core.mark.inForce = false ∧ t.core.gate = [] ∧ t.core.land = [] ∧ t.core.stores = [] ∧ t.core.mx = .launch
              ∧ t.core.run = (if s.core.tix.toNat ≤ p.coresOf e.toNat then .running else .halted)
              ∧ (s.core.tix.toNat ≤ p.coresOf e.toNat → ∃ (a : Vector Word 32) (st : Vector (BitVec 512) 16),
                t.core.r = { Regs.launch with a := a, st := st } ∧ a[0] = 0
                ∧ ∀ n : Fin 32, n.val ≠ 0 → a[n] = BitVec.ofNat 64 (Memory.readNat t.hbm (w 8 + 0x800 * s.core.tix.toNat + 0x600 + 8 * n.val) 8)))))))
  ∧ (∀ s : State,
    let no : Out := .fault .notDue
    let ends := fun (e : BitVec 3) (st : BitVec 3) => s.part.st.set e.toNat (if s.part.subAt[e.toNat] = s.web + 1 then 1 else st)
    (∀ e, s.part.resident = some e → s.core.run = .halted → s.allPerformed = true →
      (s.part.subAt[e.toNat] ≠ s.web + 1 → exec (.kernelComplete none) s = .next { s with part := { s.part with st := ends e 3, resident := none } })
      ∧ ∃ t : State, exec (.kernelComplete none) s = .next t ∧ t.part.st = ends e 3 ∧ t.part.resident = none ∧ t.core = s.core ∧ KeepsMemory s t)
    ∧ (s.part.resident = none ∨ s.core.run ≠ .halted ∨ s.allPerformed = false → exec (.kernelComplete none) s = no)
    ∧ (∀ cause code,
      (s.part.resident = none ∨ s.part.cores = 0 ∨ (cause ≠ 2 ∧ cause ≠ 3) → exec (.kernelComplete (some (cause, code))) s = no)
      ∧ ∀ e, s.part.resident = some e → s.part.cores ≠ 0 → cause = 2 ∨ cause = 3 → ∃ t : State, exec (.kernelComplete (some (cause, code))) s = .next t
        ∧ t.core.run = .aborted ∧ t.core.gate = s.core.gate.filter (·.committed) ∧ t.part.cause = cause ∧ t.part.st = ends e 4
        ∧ t.part.resident = none ∧ (cause = 2 → t.part.tcode = code) ∧ KeepsRegisters s t ∧ KeepsMemory s t)
    ∧ (s.occupied = true → exec .preEmptionRequest s = .next { s with core := { s.core with preReq := true } })
    ∧ (s.occupied = false → exec .preEmptionRequest s = .next s)
    ∧ (∀ e, s.part.resident = some e → s.core.preReq = true → (s.core.run = .draining ∨ s.core.run = .halted) → s.drained = true → s.allArrived = true →
      ∃ (t : State) (p : Parked), exec .park s = .next t ∧ t.core = { s.core with run := .parked } ∧ KeepsMemory s t
        ∧ p.core = s.core ∧ p.smpc = s.region.smpc ∧ p.entry = e ∧ p.cores = s.part.cores ∧ p.place = s.dev.place ∧ p.mapUsed = s.dev.mapUsed ∧ p.homeTab = s.dev.homeTab ∧ t.part.shadow = some p
        ∧ t.part.moved = s.part.shadow.toList ++ s.part.moved
        ∧ (s.part.cores = 0 → t.part.parked = true ∧ t.part.resident = none)
        ∧ (s.part.cores ≠ 0 → t.part.parked = s.part.parked ∧ t.part.resident = some e))
    ∧ (s.part.resident = none ∨ s.core.preReq = false ∨ s.drained = false ∨ s.allArrived = false ∨ (s.core.run ≠ .draining ∧ s.core.run ≠ .halted) → exec .park s = no)
    ∧ (s.part.shadow = none ∨ (s.part.resident.isSome = true ∧ s.core.run ≠ .parked) → exec .restore s = no)
    ∧ ∀ p : Parked, s.part.shadow = some p → (s.part.resident = none ∨ s.core.run = .parked) → ∃ t : State, exec .restore s = .next t ∧ t.core.r = p.core.r ∧ t.core.seq = p.core.seq
      ∧ t.core.fstat = p.core.fstat ∧ t.core.scratch = p.core.scratch ∧ t.core.mx = p.core.mx ∧ t.core.sp = p.core.sp
      ∧ t.core.mark = p.core.mark ∧ t.core.psCount = p.core.psCount ∧ t.core.lat = Latches.zero ∧ t.core.preReq = false ∧ t.core.slipOnIssue = true
      ∧ t.core.run = (if p.core.run = .halted then .halted else .running) ∧ t.region.smpc = p.smpc ∧ t.region.gated = true
      ∧ t.region.st = (if bitsAt s.region.rclk 59 4 = s.region.lockSrc then s.region.st else .relock)
      ∧ t.part.parked = false ∧ t.part.shadow = s.part.moved.head? ∧ t.part.moved = s.part.moved.drop 1 ∧ t.part.resident = some p.entry ∧ t.hbm = s.hbm
      ∧ t.dev.place = p.place ∧ t.dev.mapUsed = p.mapUsed ∧ t.dev.homeTab = p.homeTab)

/-- The driver and the mill cores (05 R89 to R107, 06 R120, 17 R316, 01 R17, 22 R391, R394, R400).  The model's choices among its clauses: the
next launch and its moves wait for the scan (log 14), a write of the base die's mirror is no event (69), and a DISCARD extent is zeroed in
whichever frame it is revived (80). -/
def Obligations.DriverAndMillCores : Prop :=
  (∀ (s : State) (ent : BitVec 10) (lo hi : Word), Tab.okAbove (0 : BitVec 128) 0 s.core.xlat = true → Tab.okAbove (0 : BitVec 65) 0 s.dev.xlatLow = true →
    let old := Tab.get 0 s.core.xlat ent.toNat
    ∃ (t v : State) (new : BitVec 128), exec (.translationEntryWrite ent false lo) s = .next t ∧ t.core = s.core
      ∧ exec (.translationEntryWrite ent true hi) t = .next v ∧ v.core = s.core ∧ v.dev.xlatNew = s.dev.xlatNew ++ [(ent, new)]
      ∧ let u := State.takeEntries { v with dev := { v.dev with xlatNew := [(ent, new)] } }
      u.dev.xlatNew = [] ∧ (let e := Tab.get 0 u.core.xlat ent.toNat
        bitsAt e 0 64 = lo ∧ bitsAt e 64 49 = bitsAt hi 0 49 ∧ bitsAt e 113 4 = 0 ∧ bitsAt e 117 10 = bitsAt old 117 10
        ∧ bitAt e 127 = bitAt hi 63)
      ∧ ∀ k : Nat, k ≠ ent.toNat → Tab.get 0 u.core.xlat k = Tab.get 0 s.core.xlat k)
  ∧ (∀ (s : State) (ent : BitVec 10) (pb : BitVec 22), Tab.okAbove (0 : BitVec 128) 0 s.core.xlat = true →
    let e := Tab.get 0 s.core.xlat ent.toNat
    let out := s.extentsIn ent (pb.toNat * 0x40000) (extentBytes e)
    (s.core.awaitsResidency ent = false ∨ s.evictable out = false ∨ (out ≠ [] ∧ s.hasFreeFrame ent e = true) → exec (.residencyFaultService ent pb) s = .fault .notDue)
    ∧ (frameFits e (pb.toNat * 0x40000) = false ∨ within s.part.frames (pb.toNat * 0x40000) (extentBytes e) = false ∨ (bitsAt e 3 2 = 3 ∧ bitsAt e 117 10 ≠ 0) →
      exec (.residencyFaultService ent pb) s = .fault .notDue)
    ∧ (s.core.awaitsResidency ent = true → out = [] →
      frameFits e (pb.toNat * 0x40000) = true → within s.part.frames (pb.toNat * 0x40000) (extentBytes e) = true → (bitsAt e 3 2 = 3 → bitsAt e 117 10 = 0) → ∃ t : State,
      exec (.residencyFaultService ent pb) s = .next t ∧ t.core.run = .running ∧ t.core.lat = Latches.zero ∧ t.core.seq = s.core.seq
      ∧ t.core.r = s.core.r ∧ t.core.scratch = s.core.scratch ∧ t.dev.active.head? = some ent
      ∧ (let e' := Tab.get 0 t.core.xlat ent.toNat
        bitsAt e' 37 22 = pb ∧ bitsAt e' 3 2 = 1 ∧ bitsAt e' 0 3 = bitsAt e 0 3 ∧ bitsAt e' 5 32 = bitsAt e 5 32 ∧ bitsAt e' 59 69 = bitsAt e 59 69)
      ∧ (bitsAt e 3 2 = 2 → ∀ a, pb.toNat * 0x40000 ≤ a → a < pb.toNat * 0x40000 + extentBytes e → Memory.byte t.hbm a = 0)
      ∧ (bitsAt e 3 2 = 3 → Memory.wf s.hbm = true → ∀ i, i < extentBytes e →
          Memory.byte t.hbm (pb.toNat * 0x40000 + i) = Memory.byte s.hbm (extentBase e + i))))
  ∧ (∀ (s : State) (others : List (BitVec 10 × BitVec 5 × BitVec 16)), Tab.okAbove (0 : BitVec 128) 0 s.core.xlat = true →
    (∀ x ∈ s.core.xlat, x.1 < 1024) → (∀ x ∈ others, x.2.1.toNat < 24) → (others = [] ∨ s.part.cores ≠ 0) → ∃ t : State,
    exec (.accessCounterScan others) s = .next t ∧ t.core.r = s.core.r ∧ KeepsMemory s t
    ∧ ∀ k : Nat, let e := Tab.get 0 s.core.xlat k
      let e' := Tab.get 0 t.core.xlat k
      bitsAt e' 97 16 = 0 ∧ bitsAt e' 0 97 = bitsAt e 0 97 ∧ bitsAt e' 113 15 = bitsAt e 113 15)
  ∧ (∀ (s : State) (ent : BitVec 10) (pb : BitVec 22), Memory.wf s.hbm = true → Tab.okAbove (0 : BitVec 128) 0 s.core.xlat = true →
    let e := s.homeOf ent
    let a := pb.toNat * 0x40000
    let out := s.extentsIn ent a (extentBytes e)
    let due := ∃ h ∈ s.nextHomes, h.ent = ent.toNat ∧ h.new = a ∧ h.old = extentBase e ∧ h.homed = true
    (s.part.resident.isSome = true ∨ s.dev.scanDue = true ∨ ¬due ∨ bitsAt e 117 10 ≠ 0 ∨ extentBase e = a ∨ s.evictable out = false
        ∨ (out ≠ [] ∧ s.hasFreeFrame ent e = true) → exec (.pageMove ent pb) s = .fault .notDue)
    ∧ (s.part.resident = none → s.dev.scanDue = false → due → bitsAt e 117 10 = 0 → out = [] → Tab.okAbove (0 : BitVec 128) 0 s.dev.homeTab = true →
      extentBase e ≠ a → ∃ t : State, exec (.pageMove ent pb) s = .next t ∧ Memory.wf t.hbm = true
        ∧ (bitAt (Tab.get 0 s.core.xlat ent.toNat) 127 = true → let e' := Tab.get 0 t.core.xlat ent.toNat
           bitsAt e' 37 22 = pb ∧ bitsAt e' 3 2 = 1 ∧ bitsAt e' 0 3 = bitsAt e 0 3 ∧ bitsAt e' 5 32 = bitsAt e 5 32 ∧ bitsAt e' 59 69 = bitsAt e 59 69)
        ∧ (bitAt (Tab.get 0 s.core.xlat ent.toNat) 127 = false → t.core = s.core)
        ∧ (let h := t.homeOf ent
           bitsAt h 37 22 = pb ∧ bitsAt h 3 2 = 1 ∧ bitsAt h 0 3 = bitsAt e 0 3 ∧ bitsAt h 5 32 = bitsAt e 5 32 ∧ bitAt h 127 = bitAt e 127)
        ∧ (∀ i, i < extentBytes e → Memory.byte t.hbm (a + i) = Memory.byte s.hbm (extentBase e + i))
        ∧ ∀ b, b < a ∨ a + extentBytes e ≤ b → Memory.byte t.hbm b = Memory.byte s.hbm b))
  ∧ (∀ (s : State) (pa : BitVec 40) (x : Word),
    let a := pa.toNat
    (a % 8 ≠ 0 → ∀ wr, exec (.millCoreAccess pa wr x) s = .fault .notDue)
    ∧ (s.dev.boot = .failed → ∀ wr off, s.event (.millCoreAccess pa wr x) = .fault .notDue ∧ s.event (.registerWrite off x) = .fault .notDue)
    ∧ (a % 8 = 0 → a < Config.hbmEnd → exec (.millCoreAccess pa true x) s = .next { s with hbm := Memory.writeNat s.hbm a 8 x.toNat }
      ∧ exec (.millCoreAccess pa false x) s = .next { s with dev := { s.dev with
          sent := .value (BitVec.ofNat 64 (Memory.readNat s.hbm a 8)) :: s.dev.sent } })
    ∧ (a % 8 = 0 → Config.quireBase ≤ a → a < Config.quireBase + Config.quireBytes → exec (.millCoreAccess pa true x) s = .fault .notDue
      ∧ exec (.millCoreAccess pa false x) s = .next { s with dev := { s.dev with
          sent := .value (BitVec.ofNat 64 (s.baseNat (a - Config.quireBase))) :: s.dev.sent } }
      ∧ (s.dev.basePoison = [] → s.baseNat (a - Config.quireBase) = Memory.readNat s.quire (a - Config.quireBase) 8))
    ∧ (a % 8 = 0 → 0xFC00000000 ≤ a → exec (.millCoreAccess pa true x) s = exec (.registerWrite (BitVec.ofNat 34 (a - 0xFC00000000)) x) s))
  ∧ (∀ (s : State) (off : BitVec 34) (x : Word),
    let ev := exec (.registerWrite off x) s
    (off.toNat % 8 ≠ 0 → ev = .fault .notDue)
    ∧ (off.toNat % 8 = 0 →
      (s.regAt off.toNat = .reserved ∨ s.regAt off.toNat = .other → ev = .next s)
      ∧ (∀ o, s.regAt off.toNat = .part o → o < 0x400 → ev = .next { s with part := { s.part with entry := Tab.put 0 s.part.entry (o / 8) x } })
      ∧ (s.regAt off.toNat = .part 0x400 → (∀ i, i < 8 → bitAt x i = false) → bitAt x 8 = true → ev = exec .go s)
      ∧ (s.regAt off.toNat = .part 0x410 → bitAt x 0 = true → bitAt x 1 = false → ev = exec .preEmptionRequest s)
      ∧ (s.regAt off.toNat = .part 0x418 →
        (bitsAt x 0 16 ≠ 0 ∨ bitAt s.region.alm 2 = false → ev = .next { s with part := { s.part with capw := bitsAt x 0 16 } })
        ∧ (bitsAt x 0 16 = 0 → bitAt s.region.alm 2 = true → ∃ t : State, ev = .next t ∧ t.core = s.core ∧ t.part = { s.part with capw := 0 }
            ∧ t.region.alm = s.region.alm &&& 0b1011))
      ∧ (s.regAt off.toNat = .rvreg → (s.occupied = true → ev = .next s)
        ∧ (s.occupied = false → ∃ t : State, ev = .next t ∧ t.core = s.core ∧ bitAt t.region.rv 63 = bitAt x 63 ∧ bitsAt t.region.rv 48 8 = bitsAt x 48 8
            ∧ ∀ b, b < 63 → b < 48 ∨ 56 ≤ b → bitAt t.region.rv b = bitAt s.region.rv b))
      ∧ (∀ o, s.regAt off.toNat = .core o → o < 0x4000 →
          ev = exec (.translationEntryWrite (BitVec.ofNat 10 (o / 16)) (o / 8 % 2 == 1) x) s)
      ∧ (∀ n, s.regAt off.toNat = .slp n → n < 24 → ev = if bitAt x 0 then exec (.sheetSleep (BitVec.ofNat 5 n)) s else exec (.sheetWake (BitVec.ofNat 5 n)) s)
      ∧ (s.regAt off.toNat = .device 0x8 →
        (bitsAt x 0 16 ≠ 0 ∨ bitAt s.region.alm 3 = false → ev = .next { s with dev := { s.dev with mcap := bitsAt x 0 16 } })
        ∧ (bitsAt x 0 16 = 0 → bitAt s.region.alm 3 = true → ∃ t : State, ev = .next t ∧ t.core = s.core ∧ t.dev.mcap = 0
            ∧ t.region.alm = s.region.alm &&& 0b0111))
      ∧ (s.regAt off.toNat = .device 0x10 → bitAt x 0 = true → ev = exec .managementTrigger s)))
  ∧ ∀ (b : Bool) (s : State), (s.part.resident.isSome = true ∨ b ≠ s.linkTrained → exec (.webClockInitialisation b) s = .fault .notDue)
    ∧ (s.part.resident = none → b = s.linkTrained → ∃ t : State, exec (.webClockInitialisation b) s = .next t ∧ t.web = 0 ∧ t.webRef = (if b then 8 else 9)
      ∧ t.core.r = s.core.r ∧ KeepsMemory s t)

/-- Sleep, snapshots, debug, boot and measurement (09 R170, 21 R384, R389, 22 R399 to R403).  The model's choices among its clauses: a power
cycle puts every field but flash and fuses at its value in State.reset (log 3), every memory among them (72), a response signs the
nonce, or the nonce and the measurements (71), and the snapshot registers that R389 numbers past offset 0x50FF stand there too (67). -/
def Obligations.SleepSnapshotsDebugAndBoot : Prop :=
  ∀ s : State,
    let no : Out := .fault .notDue
    let c := s.core
    (∀ sh : BitVec 5, (24 ≤ sh.toNat → exec (.sheetSleep sh) s = no ∧ exec (.sheetWake sh) s = no)
      ∧ (sh.toNat < 24 → (s.sheetInUse sh.toNat = true → exec (.sheetSleep sh) s = .next s ∧ exec (.sheetWake sh) s = .next s)
        ∧ (s.sheetInUse sh.toNat = false → ∃ t : State, exec (.sheetSleep sh) s = .next t ∧ t.dev.asleep[sh.toNat]? = some true ∧ t.core = c
          ∧ KeepsMemory s t)
        ∧ (s.sheetInUse sh.toNat = false → s.dev.asleep[sh.toNat]? = some false → exec (.sheetWake sh) s = .next s)
        ∧ (s.sheetInUse sh.toNat = false → s.dev.asleep[sh.toNat]? = some true → ∃ t : State, exec (.sheetWake sh) s = .next t
          ∧ t.dev.asleep[sh.toNat]? = some false ∧ t.core = c ∧ t.quire = s.quire ∧ t.hbm = s.hbm
          ∧ t.mirror = (if sh = c.sheet then s.quire else s.mirror)
          ∧ (sh = c.sheet → ∃ n, t.reload = some n ∧ s.web < n))))
    ∧ (s.reload = none → exec .mirrorReloadEnd s = no)
    ∧ (∀ n, s.reload = some n → (s.web < n → exec .mirrorReloadEnd s = no) ∧ (n ≤ s.web → exec .mirrorReloadEnd s = .next { s with reload := none, core := { c with reloadEnd := if s.inFabric then none else some s.web } }))
    ∧ (∀ ev src, (ev, src) ∈ [(Instr.managementTrigger, (2 : BitVec 3)), (.externalTrigger .pin, 3), (.externalTrigger .snap, 0), (.externalTrigger (.fault true none), 1)] →
      (c.snapTrg = true → exec ev s = .next s)
      ∧ (c.snapTrg = false → exec ev s = .next { s with
          core := { c with snapTrg := true, snapSrc := src, trgAt := s.moment + 1 }, dev := { s.dev with snapAt := s.dev.snapAt ++ [s.web + 24] } }))
    ∧ exec (.externalTrigger (.fault false none)) s = .next s
    ∧ (∀ w : Word, let ev := exec (.externalTrigger (.fault false (some w))) s
      let ok := bitAt w 63 = true ∧ (bitsAt w 60 3).toNat ≤ 4 ∧ bitsAt w 48 8 = 0
      (¬ok → ev = no)
      ∧ (ok → ∃ t : State, ev = .next t ∧ t.core.vlog[0] = w ∧ (∀ k : Fin 7, t.core.vlog[k.val + 1] = c.vlog[k.val]) ∧ t.dev.vlogN = s.dev.vlogN + 1
          ∧ KeepsRegisters s t ∧ KeepsMemory s t))
    ∧ (s.dev.snapAt = [] → exec .snapshotLatch s = no)
    ∧ (∀ n later, s.dev.snapAt = n :: later → (s.web < n → exec .snapshotLatch s = no) ∧ (n ≤ s.web → ∃ t : State, exec .snapshotLatch s = .next t
      ∧ t.core = { c with snapSeq := c.snapSeq + 1 } ∧ t.dev.snapAt = later ∧ KeepsMemory s t
      ∧ (c.seq.loops.length ≤ 6 → ∀ k v, (k, v) ∈ [(0, c.seq.half.toNat * 2 ^ 10 + c.seq.index.toNat), (13, c.cyc), (14, c.slip.toNat),
          (15, c.scnt % 2 ^ 16 * 2 ^ 16 + c.lcnt % 2 ^ 16)] → Tab.get 0 t.dev.snap k = BitVec.ofNat 64 v)))
    ∧ (s.dev.debugOpen = false ∨ c.run ≠ .running → exec .debugHalt s = no)
    ∧ (s.dev.debugOpen = false ∨ c.run ≠ .debugHalted → exec .debugResume s = no ∧ exec .singleBundleStep s = no)
    ∧ (s.dev.debugOpen = true → c.run = .running → exec .debugHalt s = .next { s with core := { c with
        run := .debugHalted, stopAt := some (c.cyc + c.dead), late := false } })
    ∧ (s.dev.debugOpen = true → c.run = .debugHalted → ∀ ev once, (ev, once) ∈ [(Instr.debugResume, false), (.singleBundleStep, true)] →
      ∃ t : State, exec ev s = .next t ∧ t.core.run = .running ∧ t.core.stepOnce = once ∧ t.core.r = c.r ∧ t.core.seq = c.seq
        ∧ t.core.lat = Latches.zero ∧ t.core.psCount = c.psCount ∧ t.core.fstat = c.fstat ∧ KeepsMemory s t)
    ∧ (∀ (wr : Bool) (at_ : DebugTarget) (v : BitVec 1024), s.dev.debugOpen = false → exec (.debugRegisterAccess wr at_ v) s = no)
    ∧ (∀ (off : BitVec 34) (v : BitVec 1024), s.dev.debugOpen = true →
      (s.isSnapshot off.toNat = false → ∀ wr, exec (.debugRegisterAccess wr (.snapshot off) v) s = no)
      ∧ ∀ o, s.regAt off.toNat = .core o → 0x5000 ≤ o → o < 0x5190 → exec (.debugRegisterAccess true (.snapshot off) v) s = .next s
        ∧ exec (.debugRegisterAccess false (.snapshot off) v) s = .next { s with dev := { s.dev with
            sent := .bits ((Tab.get 0 s.dev.snap ((o - 0x5000) / 8)).zeroExtend 1024) :: s.dev.sent } })
    ∧ (∀ (wr : Bool) (f : RegFile) (i : BitVec 10) (v : BitVec 1024), (c.run ≠ .debugHalted → exec (.debugRegisterAccess wr (.register f i) v) s = no)
      ∧ (s.dev.debugOpen = true → c.run = .debugHalted →
        let now := if c.flagAt = c.cyc + 1 then c.flagNew else 0
        (∀ n : Fin 32, f = .a → i = BitVec.ofNat 10 n.val → exec (.debugRegisterAccess false (.register f i) v) s = .next { s with dev := { s.dev with
            sent := .bits (if n = 0 then 0 else (c.r.a[n]).zeroExtend 1024) :: s.dev.sent } })
        ∧ (∀ n : Fin 32, f = .a → i = BitVec.ofNat 10 n.val → exec (.debugRegisterAccess true (.register f i) v) s = .next (if n = 0 then s else { s with
            core := { c with r := { c.r with a := c.r.a.set n.val (bitsAt v 0 64) }, flagAt := c.cyc + 1, flagNew := now } }))
        ∧ ∀ n : Fin 16, f = .v → i = BitVec.ofNat 10 n.val → exec (.debugRegisterAccess true (.register f i) v) s = .next { s with
            core := { c with r := { c.r with v := c.r.v.set n.val v }, flagAt := c.cyc + 1, flagNew := now } }))
    ∧ (∀ tok, exec (.unlockToken tok) s = .next (if Config.tokenValid tok then { s with dev := { s.dev with debugOpen := true } } else s))
    ∧ (∃ t : State, exec .powerGood s = .next t ∧ t.core = .reset ∧ t.part = .reset ∧ t.region = .reset ∧ t.hbm = [] ∧ t.quire = [] ∧ t.web = 0
      ∧ t.dev.flashA = s.dev.flashA ∧ t.dev.flashB = s.dev.flashB ∧ t.dev.debugOpen = false
      ∧ ((s.powerCycle.checkImage s.dev.flashA).isSome = true → t.dev.boot = .runs 0)
      ∧ (s.powerCycle.checkImage s.dev.flashA = none → (s.powerCycle.checkImage s.dev.flashB).isSome = true → t.dev.boot = .runs 1)
      ∧ (s.powerCycle.checkImage s.dev.flashA = none → s.powerCycle.checkImage s.dev.flashB = none → t.dev.boot = .failed))
    ∧ (∀ img, (s.dev.boot ≠ .failed → exec (.signedImage img) s = no)
      ∧ (s.dev.boot = .failed → s.checkImage img = none → exec (.signedImage img) s = .next s)
      ∧ (s.dev.boot = .failed → (s.checkImage img).isSome = true → ∃ t : State, exec (.signedImage img) s = .next t ∧ t.dev.boot = .runs 2))
    ∧ ∀ nonce : List Byte, (s.dev.boot = .off → exec (.challenge nonce) s = no ∧ exec (.getMeasurements nonce) s = no)
      ∧ (s.dev.boot ≠ .off → exec (.challenge nonce) s = .next { s with dev := { s.dev with sent := .spdm nonce (Config.identitySign nonce) :: s.dev.sent } }
        ∧ ∃ body, exec (.getMeasurements nonce) s = .next { s with dev := { s.dev with sent := .spdm body (Config.identitySign body) :: s.dev.sent } }
          ∧ body = nonce ++ s.measurements)

/-- Every memory keeps its canonical form through every step. -/
def Obligations.StepKeepsMemories : Prop :=
  ∀ s t : State, s.memoriesWf = true → step s = .next t → t.memoriesWf = true

end
end

