-- ==== Sys2Proof/Laws/State.lean ====
section
/-! SUPPORT. One lemma per field for the named updates of the state, so that no proof unfolds a record update. -/

namespace Sys2Proof.Machine

/-! ## hold -/

@[simp] theorem State.hold_r (s : State) (h : Held) : (s.hold h).core.r = s.core.r := rfl
@[simp] theorem State.hold_lat (s : State) (h : Held) : (s.hold h).core.lat = s.core.lat := rfl
@[simp] theorem State.hold_seq (s : State) (h : Held) : (s.hold h).core.seq = s.core.seq := rfl
@[simp] theorem State.hold_fstat (s : State) (h : Held) : (s.hold h).core.fstat = s.core.fstat := rfl
@[simp] theorem State.hold_cyc (s : State) (h : Held) : (s.hold h).core.cyc = s.core.cyc := rfl
@[simp] theorem State.hold_tix (s : State) (h : Held) : (s.hold h).core.tix = s.core.tix := rfl
@[simp] theorem State.hold_slip (s : State) (h : Held) : (s.hold h).core.slip = s.core.slip := rfl
@[simp] theorem State.hold_run (s : State) (h : Held) : (s.hold h).core.run = s.core.run := rfl
@[simp] theorem State.hold_fault (s : State) (h : Held) : (s.hold h).core.fault = s.core.fault := rfl
@[simp] theorem State.hold_wait (s : State) (h : Held) : (s.hold h).core.wait = s.core.wait := rfl
@[simp] theorem State.hold_taken (s : State) (h : Held) : (s.hold h).core.taken = s.core.taken := rfl
@[simp] theorem State.hold_dead (s : State) (h : Held) : (s.hold h).core.dead = s.core.dead := rfl
@[simp] theorem State.hold_stopAt (s : State) (h : Held) : (s.hold h).core.stopAt = s.core.stopAt := rfl
@[simp] theorem State.hold_land (s : State) (h : Held) : (s.hold h).core.land = s.core.land := rfl
@[simp] theorem State.hold_loads (s : State) (h : Held) : (s.hold h).core.loads = s.core.loads := rfl
@[simp] theorem State.hold_stores (s : State) (h : Held) : (s.hold h).core.stores = s.core.stores := rfl
@[simp] theorem State.hold_atoms (s : State) (h : Held) : (s.hold h).core.atoms = s.core.atoms := rfl
@[simp] theorem State.hold_awaiting (s : State) (h : Held) : (s.hold h).core.awaiting = s.core.awaiting := rfl
@[simp] theorem State.hold_scntUntil (s : State) (h : Held) : (s.hold h).core.scntUntil = s.core.scntUntil := rfl
@[simp] theorem State.hold_scntWeb (s : State) (h : Held) : (s.hold h).core.scntWeb = s.core.scntWeb := rfl
@[simp] theorem State.hold_gate (s : State) (h : Held) : (s.hold h).core.gate = s.core.gate := rfl
@[simp] theorem State.hold_mark (s : State) (h : Held) : (s.hold h).core.mark = s.core.mark := rfl
@[simp] theorem State.hold_scratch (s : State) (h : Held) : (s.hold h).core.scratch = s.core.scratch := rfl
@[simp] theorem State.hold_hist (s : State) (h : Held) : (s.hold h).core.hist = s.core.hist := rfl
@[simp] theorem State.hold_wbuf (s : State) (h : Held) : (s.hold h).core.wbuf = s.core.wbuf := rfl
@[simp] theorem State.hold_istore (s : State) (h : Held) : (s.hold h).core.istore = s.core.istore := rfl
@[simp] theorem State.hold_xlat (s : State) (h : Held) : (s.hold h).core.xlat = s.core.xlat := rfl
@[simp] theorem State.hold_caps (s : State) (h : Held) : (s.hold h).core.caps = s.core.caps := rfl
@[simp] theorem State.hold_cmds (s : State) (h : Held) : (s.hold h).core.cmds = s.core.cmds := rfl
@[simp] theorem State.hold_engW (s : State) (h : Held) : (s.hold h).core.engW = s.core.engW := rfl
@[simp] theorem State.hold_inbound (s : State) (h : Held) : (s.hold h).core.inbound = s.core.inbound := rfl
@[simp] theorem State.hold_raises (s : State) (h : Held) : (s.hold h).core.raises = s.core.raises := rfl
@[simp] theorem State.hold_raised (s : State) (h : Held) : (s.hold h).core.raised = s.core.raised := rfl
@[simp] theorem State.hold_slotsHeld (s : State) (h : Held) : (s.hold h).core.slotsHeld = s.core.slotsHeld := rfl
@[simp] theorem State.hold_usedSlots (s : State) (h : Held) : (s.hold h).core.usedSlots = s.core.usedSlots := rfl
@[simp] theorem State.hold_turn (s : State) (h : Held) : (s.hold h).core.turn = s.core.turn := rfl
@[simp] theorem State.hold_feltQ (s : State) (h : Held) : (s.hold h).core.feltQ = s.core.feltQ := rfl
@[simp] theorem State.hold_sendQ (s : State) (h : Held) : (s.hold h).core.sendQ = s.core.sendQ := rfl
@[simp] theorem State.hold_outgoing (s : State) (h : Held) : (s.hold h).core.outgoing = s.core.outgoing := rfl
@[simp] theorem State.hold_rq (s : State) (h : Held) : (s.hold h).core.rq = s.core.rq := rfl
@[simp] theorem State.hold_forwarded (s : State) (h : Held) : (s.hold h).core.forwarded = s.core.forwarded := rfl
@[simp] theorem State.hold_pushes (s : State) (h : Held) : (s.hold h).core.pushes = s.core.pushes := rfl
@[simp] theorem State.hold_heads (s : State) (h : Held) : (s.hold h).core.heads = s.core.heads := rfl
@[simp] theorem State.hold_xp (s : State) (h : Held) : (s.hold h).core.xp = s.core.xp := rfl
@[simp] theorem State.hold_mx (s : State) (h : Held) : (s.hold h).core.mx = s.core.mx := rfl
@[simp] theorem State.hold_sp (s : State) (h : Held) : (s.hold h).core.sp = s.core.sp := rfl
@[simp] theorem State.hold_flagAt (s : State) (h : Held) : (s.hold h).core.flagAt = s.core.flagAt := rfl
@[simp] theorem State.hold_flagNew (s : State) (h : Held) : (s.hold h).core.flagNew = s.core.flagNew := rfl
@[simp] theorem State.hold_trgAt (s : State) (h : Held) : (s.hold h).core.trgAt = s.core.trgAt := rfl
@[simp] theorem State.hold_preAt (s : State) (h : Held) : (s.hold h).core.preAt = s.core.preAt := rfl
@[simp] theorem State.hold_pre (s : State) (h : Held) : (s.hold h).core.pre = s.core.pre := rfl
@[simp] theorem State.hold_feltGone (s : State) (h : Held) : (s.hold h).core.feltGone = s.core.feltGone := rfl
@[simp] theorem State.hold_sendGone (s : State) (h : Held) : (s.hold h).core.sendGone = s.core.sendGone := rfl
@[simp] theorem State.hold_reloadEnd (s : State) (h : Held) : (s.hold h).core.reloadEnd = s.core.reloadEnd := rfl
@[simp] theorem State.hold_idealSlots (s : State) (h : Held) : (s.hold h).core.idealSlots = s.core.idealSlots := rfl
@[simp] theorem State.hold_reamAt (s : State) (h : Held) : (s.hold h).core.reamAt = s.core.reamAt := rfl
@[simp] theorem State.hold_snapTrg (s : State) (h : Held) : (s.hold h).core.snapTrg = s.core.snapTrg := rfl
@[simp] theorem State.hold_vlog (s : State) (h : Held) : (s.hold h).core.vlog = s.core.vlog := rfl
@[simp] theorem State.hold_starts (s : State) (h : Held) : (s.hold h).starts = s.starts := rfl
@[simp] theorem State.hold_webPort (s : State) (h : Held) : (s.hold h).webPort = s.webPort := rfl
@[simp] theorem State.hold_gwPort (s : State) (h : Held) : (s.hold h).gwPort = s.gwPort := rfl
@[simp] theorem State.hold_arriving (s : State) (h : Held) : (s.hold h).arriving = s.arriving := rfl
@[simp] theorem State.hold_agenda (s : State) (h : Held) : (s.hold h).agenda = s.agenda := rfl
@[simp] theorem State.hold_reload (s : State) (h : Held) : (s.hold h).reload = s.reload := rfl
@[simp] theorem State.hold_hbm (s : State) (h : Held) : (s.hold h).hbm = s.hbm := rfl
@[simp] theorem State.hold_quire (s : State) (h : Held) : (s.hold h).quire = s.quire := rfl
@[simp] theorem State.hold_mirror (s : State) (h : Held) : (s.hold h).mirror = s.mirror := rfl
@[simp] theorem State.hold_web (s : State) (h : Held) : (s.hold h).web = s.web := rfl
@[simp] theorem State.hold_gwSent (s : State) (h : Held) : (s.hold h).gwSent = s.gwSent := rfl
@[simp] theorem State.hold_region (s : State) (h : Held) : (s.hold h).region = s.region := rfl
@[simp] theorem State.hold_part (s : State) (h : Held) : (s.hold h).part = s.part := rfl
@[simp] theorem State.hold_dev (s : State) (h : Held) : (s.hold h).dev = s.dev := rfl
@[simp] theorem State.hold_gw (s : State) (h : Held) : (s.hold h).gw = s.gw := rfl
@[simp] theorem State.hold_felt (s : State) (h : Held) : (s.hold h).felt = s.felt := rfl
@[simp] theorem State.hold_links (s : State) (h : Held) : (s.hold h).links = s.links := rfl
@[simp] theorem State.hold_inputs (s : State) (h : Held) : (s.hold h).inputs = s.inputs := rfl
@[simp] theorem State.hold_fresh (s : State) (h : Held) : (s.hold h).fresh = s.fresh := rfl

/-! ## slips -/

@[simp] theorem State.slips_r (s : State) (n : Nat) : (s.slips n).core.r = s.core.r := rfl
@[simp] theorem State.slips_lat (s : State) (n : Nat) : (s.slips n).core.lat = s.core.lat := rfl
@[simp] theorem State.slips_seq (s : State) (n : Nat) : (s.slips n).core.seq = s.core.seq := rfl
@[simp] theorem State.slips_fstat (s : State) (n : Nat) : (s.slips n).core.fstat = s.core.fstat := rfl
@[simp] theorem State.slips_cyc (s : State) (n : Nat) : (s.slips n).core.cyc = s.core.cyc := rfl
@[simp] theorem State.slips_tix (s : State) (n : Nat) : (s.slips n).core.tix = s.core.tix := rfl
@[simp] theorem State.slips_run (s : State) (n : Nat) : (s.slips n).core.run = s.core.run := rfl
@[simp] theorem State.slips_fault (s : State) (n : Nat) : (s.slips n).core.fault = s.core.fault := rfl
@[simp] theorem State.slips_held (s : State) (n : Nat) : (s.slips n).core.held = s.core.held := rfl
@[simp] theorem State.slips_wait (s : State) (n : Nat) : (s.slips n).core.wait = s.core.wait := rfl
@[simp] theorem State.slips_taken (s : State) (n : Nat) : (s.slips n).core.taken = s.core.taken := rfl
@[simp] theorem State.slips_dead (s : State) (n : Nat) : (s.slips n).core.dead = s.core.dead := rfl
@[simp] theorem State.slips_stopAt (s : State) (n : Nat) : (s.slips n).core.stopAt = s.core.stopAt := rfl
@[simp] theorem State.slips_land (s : State) (n : Nat) : (s.slips n).core.land = s.core.land := rfl
@[simp] theorem State.slips_loads (s : State) (n : Nat) : (s.slips n).core.loads = s.core.loads := rfl
@[simp] theorem State.slips_stores (s : State) (n : Nat) : (s.slips n).core.stores = s.core.stores := rfl
@[simp] theorem State.slips_atoms (s : State) (n : Nat) : (s.slips n).core.atoms = s.core.atoms := rfl
@[simp] theorem State.slips_awaiting (s : State) (n : Nat) : (s.slips n).core.awaiting = s.core.awaiting := rfl
@[simp] theorem State.slips_scntUntil (s : State) (n : Nat) : (s.slips n).core.scntUntil = s.core.scntUntil := rfl
@[simp] theorem State.slips_scntWeb (s : State) (n : Nat) : (s.slips n).core.scntWeb = s.core.scntWeb := rfl
@[simp] theorem State.slips_gate (s : State) (n : Nat) : (s.slips n).core.gate = s.core.gate := rfl
@[simp] theorem State.slips_mark (s : State) (n : Nat) : (s.slips n).core.mark = s.core.mark := rfl
@[simp] theorem State.slips_scratch (s : State) (n : Nat) : (s.slips n).core.scratch = s.core.scratch := rfl
@[simp] theorem State.slips_hist (s : State) (n : Nat) : (s.slips n).core.hist = s.core.hist := rfl
@[simp] theorem State.slips_wbuf (s : State) (n : Nat) : (s.slips n).core.wbuf = s.core.wbuf := rfl
@[simp] theorem State.slips_istore (s : State) (n : Nat) : (s.slips n).core.istore = s.core.istore := rfl
@[simp] theorem State.slips_xlat (s : State) (n : Nat) : (s.slips n).core.xlat = s.core.xlat := rfl
@[simp] theorem State.slips_caps (s : State) (n : Nat) : (s.slips n).core.caps = s.core.caps := rfl
@[simp] theorem State.slips_cmds (s : State) (n : Nat) : (s.slips n).core.cmds = s.core.cmds := rfl
@[simp] theorem State.slips_engW (s : State) (n : Nat) : (s.slips n).core.engW = s.core.engW := rfl
@[simp] theorem State.slips_inbound (s : State) (n : Nat) : (s.slips n).core.inbound = s.core.inbound := rfl
@[simp] theorem State.slips_raises (s : State) (n : Nat) : (s.slips n).core.raises = s.core.raises := rfl
@[simp] theorem State.slips_raised (s : State) (n : Nat) : (s.slips n).core.raised = s.core.raised := rfl
@[simp] theorem State.slips_slotsHeld (s : State) (n : Nat) : (s.slips n).core.slotsHeld = s.core.slotsHeld := rfl
@[simp] theorem State.slips_usedSlots (s : State) (n : Nat) : (s.slips n).core.usedSlots = s.core.usedSlots := rfl
@[simp] theorem State.slips_turn (s : State) (n : Nat) : (s.slips n).core.turn = s.core.turn := rfl
@[simp] theorem State.slips_feltQ (s : State) (n : Nat) : (s.slips n).core.feltQ = s.core.feltQ := rfl
@[simp] theorem State.slips_sendQ (s : State) (n : Nat) : (s.slips n).core.sendQ = s.core.sendQ := rfl
@[simp] theorem State.slips_outgoing (s : State) (n : Nat) : (s.slips n).core.outgoing = s.core.outgoing := rfl
@[simp] theorem State.slips_rq (s : State) (n : Nat) : (s.slips n).core.rq = s.core.rq := rfl
@[simp] theorem State.slips_forwarded (s : State) (n : Nat) : (s.slips n).core.forwarded = s.core.forwarded := rfl
@[simp] theorem State.slips_pushes (s : State) (n : Nat) : (s.slips n).core.pushes = s.core.pushes := rfl
@[simp] theorem State.slips_heads (s : State) (n : Nat) : (s.slips n).core.heads = s.core.heads := rfl
@[simp] theorem State.slips_xp (s : State) (n : Nat) : (s.slips n).core.xp = s.core.xp := rfl
@[simp] theorem State.slips_mx (s : State) (n : Nat) : (s.slips n).core.mx = s.core.mx := rfl
@[simp] theorem State.slips_sp (s : State) (n : Nat) : (s.slips n).core.sp = s.core.sp := rfl
@[simp] theorem State.slips_flagAt (s : State) (n : Nat) : (s.slips n).core.flagAt = s.core.flagAt := rfl
@[simp] theorem State.slips_flagNew (s : State) (n : Nat) : (s.slips n).core.flagNew = s.core.flagNew := rfl
@[simp] theorem State.slips_trgAt (s : State) (n : Nat) : (s.slips n).core.trgAt = s.core.trgAt := rfl
@[simp] theorem State.slips_preAt (s : State) (n : Nat) : (s.slips n).core.preAt = s.core.preAt := rfl
@[simp] theorem State.slips_pre (s : State) (n : Nat) : (s.slips n).core.pre = s.core.pre := rfl
@[simp] theorem State.slips_feltGone (s : State) (n : Nat) : (s.slips n).core.feltGone = s.core.feltGone := rfl
@[simp] theorem State.slips_sendGone (s : State) (n : Nat) : (s.slips n).core.sendGone = s.core.sendGone := rfl
@[simp] theorem State.slips_reloadEnd (s : State) (n : Nat) : (s.slips n).core.reloadEnd = s.core.reloadEnd := rfl
@[simp] theorem State.slips_idealSlots (s : State) (n : Nat) : (s.slips n).core.idealSlots = s.core.idealSlots := rfl
@[simp] theorem State.slips_reamAt (s : State) (n : Nat) : (s.slips n).core.reamAt = s.core.reamAt := rfl
@[simp] theorem State.slips_snapTrg (s : State) (n : Nat) : (s.slips n).core.snapTrg = s.core.snapTrg := rfl
@[simp] theorem State.slips_vlog (s : State) (n : Nat) : (s.slips n).core.vlog = s.core.vlog := rfl
@[simp] theorem State.slips_starts (s : State) (n : Nat) : (s.slips n).starts = s.starts := rfl
@[simp] theorem State.slips_webPort (s : State) (n : Nat) : (s.slips n).webPort = s.webPort := rfl
@[simp] theorem State.slips_gwPort (s : State) (n : Nat) : (s.slips n).gwPort = s.gwPort := rfl
@[simp] theorem State.slips_arriving (s : State) (n : Nat) : (s.slips n).arriving = s.arriving := rfl
@[simp] theorem State.slips_agenda (s : State) (n : Nat) : (s.slips n).agenda = s.agenda := rfl
@[simp] theorem State.slips_reload (s : State) (n : Nat) : (s.slips n).reload = s.reload := rfl
@[simp] theorem State.slips_hbm (s : State) (n : Nat) : (s.slips n).hbm = s.hbm := rfl
@[simp] theorem State.slips_quire (s : State) (n : Nat) : (s.slips n).quire = s.quire := rfl
@[simp] theorem State.slips_mirror (s : State) (n : Nat) : (s.slips n).mirror = s.mirror := rfl
@[simp] theorem State.slips_web (s : State) (n : Nat) : (s.slips n).web = s.web := rfl
@[simp] theorem State.slips_gwSent (s : State) (n : Nat) : (s.slips n).gwSent = s.gwSent := rfl
@[simp] theorem State.slips_region (s : State) (n : Nat) : (s.slips n).region = s.region := rfl
@[simp] theorem State.slips_part (s : State) (n : Nat) : (s.slips n).part = s.part := rfl
@[simp] theorem State.slips_dev (s : State) (n : Nat) : (s.slips n).dev = s.dev := rfl
@[simp] theorem State.slips_gw (s : State) (n : Nat) : (s.slips n).gw = s.gw := rfl
@[simp] theorem State.slips_felt (s : State) (n : Nat) : (s.slips n).felt = s.felt := rfl
@[simp] theorem State.slips_links (s : State) (n : Nat) : (s.slips n).links = s.links := rfl
@[simp] theorem State.slips_inputs (s : State) (n : Nat) : (s.slips n).inputs = s.inputs := rfl
@[simp] theorem State.slips_fresh (s : State) (n : Nat) : (s.slips n).fresh = s.fresh := rfl

/-! ## fly -/

@[simp] theorem State.fly_r (s : State) (l : Landing) : (s.fly l).core.r = s.core.r := rfl
@[simp] theorem State.fly_lat (s : State) (l : Landing) : (s.fly l).core.lat = s.core.lat := rfl
@[simp] theorem State.fly_seq (s : State) (l : Landing) : (s.fly l).core.seq = s.core.seq := rfl
@[simp] theorem State.fly_fstat (s : State) (l : Landing) : (s.fly l).core.fstat = s.core.fstat := rfl
@[simp] theorem State.fly_cyc (s : State) (l : Landing) : (s.fly l).core.cyc = s.core.cyc := rfl
@[simp] theorem State.fly_tix (s : State) (l : Landing) : (s.fly l).core.tix = s.core.tix := rfl
@[simp] theorem State.fly_slip (s : State) (l : Landing) : (s.fly l).core.slip = s.core.slip := rfl
@[simp] theorem State.fly_run (s : State) (l : Landing) : (s.fly l).core.run = s.core.run := rfl
@[simp] theorem State.fly_fault (s : State) (l : Landing) : (s.fly l).core.fault = s.core.fault := rfl
@[simp] theorem State.fly_held (s : State) (l : Landing) : (s.fly l).core.held = s.core.held := rfl
@[simp] theorem State.fly_wait (s : State) (l : Landing) : (s.fly l).core.wait = s.core.wait := rfl
@[simp] theorem State.fly_taken (s : State) (l : Landing) : (s.fly l).core.taken = s.core.taken := rfl
@[simp] theorem State.fly_dead (s : State) (l : Landing) : (s.fly l).core.dead = s.core.dead := rfl
@[simp] theorem State.fly_stopAt (s : State) (l : Landing) : (s.fly l).core.stopAt = s.core.stopAt := rfl
@[simp] theorem State.fly_loads (s : State) (l : Landing) : (s.fly l).core.loads = s.core.loads := rfl
@[simp] theorem State.fly_stores (s : State) (l : Landing) : (s.fly l).core.stores = s.core.stores := rfl
@[simp] theorem State.fly_atoms (s : State) (l : Landing) : (s.fly l).core.atoms = s.core.atoms := rfl
@[simp] theorem State.fly_awaiting (s : State) (l : Landing) : (s.fly l).core.awaiting = s.core.awaiting := rfl
@[simp] theorem State.fly_scntUntil (s : State) (l : Landing) : (s.fly l).core.scntUntil = s.core.scntUntil := rfl
@[simp] theorem State.fly_scntWeb (s : State) (l : Landing) : (s.fly l).core.scntWeb = s.core.scntWeb := rfl
@[simp] theorem State.fly_gate (s : State) (l : Landing) : (s.fly l).core.gate = s.core.gate := rfl
@[simp] theorem State.fly_mark (s : State) (l : Landing) : (s.fly l).core.mark = s.core.mark := rfl
@[simp] theorem State.fly_scratch (s : State) (l : Landing) : (s.fly l).core.scratch = s.core.scratch := rfl
@[simp] theorem State.fly_hist (s : State) (l : Landing) : (s.fly l).core.hist = s.core.hist := rfl
@[simp] theorem State.fly_wbuf (s : State) (l : Landing) : (s.fly l).core.wbuf = s.core.wbuf := rfl
@[simp] theorem State.fly_istore (s : State) (l : Landing) : (s.fly l).core.istore = s.core.istore := rfl
@[simp] theorem State.fly_xlat (s : State) (l : Landing) : (s.fly l).core.xlat = s.core.xlat := rfl
@[simp] theorem State.fly_caps (s : State) (l : Landing) : (s.fly l).core.caps = s.core.caps := rfl
@[simp] theorem State.fly_cmds (s : State) (l : Landing) : (s.fly l).core.cmds = s.core.cmds := rfl
@[simp] theorem State.fly_engW (s : State) (l : Landing) : (s.fly l).core.engW = s.core.engW := rfl
@[simp] theorem State.fly_inbound (s : State) (l : Landing) : (s.fly l).core.inbound = s.core.inbound := rfl
@[simp] theorem State.fly_raises (s : State) (l : Landing) : (s.fly l).core.raises = s.core.raises := rfl
@[simp] theorem State.fly_raised (s : State) (l : Landing) : (s.fly l).core.raised = s.core.raised := rfl
@[simp] theorem State.fly_slotsHeld (s : State) (l : Landing) : (s.fly l).core.slotsHeld = s.core.slotsHeld := rfl
@[simp] theorem State.fly_usedSlots (s : State) (l : Landing) : (s.fly l).core.usedSlots = s.core.usedSlots := rfl
@[simp] theorem State.fly_turn (s : State) (l : Landing) : (s.fly l).core.turn = s.core.turn := rfl
@[simp] theorem State.fly_feltQ (s : State) (l : Landing) : (s.fly l).core.feltQ = s.core.feltQ := rfl
@[simp] theorem State.fly_sendQ (s : State) (l : Landing) : (s.fly l).core.sendQ = s.core.sendQ := rfl
@[simp] theorem State.fly_outgoing (s : State) (l : Landing) : (s.fly l).core.outgoing = s.core.outgoing := rfl
@[simp] theorem State.fly_rq (s : State) (l : Landing) : (s.fly l).core.rq = s.core.rq := rfl
@[simp] theorem State.fly_forwarded (s : State) (l : Landing) : (s.fly l).core.forwarded = s.core.forwarded := rfl
@[simp] theorem State.fly_pushes (s : State) (l : Landing) : (s.fly l).core.pushes = s.core.pushes := rfl
@[simp] theorem State.fly_heads (s : State) (l : Landing) : (s.fly l).core.heads = s.core.heads := rfl
@[simp] theorem State.fly_xp (s : State) (l : Landing) : (s.fly l).core.xp = s.core.xp := rfl
@[simp] theorem State.fly_mx (s : State) (l : Landing) : (s.fly l).core.mx = s.core.mx := rfl
@[simp] theorem State.fly_sp (s : State) (l : Landing) : (s.fly l).core.sp = s.core.sp := rfl
@[simp] theorem State.fly_flagAt (s : State) (l : Landing) : (s.fly l).core.flagAt = s.core.flagAt := rfl
@[simp] theorem State.fly_flagNew (s : State) (l : Landing) : (s.fly l).core.flagNew = s.core.flagNew := rfl
@[simp] theorem State.fly_trgAt (s : State) (l : Landing) : (s.fly l).core.trgAt = s.core.trgAt := rfl
@[simp] theorem State.fly_preAt (s : State) (l : Landing) : (s.fly l).core.preAt = s.core.preAt := rfl
@[simp] theorem State.fly_pre (s : State) (l : Landing) : (s.fly l).core.pre = s.core.pre := rfl
@[simp] theorem State.fly_feltGone (s : State) (l : Landing) : (s.fly l).core.feltGone = s.core.feltGone := rfl
@[simp] theorem State.fly_sendGone (s : State) (l : Landing) : (s.fly l).core.sendGone = s.core.sendGone := rfl
@[simp] theorem State.fly_reloadEnd (s : State) (l : Landing) : (s.fly l).core.reloadEnd = s.core.reloadEnd := rfl
@[simp] theorem State.fly_idealSlots (s : State) (l : Landing) : (s.fly l).core.idealSlots = s.core.idealSlots := rfl
@[simp] theorem State.fly_reamAt (s : State) (l : Landing) : (s.fly l).core.reamAt = s.core.reamAt := rfl
@[simp] theorem State.fly_snapTrg (s : State) (l : Landing) : (s.fly l).core.snapTrg = s.core.snapTrg := rfl
@[simp] theorem State.fly_vlog (s : State) (l : Landing) : (s.fly l).core.vlog = s.core.vlog := rfl
@[simp] theorem State.fly_starts (s : State) (l : Landing) : (s.fly l).starts = s.starts := rfl
@[simp] theorem State.fly_webPort (s : State) (l : Landing) : (s.fly l).webPort = s.webPort := rfl
@[simp] theorem State.fly_gwPort (s : State) (l : Landing) : (s.fly l).gwPort = s.gwPort := rfl
@[simp] theorem State.fly_arriving (s : State) (l : Landing) : (s.fly l).arriving = s.arriving := rfl
@[simp] theorem State.fly_agenda (s : State) (l : Landing) : (s.fly l).agenda = s.agenda := rfl
@[simp] theorem State.fly_reload (s : State) (l : Landing) : (s.fly l).reload = s.reload := rfl
@[simp] theorem State.fly_hbm (s : State) (l : Landing) : (s.fly l).hbm = s.hbm := rfl
@[simp] theorem State.fly_quire (s : State) (l : Landing) : (s.fly l).quire = s.quire := rfl
@[simp] theorem State.fly_mirror (s : State) (l : Landing) : (s.fly l).mirror = s.mirror := rfl
@[simp] theorem State.fly_web (s : State) (l : Landing) : (s.fly l).web = s.web := rfl
@[simp] theorem State.fly_gwSent (s : State) (l : Landing) : (s.fly l).gwSent = s.gwSent := rfl
@[simp] theorem State.fly_region (s : State) (l : Landing) : (s.fly l).region = s.region := rfl
@[simp] theorem State.fly_part (s : State) (l : Landing) : (s.fly l).part = s.part := rfl
@[simp] theorem State.fly_dev (s : State) (l : Landing) : (s.fly l).dev = s.dev := rfl
@[simp] theorem State.fly_gw (s : State) (l : Landing) : (s.fly l).gw = s.gw := rfl
@[simp] theorem State.fly_felt (s : State) (l : Landing) : (s.fly l).felt = s.felt := rfl
@[simp] theorem State.fly_links (s : State) (l : Landing) : (s.fly l).links = s.links := rfl
@[simp] theorem State.fly_inputs (s : State) (l : Landing) : (s.fly l).inputs = s.inputs := rfl
@[simp] theorem State.fly_fresh (s : State) (l : Landing) : (s.fly l).fresh = s.fresh := rfl

/-! ## push -/

@[simp] theorem State.push_r (s : State) (l : Landing) : (s.push l).core.r = s.core.r := rfl
@[simp] theorem State.push_lat (s : State) (l : Landing) : (s.push l).core.lat = s.core.lat := rfl
@[simp] theorem State.push_seq (s : State) (l : Landing) : (s.push l).core.seq = s.core.seq := rfl
@[simp] theorem State.push_fstat (s : State) (l : Landing) : (s.push l).core.fstat = s.core.fstat := rfl
@[simp] theorem State.push_cyc (s : State) (l : Landing) : (s.push l).core.cyc = s.core.cyc := rfl
@[simp] theorem State.push_tix (s : State) (l : Landing) : (s.push l).core.tix = s.core.tix := rfl
@[simp] theorem State.push_slip (s : State) (l : Landing) : (s.push l).core.slip = s.core.slip := rfl
@[simp] theorem State.push_run (s : State) (l : Landing) : (s.push l).core.run = s.core.run := rfl
@[simp] theorem State.push_fault (s : State) (l : Landing) : (s.push l).core.fault = s.core.fault := rfl
@[simp] theorem State.push_held (s : State) (l : Landing) : (s.push l).core.held = s.core.held := rfl
@[simp] theorem State.push_wait (s : State) (l : Landing) : (s.push l).core.wait = s.core.wait := rfl
@[simp] theorem State.push_taken (s : State) (l : Landing) : (s.push l).core.taken = s.core.taken := rfl
@[simp] theorem State.push_dead (s : State) (l : Landing) : (s.push l).core.dead = s.core.dead := rfl
@[simp] theorem State.push_stopAt (s : State) (l : Landing) : (s.push l).core.stopAt = s.core.stopAt := rfl
@[simp] theorem State.push_loads (s : State) (l : Landing) : (s.push l).core.loads = s.core.loads := rfl
@[simp] theorem State.push_stores (s : State) (l : Landing) : (s.push l).core.stores = s.core.stores := rfl
@[simp] theorem State.push_atoms (s : State) (l : Landing) : (s.push l).core.atoms = s.core.atoms := rfl
@[simp] theorem State.push_awaiting (s : State) (l : Landing) : (s.push l).core.awaiting = s.core.awaiting := rfl
@[simp] theorem State.push_scntUntil (s : State) (l : Landing) : (s.push l).core.scntUntil = s.core.scntUntil := rfl
@[simp] theorem State.push_scntWeb (s : State) (l : Landing) : (s.push l).core.scntWeb = s.core.scntWeb := rfl
@[simp] theorem State.push_gate (s : State) (l : Landing) : (s.push l).core.gate = s.core.gate := rfl
@[simp] theorem State.push_mark (s : State) (l : Landing) : (s.push l).core.mark = s.core.mark := rfl
@[simp] theorem State.push_scratch (s : State) (l : Landing) : (s.push l).core.scratch = s.core.scratch := rfl
@[simp] theorem State.push_hist (s : State) (l : Landing) : (s.push l).core.hist = s.core.hist := rfl
@[simp] theorem State.push_wbuf (s : State) (l : Landing) : (s.push l).core.wbuf = s.core.wbuf := rfl
@[simp] theorem State.push_istore (s : State) (l : Landing) : (s.push l).core.istore = s.core.istore := rfl
@[simp] theorem State.push_xlat (s : State) (l : Landing) : (s.push l).core.xlat = s.core.xlat := rfl
@[simp] theorem State.push_caps (s : State) (l : Landing) : (s.push l).core.caps = s.core.caps := rfl
@[simp] theorem State.push_cmds (s : State) (l : Landing) : (s.push l).core.cmds = s.core.cmds := rfl
@[simp] theorem State.push_engW (s : State) (l : Landing) : (s.push l).core.engW = s.core.engW := rfl
@[simp] theorem State.push_inbound (s : State) (l : Landing) : (s.push l).core.inbound = s.core.inbound := rfl
@[simp] theorem State.push_raises (s : State) (l : Landing) : (s.push l).core.raises = s.core.raises := rfl
@[simp] theorem State.push_raised (s : State) (l : Landing) : (s.push l).core.raised = s.core.raised := rfl
@[simp] theorem State.push_slotsHeld (s : State) (l : Landing) : (s.push l).core.slotsHeld = s.core.slotsHeld := rfl
@[simp] theorem State.push_usedSlots (s : State) (l : Landing) : (s.push l).core.usedSlots = s.core.usedSlots := rfl
@[simp] theorem State.push_turn (s : State) (l : Landing) : (s.push l).core.turn = s.core.turn := rfl
@[simp] theorem State.push_feltQ (s : State) (l : Landing) : (s.push l).core.feltQ = s.core.feltQ := rfl
@[simp] theorem State.push_sendQ (s : State) (l : Landing) : (s.push l).core.sendQ = s.core.sendQ := rfl
@[simp] theorem State.push_outgoing (s : State) (l : Landing) : (s.push l).core.outgoing = s.core.outgoing := rfl
@[simp] theorem State.push_rq (s : State) (l : Landing) : (s.push l).core.rq = s.core.rq := rfl
@[simp] theorem State.push_forwarded (s : State) (l : Landing) : (s.push l).core.forwarded = s.core.forwarded := rfl
@[simp] theorem State.push_pushes (s : State) (l : Landing) : (s.push l).core.pushes = s.core.pushes := rfl
@[simp] theorem State.push_heads (s : State) (l : Landing) : (s.push l).core.heads = s.core.heads := rfl
@[simp] theorem State.push_xp (s : State) (l : Landing) : (s.push l).core.xp = s.core.xp := rfl
@[simp] theorem State.push_mx (s : State) (l : Landing) : (s.push l).core.mx = s.core.mx := rfl
@[simp] theorem State.push_sp (s : State) (l : Landing) : (s.push l).core.sp = s.core.sp := rfl
@[simp] theorem State.push_flagAt (s : State) (l : Landing) : (s.push l).core.flagAt = s.core.flagAt := rfl
@[simp] theorem State.push_flagNew (s : State) (l : Landing) : (s.push l).core.flagNew = s.core.flagNew := rfl
@[simp] theorem State.push_trgAt (s : State) (l : Landing) : (s.push l).core.trgAt = s.core.trgAt := rfl
@[simp] theorem State.push_preAt (s : State) (l : Landing) : (s.push l).core.preAt = s.core.preAt := rfl
@[simp] theorem State.push_pre (s : State) (l : Landing) : (s.push l).core.pre = s.core.pre := rfl
@[simp] theorem State.push_feltGone (s : State) (l : Landing) : (s.push l).core.feltGone = s.core.feltGone := rfl
@[simp] theorem State.push_sendGone (s : State) (l : Landing) : (s.push l).core.sendGone = s.core.sendGone := rfl
@[simp] theorem State.push_reloadEnd (s : State) (l : Landing) : (s.push l).core.reloadEnd = s.core.reloadEnd := rfl
@[simp] theorem State.push_idealSlots (s : State) (l : Landing) : (s.push l).core.idealSlots = s.core.idealSlots := rfl
@[simp] theorem State.push_reamAt (s : State) (l : Landing) : (s.push l).core.reamAt = s.core.reamAt := rfl
@[simp] theorem State.push_snapTrg (s : State) (l : Landing) : (s.push l).core.snapTrg = s.core.snapTrg := rfl
@[simp] theorem State.push_vlog (s : State) (l : Landing) : (s.push l).core.vlog = s.core.vlog := rfl
@[simp] theorem State.push_starts (s : State) (l : Landing) : (s.push l).starts = s.starts := rfl
@[simp] theorem State.push_webPort (s : State) (l : Landing) : (s.push l).webPort = s.webPort := rfl
@[simp] theorem State.push_gwPort (s : State) (l : Landing) : (s.push l).gwPort = s.gwPort := rfl
@[simp] theorem State.push_arriving (s : State) (l : Landing) : (s.push l).arriving = s.arriving := rfl
@[simp] theorem State.push_agenda (s : State) (l : Landing) : (s.push l).agenda = s.agenda := rfl
@[simp] theorem State.push_reload (s : State) (l : Landing) : (s.push l).reload = s.reload := rfl
@[simp] theorem State.push_hbm (s : State) (l : Landing) : (s.push l).hbm = s.hbm := rfl
@[simp] theorem State.push_quire (s : State) (l : Landing) : (s.push l).quire = s.quire := rfl
@[simp] theorem State.push_mirror (s : State) (l : Landing) : (s.push l).mirror = s.mirror := rfl
@[simp] theorem State.push_web (s : State) (l : Landing) : (s.push l).web = s.web := rfl
@[simp] theorem State.push_gwSent (s : State) (l : Landing) : (s.push l).gwSent = s.gwSent := rfl
@[simp] theorem State.push_region (s : State) (l : Landing) : (s.push l).region = s.region := rfl
@[simp] theorem State.push_part (s : State) (l : Landing) : (s.push l).part = s.part := rfl
@[simp] theorem State.push_dev (s : State) (l : Landing) : (s.push l).dev = s.dev := rfl
@[simp] theorem State.push_gw (s : State) (l : Landing) : (s.push l).gw = s.gw := rfl
@[simp] theorem State.push_felt (s : State) (l : Landing) : (s.push l).felt = s.felt := rfl
@[simp] theorem State.push_links (s : State) (l : Landing) : (s.push l).links = s.links := rfl
@[simp] theorem State.push_inputs (s : State) (l : Landing) : (s.push l).inputs = s.inputs := rfl
@[simp] theorem State.push_fresh (s : State) (l : Landing) : (s.push l).fresh = s.fresh := rfl

/-! ## push64 -/

@[simp] theorem State.push64_r (s : State) (k n : Nat) (f : Option RegFile) (d : BitVec 10) (x : Word) (l : Latch) : (s.push64 k n f d x l).core.r = s.core.r := rfl
@[simp] theorem State.push64_lat (s : State) (k n : Nat) (f : Option RegFile) (d : BitVec 10) (x : Word) (l : Latch) : (s.push64 k n f d x l).core.lat = s.core.lat := rfl
@[simp] theorem State.push64_seq (s : State) (k n : Nat) (f : Option RegFile) (d : BitVec 10) (x : Word) (l : Latch) : (s.push64 k n f d x l).core.seq = s.core.seq := rfl
@[simp] theorem State.push64_fstat (s : State) (k n : Nat) (f : Option RegFile) (d : BitVec 10) (x : Word) (l : Latch) : (s.push64 k n f d x l).core.fstat = s.core.fstat := rfl
@[simp] theorem State.push64_cyc (s : State) (k n : Nat) (f : Option RegFile) (d : BitVec 10) (x : Word) (l : Latch) : (s.push64 k n f d x l).core.cyc = s.core.cyc := rfl
@[simp] theorem State.push64_tix (s : State) (k n : Nat) (f : Option RegFile) (d : BitVec 10) (x : Word) (l : Latch) : (s.push64 k n f d x l).core.tix = s.core.tix := rfl
@[simp] theorem State.push64_slip (s : State) (k n : Nat) (f : Option RegFile) (d : BitVec 10) (x : Word) (l : Latch) : (s.push64 k n f d x l).core.slip = s.core.slip := rfl
@[simp] theorem State.push64_run (s : State) (k n : Nat) (f : Option RegFile) (d : BitVec 10) (x : Word) (l : Latch) : (s.push64 k n f d x l).core.run = s.core.run := rfl
@[simp] theorem State.push64_fault (s : State) (k n : Nat) (f : Option RegFile) (d : BitVec 10) (x : Word) (l : Latch) : (s.push64 k n f d x l).core.fault = s.core.fault := rfl
@[simp] theorem State.push64_held (s : State) (k n : Nat) (f : Option RegFile) (d : BitVec 10) (x : Word) (l : Latch) : (s.push64 k n f d x l).core.held = s.core.held := rfl
@[simp] theorem State.push64_wait (s : State) (k n : Nat) (f : Option RegFile) (d : BitVec 10) (x : Word) (l : Latch) : (s.push64 k n f d x l).core.wait = s.core.wait := rfl
@[simp] theorem State.push64_taken (s : State) (k n : Nat) (f : Option RegFile) (d : BitVec 10) (x : Word) (l : Latch) : (s.push64 k n f d x l).core.taken = s.core.taken := rfl
@[simp] theorem State.push64_dead (s : State) (k n : Nat) (f : Option RegFile) (d : BitVec 10) (x : Word) (l : Latch) : (s.push64 k n f d x l).core.dead = s.core.dead := rfl
@[simp] theorem State.push64_stopAt (s : State) (k n : Nat) (f : Option RegFile) (d : BitVec 10) (x : Word) (l : Latch) : (s.push64 k n f d x l).core.stopAt = s.core.stopAt := rfl
@[simp] theorem State.push64_loads (s : State) (k n : Nat) (f : Option RegFile) (d : BitVec 10) (x : Word) (l : Latch) : (s.push64 k n f d x l).core.loads = s.core.loads := rfl
@[simp] theorem State.push64_stores (s : State) (k n : Nat) (f : Option RegFile) (d : BitVec 10) (x : Word) (l : Latch) : (s.push64 k n f d x l).core.stores = s.core.stores := rfl
@[simp] theorem State.push64_atoms (s : State) (k n : Nat) (f : Option RegFile) (d : BitVec 10) (x : Word) (l : Latch) : (s.push64 k n f d x l).core.atoms = s.core.atoms := rfl
@[simp] theorem State.push64_awaiting (s : State) (k n : Nat) (f : Option RegFile) (d : BitVec 10) (x : Word) (l : Latch) : (s.push64 k n f d x l).core.awaiting = s.core.awaiting := rfl
@[simp] theorem State.push64_scntUntil (s : State) (k n : Nat) (f : Option RegFile) (d : BitVec 10) (x : Word) (l : Latch) : (s.push64 k n f d x l).core.scntUntil = s.core.scntUntil := rfl
@[simp] theorem State.push64_scntWeb (s : State) (k n : Nat) (f : Option RegFile) (d : BitVec 10) (x : Word) (l : Latch) : (s.push64 k n f d x l).core.scntWeb = s.core.scntWeb := rfl
@[simp] theorem State.push64_gate (s : State) (k n : Nat) (f : Option RegFile) (d : BitVec 10) (x : Word) (l : Latch) : (s.push64 k n f d x l).core.gate = s.core.gate := rfl
@[simp] theorem State.push64_mark (s : State) (k n : Nat) (f : Option RegFile) (d : BitVec 10) (x : Word) (l : Latch) : (s.push64 k n f d x l).core.mark = s.core.mark := rfl
@[simp] theorem State.push64_scratch (s : State) (k n : Nat) (f : Option RegFile) (d : BitVec 10) (x : Word) (l : Latch) : (s.push64 k n f d x l).core.scratch = s.core.scratch := rfl
@[simp] theorem State.push64_hist (s : State) (k n : Nat) (f : Option RegFile) (d : BitVec 10) (x : Word) (l : Latch) : (s.push64 k n f d x l).core.hist = s.core.hist := rfl
@[simp] theorem State.push64_wbuf (s : State) (k n : Nat) (f : Option RegFile) (d : BitVec 10) (x : Word) (l : Latch) : (s.push64 k n f d x l).core.wbuf = s.core.wbuf := rfl
@[simp] theorem State.push64_istore (s : State) (k n : Nat) (f : Option RegFile) (d : BitVec 10) (x : Word) (l : Latch) : (s.push64 k n f d x l).core.istore = s.core.istore := rfl
@[simp] theorem State.push64_xlat (s : State) (k n : Nat) (f : Option RegFile) (d : BitVec 10) (x : Word) (l : Latch) : (s.push64 k n f d x l).core.xlat = s.core.xlat := rfl
@[simp] theorem State.push64_caps (s : State) (k n : Nat) (f : Option RegFile) (d : BitVec 10) (x : Word) (l : Latch) : (s.push64 k n f d x l).core.caps = s.core.caps := rfl
@[simp] theorem State.push64_cmds (s : State) (k n : Nat) (f : Option RegFile) (d : BitVec 10) (x : Word) (l : Latch) : (s.push64 k n f d x l).core.cmds = s.core.cmds := rfl
@[simp] theorem State.push64_engW (s : State) (k n : Nat) (f : Option RegFile) (d : BitVec 10) (x : Word) (l : Latch) : (s.push64 k n f d x l).core.engW = s.core.engW := rfl
@[simp] theorem State.push64_inbound (s : State) (k n : Nat) (f : Option RegFile) (d : BitVec 10) (x : Word) (l : Latch) : (s.push64 k n f d x l).core.inbound = s.core.inbound := rfl
@[simp] theorem State.push64_raises (s : State) (k n : Nat) (f : Option RegFile) (d : BitVec 10) (x : Word) (l : Latch) : (s.push64 k n f d x l).core.raises = s.core.raises := rfl
@[simp] theorem State.push64_raised (s : State) (k n : Nat) (f : Option RegFile) (d : BitVec 10) (x : Word) (l : Latch) : (s.push64 k n f d x l).core.raised = s.core.raised := rfl
@[simp] theorem State.push64_slotsHeld (s : State) (k n : Nat) (f : Option RegFile) (d : BitVec 10) (x : Word) (l : Latch) : (s.push64 k n f d x l).core.slotsHeld = s.core.slotsHeld := rfl
@[simp] theorem State.push64_usedSlots (s : State) (k n : Nat) (f : Option RegFile) (d : BitVec 10) (x : Word) (l : Latch) : (s.push64 k n f d x l).core.usedSlots = s.core.usedSlots := rfl
@[simp] theorem State.push64_turn (s : State) (k n : Nat) (f : Option RegFile) (d : BitVec 10) (x : Word) (l : Latch) : (s.push64 k n f d x l).core.turn = s.core.turn := rfl
@[simp] theorem State.push64_feltQ (s : State) (k n : Nat) (f : Option RegFile) (d : BitVec 10) (x : Word) (l : Latch) : (s.push64 k n f d x l).core.feltQ = s.core.feltQ := rfl
@[simp] theorem State.push64_sendQ (s : State) (k n : Nat) (f : Option RegFile) (d : BitVec 10) (x : Word) (l : Latch) : (s.push64 k n f d x l).core.sendQ = s.core.sendQ := rfl
@[simp] theorem State.push64_outgoing (s : State) (k n : Nat) (f : Option RegFile) (d : BitVec 10) (x : Word) (l : Latch) : (s.push64 k n f d x l).core.outgoing = s.core.outgoing := rfl
@[simp] theorem State.push64_rq (s : State) (k n : Nat) (f : Option RegFile) (d : BitVec 10) (x : Word) (l : Latch) : (s.push64 k n f d x l).core.rq = s.core.rq := rfl
@[simp] theorem State.push64_forwarded (s : State) (k n : Nat) (f : Option RegFile) (d : BitVec 10) (x : Word) (l : Latch) : (s.push64 k n f d x l).core.forwarded = s.core.forwarded := rfl
@[simp] theorem State.push64_pushes (s : State) (k n : Nat) (f : Option RegFile) (d : BitVec 10) (x : Word) (l : Latch) : (s.push64 k n f d x l).core.pushes = s.core.pushes := rfl
@[simp] theorem State.push64_heads (s : State) (k n : Nat) (f : Option RegFile) (d : BitVec 10) (x : Word) (l : Latch) : (s.push64 k n f d x l).core.heads = s.core.heads := rfl
@[simp] theorem State.push64_xp (s : State) (k n : Nat) (f : Option RegFile) (d : BitVec 10) (x : Word) (l : Latch) : (s.push64 k n f d x l).core.xp = s.core.xp := rfl
@[simp] theorem State.push64_mx (s : State) (k n : Nat) (f : Option RegFile) (d : BitVec 10) (x : Word) (l : Latch) : (s.push64 k n f d x l).core.mx = s.core.mx := rfl
@[simp] theorem State.push64_sp (s : State) (k n : Nat) (f : Option RegFile) (d : BitVec 10) (x : Word) (l : Latch) : (s.push64 k n f d x l).core.sp = s.core.sp := rfl
@[simp] theorem State.push64_flagAt (s : State) (k n : Nat) (f : Option RegFile) (d : BitVec 10) (x : Word) (l : Latch) : (s.push64 k n f d x l).core.flagAt = s.core.flagAt := rfl
@[simp] theorem State.push64_flagNew (s : State) (k n : Nat) (f : Option RegFile) (d : BitVec 10) (x : Word) (l : Latch) : (s.push64 k n f d x l).core.flagNew = s.core.flagNew := rfl
@[simp] theorem State.push64_trgAt (s : State) (k n : Nat) (f : Option RegFile) (d : BitVec 10) (x : Word) (l : Latch) : (s.push64 k n f d x l).core.trgAt = s.core.trgAt := rfl
@[simp] theorem State.push64_preAt (s : State) (k n : Nat) (f : Option RegFile) (d : BitVec 10) (x : Word) (l : Latch) : (s.push64 k n f d x l).core.preAt = s.core.preAt := rfl
@[simp] theorem State.push64_pre (s : State) (k n : Nat) (f : Option RegFile) (d : BitVec 10) (x : Word) (l : Latch) : (s.push64 k n f d x l).core.pre = s.core.pre := rfl
@[simp] theorem State.push64_feltGone (s : State) (k n : Nat) (f : Option RegFile) (d : BitVec 10) (x : Word) (l : Latch) : (s.push64 k n f d x l).core.feltGone = s.core.feltGone := rfl
@[simp] theorem State.push64_sendGone (s : State) (k n : Nat) (f : Option RegFile) (d : BitVec 10) (x : Word) (l : Latch) : (s.push64 k n f d x l).core.sendGone = s.core.sendGone := rfl
@[simp] theorem State.push64_reloadEnd (s : State) (k n : Nat) (f : Option RegFile) (d : BitVec 10) (x : Word) (l : Latch) : (s.push64 k n f d x l).core.reloadEnd = s.core.reloadEnd := rfl
@[simp] theorem State.push64_idealSlots (s : State) (k n : Nat) (f : Option RegFile) (d : BitVec 10) (x : Word) (l : Latch) : (s.push64 k n f d x l).core.idealSlots = s.core.idealSlots := rfl
@[simp] theorem State.push64_reamAt (s : State) (k n : Nat) (f : Option RegFile) (d : BitVec 10) (x : Word) (l : Latch) : (s.push64 k n f d x l).core.reamAt = s.core.reamAt := rfl
@[simp] theorem State.push64_snapTrg (s : State) (k n : Nat) (f : Option RegFile) (d : BitVec 10) (x : Word) (l : Latch) : (s.push64 k n f d x l).core.snapTrg = s.core.snapTrg := rfl
@[simp] theorem State.push64_vlog (s : State) (k n : Nat) (f : Option RegFile) (d : BitVec 10) (x : Word) (l : Latch) : (s.push64 k n f d x l).core.vlog = s.core.vlog := rfl
@[simp] theorem State.push64_starts (s : State) (k n : Nat) (f : Option RegFile) (d : BitVec 10) (x : Word) (l : Latch) : (s.push64 k n f d x l).starts = s.starts := rfl
@[simp] theorem State.push64_webPort (s : State) (k n : Nat) (f : Option RegFile) (d : BitVec 10) (x : Word) (l : Latch) : (s.push64 k n f d x l).webPort = s.webPort := rfl
@[simp] theorem State.push64_gwPort (s : State) (k n : Nat) (f : Option RegFile) (d : BitVec 10) (x : Word) (l : Latch) : (s.push64 k n f d x l).gwPort = s.gwPort := rfl
@[simp] theorem State.push64_arriving (s : State) (k n : Nat) (f : Option RegFile) (d : BitVec 10) (x : Word) (l : Latch) : (s.push64 k n f d x l).arriving = s.arriving := rfl
@[simp] theorem State.push64_agenda (s : State) (k n : Nat) (f : Option RegFile) (d : BitVec 10) (x : Word) (l : Latch) : (s.push64 k n f d x l).agenda = s.agenda := rfl
@[simp] theorem State.push64_reload (s : State) (k n : Nat) (f : Option RegFile) (d : BitVec 10) (x : Word) (l : Latch) : (s.push64 k n f d x l).reload = s.reload := rfl
@[simp] theorem State.push64_hbm (s : State) (k n : Nat) (f : Option RegFile) (d : BitVec 10) (x : Word) (l : Latch) : (s.push64 k n f d x l).hbm = s.hbm := rfl
@[simp] theorem State.push64_quire (s : State) (k n : Nat) (f : Option RegFile) (d : BitVec 10) (x : Word) (l : Latch) : (s.push64 k n f d x l).quire = s.quire := rfl
@[simp] theorem State.push64_mirror (s : State) (k n : Nat) (f : Option RegFile) (d : BitVec 10) (x : Word) (l : Latch) : (s.push64 k n f d x l).mirror = s.mirror := rfl
@[simp] theorem State.push64_web (s : State) (k n : Nat) (f : Option RegFile) (d : BitVec 10) (x : Word) (l : Latch) : (s.push64 k n f d x l).web = s.web := rfl
@[simp] theorem State.push64_gwSent (s : State) (k n : Nat) (f : Option RegFile) (d : BitVec 10) (x : Word) (l : Latch) : (s.push64 k n f d x l).gwSent = s.gwSent := rfl
@[simp] theorem State.push64_region (s : State) (k n : Nat) (f : Option RegFile) (d : BitVec 10) (x : Word) (l : Latch) : (s.push64 k n f d x l).region = s.region := rfl
@[simp] theorem State.push64_part (s : State) (k n : Nat) (f : Option RegFile) (d : BitVec 10) (x : Word) (l : Latch) : (s.push64 k n f d x l).part = s.part := rfl
@[simp] theorem State.push64_dev (s : State) (k n : Nat) (f : Option RegFile) (d : BitVec 10) (x : Word) (l : Latch) : (s.push64 k n f d x l).dev = s.dev := rfl
@[simp] theorem State.push64_gw (s : State) (k n : Nat) (f : Option RegFile) (d : BitVec 10) (x : Word) (l : Latch) : (s.push64 k n f d x l).gw = s.gw := rfl
@[simp] theorem State.push64_felt (s : State) (k n : Nat) (f : Option RegFile) (d : BitVec 10) (x : Word) (l : Latch) : (s.push64 k n f d x l).felt = s.felt := rfl
@[simp] theorem State.push64_links (s : State) (k n : Nat) (f : Option RegFile) (d : BitVec 10) (x : Word) (l : Latch) : (s.push64 k n f d x l).links = s.links := rfl
@[simp] theorem State.push64_inputs (s : State) (k n : Nat) (f : Option RegFile) (d : BitVec 10) (x : Word) (l : Latch) : (s.push64 k n f d x l).inputs = s.inputs := rfl
@[simp] theorem State.push64_fresh (s : State) (k n : Nat) (f : Option RegFile) (d : BitVec 10) (x : Word) (l : Latch) : (s.push64 k n f d x l).fresh = s.fresh := rfl

/-! ## pushLine -/

@[simp] theorem State.pushLine_r (s : State) (k n : Nat) (f : Option RegFile) (d : BitVec 10) (x y : Line) (g : BitVec 9) (l : Latch) : (s.pushLine k n f d x y g l).core.r = s.core.r := rfl
@[simp] theorem State.pushLine_lat (s : State) (k n : Nat) (f : Option RegFile) (d : BitVec 10) (x y : Line) (g : BitVec 9) (l : Latch) : (s.pushLine k n f d x y g l).core.lat = s.core.lat := rfl
@[simp] theorem State.pushLine_seq (s : State) (k n : Nat) (f : Option RegFile) (d : BitVec 10) (x y : Line) (g : BitVec 9) (l : Latch) : (s.pushLine k n f d x y g l).core.seq = s.core.seq := rfl
@[simp] theorem State.pushLine_fstat (s : State) (k n : Nat) (f : Option RegFile) (d : BitVec 10) (x y : Line) (g : BitVec 9) (l : Latch) : (s.pushLine k n f d x y g l).core.fstat = s.core.fstat := rfl
@[simp] theorem State.pushLine_cyc (s : State) (k n : Nat) (f : Option RegFile) (d : BitVec 10) (x y : Line) (g : BitVec 9) (l : Latch) : (s.pushLine k n f d x y g l).core.cyc = s.core.cyc := rfl
@[simp] theorem State.pushLine_tix (s : State) (k n : Nat) (f : Option RegFile) (d : BitVec 10) (x y : Line) (g : BitVec 9) (l : Latch) : (s.pushLine k n f d x y g l).core.tix = s.core.tix := rfl
@[simp] theorem State.pushLine_slip (s : State) (k n : Nat) (f : Option RegFile) (d : BitVec 10) (x y : Line) (g : BitVec 9) (l : Latch) : (s.pushLine k n f d x y g l).core.slip = s.core.slip := rfl
@[simp] theorem State.pushLine_run (s : State) (k n : Nat) (f : Option RegFile) (d : BitVec 10) (x y : Line) (g : BitVec 9) (l : Latch) : (s.pushLine k n f d x y g l).core.run = s.core.run := rfl
@[simp] theorem State.pushLine_fault (s : State) (k n : Nat) (f : Option RegFile) (d : BitVec 10) (x y : Line) (g : BitVec 9) (l : Latch) : (s.pushLine k n f d x y g l).core.fault = s.core.fault := rfl
@[simp] theorem State.pushLine_held (s : State) (k n : Nat) (f : Option RegFile) (d : BitVec 10) (x y : Line) (g : BitVec 9) (l : Latch) : (s.pushLine k n f d x y g l).core.held = s.core.held := rfl
@[simp] theorem State.pushLine_wait (s : State) (k n : Nat) (f : Option RegFile) (d : BitVec 10) (x y : Line) (g : BitVec 9) (l : Latch) : (s.pushLine k n f d x y g l).core.wait = s.core.wait := rfl
@[simp] theorem State.pushLine_taken (s : State) (k n : Nat) (f : Option RegFile) (d : BitVec 10) (x y : Line) (g : BitVec 9) (l : Latch) : (s.pushLine k n f d x y g l).core.taken = s.core.taken := rfl
@[simp] theorem State.pushLine_dead (s : State) (k n : Nat) (f : Option RegFile) (d : BitVec 10) (x y : Line) (g : BitVec 9) (l : Latch) : (s.pushLine k n f d x y g l).core.dead = s.core.dead := rfl
@[simp] theorem State.pushLine_stopAt (s : State) (k n : Nat) (f : Option RegFile) (d : BitVec 10) (x y : Line) (g : BitVec 9) (l : Latch) : (s.pushLine k n f d x y g l).core.stopAt = s.core.stopAt := rfl
@[simp] theorem State.pushLine_loads (s : State) (k n : Nat) (f : Option RegFile) (d : BitVec 10) (x y : Line) (g : BitVec 9) (l : Latch) : (s.pushLine k n f d x y g l).core.loads = s.core.loads := rfl
@[simp] theorem State.pushLine_stores (s : State) (k n : Nat) (f : Option RegFile) (d : BitVec 10) (x y : Line) (g : BitVec 9) (l : Latch) : (s.pushLine k n f d x y g l).core.stores = s.core.stores := rfl
@[simp] theorem State.pushLine_atoms (s : State) (k n : Nat) (f : Option RegFile) (d : BitVec 10) (x y : Line) (g : BitVec 9) (l : Latch) : (s.pushLine k n f d x y g l).core.atoms = s.core.atoms := rfl
@[simp] theorem State.pushLine_awaiting (s : State) (k n : Nat) (f : Option RegFile) (d : BitVec 10) (x y : Line) (g : BitVec 9) (l : Latch) : (s.pushLine k n f d x y g l).core.awaiting = s.core.awaiting := rfl
@[simp] theorem State.pushLine_scntUntil (s : State) (k n : Nat) (f : Option RegFile) (d : BitVec 10) (x y : Line) (g : BitVec 9) (l : Latch) : (s.pushLine k n f d x y g l).core.scntUntil = s.core.scntUntil := rfl
@[simp] theorem State.pushLine_scntWeb (s : State) (k n : Nat) (f : Option RegFile) (d : BitVec 10) (x y : Line) (g : BitVec 9) (l : Latch) : (s.pushLine k n f d x y g l).core.scntWeb = s.core.scntWeb := rfl
@[simp] theorem State.pushLine_gate (s : State) (k n : Nat) (f : Option RegFile) (d : BitVec 10) (x y : Line) (g : BitVec 9) (l : Latch) : (s.pushLine k n f d x y g l).core.gate = s.core.gate := rfl
@[simp] theorem State.pushLine_mark (s : State) (k n : Nat) (f : Option RegFile) (d : BitVec 10) (x y : Line) (g : BitVec 9) (l : Latch) : (s.pushLine k n f d x y g l).core.mark = s.core.mark := rfl
@[simp] theorem State.pushLine_scratch (s : State) (k n : Nat) (f : Option RegFile) (d : BitVec 10) (x y : Line) (g : BitVec 9) (l : Latch) : (s.pushLine k n f d x y g l).core.scratch = s.core.scratch := rfl
@[simp] theorem State.pushLine_hist (s : State) (k n : Nat) (f : Option RegFile) (d : BitVec 10) (x y : Line) (g : BitVec 9) (l : Latch) : (s.pushLine k n f d x y g l).core.hist = s.core.hist := rfl
@[simp] theorem State.pushLine_wbuf (s : State) (k n : Nat) (f : Option RegFile) (d : BitVec 10) (x y : Line) (g : BitVec 9) (l : Latch) : (s.pushLine k n f d x y g l).core.wbuf = s.core.wbuf := rfl
@[simp] theorem State.pushLine_istore (s : State) (k n : Nat) (f : Option RegFile) (d : BitVec 10) (x y : Line) (g : BitVec 9) (l : Latch) : (s.pushLine k n f d x y g l).core.istore = s.core.istore := rfl
@[simp] theorem State.pushLine_xlat (s : State) (k n : Nat) (f : Option RegFile) (d : BitVec 10) (x y : Line) (g : BitVec 9) (l : Latch) : (s.pushLine k n f d x y g l).core.xlat = s.core.xlat := rfl
@[simp] theorem State.pushLine_caps (s : State) (k n : Nat) (f : Option RegFile) (d : BitVec 10) (x y : Line) (g : BitVec 9) (l : Latch) : (s.pushLine k n f d x y g l).core.caps = s.core.caps := rfl
@[simp] theorem State.pushLine_cmds (s : State) (k n : Nat) (f : Option RegFile) (d : BitVec 10) (x y : Line) (g : BitVec 9) (l : Latch) : (s.pushLine k n f d x y g l).core.cmds = s.core.cmds := rfl
@[simp] theorem State.pushLine_engW (s : State) (k n : Nat) (f : Option RegFile) (d : BitVec 10) (x y : Line) (g : BitVec 9) (l : Latch) : (s.pushLine k n f d x y g l).core.engW = s.core.engW := rfl
@[simp] theorem State.pushLine_inbound (s : State) (k n : Nat) (f : Option RegFile) (d : BitVec 10) (x y : Line) (g : BitVec 9) (l : Latch) : (s.pushLine k n f d x y g l).core.inbound = s.core.inbound := rfl
@[simp] theorem State.pushLine_raises (s : State) (k n : Nat) (f : Option RegFile) (d : BitVec 10) (x y : Line) (g : BitVec 9) (l : Latch) : (s.pushLine k n f d x y g l).core.raises = s.core.raises := rfl
@[simp] theorem State.pushLine_raised (s : State) (k n : Nat) (f : Option RegFile) (d : BitVec 10) (x y : Line) (g : BitVec 9) (l : Latch) : (s.pushLine k n f d x y g l).core.raised = s.core.raised := rfl
@[simp] theorem State.pushLine_slotsHeld (s : State) (k n : Nat) (f : Option RegFile) (d : BitVec 10) (x y : Line) (g : BitVec 9) (l : Latch) : (s.pushLine k n f d x y g l).core.slotsHeld = s.core.slotsHeld := rfl
@[simp] theorem State.pushLine_usedSlots (s : State) (k n : Nat) (f : Option RegFile) (d : BitVec 10) (x y : Line) (g : BitVec 9) (l : Latch) : (s.pushLine k n f d x y g l).core.usedSlots = s.core.usedSlots := rfl
@[simp] theorem State.pushLine_turn (s : State) (k n : Nat) (f : Option RegFile) (d : BitVec 10) (x y : Line) (g : BitVec 9) (l : Latch) : (s.pushLine k n f d x y g l).core.turn = s.core.turn := rfl
@[simp] theorem State.pushLine_feltQ (s : State) (k n : Nat) (f : Option RegFile) (d : BitVec 10) (x y : Line) (g : BitVec 9) (l : Latch) : (s.pushLine k n f d x y g l).core.feltQ = s.core.feltQ := rfl
@[simp] theorem State.pushLine_sendQ (s : State) (k n : Nat) (f : Option RegFile) (d : BitVec 10) (x y : Line) (g : BitVec 9) (l : Latch) : (s.pushLine k n f d x y g l).core.sendQ = s.core.sendQ := rfl
@[simp] theorem State.pushLine_outgoing (s : State) (k n : Nat) (f : Option RegFile) (d : BitVec 10) (x y : Line) (g : BitVec 9) (l : Latch) : (s.pushLine k n f d x y g l).core.outgoing = s.core.outgoing := rfl
@[simp] theorem State.pushLine_rq (s : State) (k n : Nat) (f : Option RegFile) (d : BitVec 10) (x y : Line) (g : BitVec 9) (l : Latch) : (s.pushLine k n f d x y g l).core.rq = s.core.rq := rfl
@[simp] theorem State.pushLine_forwarded (s : State) (k n : Nat) (f : Option RegFile) (d : BitVec 10) (x y : Line) (g : BitVec 9) (l : Latch) : (s.pushLine k n f d x y g l).core.forwarded = s.core.forwarded := rfl
@[simp] theorem State.pushLine_pushes (s : State) (k n : Nat) (f : Option RegFile) (d : BitVec 10) (x y : Line) (g : BitVec 9) (l : Latch) : (s.pushLine k n f d x y g l).core.pushes = s.core.pushes := rfl
@[simp] theorem State.pushLine_heads (s : State) (k n : Nat) (f : Option RegFile) (d : BitVec 10) (x y : Line) (g : BitVec 9) (l : Latch) : (s.pushLine k n f d x y g l).core.heads = s.core.heads := rfl
@[simp] theorem State.pushLine_xp (s : State) (k n : Nat) (f : Option RegFile) (d : BitVec 10) (x y : Line) (g : BitVec 9) (l : Latch) : (s.pushLine k n f d x y g l).core.xp = s.core.xp := rfl
@[simp] theorem State.pushLine_mx (s : State) (k n : Nat) (f : Option RegFile) (d : BitVec 10) (x y : Line) (g : BitVec 9) (l : Latch) : (s.pushLine k n f d x y g l).core.mx = s.core.mx := rfl
@[simp] theorem State.pushLine_sp (s : State) (k n : Nat) (f : Option RegFile) (d : BitVec 10) (x y : Line) (g : BitVec 9) (l : Latch) : (s.pushLine k n f d x y g l).core.sp = s.core.sp := rfl
@[simp] theorem State.pushLine_flagAt (s : State) (k n : Nat) (f : Option RegFile) (d : BitVec 10) (x y : Line) (g : BitVec 9) (l : Latch) : (s.pushLine k n f d x y g l).core.flagAt = s.core.flagAt := rfl
@[simp] theorem State.pushLine_flagNew (s : State) (k n : Nat) (f : Option RegFile) (d : BitVec 10) (x y : Line) (g : BitVec 9) (l : Latch) : (s.pushLine k n f d x y g l).core.flagNew = s.core.flagNew := rfl
@[simp] theorem State.pushLine_trgAt (s : State) (k n : Nat) (f : Option RegFile) (d : BitVec 10) (x y : Line) (g : BitVec 9) (l : Latch) : (s.pushLine k n f d x y g l).core.trgAt = s.core.trgAt := rfl
@[simp] theorem State.pushLine_preAt (s : State) (k n : Nat) (f : Option RegFile) (d : BitVec 10) (x y : Line) (g : BitVec 9) (l : Latch) : (s.pushLine k n f d x y g l).core.preAt = s.core.preAt := rfl
@[simp] theorem State.pushLine_pre (s : State) (k n : Nat) (f : Option RegFile) (d : BitVec 10) (x y : Line) (g : BitVec 9) (l : Latch) : (s.pushLine k n f d x y g l).core.pre = s.core.pre := rfl
@[simp] theorem State.pushLine_feltGone (s : State) (k n : Nat) (f : Option RegFile) (d : BitVec 10) (x y : Line) (g : BitVec 9) (l : Latch) : (s.pushLine k n f d x y g l).core.feltGone = s.core.feltGone := rfl
@[simp] theorem State.pushLine_sendGone (s : State) (k n : Nat) (f : Option RegFile) (d : BitVec 10) (x y : Line) (g : BitVec 9) (l : Latch) : (s.pushLine k n f d x y g l).core.sendGone = s.core.sendGone := rfl
@[simp] theorem State.pushLine_reloadEnd (s : State) (k n : Nat) (f : Option RegFile) (d : BitVec 10) (x y : Line) (g : BitVec 9) (l : Latch) : (s.pushLine k n f d x y g l).core.reloadEnd = s.core.reloadEnd := rfl
@[simp] theorem State.pushLine_idealSlots (s : State) (k n : Nat) (f : Option RegFile) (d : BitVec 10) (x y : Line) (g : BitVec 9) (l : Latch) : (s.pushLine k n f d x y g l).core.idealSlots = s.core.idealSlots := rfl
@[simp] theorem State.pushLine_reamAt (s : State) (k n : Nat) (f : Option RegFile) (d : BitVec 10) (x y : Line) (g : BitVec 9) (l : Latch) : (s.pushLine k n f d x y g l).core.reamAt = s.core.reamAt := rfl
@[simp] theorem State.pushLine_snapTrg (s : State) (k n : Nat) (f : Option RegFile) (d : BitVec 10) (x y : Line) (g : BitVec 9) (l : Latch) : (s.pushLine k n f d x y g l).core.snapTrg = s.core.snapTrg := rfl
@[simp] theorem State.pushLine_vlog (s : State) (k n : Nat) (f : Option RegFile) (d : BitVec 10) (x y : Line) (g : BitVec 9) (l : Latch) : (s.pushLine k n f d x y g l).core.vlog = s.core.vlog := rfl
@[simp] theorem State.pushLine_starts (s : State) (k n : Nat) (f : Option RegFile) (d : BitVec 10) (x y : Line) (g : BitVec 9) (l : Latch) : (s.pushLine k n f d x y g l).starts = s.starts := rfl
@[simp] theorem State.pushLine_webPort (s : State) (k n : Nat) (f : Option RegFile) (d : BitVec 10) (x y : Line) (g : BitVec 9) (l : Latch) : (s.pushLine k n f d x y g l).webPort = s.webPort := rfl
@[simp] theorem State.pushLine_gwPort (s : State) (k n : Nat) (f : Option RegFile) (d : BitVec 10) (x y : Line) (g : BitVec 9) (l : Latch) : (s.pushLine k n f d x y g l).gwPort = s.gwPort := rfl
@[simp] theorem State.pushLine_arriving (s : State) (k n : Nat) (f : Option RegFile) (d : BitVec 10) (x y : Line) (g : BitVec 9) (l : Latch) : (s.pushLine k n f d x y g l).arriving = s.arriving := rfl
@[simp] theorem State.pushLine_agenda (s : State) (k n : Nat) (f : Option RegFile) (d : BitVec 10) (x y : Line) (g : BitVec 9) (l : Latch) : (s.pushLine k n f d x y g l).agenda = s.agenda := rfl
@[simp] theorem State.pushLine_reload (s : State) (k n : Nat) (f : Option RegFile) (d : BitVec 10) (x y : Line) (g : BitVec 9) (l : Latch) : (s.pushLine k n f d x y g l).reload = s.reload := rfl
@[simp] theorem State.pushLine_hbm (s : State) (k n : Nat) (f : Option RegFile) (d : BitVec 10) (x y : Line) (g : BitVec 9) (l : Latch) : (s.pushLine k n f d x y g l).hbm = s.hbm := rfl
@[simp] theorem State.pushLine_quire (s : State) (k n : Nat) (f : Option RegFile) (d : BitVec 10) (x y : Line) (g : BitVec 9) (l : Latch) : (s.pushLine k n f d x y g l).quire = s.quire := rfl
@[simp] theorem State.pushLine_mirror (s : State) (k n : Nat) (f : Option RegFile) (d : BitVec 10) (x y : Line) (g : BitVec 9) (l : Latch) : (s.pushLine k n f d x y g l).mirror = s.mirror := rfl
@[simp] theorem State.pushLine_web (s : State) (k n : Nat) (f : Option RegFile) (d : BitVec 10) (x y : Line) (g : BitVec 9) (l : Latch) : (s.pushLine k n f d x y g l).web = s.web := rfl
@[simp] theorem State.pushLine_gwSent (s : State) (k n : Nat) (f : Option RegFile) (d : BitVec 10) (x y : Line) (g : BitVec 9) (l : Latch) : (s.pushLine k n f d x y g l).gwSent = s.gwSent := rfl
@[simp] theorem State.pushLine_region (s : State) (k n : Nat) (f : Option RegFile) (d : BitVec 10) (x y : Line) (g : BitVec 9) (l : Latch) : (s.pushLine k n f d x y g l).region = s.region := rfl
@[simp] theorem State.pushLine_part (s : State) (k n : Nat) (f : Option RegFile) (d : BitVec 10) (x y : Line) (g : BitVec 9) (l : Latch) : (s.pushLine k n f d x y g l).part = s.part := rfl
@[simp] theorem State.pushLine_dev (s : State) (k n : Nat) (f : Option RegFile) (d : BitVec 10) (x y : Line) (g : BitVec 9) (l : Latch) : (s.pushLine k n f d x y g l).dev = s.dev := rfl
@[simp] theorem State.pushLine_gw (s : State) (k n : Nat) (f : Option RegFile) (d : BitVec 10) (x y : Line) (g : BitVec 9) (l : Latch) : (s.pushLine k n f d x y g l).gw = s.gw := rfl
@[simp] theorem State.pushLine_felt (s : State) (k n : Nat) (f : Option RegFile) (d : BitVec 10) (x y : Line) (g : BitVec 9) (l : Latch) : (s.pushLine k n f d x y g l).felt = s.felt := rfl
@[simp] theorem State.pushLine_links (s : State) (k n : Nat) (f : Option RegFile) (d : BitVec 10) (x y : Line) (g : BitVec 9) (l : Latch) : (s.pushLine k n f d x y g l).links = s.links := rfl
@[simp] theorem State.pushLine_inputs (s : State) (k n : Nat) (f : Option RegFile) (d : BitVec 10) (x y : Line) (g : BitVec 9) (l : Latch) : (s.pushLine k n f d x y g l).inputs = s.inputs := rfl
@[simp] theorem State.pushLine_fresh (s : State) (k n : Nat) (f : Option RegFile) (d : BitVec 10) (x y : Line) (g : BitVec 9) (l : Latch) : (s.pushLine k n f d x y g l).fresh = s.fresh := rfl

/-! ## await -/

@[simp] theorem State.await_r (s : State) (w : Wait) : (s.await w).core.r = s.core.r := rfl
@[simp] theorem State.await_lat (s : State) (w : Wait) : (s.await w).core.lat = s.core.lat := rfl
@[simp] theorem State.await_seq (s : State) (w : Wait) : (s.await w).core.seq = s.core.seq := rfl
@[simp] theorem State.await_fstat (s : State) (w : Wait) : (s.await w).core.fstat = s.core.fstat := rfl
@[simp] theorem State.await_cyc (s : State) (w : Wait) : (s.await w).core.cyc = s.core.cyc := rfl
@[simp] theorem State.await_tix (s : State) (w : Wait) : (s.await w).core.tix = s.core.tix := rfl
@[simp] theorem State.await_slip (s : State) (w : Wait) : (s.await w).core.slip = s.core.slip := rfl
@[simp] theorem State.await_run (s : State) (w : Wait) : (s.await w).core.run = s.core.run := rfl
@[simp] theorem State.await_fault (s : State) (w : Wait) : (s.await w).core.fault = s.core.fault := rfl
@[simp] theorem State.await_held (s : State) (w : Wait) : (s.await w).core.held = s.core.held := rfl
@[simp] theorem State.await_taken (s : State) (w : Wait) : (s.await w).core.taken = s.core.taken := rfl
@[simp] theorem State.await_dead (s : State) (w : Wait) : (s.await w).core.dead = s.core.dead := rfl
@[simp] theorem State.await_stopAt (s : State) (w : Wait) : (s.await w).core.stopAt = s.core.stopAt := rfl
@[simp] theorem State.await_land (s : State) (w : Wait) : (s.await w).core.land = s.core.land := rfl
@[simp] theorem State.await_loads (s : State) (w : Wait) : (s.await w).core.loads = s.core.loads := rfl
@[simp] theorem State.await_stores (s : State) (w : Wait) : (s.await w).core.stores = s.core.stores := rfl
@[simp] theorem State.await_atoms (s : State) (w : Wait) : (s.await w).core.atoms = s.core.atoms := rfl
@[simp] theorem State.await_awaiting (s : State) (w : Wait) : (s.await w).core.awaiting = s.core.awaiting := rfl
@[simp] theorem State.await_scntUntil (s : State) (w : Wait) : (s.await w).core.scntUntil = s.core.scntUntil := rfl
@[simp] theorem State.await_scntWeb (s : State) (w : Wait) : (s.await w).core.scntWeb = s.core.scntWeb := rfl
@[simp] theorem State.await_gate (s : State) (w : Wait) : (s.await w).core.gate = s.core.gate := rfl
@[simp] theorem State.await_mark (s : State) (w : Wait) : (s.await w).core.mark = s.core.mark := rfl
@[simp] theorem State.await_scratch (s : State) (w : Wait) : (s.await w).core.scratch = s.core.scratch := rfl
@[simp] theorem State.await_hist (s : State) (w : Wait) : (s.await w).core.hist = s.core.hist := rfl
@[simp] theorem State.await_wbuf (s : State) (w : Wait) : (s.await w).core.wbuf = s.core.wbuf := rfl
@[simp] theorem State.await_istore (s : State) (w : Wait) : (s.await w).core.istore = s.core.istore := rfl
@[simp] theorem State.await_xlat (s : State) (w : Wait) : (s.await w).core.xlat = s.core.xlat := rfl
@[simp] theorem State.await_caps (s : State) (w : Wait) : (s.await w).core.caps = s.core.caps := rfl
@[simp] theorem State.await_cmds (s : State) (w : Wait) : (s.await w).core.cmds = s.core.cmds := rfl
@[simp] theorem State.await_engW (s : State) (w : Wait) : (s.await w).core.engW = s.core.engW := rfl
@[simp] theorem State.await_inbound (s : State) (w : Wait) : (s.await w).core.inbound = s.core.inbound := rfl
@[simp] theorem State.await_raises (s : State) (w : Wait) : (s.await w).core.raises = s.core.raises := rfl
@[simp] theorem State.await_raised (s : State) (w : Wait) : (s.await w).core.raised = s.core.raised := rfl
@[simp] theorem State.await_slotsHeld (s : State) (w : Wait) : (s.await w).core.slotsHeld = s.core.slotsHeld := rfl
@[simp] theorem State.await_usedSlots (s : State) (w : Wait) : (s.await w).core.usedSlots = s.core.usedSlots := rfl
@[simp] theorem State.await_turn (s : State) (w : Wait) : (s.await w).core.turn = s.core.turn := rfl
@[simp] theorem State.await_feltQ (s : State) (w : Wait) : (s.await w).core.feltQ = s.core.feltQ := rfl
@[simp] theorem State.await_sendQ (s : State) (w : Wait) : (s.await w).core.sendQ = s.core.sendQ := rfl
@[simp] theorem State.await_outgoing (s : State) (w : Wait) : (s.await w).core.outgoing = s.core.outgoing := rfl
@[simp] theorem State.await_rq (s : State) (w : Wait) : (s.await w).core.rq = s.core.rq := rfl
@[simp] theorem State.await_forwarded (s : State) (w : Wait) : (s.await w).core.forwarded = s.core.forwarded := rfl
@[simp] theorem State.await_pushes (s : State) (w : Wait) : (s.await w).core.pushes = s.core.pushes := rfl
@[simp] theorem State.await_heads (s : State) (w : Wait) : (s.await w).core.heads = s.core.heads := rfl
@[simp] theorem State.await_xp (s : State) (w : Wait) : (s.await w).core.xp = s.core.xp := rfl
@[simp] theorem State.await_mx (s : State) (w : Wait) : (s.await w).core.mx = s.core.mx := rfl
@[simp] theorem State.await_sp (s : State) (w : Wait) : (s.await w).core.sp = s.core.sp := rfl
@[simp] theorem State.await_flagAt (s : State) (w : Wait) : (s.await w).core.flagAt = s.core.flagAt := rfl
@[simp] theorem State.await_flagNew (s : State) (w : Wait) : (s.await w).core.flagNew = s.core.flagNew := rfl
@[simp] theorem State.await_trgAt (s : State) (w : Wait) : (s.await w).core.trgAt = s.core.trgAt := rfl
@[simp] theorem State.await_preAt (s : State) (w : Wait) : (s.await w).core.preAt = s.core.preAt := rfl
@[simp] theorem State.await_pre (s : State) (w : Wait) : (s.await w).core.pre = s.core.pre := rfl
@[simp] theorem State.await_feltGone (s : State) (w : Wait) : (s.await w).core.feltGone = s.core.feltGone := rfl
@[simp] theorem State.await_sendGone (s : State) (w : Wait) : (s.await w).core.sendGone = s.core.sendGone := rfl
@[simp] theorem State.await_reloadEnd (s : State) (w : Wait) : (s.await w).core.reloadEnd = s.core.reloadEnd := rfl
@[simp] theorem State.await_idealSlots (s : State) (w : Wait) : (s.await w).core.idealSlots = s.core.idealSlots := rfl
@[simp] theorem State.await_reamAt (s : State) (w : Wait) : (s.await w).core.reamAt = s.core.reamAt := rfl
@[simp] theorem State.await_snapTrg (s : State) (w : Wait) : (s.await w).core.snapTrg = s.core.snapTrg := rfl
@[simp] theorem State.await_vlog (s : State) (w : Wait) : (s.await w).core.vlog = s.core.vlog := rfl
@[simp] theorem State.await_starts (s : State) (w : Wait) : (s.await w).starts = s.starts := rfl
@[simp] theorem State.await_webPort (s : State) (w : Wait) : (s.await w).webPort = s.webPort := rfl
@[simp] theorem State.await_gwPort (s : State) (w : Wait) : (s.await w).gwPort = s.gwPort := rfl
@[simp] theorem State.await_arriving (s : State) (w : Wait) : (s.await w).arriving = s.arriving := rfl
@[simp] theorem State.await_agenda (s : State) (w : Wait) : (s.await w).agenda = s.agenda := rfl
@[simp] theorem State.await_reload (s : State) (w : Wait) : (s.await w).reload = s.reload := rfl
@[simp] theorem State.await_hbm (s : State) (w : Wait) : (s.await w).hbm = s.hbm := rfl
@[simp] theorem State.await_quire (s : State) (w : Wait) : (s.await w).quire = s.quire := rfl
@[simp] theorem State.await_mirror (s : State) (w : Wait) : (s.await w).mirror = s.mirror := rfl
@[simp] theorem State.await_web (s : State) (w : Wait) : (s.await w).web = s.web := rfl
@[simp] theorem State.await_gwSent (s : State) (w : Wait) : (s.await w).gwSent = s.gwSent := rfl
@[simp] theorem State.await_region (s : State) (w : Wait) : (s.await w).region = s.region := rfl
@[simp] theorem State.await_part (s : State) (w : Wait) : (s.await w).part = s.part := rfl
@[simp] theorem State.await_dev (s : State) (w : Wait) : (s.await w).dev = s.dev := rfl
@[simp] theorem State.await_gw (s : State) (w : Wait) : (s.await w).gw = s.gw := rfl
@[simp] theorem State.await_felt (s : State) (w : Wait) : (s.await w).felt = s.felt := rfl
@[simp] theorem State.await_links (s : State) (w : Wait) : (s.await w).links = s.links := rfl
@[simp] theorem State.await_inputs (s : State) (w : Wait) : (s.await w).inputs = s.inputs := rfl
@[simp] theorem State.await_fresh (s : State) (w : Wait) : (s.await w).fresh = s.fresh := rfl

/-! ## pushPred -/

@[simp] theorem State.pushPred_r (s : State) (k n : Nat) (d : BitVec 3) (b : Bool) : (s.pushPred k n d b).core.r = s.core.r := rfl
@[simp] theorem State.pushPred_lat (s : State) (k n : Nat) (d : BitVec 3) (b : Bool) : (s.pushPred k n d b).core.lat = s.core.lat := rfl
@[simp] theorem State.pushPred_seq (s : State) (k n : Nat) (d : BitVec 3) (b : Bool) : (s.pushPred k n d b).core.seq = s.core.seq := rfl
@[simp] theorem State.pushPred_fstat (s : State) (k n : Nat) (d : BitVec 3) (b : Bool) : (s.pushPred k n d b).core.fstat = s.core.fstat := rfl
@[simp] theorem State.pushPred_cyc (s : State) (k n : Nat) (d : BitVec 3) (b : Bool) : (s.pushPred k n d b).core.cyc = s.core.cyc := rfl
@[simp] theorem State.pushPred_tix (s : State) (k n : Nat) (d : BitVec 3) (b : Bool) : (s.pushPred k n d b).core.tix = s.core.tix := rfl
@[simp] theorem State.pushPred_slip (s : State) (k n : Nat) (d : BitVec 3) (b : Bool) : (s.pushPred k n d b).core.slip = s.core.slip := rfl
@[simp] theorem State.pushPred_run (s : State) (k n : Nat) (d : BitVec 3) (b : Bool) : (s.pushPred k n d b).core.run = s.core.run := rfl
@[simp] theorem State.pushPred_fault (s : State) (k n : Nat) (d : BitVec 3) (b : Bool) : (s.pushPred k n d b).core.fault = s.core.fault := rfl
@[simp] theorem State.pushPred_held (s : State) (k n : Nat) (d : BitVec 3) (b : Bool) : (s.pushPred k n d b).core.held = s.core.held := rfl
@[simp] theorem State.pushPred_wait (s : State) (k n : Nat) (d : BitVec 3) (b : Bool) : (s.pushPred k n d b).core.wait = s.core.wait := rfl
@[simp] theorem State.pushPred_taken (s : State) (k n : Nat) (d : BitVec 3) (b : Bool) : (s.pushPred k n d b).core.taken = s.core.taken := rfl
@[simp] theorem State.pushPred_dead (s : State) (k n : Nat) (d : BitVec 3) (b : Bool) : (s.pushPred k n d b).core.dead = s.core.dead := rfl
@[simp] theorem State.pushPred_stopAt (s : State) (k n : Nat) (d : BitVec 3) (b : Bool) : (s.pushPred k n d b).core.stopAt = s.core.stopAt := rfl
@[simp] theorem State.pushPred_loads (s : State) (k n : Nat) (d : BitVec 3) (b : Bool) : (s.pushPred k n d b).core.loads = s.core.loads := rfl
@[simp] theorem State.pushPred_stores (s : State) (k n : Nat) (d : BitVec 3) (b : Bool) : (s.pushPred k n d b).core.stores = s.core.stores := rfl
@[simp] theorem State.pushPred_atoms (s : State) (k n : Nat) (d : BitVec 3) (b : Bool) : (s.pushPred k n d b).core.atoms = s.core.atoms := rfl
@[simp] theorem State.pushPred_awaiting (s : State) (k n : Nat) (d : BitVec 3) (b : Bool) : (s.pushPred k n d b).core.awaiting = s.core.awaiting := rfl
@[simp] theorem State.pushPred_scntUntil (s : State) (k n : Nat) (d : BitVec 3) (b : Bool) : (s.pushPred k n d b).core.scntUntil = s.core.scntUntil := rfl
@[simp] theorem State.pushPred_scntWeb (s : State) (k n : Nat) (d : BitVec 3) (b : Bool) : (s.pushPred k n d b).core.scntWeb = s.core.scntWeb := rfl
@[simp] theorem State.pushPred_gate (s : State) (k n : Nat) (d : BitVec 3) (b : Bool) : (s.pushPred k n d b).core.gate = s.core.gate := rfl
@[simp] theorem State.pushPred_mark (s : State) (k n : Nat) (d : BitVec 3) (b : Bool) : (s.pushPred k n d b).core.mark = s.core.mark := rfl
@[simp] theorem State.pushPred_scratch (s : State) (k n : Nat) (d : BitVec 3) (b : Bool) : (s.pushPred k n d b).core.scratch = s.core.scratch := rfl
@[simp] theorem State.pushPred_hist (s : State) (k n : Nat) (d : BitVec 3) (b : Bool) : (s.pushPred k n d b).core.hist = s.core.hist := rfl
@[simp] theorem State.pushPred_wbuf (s : State) (k n : Nat) (d : BitVec 3) (b : Bool) : (s.pushPred k n d b).core.wbuf = s.core.wbuf := rfl
@[simp] theorem State.pushPred_istore (s : State) (k n : Nat) (d : BitVec 3) (b : Bool) : (s.pushPred k n d b).core.istore = s.core.istore := rfl
@[simp] theorem State.pushPred_xlat (s : State) (k n : Nat) (d : BitVec 3) (b : Bool) : (s.pushPred k n d b).core.xlat = s.core.xlat := rfl
@[simp] theorem State.pushPred_caps (s : State) (k n : Nat) (d : BitVec 3) (b : Bool) : (s.pushPred k n d b).core.caps = s.core.caps := rfl
@[simp] theorem State.pushPred_cmds (s : State) (k n : Nat) (d : BitVec 3) (b : Bool) : (s.pushPred k n d b).core.cmds = s.core.cmds := rfl
@[simp] theorem State.pushPred_engW (s : State) (k n : Nat) (d : BitVec 3) (b : Bool) : (s.pushPred k n d b).core.engW = s.core.engW := rfl
@[simp] theorem State.pushPred_inbound (s : State) (k n : Nat) (d : BitVec 3) (b : Bool) : (s.pushPred k n d b).core.inbound = s.core.inbound := rfl
@[simp] theorem State.pushPred_raises (s : State) (k n : Nat) (d : BitVec 3) (b : Bool) : (s.pushPred k n d b).core.raises = s.core.raises := rfl
@[simp] theorem State.pushPred_raised (s : State) (k n : Nat) (d : BitVec 3) (b : Bool) : (s.pushPred k n d b).core.raised = s.core.raised := rfl
@[simp] theorem State.pushPred_slotsHeld (s : State) (k n : Nat) (d : BitVec 3) (b : Bool) : (s.pushPred k n d b).core.slotsHeld = s.core.slotsHeld := rfl
@[simp] theorem State.pushPred_usedSlots (s : State) (k n : Nat) (d : BitVec 3) (b : Bool) : (s.pushPred k n d b).core.usedSlots = s.core.usedSlots := rfl
@[simp] theorem State.pushPred_turn (s : State) (k n : Nat) (d : BitVec 3) (b : Bool) : (s.pushPred k n d b).core.turn = s.core.turn := rfl
@[simp] theorem State.pushPred_feltQ (s : State) (k n : Nat) (d : BitVec 3) (b : Bool) : (s.pushPred k n d b).core.feltQ = s.core.feltQ := rfl
@[simp] theorem State.pushPred_sendQ (s : State) (k n : Nat) (d : BitVec 3) (b : Bool) : (s.pushPred k n d b).core.sendQ = s.core.sendQ := rfl
@[simp] theorem State.pushPred_outgoing (s : State) (k n : Nat) (d : BitVec 3) (b : Bool) : (s.pushPred k n d b).core.outgoing = s.core.outgoing := rfl
@[simp] theorem State.pushPred_rq (s : State) (k n : Nat) (d : BitVec 3) (b : Bool) : (s.pushPred k n d b).core.rq = s.core.rq := rfl
@[simp] theorem State.pushPred_forwarded (s : State) (k n : Nat) (d : BitVec 3) (b : Bool) : (s.pushPred k n d b).core.forwarded = s.core.forwarded := rfl
@[simp] theorem State.pushPred_pushes (s : State) (k n : Nat) (d : BitVec 3) (b : Bool) : (s.pushPred k n d b).core.pushes = s.core.pushes := rfl
@[simp] theorem State.pushPred_heads (s : State) (k n : Nat) (d : BitVec 3) (b : Bool) : (s.pushPred k n d b).core.heads = s.core.heads := rfl
@[simp] theorem State.pushPred_xp (s : State) (k n : Nat) (d : BitVec 3) (b : Bool) : (s.pushPred k n d b).core.xp = s.core.xp := rfl
@[simp] theorem State.pushPred_mx (s : State) (k n : Nat) (d : BitVec 3) (b : Bool) : (s.pushPred k n d b).core.mx = s.core.mx := rfl
@[simp] theorem State.pushPred_sp (s : State) (k n : Nat) (d : BitVec 3) (b : Bool) : (s.pushPred k n d b).core.sp = s.core.sp := rfl
@[simp] theorem State.pushPred_flagAt (s : State) (k n : Nat) (d : BitVec 3) (b : Bool) : (s.pushPred k n d b).core.flagAt = s.core.flagAt := rfl
@[simp] theorem State.pushPred_flagNew (s : State) (k n : Nat) (d : BitVec 3) (b : Bool) : (s.pushPred k n d b).core.flagNew = s.core.flagNew := rfl
@[simp] theorem State.pushPred_trgAt (s : State) (k n : Nat) (d : BitVec 3) (b : Bool) : (s.pushPred k n d b).core.trgAt = s.core.trgAt := rfl
@[simp] theorem State.pushPred_preAt (s : State) (k n : Nat) (d : BitVec 3) (b : Bool) : (s.pushPred k n d b).core.preAt = s.core.preAt := rfl
@[simp] theorem State.pushPred_pre (s : State) (k n : Nat) (d : BitVec 3) (b : Bool) : (s.pushPred k n d b).core.pre = s.core.pre := rfl
@[simp] theorem State.pushPred_feltGone (s : State) (k n : Nat) (d : BitVec 3) (b : Bool) : (s.pushPred k n d b).core.feltGone = s.core.feltGone := rfl
@[simp] theorem State.pushPred_sendGone (s : State) (k n : Nat) (d : BitVec 3) (b : Bool) : (s.pushPred k n d b).core.sendGone = s.core.sendGone := rfl
@[simp] theorem State.pushPred_reloadEnd (s : State) (k n : Nat) (d : BitVec 3) (b : Bool) : (s.pushPred k n d b).core.reloadEnd = s.core.reloadEnd := rfl
@[simp] theorem State.pushPred_idealSlots (s : State) (k n : Nat) (d : BitVec 3) (b : Bool) : (s.pushPred k n d b).core.idealSlots = s.core.idealSlots := rfl
@[simp] theorem State.pushPred_reamAt (s : State) (k n : Nat) (d : BitVec 3) (b : Bool) : (s.pushPred k n d b).core.reamAt = s.core.reamAt := rfl
@[simp] theorem State.pushPred_snapTrg (s : State) (k n : Nat) (d : BitVec 3) (b : Bool) : (s.pushPred k n d b).core.snapTrg = s.core.snapTrg := rfl
@[simp] theorem State.pushPred_vlog (s : State) (k n : Nat) (d : BitVec 3) (b : Bool) : (s.pushPred k n d b).core.vlog = s.core.vlog := rfl
@[simp] theorem State.pushPred_starts (s : State) (k n : Nat) (d : BitVec 3) (b : Bool) : (s.pushPred k n d b).starts = s.starts := rfl
@[simp] theorem State.pushPred_webPort (s : State) (k n : Nat) (d : BitVec 3) (b : Bool) : (s.pushPred k n d b).webPort = s.webPort := rfl
@[simp] theorem State.pushPred_gwPort (s : State) (k n : Nat) (d : BitVec 3) (b : Bool) : (s.pushPred k n d b).gwPort = s.gwPort := rfl
@[simp] theorem State.pushPred_arriving (s : State) (k n : Nat) (d : BitVec 3) (b : Bool) : (s.pushPred k n d b).arriving = s.arriving := rfl
@[simp] theorem State.pushPred_agenda (s : State) (k n : Nat) (d : BitVec 3) (b : Bool) : (s.pushPred k n d b).agenda = s.agenda := rfl
@[simp] theorem State.pushPred_reload (s : State) (k n : Nat) (d : BitVec 3) (b : Bool) : (s.pushPred k n d b).reload = s.reload := rfl
@[simp] theorem State.pushPred_hbm (s : State) (k n : Nat) (d : BitVec 3) (b : Bool) : (s.pushPred k n d b).hbm = s.hbm := rfl
@[simp] theorem State.pushPred_quire (s : State) (k n : Nat) (d : BitVec 3) (b : Bool) : (s.pushPred k n d b).quire = s.quire := rfl
@[simp] theorem State.pushPred_mirror (s : State) (k n : Nat) (d : BitVec 3) (b : Bool) : (s.pushPred k n d b).mirror = s.mirror := rfl
@[simp] theorem State.pushPred_web (s : State) (k n : Nat) (d : BitVec 3) (b : Bool) : (s.pushPred k n d b).web = s.web := rfl
@[simp] theorem State.pushPred_gwSent (s : State) (k n : Nat) (d : BitVec 3) (b : Bool) : (s.pushPred k n d b).gwSent = s.gwSent := rfl
@[simp] theorem State.pushPred_region (s : State) (k n : Nat) (d : BitVec 3) (b : Bool) : (s.pushPred k n d b).region = s.region := rfl
@[simp] theorem State.pushPred_part (s : State) (k n : Nat) (d : BitVec 3) (b : Bool) : (s.pushPred k n d b).part = s.part := rfl
@[simp] theorem State.pushPred_dev (s : State) (k n : Nat) (d : BitVec 3) (b : Bool) : (s.pushPred k n d b).dev = s.dev := rfl
@[simp] theorem State.pushPred_gw (s : State) (k n : Nat) (d : BitVec 3) (b : Bool) : (s.pushPred k n d b).gw = s.gw := rfl
@[simp] theorem State.pushPred_felt (s : State) (k n : Nat) (d : BitVec 3) (b : Bool) : (s.pushPred k n d b).felt = s.felt := rfl
@[simp] theorem State.pushPred_links (s : State) (k n : Nat) (d : BitVec 3) (b : Bool) : (s.pushPred k n d b).links = s.links := rfl
@[simp] theorem State.pushPred_inputs (s : State) (k n : Nat) (d : BitVec 3) (b : Bool) : (s.pushPred k n d b).inputs = s.inputs := rfl
@[simp] theorem State.pushPred_fresh (s : State) (k n : Nat) (d : BitVec 3) (b : Bool) : (s.pushPred k n d b).fresh = s.fresh := rfl

/-! ## setLink -/

@[simp] theorem State.setLink_core (s : State) (k : BitVec 4) (f : Link → Link) : (s.setLink k f).core = s.core := rfl
@[simp] theorem State.setLink_starts (s : State) (k : BitVec 4) (f : Link → Link) : (s.setLink k f).starts = s.starts := rfl
@[simp] theorem State.setLink_webPort (s : State) (k : BitVec 4) (f : Link → Link) : (s.setLink k f).webPort = s.webPort := rfl
@[simp] theorem State.setLink_gwPort (s : State) (k : BitVec 4) (f : Link → Link) : (s.setLink k f).gwPort = s.gwPort := rfl
@[simp] theorem State.setLink_arriving (s : State) (k : BitVec 4) (f : Link → Link) : (s.setLink k f).arriving = s.arriving := rfl
@[simp] theorem State.setLink_agenda (s : State) (k : BitVec 4) (f : Link → Link) : (s.setLink k f).agenda = s.agenda := rfl
@[simp] theorem State.setLink_reload (s : State) (k : BitVec 4) (f : Link → Link) : (s.setLink k f).reload = s.reload := rfl
@[simp] theorem State.setLink_hbm (s : State) (k : BitVec 4) (f : Link → Link) : (s.setLink k f).hbm = s.hbm := rfl
@[simp] theorem State.setLink_quire (s : State) (k : BitVec 4) (f : Link → Link) : (s.setLink k f).quire = s.quire := rfl
@[simp] theorem State.setLink_mirror (s : State) (k : BitVec 4) (f : Link → Link) : (s.setLink k f).mirror = s.mirror := rfl
@[simp] theorem State.setLink_web (s : State) (k : BitVec 4) (f : Link → Link) : (s.setLink k f).web = s.web := rfl
@[simp] theorem State.setLink_gwSent (s : State) (k : BitVec 4) (f : Link → Link) : (s.setLink k f).gwSent = s.gwSent := rfl
@[simp] theorem State.setLink_region (s : State) (k : BitVec 4) (f : Link → Link) : (s.setLink k f).region = s.region := rfl
@[simp] theorem State.setLink_part (s : State) (k : BitVec 4) (f : Link → Link) : (s.setLink k f).part = s.part := rfl
@[simp] theorem State.setLink_dev (s : State) (k : BitVec 4) (f : Link → Link) : (s.setLink k f).dev = s.dev := rfl
@[simp] theorem State.setLink_gw (s : State) (k : BitVec 4) (f : Link → Link) : (s.setLink k f).gw = s.gw := rfl
@[simp] theorem State.setLink_felt (s : State) (k : BitVec 4) (f : Link → Link) : (s.setLink k f).felt = s.felt := rfl
@[simp] theorem State.setLink_inputs (s : State) (k : BitVec 4) (f : Link → Link) : (s.setLink k f).inputs = s.inputs := rfl
@[simp] theorem State.setLink_fresh (s : State) (k : BitVec 4) (f : Link → Link) : (s.setLink k f).fresh = s.fresh := rfl

/-! ## setCell -/

@[simp] theorem State.setCell_core (s : State) (k : BitVec 5) (f : GwCell → GwCell) : (s.setCell k f).core = s.core := rfl
@[simp] theorem State.setCell_starts (s : State) (k : BitVec 5) (f : GwCell → GwCell) : (s.setCell k f).starts = s.starts := rfl
@[simp] theorem State.setCell_webPort (s : State) (k : BitVec 5) (f : GwCell → GwCell) : (s.setCell k f).webPort = s.webPort := rfl
@[simp] theorem State.setCell_gwPort (s : State) (k : BitVec 5) (f : GwCell → GwCell) : (s.setCell k f).gwPort = s.gwPort := rfl
@[simp] theorem State.setCell_arriving (s : State) (k : BitVec 5) (f : GwCell → GwCell) : (s.setCell k f).arriving = s.arriving := rfl
@[simp] theorem State.setCell_agenda (s : State) (k : BitVec 5) (f : GwCell → GwCell) : (s.setCell k f).agenda = s.agenda := rfl
@[simp] theorem State.setCell_reload (s : State) (k : BitVec 5) (f : GwCell → GwCell) : (s.setCell k f).reload = s.reload := rfl
@[simp] theorem State.setCell_hbm (s : State) (k : BitVec 5) (f : GwCell → GwCell) : (s.setCell k f).hbm = s.hbm := rfl
@[simp] theorem State.setCell_quire (s : State) (k : BitVec 5) (f : GwCell → GwCell) : (s.setCell k f).quire = s.quire := rfl
@[simp] theorem State.setCell_mirror (s : State) (k : BitVec 5) (f : GwCell → GwCell) : (s.setCell k f).mirror = s.mirror := rfl
@[simp] theorem State.setCell_web (s : State) (k : BitVec 5) (f : GwCell → GwCell) : (s.setCell k f).web = s.web := rfl
@[simp] theorem State.setCell_gwSent (s : State) (k : BitVec 5) (f : GwCell → GwCell) : (s.setCell k f).gwSent = s.gwSent := rfl
@[simp] theorem State.setCell_region (s : State) (k : BitVec 5) (f : GwCell → GwCell) : (s.setCell k f).region = s.region := rfl
@[simp] theorem State.setCell_part (s : State) (k : BitVec 5) (f : GwCell → GwCell) : (s.setCell k f).part = s.part := rfl
@[simp] theorem State.setCell_dev (s : State) (k : BitVec 5) (f : GwCell → GwCell) : (s.setCell k f).dev = s.dev := rfl
@[simp] theorem State.setCell_felt (s : State) (k : BitVec 5) (f : GwCell → GwCell) : (s.setCell k f).felt = s.felt := rfl
@[simp] theorem State.setCell_links (s : State) (k : BitVec 5) (f : GwCell → GwCell) : (s.setCell k f).links = s.links := rfl
@[simp] theorem State.setCell_inputs (s : State) (k : BitVec 5) (f : GwCell → GwCell) : (s.setCell k f).inputs = s.inputs := rfl
@[simp] theorem State.setCell_fresh (s : State) (k : BitVec 5) (f : GwCell → GwCell) : (s.setCell k f).fresh = s.fresh := rfl

/-! ## Group switch -/

@[simp] theorem Core.groupSwitch_r (c : Core) : c.groupSwitch.r = c.r := rfl
@[simp] theorem Core.groupSwitch_seq (c : Core) : c.groupSwitch.seq = c.seq := rfl
@[simp] theorem Core.groupSwitch_fstat (c : Core) : c.groupSwitch.fstat = c.fstat := rfl
@[simp] theorem Core.groupSwitch_cyc (c : Core) : c.groupSwitch.cyc = c.cyc := rfl
@[simp] theorem Core.groupSwitch_tix (c : Core) : c.groupSwitch.tix = c.tix := rfl
@[simp] theorem Core.groupSwitch_slip (c : Core) : c.groupSwitch.slip = c.slip := rfl
@[simp] theorem Core.groupSwitch_run (c : Core) : c.groupSwitch.run = c.run := rfl
@[simp] theorem Core.groupSwitch_fault (c : Core) : c.groupSwitch.fault = c.fault := rfl
@[simp] theorem Core.groupSwitch_held (c : Core) : c.groupSwitch.held = c.held := rfl
@[simp] theorem Core.groupSwitch_wait (c : Core) : c.groupSwitch.wait = c.wait := rfl
@[simp] theorem Core.groupSwitch_taken (c : Core) : c.groupSwitch.taken = c.taken := rfl
@[simp] theorem Core.groupSwitch_dead (c : Core) : c.groupSwitch.dead = c.dead := rfl
@[simp] theorem Core.groupSwitch_stopAt (c : Core) : c.groupSwitch.stopAt = c.stopAt := rfl
@[simp] theorem Core.groupSwitch_land (c : Core) : c.groupSwitch.land = c.land := rfl
@[simp] theorem Core.groupSwitch_loads (c : Core) : c.groupSwitch.loads = c.loads := rfl
@[simp] theorem Core.groupSwitch_stores (c : Core) : c.groupSwitch.stores = c.stores := rfl
@[simp] theorem Core.groupSwitch_atoms (c : Core) : c.groupSwitch.atoms = c.atoms := rfl
@[simp] theorem Core.groupSwitch_awaiting (c : Core) : c.groupSwitch.awaiting = c.awaiting := rfl
@[simp] theorem Core.groupSwitch_scntUntil (c : Core) : c.groupSwitch.scntUntil = c.scntUntil := rfl
@[simp] theorem Core.groupSwitch_scntWeb (c : Core) : c.groupSwitch.scntWeb = c.scntWeb := rfl
@[simp] theorem Core.groupSwitch_gate (c : Core) : c.groupSwitch.gate = c.gate := rfl
@[simp] theorem Core.groupSwitch_mark (c : Core) : c.groupSwitch.mark = c.mark := rfl
@[simp] theorem Core.groupSwitch_scratch (c : Core) : c.groupSwitch.scratch = c.scratch := rfl
@[simp] theorem Core.groupSwitch_hist (c : Core) : c.groupSwitch.hist = c.hist := rfl
@[simp] theorem Core.groupSwitch_wbuf (c : Core) : c.groupSwitch.wbuf = c.wbuf := rfl
@[simp] theorem Core.groupSwitch_istore (c : Core) : c.groupSwitch.istore = c.istore := rfl
@[simp] theorem Core.groupSwitch_xlat (c : Core) : c.groupSwitch.xlat = c.xlat := rfl
@[simp] theorem Core.groupSwitch_caps (c : Core) : c.groupSwitch.caps = c.caps := rfl
@[simp] theorem Core.groupSwitch_cmds (c : Core) : c.groupSwitch.cmds = c.cmds := rfl
@[simp] theorem Core.groupSwitch_engW (c : Core) : c.groupSwitch.engW = c.engW := rfl
@[simp] theorem Core.groupSwitch_inbound (c : Core) : c.groupSwitch.inbound = c.inbound := rfl
@[simp] theorem Core.groupSwitch_raises (c : Core) : c.groupSwitch.raises = c.raises := rfl
@[simp] theorem Core.groupSwitch_raised (c : Core) : c.groupSwitch.raised = c.raised := rfl
@[simp] theorem Core.groupSwitch_slotsHeld (c : Core) : c.groupSwitch.slotsHeld = c.slotsHeld := rfl
@[simp] theorem Core.groupSwitch_usedSlots (c : Core) : c.groupSwitch.usedSlots = c.usedSlots := rfl
@[simp] theorem Core.groupSwitch_turn (c : Core) : c.groupSwitch.turn = c.turn := rfl
@[simp] theorem Core.groupSwitch_feltQ (c : Core) : c.groupSwitch.feltQ = c.feltQ := rfl
@[simp] theorem Core.groupSwitch_sendQ (c : Core) : c.groupSwitch.sendQ = c.sendQ := rfl
@[simp] theorem Core.groupSwitch_outgoing (c : Core) : c.groupSwitch.outgoing = c.outgoing := rfl
@[simp] theorem Core.groupSwitch_rq (c : Core) : c.groupSwitch.rq = c.rq := rfl
@[simp] theorem Core.groupSwitch_forwarded (c : Core) : c.groupSwitch.forwarded = c.forwarded := rfl
@[simp] theorem Core.groupSwitch_pushes (c : Core) : c.groupSwitch.pushes = c.pushes := rfl
@[simp] theorem Core.groupSwitch_heads (c : Core) : c.groupSwitch.heads = c.heads := rfl
@[simp] theorem Core.groupSwitch_xp (c : Core) : c.groupSwitch.xp = c.xp := rfl
@[simp] theorem Core.groupSwitch_mx (c : Core) : c.groupSwitch.mx = c.mx := rfl
@[simp] theorem Core.groupSwitch_sp (c : Core) : c.groupSwitch.sp = c.sp := rfl
@[simp] theorem Core.groupSwitch_flagAt (c : Core) : c.groupSwitch.flagAt = c.flagAt := rfl
@[simp] theorem Core.groupSwitch_flagNew (c : Core) : c.groupSwitch.flagNew = c.flagNew := rfl
@[simp] theorem Core.groupSwitch_trgAt (c : Core) : c.groupSwitch.trgAt = c.trgAt := rfl
@[simp] theorem Core.groupSwitch_preAt (c : Core) : c.groupSwitch.preAt = c.preAt := rfl
@[simp] theorem Core.groupSwitch_pre (c : Core) : c.groupSwitch.pre = c.pre := rfl
@[simp] theorem Core.groupSwitch_feltGone (c : Core) : c.groupSwitch.feltGone = c.feltGone := rfl
@[simp] theorem Core.groupSwitch_sendGone (c : Core) : c.groupSwitch.sendGone = c.sendGone := rfl
@[simp] theorem Core.groupSwitch_reloadEnd (c : Core) : c.groupSwitch.reloadEnd = c.reloadEnd := rfl
@[simp] theorem Core.groupSwitch_idealSlots (c : Core) : c.groupSwitch.idealSlots = c.idealSlots := rfl
@[simp] theorem Core.groupSwitch_reamAt (c : Core) : c.groupSwitch.reamAt = c.reamAt := rfl
@[simp] theorem Core.groupSwitch_snapTrg (c : Core) : c.groupSwitch.snapTrg = c.snapTrg := rfl
@[simp] theorem Core.groupSwitch_vlog (c : Core) : c.groupSwitch.vlog = c.vlog := rfl
@[simp] theorem Core.groupSwitch_lat (c : Core) : c.groupSwitch.lat = Latches.zero := rfl

/-! ## What the named updates set -/

@[simp] theorem State.hold_held (s : State) (h : Held) : (s.hold h).core.held = h := rfl
@[simp] theorem State.await_wait (s : State) (w : Wait) : (s.await w).core.wait = w := rfl
@[simp] theorem State.fly_land (s : State) (l : Landing) : (s.fly l).core.land = insertBy Landing.le l s.core.land := rfl
@[simp] theorem State.slips_slip (s : State) (n : Nat) :
    (s.slips n).core.slip = BitVec.ofNat 32 (Nat.min (s.core.slip.toNat + n) 0xFFFFFFFF) := rfl

/-! ## Free values -/

@[simp] theorem State.draw_core (s : State) : s.draw.2.core = s.core := rfl
@[simp] theorem State.drawBelow_core (s : State) (n : Nat) : (s.drawBelow n).2.core = s.core := rfl
@[simp] theorem State.drawBelow_hbm (s : State) (n : Nat) : (s.drawBelow n).2.hbm = s.hbm := rfl
@[simp] theorem State.drawBelow_quire (s : State) (n : Nat) : (s.drawBelow n).2.quire = s.quire := rfl
@[simp] theorem State.drawBelow_mirror (s : State) (n : Nat) : (s.drawBelow n).2.mirror = s.mirror := rfl

/-- A draw changes the number of the next free value and nothing else. -/
theorem State.drawBelow_eq (s : State) (n : Nat) : (s.drawBelow n).2 = { s with fresh := s.fresh + 1 } := rfl

/-- A crossing changes the number of the next free value at most. -/
theorem State.cross_eq (s : State) (n : Nat) : ∃ k, (s.cross n).2 = { s with fresh := k } := by
  unfold State.cross
  split
  · exact ⟨s.fresh, rfl⟩
  · exact ⟨s.fresh + 1, rfl⟩

@[simp] theorem State.cross_core (s : State) (n : Nat) : (s.cross n).2.core = s.core := by
  obtain ⟨k, h⟩ := s.cross_eq n
  rw [h]

end Sys2Proof.Machine
end

