-- ==== Sys2Proof/Laws/Ops.lean ====
section
/-! SUPPORT. What the shared operations can do, one lemma for each: guards, results in flight, gated operations, faults and
the return from one, loops over events. -/

namespace Sys2Proof.Machine

/-! ## Guards -/

/-- Under a true guard an operation is performed. -/
theorem guarded_of_true {g : BitVec 4} {s : State} (h : s.guardOn g = true) (k : State → Out) : guarded g s k = k s := by
  simp [guarded, h]

/-- Under a false guard nothing happens. -/
theorem guarded_of_false {g : BitVec 4} {s : State} (h : s.guardOn g = false) (k : State → Out) :
    guarded g s k = .next s := by
  simp [guarded, h]

/-- A guarded operation that answers a next state did nothing, or was performed. -/
theorem guarded_next {g : BitVec 4} {s t : State} {k : State → Out} (h : guarded g s k = .next t) :
    (s.guardOn g = false ∧ t = s) ∨ (s.guardOn g = true ∧ k s = .next t) := by
  cases hg : s.guardOn g
  · rw [guarded_of_false hg] at h
    exact .inl ⟨rfl, by cases h; rfl⟩
  · rw [guarded_of_true hg] at h
    exact .inr ⟨rfl, h⟩

/-! ## Lists in order -/

/-- What is inserted is there, and nothing else comes in. -/
theorem mem_insertBy {α : Type} {le : α → α → Bool} {x y : α} :
    ∀ {l : List α}, y ∈ insertBy le x l ↔ y = x ∨ y ∈ l
  | [] => by simp [insertBy]
  | z :: t => by
    unfold insertBy
    split
    · simp only [List.mem_cons, mem_insertBy (l := t)]
      tauto
    · simp only [List.mem_cons]

/-- Insertion adds one element. -/
theorem length_insertBy {α : Type} {le : α → α → Bool} {x : α} :
    ∀ {l : List α}, (insertBy le x l).length = l.length + 1
  | [] => rfl
  | z :: t => by
    unfold insertBy
    split
    · simp [length_insertBy (l := t)]
    · rfl

/-! ## Results in flight -/

/-- A 64-bit result, as a landing. -/
theorem State.push64_eq (s : State) (k n : Nat) (f : Option RegFile) (d : Nat) (x : Word) (l : Latch) :
    s.push64 k n f (BitVec.ofNat 10 d) x l = s.push (scalarResult s k n f d x l) := rfl

/-- The result of an address unit, as a landing. -/
theorem State.pushAlu_eq (s : State) (u w : BitVec 1) (d : BitVec 5) (n : Nat) (x : Word) :
    s.pushAlu u w d n x = s.push (unitResult s u w d n x) := rfl

/-- The value of a landing is stamped with the next issue number, and its destination is dropped when it is hard-wired. -/
theorem State.push_land (s : State) (l : Landing) :
    (s.push l).core.land = insertBy Landing.le { l with
      seq := s.core.seqNo
      file := match l.file with
        | some f => if discards f l.dst then none else some f
        | none => none } s.core.land := rfl

/-- A result leaves every register, every memory and every engine alone until it lands. -/
theorem State.push_keeps (s : State) (l : Landing) :
    KeepsRegisters s (s.push l) ∧ KeepsMemory s (s.push l) ∧ KeepsEngines s (s.push l) :=
  ⟨⟨rfl, rfl, rfl, rfl, rfl, rfl⟩, ⟨rfl, rfl, rfl, rfl, rfl, rfl⟩, ⟨rfl, rfl, rfl, rfl, rfl, rfl⟩⟩

/-- A hold leaves everything else alone. -/
theorem State.hold_keeps (s : State) (h : Held) :
    KeepsRegisters s (s.hold h) ∧ KeepsMemory s (s.hold h) ∧ KeepsEngines s (s.hold h) :=
  ⟨⟨rfl, rfl, rfl, rfl, rfl, rfl⟩, ⟨rfl, rfl, rfl, rfl, rfl, rfl⟩, ⟨rfl, rfl, rfl, rfl, rfl, rfl⟩⟩

/-- A landing touches no memory, no sequencer state and no engine. -/
theorem Core.landOne_keeps (c : Core) (l : Landing) :
    (c.landOne l).scratch = c.scratch ∧ (c.landOne l).wbuf = c.wbuf ∧ (c.landOne l).istore = c.istore
      ∧ (c.landOne l).seq = c.seq ∧ (c.landOne l).mx = c.mx ∧ (c.landOne l).sp = c.sp ∧ (c.landOne l).cyc = c.cyc := by
  unfold Core.landOne
  cases l.file with
  | none => exact ⟨rfl, rfl, rfl, rfl, rfl, rfl, rfl⟩
  | some f =>
    dsimp only
    split
    · exact ⟨rfl, rfl, rfl, rfl, rfl, rfl, rfl⟩
    · split <;> exact ⟨rfl, rfl, rfl, rfl, rfl, rfl, rfl⟩

/-- Landings touch no memory, no sequencer state and no engine. -/
theorem Core.landAll_keeps : ∀ (ls : List Landing) (c : Core),
    (c.landAll ls).scratch = c.scratch ∧ (c.landAll ls).wbuf = c.wbuf ∧ (c.landAll ls).istore = c.istore
      ∧ (c.landAll ls).seq = c.seq ∧ (c.landAll ls).mx = c.mx ∧ (c.landAll ls).sp = c.sp ∧ (c.landAll ls).cyc = c.cyc
  | [], _ => ⟨rfl, rfl, rfl, rfl, rfl, rfl, rfl⟩
  | l :: t, c => by
    obtain ⟨a, b, d, e, f, g, h⟩ := Core.landAll_keeps t (c.landOne l)
    obtain ⟨a', b', d', e', f', g', h'⟩ := Core.landOne_keeps c l
    exact ⟨a.trans a', b.trans b', d.trans d', e.trans e', f.trans f', g.trans g', h.trans h'⟩

/-! ## Scalar and vector operations -/

/-- A scalar operation of two sources whose heads are not empty sends one result. -/
theorem alu2_eq {u : BitVec 1} {g : BitVec 4} {d : BitVec 5} {a b : BitVec 6} {w : BitVec 1} {n : Nat} {f : Word → Word → Word}
    {s : State} (hg : s.guardOn g = true) (ha : s.waitsA a = false) (hb : s.waitsA b = false) :
    alu2 u g d a b w n f s = .next (s.push (unitResult s u w d n (f (s.srcA a) (s.srcA b)))) := by
  simp [alu2, guarded, hg, ha, hb, State.pushAlu_eq]

/-- A scalar operation of one source whose head is not empty sends one result. -/
theorem alu1_eq {u : BitVec 1} {g : BitVec 4} {d : BitVec 5} {a : BitVec 6} {w : BitVec 1} {n : Nat} {f : Word → Word}
    {s : State} (hg : s.guardOn g = true) (ha : s.waitsA a = false) :
    alu1 u g d a w n f s = .next (s.push (unitResult s u w d n (f (s.srcA a)))) := by
  simp [alu1, guarded, hg, ha, State.pushAlu_eq]

/-- A vector operation of two sources whose heads are not empty sends one result. -/
theorem vec2_eq {u : BitVec 1} {g d : BitVec 4} {w : BitVec 1} {a b : BitVec 5} {n : Nat} {f : State → Line → Line → VRes}
    {s : State} (hg : s.guardOn g = true) (ha : s.waitsV a = false) (hb : s.waitsV b = false) :
    vec2 u g d w a b n f s = .next (s.pushVec u w d n (f s (s.srcV a) (s.srcV b))) := by
  simp [vec2, guarded, hg, ha, hb]

/-- A vector operation of one source whose head is not empty sends one result. -/
theorem vec1_eq {u : BitVec 1} {g d : BitVec 4} {w : BitVec 1} {a : BitVec 5} {n : Nat} {f : State → Line → VRes}
    {s : State} (hg : s.guardOn g = true) (ha : s.waitsV a = false) :
    vec1 u g d w a n f s = .next (s.pushVec u w d n (f s (s.srcV a))) := by
  simp [vec1, guarded, hg, ha]

/-! ## Gated operations -/

/-- With a restart point in force an operation waits in the gate buffer. -/
theorem State.enact_gated {s : State} (h : s.core.mark.inForce = true) (k : Nat) (e : Eff) :
    s.enact k e = { s with core := { s.core with
      seqNo := s.core.seqNo + 1
      gate := s.core.gate ++ [{ seq := s.core.seqNo, slot := k, eff := e, committed := false, waited := false }] } } := by
  simp [State.enact, h]

/-- With none it has its effect at once. -/
theorem State.enact_now {s : State} (h : s.core.mark.inForce = false) (k : Nat) (e : Eff) :
    s.enact k e = State.applyEff { s with core := { s.core with seqNo := s.core.seqNo + 1 } } s.core.seqNo e := by
  simp [State.enact, h]

/-- A blocked operation holds its bundle. -/
theorem State.perform_blocked {s : State} {e : Eff} (h : s.blocked e = true) (k : Nat) :
    s.perform k e = .next (s.hold .queueCap) := by
  simp [State.perform, h]

/-- An operation with room is performed. -/
theorem State.perform_room {s : State} {e : Eff} (h : s.blocked e = false) (k : Nat) :
    s.perform k e = .next (s.enact k e) := by
  simp [State.perform, h]

/-- A store that takes effect enters the store queue and changes no byte yet. -/
theorem State.enterStore_keeps (s : State) (q : Nat) (bs : List Host.Cell) :
    KeepsRegisters s (s.enterStore q bs) ∧ KeepsMemory s (s.enterStore q bs) ∧ KeepsEngines s (s.enterStore q bs) :=
  ⟨⟨rfl, rfl, rfl, rfl, rfl, rfl⟩, ⟨rfl, rfl, rfl, rfl, rfl, rfl⟩, ⟨rfl, rfl, rfl, rfl, rfl, rfl⟩⟩

/-! ## Faults -/

/-- Counting a pending access changes the translation table alone. -/
theorem Core.pend_eq (c : Core) (k : Nat) (up : Bool) : ∃ x, c.pend k up = { c with xlat := x } := by
  unfold Core.pend
  dsimp only
  split
  · split
    · exact ⟨_, rfl⟩
    · exact ⟨c.xlat, rfl⟩
  · split
    · exact ⟨_, rfl⟩
    · exact ⟨c.xlat, rfl⟩

/-- Cancelling accesses changes the translation table alone. -/
theorem Core.forget_eq : ∀ (es : List Nat) (c : Core), ∃ x, c.forget es = { c with xlat := x }
  | [], c => ⟨c.xlat, rfl⟩
  | k :: t, c => by
    obtain ⟨x, hx⟩ := c.pend_eq k false
    obtain ⟨y, hy⟩ := Core.forget_eq t { c with xlat := x }
    refine ⟨y, ?_⟩
    have : c.forget (k :: t) = (c.pend k false).forget t := rfl
    rw [this, hx, hy]

/-- A kernel's abort leaves registers, memories and engines as they are. -/
theorem State.abortKernel_keeps (s : State) (n : BitVec 5) :
    KeepsRegisters s (s.abortKernel n) ∧ KeepsMemory s (s.abortKernel n) ∧ KeepsEngines s (s.abortKernel n) := by
  obtain ⟨x, hx⟩ := Core.forget_eq (((s.core.gate.filter fun g => !g.committed).map fun g => effEnts g.eff).flatten) s.core
  have hc : (s.abortKernel n).core = { s.core with xlat := x, run := .aborted, gate := s.core.gate.filter (·.committed), wait := .none, held := .none } := by
    simp only [State.abortKernel, hx]
  have hm : (s.abortKernel n).hbm = s.hbm ∧ (s.abortKernel n).quire = s.quire ∧ (s.abortKernel n).mirror = s.mirror :=
    ⟨rfl, rfl, rfl⟩
  simp [KeepsRegisters, KeepsMemory, KeepsEngines, hc, hm]

/-! ## Returning -/

/-- A return from a stop is a group switch: every latch is zero, and issue goes on, but after the one step of a debug unit that a trap
has ended. -/
theorem State.returnFrom_core (s : State) : s.returnFrom.core.lat = Latches.zero ∧ s.returnFrom.core.fault = none
    ∧ s.returnFrom.core.slipOnIssue = true ∧ (s.core.run ≠ .trapped → s.returnFrom.core.run = .running ∧ s.returnFrom.core.stopAt = none) :=
  ⟨rfl, rfl, rfl, fun h => by simp [State.returnFrom, h]⟩

/-! ## Loops -/

/-- What every step of a loop over a list keeps, the loop keeps. -/
theorem foldl_keeps {α β : Type} {P : β → Prop} {f : β → α → β} (hf : ∀ b a, P b → P (f b a)) :
    ∀ (l : List α) {b : β}, P b → P (l.foldl f b)
  | [], _, h => h
  | a :: t, _, h => foldl_keeps hf t (hf _ a h)

/-- What the meaning of every listed event keeps, running them keeps. -/
theorem State.runEvents_keeps {P : State → Prop} :
    ∀ (l : List Instr), (∀ i ∈ l, ∀ s t, P s → exec i s = .next t → P t) → ∀ {s : State}, P s → P (s.runEvents l)
  | [], _, _, h => h
  | i :: t, hi, s, h => by
    unfold State.runEvents
    have ht := fun j hj => hi j (List.mem_cons_of_mem i hj)
    split
    · next u hu => exact State.runEvents_keeps t ht (hi i (by simp) _ _ h hu)
    · exact State.runEvents_keeps t ht h

/-- Going on with a next state. -/
@[simp] theorem bindOut_next (s : State) (k : State → Out) : bindOut (.next s) k = k s := rfl

/-- What answers a next state after another meaning. -/
theorem bindOut_eq_next {o : Out} {k : State → Out} {t : State} (h : bindOut o k = .next t) :
    ∃ s, o = .next s ∧ k s = .next t := by
  cases o with
  | next s => exact ⟨s, rfl, h⟩
  | fault f => cases h
  | refused r => cases h

end Sys2Proof.Machine
end

