-- ==== Sys2Proof/Laws/Crossing.lean ====
section
/-! SUPPORT. Free values and what rests on them: a draw changes nothing but the number of the next free value, and the crossing between
the web side and the region keeps the bounds of 20 R362. -/

namespace Sys2Proof.Machine

/-! ## Free values -/

/-- A free value below a positive bound is below it. -/
theorem State.drawBelow_lt (s : State) {n : Nat} (h : 0 < n) : (s.drawBelow n).1 < n := Nat.mod_lt _ h

/-- A draw changes the number of the next free value and nothing else. -/
@[simp] theorem State.drawBelow_state (s : State) (n : Nat) : (s.drawBelow n).2 = { s with fresh := s.fresh + 1 } := rfl

/-! ## Crossings -/

/-- Whether an item is seen changes nothing but the number of the next free value. -/
theorem State.crossed_keeps (s : State) (τ : Nat) : ∃ n, (s.crossed τ).2 = { s with fresh := n } := by
  simp only [State.crossed]
  split
  · exact ⟨s.fresh, rfl⟩
  · split
    · exact ⟨s.fresh, rfl⟩
    · split
      · split
        · exact ⟨s.fresh, rfl⟩
        · exact ⟨s.fresh + 1, rfl⟩
      · exact ⟨s.fresh + 1, rfl⟩

/-- Nothing is seen before it is available. -/
theorem State.not_crossed_before {s : State} {τ : Nat} (h : s.web < τ) : (s.crossed τ).1 = false := by
  simp [State.crossed, h]

/-- In the fabric timing group an item is seen as soon as it is available. -/
theorem State.crossed_inFabric {s : State} {τ : Nat} (h : τ ≤ s.web) (hf : s.inFabric = true) : (s.crossed τ).1 = true := by
  simp [State.crossed, Nat.not_lt.mpr h, hf]

/-- In any region an item is seen from the second cycle after the first that starts six web cycles after it was available. -/
theorem State.crossed_bound {s : State} {τ t : Nat} (h : τ ≤ s.web) (ht : s.starts[2]? = some t) (hb : τ + 6 ≤ t) :
    (s.crossed τ).1 = true := by
  simp only [State.crossed, if_neg (Nat.not_lt.mpr h), ht, if_pos hb]
  split <;> rfl

/-- A crossing towards the web side takes up to eight web cycles. -/
theorem State.cross_bound (s : State) (τ : Nat) : τ ≤ (s.cross τ).1 ∧ (s.cross τ).1 ≤ τ + 8 := by
  simp only [State.cross]
  split
  · simp
  · have := s.drawBelow_lt (n := 9) (by decide)
    simp only [State.drawBelow] at this ⊢
    omega

/-! ## Best effort -/

/-- Whether a slot serves best effort changes nothing in the state but the number of the next free value. -/
theorem State.servesBest_keeps (s : State) (ch k : Nat) (carried : Bool) :
    ∃ n, (s.servesBest ch k carried).2 = { s with fresh := n } := by
  simp only [State.servesBest]
  repeat' split
  all_goals first
    | exact ⟨s.fresh, rfl⟩
    | exact ⟨s.fresh + 1, rfl⟩

/-- A refresh slot serves no best effort. -/
theorem State.refresh_serves_none (s : State) {ch k : Nat} (carried : Bool) (h : k % 32 = 31) :
    (s.servesBest ch k carried).1 = false := by
  simp [State.servesBest, h]

/-- A slot that carries an access of this core serves no best effort. -/
theorem State.carrying_serves_none (s : State) (ch k : Nat) : (s.servesBest ch k true).1 = false := by
  simp [State.servesBest]

end Sys2Proof.Machine
end

