-- ==== Sys2Proof/Laws/Memory.lean ====
section
/-! SUPPORT. Sparse tables and memories: what a read gives after a write, and that every operation keeps the canonical
form. -/

namespace Sys2Proof.Machine

/-! ## Sparse tables -/

/-- A table in canonical form above a bound is so above every lower bound. -/
theorem Tab.okAbove_mono {α : Type} [DecidableEq α] {d : α} {lo lo' : Nat} (h : lo' ≤ lo) :
    ∀ {t : Tab α}, Tab.okAbove d lo t = true → Tab.okAbove d lo' t = true
  | [], _ => rfl
  | (k, x) :: t, ht => by
    simp only [Tab.okAbove, Bool.and_eq_true, decide_eq_true_eq] at ht ⊢
    exact ⟨⟨by omega, ht.1.2⟩, ht.2⟩

/-- Below its bound a table in canonical form lists nothing. -/
theorem Tab.get_below {α : Type} [DecidableEq α] {d : α} {n : Nat} :
    ∀ {lo : Nat} {t : Tab α}, Tab.okAbove d lo t = true → n < lo → Tab.get d t n = d
  | _, [], _, _ => rfl
  | lo, (k, x) :: t, ht, hn => by
    simp only [Tab.okAbove, Bool.and_eq_true, decide_eq_true_eq] at ht
    have hk : k ≠ n := by omega
    simp only [Tab.get, if_neg hk]
    exact Tab.get_below ht.2 (by omega)

/-- Writing keeps the canonical form. -/
theorem Tab.put_okAbove {α : Type} [DecidableEq α] {d : α} {n : Nat} {x : α} :
    ∀ {lo : Nat} {t : Tab α}, Tab.okAbove d lo t = true → lo ≤ n → Tab.okAbove d lo (Tab.put d t n x) = true
  | lo, [], _, hn => by
    by_cases hx : x = d <;> simp [Tab.put, Tab.okAbove, hx, hn]
  | lo, (k, y) :: t, ht, hn => by
    have ht' := ht
    simp only [Tab.okAbove, Bool.and_eq_true, decide_eq_true_eq] at ht'
    obtain ⟨⟨h1, h2⟩, h3⟩ := ht'
    unfold Tab.put
    by_cases hlt : n < k
    · rw [if_pos hlt]
      by_cases hx : x = d
      · rw [if_pos hx]; exact ht
      · rw [if_neg hx]
        simp only [Tab.okAbove, Bool.and_eq_true, decide_eq_true_eq]
        exact ⟨⟨hn, hx⟩, ⟨hlt, h2⟩, h3⟩
    · rw [if_neg hlt]
      by_cases he : n = k
      · rw [if_pos he]
        by_cases hx : x = d
        · rw [if_pos hx]; exact Tab.okAbove_mono (by omega) h3
        · rw [if_neg hx]
          simp only [Tab.okAbove, Bool.and_eq_true, decide_eq_true_eq]
          exact ⟨⟨hn, hx⟩, by rw [he]; exact h3⟩
      · rw [if_neg he]
        simp only [Tab.okAbove, Bool.and_eq_true, decide_eq_true_eq]
        exact ⟨⟨h1, h2⟩, Tab.put_okAbove h3 (by omega)⟩

/-- Reading after writing. -/
theorem Tab.get_put {α : Type} [DecidableEq α] {d : α} {n m : Nat} {x : α} :
    ∀ {lo : Nat} {t : Tab α}, Tab.okAbove d lo t = true →
      Tab.get d (Tab.put d t n x) m = if m = n then x else Tab.get d t m
  | lo, [], _ => by
    by_cases hm : m = n
    · by_cases hx : x = d <;> simp [Tab.put, Tab.get, hx, hm]
    · have : n ≠ m := fun h => hm h.symm
      by_cases hx : x = d <;> simp [Tab.put, Tab.get, hx, hm, this]
  | lo, (k, y) :: t, ht => by
    simp only [Tab.okAbove, Bool.and_eq_true, decide_eq_true_eq] at ht
    obtain ⟨⟨h1, h2⟩, h3⟩ := ht
    unfold Tab.put
    by_cases hlt : n < k
    · rw [if_pos hlt]
      by_cases hx : x = d
      · rw [if_pos hx]
        by_cases hm : m = n
        · subst hm
          rw [if_pos rfl, hx]
          have : k ≠ m := by omega
          simp only [Tab.get, if_neg this]
          exact Tab.get_below h3 (by omega)
        · rw [if_neg hm]
      · rw [if_neg hx]
        by_cases hm : m = n
        · simp [Tab.get, hm]
        · have : n ≠ m := fun h => hm h.symm
          simp [Tab.get, hm, this]
    · rw [if_neg hlt]
      by_cases he : n = k
      · rw [if_pos he]
        subst he
        by_cases hx : x = d
        · rw [if_pos hx]
          by_cases hm : m = n
          · subst hm
            rw [if_pos rfl, hx]
            exact Tab.get_below h3 (by omega)
          · have : n ≠ m := fun h => hm h.symm
            simp [Tab.get, hm, this]
        · rw [if_neg hx]
          by_cases hm : m = n
          · simp [Tab.get, hm]
          · have : n ≠ m := fun h => hm h.symm
            simp [Tab.get, hm, this]
      · rw [if_neg he]
        by_cases hk : k = m
        · have : m ≠ n := by omega
          simp [Tab.get, hk, this]
        · simp only [Tab.get, if_neg hk]
          exact Tab.get_put h3

/-- Removing entries keeps the canonical form. -/
theorem Tab.filter_okAbove {α : Type} [DecidableEq α] {d : α} (p : Nat × α → Bool) :
    ∀ {lo : Nat} {t : Tab α}, Tab.okAbove d lo t = true → Tab.okAbove d lo (t.filter p) = true
  | _, [], _ => rfl
  | lo, (k, x) :: t, ht => by
    have ht' := ht
    simp only [Tab.okAbove, Bool.and_eq_true, decide_eq_true_eq] at ht'
    have ih := Tab.filter_okAbove p ht'.2
    by_cases hp : p (k, x) = true
    · rw [List.filter_cons_of_pos hp]
      simp only [Tab.okAbove, Bool.and_eq_true, decide_eq_true_eq]
      exact ⟨ht'.1, ih⟩
    · rw [List.filter_cons_of_neg hp]
      exact Tab.okAbove_mono (by omega) ih

/-! ## Memory -/

/-- A memory that lists nothing is in canonical form. -/
@[simp] theorem Memory.wf_nil : Memory.wf [] = true := rfl

/-- Writing a byte keeps the canonical form. -/
theorem Memory.setByte_wf {m : Memory} (h : m.wf = true) (a : Nat) (x : Byte) : (m.setByte a x).wf = true :=
  Tab.put_okAbove h (Nat.zero_le a)

/-- Writing a value of n bytes keeps the canonical form. -/
theorem Memory.writeNat_wf : ∀ (n : Nat) {m : Memory} (a x : Nat), m.wf = true → (m.writeNat a n x).wf = true
  | 0, _, _, _, h => h
  | n + 1, _, a, _, h => Memory.writeNat_wf n (a + 1) _ (Memory.setByte_wf h a _)

/-- Writing cells keeps the canonical form. -/
theorem Memory.writeCells_wf : ∀ (cs : List Host.Cell) {m : Memory}, m.wf = true → (m.writeCells cs).wf = true
  | [], _, h => h
  | (a, x) :: cs, _, h => Memory.writeCells_wf cs (Memory.setByte_wf h a x)

/-- Clearing a range keeps the canonical form. -/
theorem Memory.without_wf {m : Memory} (h : m.wf = true) (a n : Nat) : (m.without a n).wf = true :=
  Tab.filter_okAbove _ h

/-- The cells of a range are in canonical form. -/
theorem Memory.cellsIn_wf {m : Memory} (h : m.wf = true) (a n : Nat) : (m.cellsIn a n).wf = true :=
  Tab.filter_okAbove _ h

/-- Copying bytes from any memory keeps the canonical form of the memory that receives them. -/
theorem Memory.copyFrom_wf {m : Memory} (h : m.wf = true) (b : Nat) (src : Memory) (a n : Nat) :
    (m.copyFrom b src a n).wf = true :=
  Memory.writeCells_wf _ (Memory.without_wf h b n)

/-- A raise of a watermark word keeps the canonical form. -/
theorem raiseWord_wf {m : Memory} (h : m.wf = true) (a b : Nat) : (raiseWord m a b).wf = true := by
  unfold raiseWord
  dsimp only
  split <;> exact Memory.writeNat_wf _ _ _ (Memory.writeNat_wf _ _ _ (by first | exact h | exact Memory.writeNat_wf _ _ _ h))

/-- Setting the target of a watermark word keeps the canonical form. -/
theorem setWord_wf {m : Memory} (h : m.wf = true) (a : Nat) (t : BitVec 32) : (setWord m a t).wf = true :=
  Memory.writeNat_wf _ _ _ h

/-- The moves of page homes keep the canonical form. -/
theorem moveHomes_wf (src : Memory) : ∀ (hs : List Home) {m : Memory}, m.wf = true →
    (hs.foldl (fun (d : Memory) h => if h.old = h.new then d else d.copyFrom h.new src h.old h.size) m).wf = true
  | [], _, h => h
  | x :: hs, m, h => by
    refine moveHomes_wf src hs ?_
    dsimp only
    split
    · exact h
    · exact Memory.copyFrom_wf h _ _ _ _

/-- Reading a byte after writing one. -/
theorem Memory.byte_setByte {m : Memory} (h : m.wf = true) (a b : Nat) (x : Byte) :
    (m.setByte a x).byte b = if b = a then x else m.byte b :=
  Tab.get_put h

/-- A memory that lists nothing reads zero. -/
@[simp] theorem Memory.byte_nil (a : Nat) : Memory.byte [] a = 0 := rfl

/-- No memory lists anything at reset. -/
theorem State.reset_memories : State.reset.core.scratch.wf = true ∧ State.reset.core.wbuf.wf = true ∧
    State.reset.hbm.wf = true ∧ State.reset.quire.wf = true ∧ State.reset.mirror.wf = true :=
  ⟨rfl, rfl, rfl, rfl, rfl⟩

end Sys2Proof.Machine
end

