-- ==== Sys2Proof/Tests/Slice0.lean ====
section
/-! SUPPORT. Tests of this model: ill-formed terms that the well-formedness checks refuse, words written out from the spec's
encoding tables, a few single steps, and for each statement with hypotheses a state and operands that meet them. -/

namespace Sys2Proof.Tests

set_option Elab.async false

open Sys2Proof Sys2Proof.Machine

/-! ### Ill-formed terms -/

/-- 03 R37, R57: latch code 11 is reserved, and bit 4 is zero with a latch. -/
theorem test_ill_formed_address_source :
    Instr.wf (.add 0 0 1 (32 + 11) 1 0) = false ∧ Instr.wf (.add 1 0 1 1 (32 + 16) 0) = false
    ∧ Instr.wf (.addi 0 0 1 63 1 0) = false ∧ Instr.wf (.cmp 0 0 1 (32 + 11) 1 0) = false
    ∧ Instr.wf (.cmpi 0 0 1 0 (32 + 11) 0) = false ∧ Instr.wf (.mset 0 0 1 (32 + 11) 0) = false
    ∧ Instr.wf (.aupd 0 0 1 1 (32 + 11) 0) = false ∧ Instr.wf (.add 0 0 1 (32 + 10) (32 + 15) 0) = true := by
  decide

/-- 03 R37, R57: the same of a vector source. -/
theorem test_ill_formed_vector_source :
    Instr.wf (.vfadd 0 0 1 0 27 1 6 0) = false ∧ Instr.wf (.vfadd 0 0 1 0 1 27 6 0) = false
    ∧ Instr.wf (.vmov 1 0 1 0 27 6 0) = false ∧ Instr.wf (.vfadd 0 0 1 0 26 31 6 0) = true := by
  decide

/-- 03 R38: with write-back suppressed the destination field is zero. -/
theorem test_ill_formed_write_back :
    Instr.wf (.add 0 0 1 1 1 1) = false ∧ Instr.wf (.vadd 0 0 1 1 1 1 6 0) = false
    ∧ Instr.wf (.kand 0 0 1 1 1 1 6) = false ∧ Instr.wf (.add 0 0 0 1 1 1) = true := by
  decide

/-- 03 R40: width code 0b111 is reserved. -/
theorem test_ill_formed_vector_width :
    Instr.wf (.vfadd 0 0 1 0 1 1 7 0) = false ∧ Instr.wf (.vpmov 0 0 1 1 0 7 0) = false
    ∧ Instr.wf (.vmovi 0 0 1 0 1 7) = false ∧ Instr.wf (.vfadd 0 0 1 0 1 1 5 0) = true := by
  decide

/-- 03 R49: a vector register as line has zero upper bits. -/
theorem test_ill_formed_line :
    Instr.wf (.ldl 0 0 16 0 0 0 1 0) = false ∧ Instr.wf (.stl 0 0 16 0 0 0 1 0) = false
    ∧ Instr.wf (.ldb 0 0 16 0 0 0 1 0 0) = false ∧ Instr.wf (.ldt 0 0 16 0 1) = false
    ∧ Instr.wf (.stt 0 0 16 0 1) = false ∧ Instr.wf (.lane 0 0 16 0 0 1 0) = false
    ∧ Instr.wf (.ldl 0 0 15 0 0 0 1 0) = true ∧ Instr.wf (.ldl 0 0 1023 0 0 0 0 0) = true := by
  decide

/-- 12 R213, R217 to R220, R225: forms of the address slots that do not exist. -/
theorem test_ill_formed_address_forms :
    Instr.wf (.lane 0 0 1 0 3 0 1) = false ∧ Instr.wf (.ldl 0 0 1 0 0 3 0 0) = false
    ∧ Instr.wf (.ldl 0 0 1 0 0 0 0 1) = false ∧ Instr.wf (.stl 0 0 1 0 0 1 0 2) = false
    ∧ Instr.wf (.lds 0 0 1 0 0 4) = false ∧ Instr.wf (.sts 0 0 1 0 0 11) = false
    ∧ Instr.wf (.ldg 0 0 1 0 0 3 0) = false ∧ Instr.wf (.stg 0 0 1 0 0 3 0) = false
    ∧ Instr.wf (.ldb 0 0 1 0 0 0 0 1 0) = false ∧ Instr.wf (.sadv 0 0 1 1 6) = false := by
  decide

/-- 13 R238, R241, R245: comparison codes, element codes and lane numbers that do not exist. -/
theorem test_ill_formed_vector_forms :
    Instr.wf (.vcmp 0 0 1 0 1 1 6 6 0) = false ∧ Instr.wf (.vbcst 0 0 1 0 1 8 3 0) = false
    ∧ Instr.wf (.vbcst 0 0 1 0 1 7 3 0) = true ∧ Instr.wf (.vxch 0 0 1 0 1 16 4 0) = false
    ∧ Instr.wf (.vcfi 0 0 1 0 1 3 4 6 0 0) = false ∧ Instr.wf (.vcfi 0 0 1 0 1 0 3 6 0 0) = false
    ∧ Instr.wf (.vcif 0 0 1 0 1 7 0 6 0 0) = false ∧ Instr.wf (.vcif 0 0 1 0 1 4 3 6 0 0) = false
    ∧ Instr.wf (.vcfn 0 0 1 0 1 0 6 0) = false ∧ Instr.wf (.vcnf 0 0 1 0 1 3 6 0) = false := by
  decide

/-- 03 R43, 11 R200, 18 R331, R338: a control word, a special register and a no-operation that do not exist. -/
theorem test_ill_formed_control :
    Instr.wf (.plog 0 1 3 1 1) = false ∧ Instr.wf (.srd 0 6 1) = false ∧ Instr.wf (.swr 0 0x1FF 1) = false
    ∧ Instr.wf (.swr 0 0x000 1) = false
    ∧ Instr.wf (.nop 0) = false ∧ Instr.wf (.srd 0 0x13F 1) = true := by
  decide

/-- 15 R266, R277 to R282, 16 R299, R302: fields of the unit slots beyond their tables. -/
theorem test_ill_formed_units :
    Instr.wf (.mma 0 0 0 0 3 0 0) = false ∧ Instr.wf (.mmaz 0 0 0 0 63 0 0) = false
    ∧ Instr.wf (.mrd 0 0 0 0 4 0) = false ∧ Instr.wf (.mrdx 0 0 0 0 9) = false ∧ Instr.wf (.mwrx 0 0 0 0 9) = false
    ∧ Instr.wf (.mldw 0 0 4093) = false ∧ Instr.wf (.mldw 0 0 4092) = true
    ∧ Instr.wf (.spld 0 0 1 0) = false ∧ Instr.wf (.spst 0 0 2 2) = false
    ∧ Instr.wf (.spcv 0 255 1 0) = false ∧ Instr.wf (.spcv 0 255 0 0) = true := by
  decide

/-- 09 R164, 17 R317, 20 R370: operation codes of the atomics and port selectors that do not exist. -/
theorem test_ill_formed_port :
    Instr.wf (.atm 0 0 0 0 7 0 0) = false ∧ Instr.wf (.atm 0 0 0 1 0 0 0) = false
    ∧ Instr.wf (.atm 0 0 0 1 6 0 0) = true ∧ Instr.wf (.qat 0 0 0 7 0) = false ∧ Instr.wf (.xst 0 0 0 5) = false := by
  decide

/-! ### Words of the encoding tables: one for each instruction, its operands at distinct values -/

theorem test_decode_control_1 :
    decodeSlot 0 0x00000000 = .ok (.nopControl)
    ∧ decodeSlot 0 0x0050436E = .ok (.br 5 0x36E)
    ∧ decodeSlot 0 0x00509CE7 = .ok (.bri 5 0xE 0xE7)
    ∧ decodeSlot 0 0x0050C36E = .ok (.call 5 0x36E)
    ∧ decodeSlot 0 0x00511CE7 = .ok (.calli 5 0xE 0xE7)
    ∧ decodeSlot 0 0x00514000 = .ok (.ret 5)
    ∧ decodeSlot 0 0x00519BA7 = .ok (.loop 5 0x6E 0x27)
    ∧ decodeSlot 0 0x0051CE27 = .ok (.loopa 5 0xE 0x27)
    ∧ decodeSlot 0 0x00520E27 = .ok (.loopn 5 0xE 0x27)
    ∧ decodeSlot 0 0x00524000 = .ok (.brk 5) := by
  decide

theorem test_decode_control_2 :
    decodeSlot 0 0x0052B239 = .ok (.plog 5 6 2 3 9)
    ∧ decodeSlot 0 0x0052F100 = .ok (.pset 5 6 1)
    ∧ decodeSlot 0 0x00533000 = .ok (.nxt 5 6)
    ∧ decodeSlot 0 0x00534000 = .ok (.wsamp 5)
    ∧ decodeSlot 0 0x005382E7 = .ok (.waitc 5 1 0xE7)
    ∧ decodeSlot 0 0x0053DCE7 = .ok (.wmw 5 0xE 0xE7)
    ∧ decodeSlot 0 0x00543000 = .ok (.ifence 5 6)
    ∧ decodeSlot 0 0x0054436E = .ok (.bswap 5 0x36E)
    ∧ decodeSlot 0 0x00548000 = .ok (.snap 5)
    ∧ decodeSlot 0 0x0054DCE7 = .ok (.trap 5 0xE 0xE7) := by
  decide

theorem test_decode_control_3 :
    decodeSlot 0 0x00551CE7 = .ok (.sysc 5 0xE 0xE7)
    ∧ decodeSlot 0 0x00554000 = .ok (.halt 5)
    ∧ decodeSlot 0 0x00558807 = .ok (.srd 5 0x40 7)
    ∧ decodeSlot 0 0x0055E007 = .ok (.swr 5 0x100 7)
    ∧ decodeSlot 0 0x00560000 = .ok (.mark 5) := by
  decide

theorem test_decode_address_1 :
    decodeSlot 2 0x505C9DA0 = .ok (.add 1 5 0xE 0x13 0x2D 0)
    ∧ decodeSlot 1 0x505C9DA1 = .ok (.sub 0 5 0xE 0x13 0x2D 0)
    ∧ decodeSlot 2 0x505C9DA2 = .ok (.and 1 5 0xE 0x13 0x2D 0)
    ∧ decodeSlot 1 0x505C9DA3 = .ok (.or 0 5 0xE 0x13 0x2D 0)
    ∧ decodeSlot 2 0x505C9DA4 = .ok (.xor 1 5 0xE 0x13 0x2D 0)
    ∧ decodeSlot 1 0x505C9DA5 = .ok (.shl 0 5 0xE 0x13 0x2D 0)
    ∧ decodeSlot 2 0x505C9DA6 = .ok (.shr 1 5 0xE 0x13 0x2D 0)
    ∧ decodeSlot 1 0x505C9DA7 = .ok (.sar 0 5 0xE 0x13 0x2D 0)
    ∧ decodeSlot 2 0x505C9DA8 = .ok (.mul 1 5 0xE 0x13 0x2D 0)
    ∧ decodeSlot 1 0x505C9DA9 = .ok (.mulh 0 5 0xE 0x13 0x2D 0) := by
  decide

theorem test_decode_address_2 :
    decodeSlot 2 0x505C9DAA = .ok (.mulhu 1 5 0xE 0x13 0x2D 0)
    ∧ decodeSlot 1 0x505C9DAB = .ok (.min 0 5 0xE 0x13 0x2D 0)
    ∧ decodeSlot 2 0x505C9DAC = .ok (.max 1 5 0xE 0x13 0x2D 0)
    ∧ decodeSlot 1 0x505C9DAD = .ok (.minu 0 5 0xE 0x13 0x2D 0)
    ∧ decodeSlot 2 0x505C9DAE = .ok (.maxu 1 5 0xE 0x13 0x2D 0)
    ∧ decodeSlot 1 0x505C9DAF = .ok (.andn 0 5 0xE 0x13 0x2D 0)
    ∧ decodeSlot 2 0x50B09DA1 = .ok (.cmp 1 5 6 0x13 0x2D 1)
    ∧ decodeSlot 1 0x50DD2AA6 = .ok (.addi 0 5 0xE 0x25 0x153 0)
    ∧ decodeSlot 2 0x511D2AA6 = .ok (.andi 1 5 0xE 0x25 0x153 0)
    ∧ decodeSlot 1 0x515D2AA6 = .ok (.ori 0 5 0xE 0x25 0x153 0) := by
  decide

theorem test_decode_address_3 :
    decodeSlot 2 0x519D2AA6 = .ok (.xori 1 5 0xE 0x25 0x153 0)
    ∧ decodeSlot 1 0x51DD2826 = .ok (.shli 0 5 0xE 0x25 0x13 0)
    ∧ decodeSlot 2 0x521D2826 = .ok (.shri 1 5 0xE 0x25 0x13 0)
    ∧ decodeSlot 1 0x525D2826 = .ok (.sari 0 5 0xE 0x25 0x13 0)
    ∧ decodeSlot 2 0x529D2AA6 = .ok (.muli 1 5 0xE 0x25 0x153 0)
    ∧ decodeSlot 1 0x52DD2AA6 = .ok (.imx 0 5 0xE 0x25 0x153 0)
    ∧ decodeSlot 2 0x53372D73 = .ok (.cmpi 1 5 6 7 0x25 0x2B9)
    ∧ decodeSlot 1 0x535D2AA6 = .ok (.mset 0 5 0xE 0x25 0x153)
    ∧ decodeSlot 2 0x539C3DA0 = .ok (.aupd 1 5 0xE 7 0x2D 0)
    ∧ decodeSlot 1 0x53C093B8 = .ok (.lane 0 5 9 7 3 1 0) := by
  decide

theorem test_decode_address_4 :
    decodeSlot 2 0x5400B3D9 = .ok (.ldl 1 5 0xB 7 1 1 1 1)
    ∧ decodeSlot 1 0x5476E3E3 = .ok (.stl 0 5 0x36E 7 1 2 0 3)
    ∧ decodeSlot 2 0x549C03CA = .ok (.lds 1 5 0xE 7 1 0xA)
    ∧ decodeSlot 1 0x54DC03C9 = .ok (.sts 0 5 0xE 7 1 9)
    ∧ decodeSlot 2 0x5500E3E6 = .ok (.ldg 1 5 0xE 7 1 2 6)
    ∧ decodeSlot 1 0x5540E3D6 = .ok (.stg 0 5 0xE 7 1 1 6)
    ∧ decodeSlot 2 0x55B6E3D7 = .ok (.ldb 1 5 0x36E 7 1 1 0 1 3)
    ∧ decodeSlot 1 0x563A0300 = .ok (.sdef 0 5 0xE 1 3)
    ∧ decodeSlot 2 0x565C0730 = .ok (.srdf 1 5 0xE 7 3)
    ∧ decodeSlot 1 0x569C0750 = .ok (.sadv 0 5 0xE 7 5) := by
  decide

theorem test_decode_address_5 :
    decodeSlot 2 0x56C00E00 = .ok (.srst 1 5 0xE)
    ∧ decodeSlot 1 0x5700D708 = .ok (.ldt 0 5 0xD 7 1)
    ∧ decodeSlot 2 0x5776E700 = .ok (.stt 1 5 0x36E 7 0) := by
  decide

theorem test_decode_vector_1 :
    decodeSlot 3 0x507936DA = .ok (.vfadd 0 5 0xE 0 0x13 0xD 5 5)
    ∧ decodeSlot 4 0x50B936DA = .ok (.vfsub 1 5 0xE 0 0x13 0xD 5 5)
    ∧ decodeSlot 3 0x50F936DA = .ok (.vfmul 0 5 0xE 0 0x13 0xD 5 5)
    ∧ decodeSlot 4 0x513936DA = .ok (.vfma 1 5 0xE 0 0x13 0xD 5 5)
    ∧ decodeSlot 3 0x517936DA = .ok (.vfms 0 5 0xE 0 0x13 0xD 5 5)
    ∧ decodeSlot 4 0x51B936DA = .ok (.vfnma 1 5 0xE 0 0x13 0xD 5 5)
    ∧ decodeSlot 3 0x51F936DA = .ok (.vfmin 0 5 0xE 0 0x13 0xD 5 5)
    ∧ decodeSlot 4 0x523936DA = .ok (.vfmax 1 5 0xE 0 0x13 0xD 5 5)
    ∧ decodeSlot 3 0x5279305C = .ok (.vfabs 0 5 0xE 0 0x13 5 6)
    ∧ decodeSlot 4 0x529936DA = .ok (.vfcmp 1 5 6 0 0x13 0xD 5 5) := by
  decide

theorem test_decode_vector_2 :
    decodeSlot 3 0x52F936DA = .ok (.vadd 0 5 0xE 0 0x13 0xD 5 5)
    ∧ decodeSlot 4 0x533936DA = .ok (.vsub 1 5 0xE 0 0x13 0xD 5 5)
    ∧ decodeSlot 3 0x537936DA = .ok (.vmul 0 5 0xE 0 0x13 0xD 5 5)
    ∧ decodeSlot 4 0x53B936DB = .ok (.vmulh 1 5 0xE 0 0x13 0xD 5 5 1)
    ∧ decodeSlot 3 0x53F936DB = .ok (.vadds 0 5 0xE 0 0x13 0xD 5 5 1)
    ∧ decodeSlot 4 0x543936DB = .ok (.vmin 1 5 0xE 0 0x13 0xD 5 5 1)
    ∧ decodeSlot 3 0x547936DB = .ok (.vmax 0 5 0xE 0 0x13 0xD 5 5 1)
    ∧ decodeSlot 4 0x54B936DA = .ok (.vand 1 5 0xE 0 0x13 0xD 5 5)
    ∧ decodeSlot 3 0x54F936DA = .ok (.vor 0 5 0xE 0 0x13 0xD 5 5)
    ∧ decodeSlot 4 0x553936DA = .ok (.vxor 1 5 0xE 0 0x13 0xD 5 5) := by
  decide

theorem test_decode_vector_3 :
    decodeSlot 3 0x557936DA = .ok (.vshl 0 5 0xE 0 0x13 0xD 5 5)
    ∧ decodeSlot 4 0x55B936DB = .ok (.vshr 1 5 0xE 0 0x13 0xD 5 5 1)
    ∧ decodeSlot 3 0x55D936D9 = .ok (.vcmp 0 5 6 0 0x13 0xD 5 4 1)
    ∧ decodeSlot 4 0x5639C5CD = .ok (.vaddi 1 5 0xE 0 0x1C 0xB9 5)
    ∧ decodeSlot 3 0x5679C5CD = .ok (.vandi 0 5 0xE 0 0x1C 0xB9 5)
    ∧ decodeSlot 4 0x56B9C0CD = .ok (.vshli 1 5 0xE 0 0x1C 0x19 5)
    ∧ decodeSlot 3 0x56F9C835 = .ok (.vshri 0 5 0xE 0 0x1C 1 6 5)
    ∧ decodeSlot 4 0x57380A9D = .ok (.vmovi 1 5 0xE 0 0x153 5)
    ∧ decodeSlot 3 0x5779C56F = .ok (.vcfi 0 5 0xE 0 0x1C 2 5 5 3 1)
    ∧ decodeSlot 4 0x57B9CC6F = .ok (.vcif 1 5 0xE 0 0x1C 6 1 5 3 1) := by
  decide

theorem test_decode_vector_4 :
    decodeSlot 3 0x57F9C0AA = .ok (.vcfn 0 5 0xE 0 0x1C 2 5 1)
    ∧ decodeSlot 4 0x5839C22A = .ok (.vcnf 1 5 0xE 0 0x1C 1 5 1)
    ∧ decodeSlot 3 0x5879C1B3 = .ok (.vqnt 0 5 0xE 0 0x1C 1 1)
    ∧ decodeSlot 4 0x58B9CC33 = .ok (.vdqn 1 5 0xE 0 0x1C 1 1)
    ∧ decodeSlot 3 0x58F9C0EC = .ok (.vcfs 0 5 0xE 0 0x1C 5 2)
    ∧ decodeSlot 4 0x5939C62C = .ok (.vcsf 1 5 0xE 0 0x1C 5 2)
    ∧ decodeSlot 3 0x5976E7DC = .ok (.vpmov 0 5 0x36E 7 1 5 6)
    ∧ decodeSlot 4 0x59B936DA = .ok (.vperm 1 5 0xE 0 0x13 0xD 5 5)
    ∧ decodeSlot 3 0x59F935DA = .ok (.vbcst 0 5 0xE 0 0x13 0xB 5 5)
    ∧ decodeSlot 4 0x5A3935DA = .ok (.vxch 1 5 0xE 0 0x13 0xB 5 5) := by
  decide

theorem test_decode_vector_5 :
    decodeSlot 3 0x5A7936DA = .ok (.vzip 0 5 0xE 0 0x13 0xD 5 5)
    ∧ decodeSlot 4 0x5AB936DA = .ok (.vuzp 1 5 0xE 0 0x13 0xD 5 5)
    ∧ decodeSlot 3 0x5AF9305C = .ok (.vmov 0 5 0xE 0 0x13 5 6)
    ∧ decodeSlot 4 0x5B3936DA = .ok (.vsel 1 5 0xE 0 0x13 0xD 5 5)
    ∧ decodeSlot 3 0x5B5830D0 = .ok (.kand 0 5 6 0 3 1 5)
    ∧ decodeSlot 4 0x5B9830D0 = .ok (.kor 1 5 6 0 3 1 5)
    ∧ decodeSlot 3 0x5BD830D0 = .ok (.kxor 0 5 6 0 3 1 5)
    ∧ decodeSlot 4 0x5C183050 = .ok (.kmov 1 5 6 0 3 5)
    ∧ decodeSlot 3 0x5C1930D0 = .ok (.kmovNz 0 5 6 0 0x13 5)
    ∧ decodeSlot 4 0x5C193150 = .ok (.kmovBits 1 5 6 0 0x13 5) := by
  decide

theorem test_decode_vector_6 :
    decodeSlot 3 0x5C79305C = .ok (.vrsum 0 5 0xE 0 0x13 5 6)
    ∧ decodeSlot 4 0x5CB9305C = .ok (.vrmax 1 5 0xE 0 0x13 5 6)
    ∧ decodeSlot 3 0x5CF9305C = .ok (.vrmin 0 5 0xE 0 0x13 5 6)
    ∧ decodeSlot 4 0x5D39305C = .ok (.vrisum 1 5 0xE 0 0x13 5 6)
    ∧ decodeSlot 3 0x5D79305C = .ok (.vscan 0 5 0xE 0 0x13 5 6)
    ∧ decodeSlot 4 0x5DB9305C = .ok (.frcps 1 5 0xE 0 0x13 5 6)
    ∧ decodeSlot 3 0x5DF9305C = .ok (.frsqs 0 5 0xE 0 0x13 5 6)
    ∧ decodeSlot 4 0x5E3936DA = .ok (.fnrcp 1 5 0xE 0 0x13 0xD 5 5)
    ∧ decodeSlot 3 0x5E7936DA = .ok (.fnrsq 0 5 0xE 0 0x13 0xD 5 5)
    ∧ decodeSlot 4 0x5EB9C02C = .ok (.frint 1 5 0xE 0 0x1C 5 2) := by
  decide

theorem test_decode_vector_7 :
    decodeSlot 3 0x5EF936DA = .ok (.fscale 0 5 0xE 0 0x13 0xD 5 5)
    ∧ decodeSlot 4 0x5F39305C = .ok (.fgete 1 5 0xE 0 0x13 5 6)
    ∧ decodeSlot 3 0x5F79305C = .ok (.fgetm 0 5 0xE 0 0x13 5 6)
    ∧ decodeSlot 4 0x5FB936DA = .ok (.vrng 1 5 0xE 0 0x13 0xD 5 5) := by
  decide

theorem test_decode_matrix_1 :
    decodeSlot 5 0x5079E498 = .ok (.mma 5 0xE 7 1 9 1 1)
    ∧ decodeSlot 5 0x50B9E618 = .ok (.mmaz 5 0xE 7 1 0xC 1 1)
    ∧ decodeSlot 5 0x50E754DC = .ok (.mrd 5 1 7 0x153 3 2)
    ∧ decodeSlot 5 0x51273700 = .ok (.mrdx 5 1 7 3 7)
    ∧ decodeSlot 5 0x51673700 = .ok (.mwrx 5 1 7 3 7)
    ∧ decodeSlot 5 0x51A00000 = .ok (.mclr 5 1)
    ∧ decodeSlot 5 0x51E01CE0 = .ok (.manc 5 1 0xE7)
    ∧ decodeSlot 5 0x523A6940 = .ok (.mldw 5 0xE 0x9A5) := by
  decide

theorem test_decode_sum_product_1 :
    decodeSlot 6 0x5074E773 = .ok (.spu 5 6 0x27 3 0xB9 1)
    ∧ decodeSlot 6 0x50B4E773 = .ok (.spd 5 6 0x27 3 0xB9 1)
    ∧ decodeSlot 6 0x50FAD900 = .ok (.spld 5 0xE 0xB6 1)
    ∧ decodeSlot 6 0x513AD900 = .ok (.spst 5 0xE 0xB6 1)
    ∧ decodeSlot 6 0x516E7000 = .ok (.spsh 5 0x2E 7)
    ∧ decodeSlot 6 0x51B38000 = .ok (.spw 5 6 7)
    ∧ decodeSlot 6 0x51CD4850 = .ok (.spcv 5 0x35 0x21 1)
    ∧ decodeSlot 6 0x52340000 = .ok (.spsc 5 6 1)
    ∧ decodeSlot 6 0x52700000 = .ok (.spcl 5 6) := by
  decide

theorem test_decode_port_1 :
    decodeSlot 7 0x505B8000 = .ok (.msc 5 0x6E)
    ∧ decodeSlot 7 0x509C7000 = .ok (.cpy 5 0xE 7)
    ∧ decodeSlot 7 0x50DD0153 = .ok (.wms 5 0xE 1 0x153)
    ∧ decodeSlot 7 0x511C0000 = .ok (.ovl 5 0xE)
    ∧ decodeSlot 7 0x515B8700 = .ok (.send 5 0x6E 7)
    ∧ decodeSlot 7 0x515BA700 = .ok (.sendLine 5 0x6E 7)
    ∧ decodeSlot 7 0x519BB000 = .ok (.chb 5 0x6E 3)
    ∧ decodeSlot 7 0x51C02000 = .ok (.chu 5 2)
    ∧ decodeSlot 7 0x521CEC00 = .ok (.qwr 5 0xE 7 3)
    ∧ decodeSlot 7 0x521CE040 = .ok (.qwrWm 5 0xE 7) := by
  decide

theorem test_decode_port_2 :
    decodeSlot 7 0x521CEC80 = .ok (.qwrXadd 5 0xE 7 3)
    ∧ decodeSlot 7 0x525CE160 = .ok (.qat 5 0xE 7 5 1)
    ∧ decodeSlot 7 0x529D9E60 = .ok (.gcs 5 0xE 0x67 0x13)
    ∧ decodeSlot 7 0x529D9E70 = .ok (.gcsReam 5 0xE 0x67 0x13)
    ∧ decodeSlot 7 0x52DD9800 = .ok (.gcm 5 0xE 1 0x13)
    ∧ decodeSlot 7 0x531C79EC = .ok (.atm 5 0xE 7 0x13 6 1 1)
    ∧ decodeSlot 7 0x535C7000 = .ok (.abn 5 0xE 7)
    ∧ decodeSlot 7 0x539C7C00 = .ok (.bfold 5 0xE 7 3)
    ∧ decodeSlot 7 0x53E70000 = .ok (.xwr 5 2 7)
    ∧ decodeSlot 7 0x54200000 = .ok (.xrd 5 2) := by
  decide

theorem test_decode_port_3 :
    decodeSlot 7 0x5460F000 = .ok (.xst 5 2 7 4) := by
  decide

/-! ### States and operands that meet the hypotheses of the statements

`s0` is the state after reset; each other state changes the fields that a statement speaks of.  Guard 0 is always true. -/

/-- The state after reset. -/
abbrev s0 : State := .reset

/-- Reset with a core of one's own making. -/
abbrev withCore (c : Core) : State := { State.reset with core := c }

/-- Reset with registers a and m. -/
def withA (n : BitVec 5) (x y : Word) : State :=
  withCore { Core.reset with r := { Core.reset.r with
    a := Core.reset.r.a.set n.toNat x n.isLt, m := Core.reset.r.m.set n.toNat y n.isLt } }

/-- Receive queue 5 is bound to head 1 and holds no message, or one. -/
def withHead (ms : List Msg) : State :=
  withCore { Core.reset with
    heads := Core.reset.heads.set 1 (some 5), rq := Core.reset.rq.set 5 { msgs := ms, popped := 0, partials := [] } }

/-- A translation entry: RESIDENT, with its permissions, n+1 pages of 256 KB from block vb to physical block pb (05 R96). -/
def entry (perm vb pb n : Nat) : BitVec 128 :=
  BitVec.ofNat 128 (2 ^ 127 + n * 2 ^ 59 + pb * 2 ^ 37 + vb * 2 ^ 7 + 2 ^ 3 + perm)

/-- A core whose entry 3 maps block 0x10000 to the quire window, and entry 4 block 0x20000 to the start of HBM. -/
def mapped : Core :=
  { Core.reset with
    xlat := [(3, entry 3 0x10000 0x3E0000 7), (4, entry 3 0x20000 0 7)]
    r := { Core.reset.r with a := (Core.reset.r.a.set 1 0x400000000).set 2 0x800000000 } }

theorem test_meets_DecodeOfEncode :
    slotOf (.add 0 5 3 0x13 0x2D 0) = some 1 ∧ Instr.wf (.add 0 5 3 0x13 0x2D 0) = true := by decide

theorem test_meets_DecodedIsWellFormed :
    decodeSlot 7 0x03C40000 = .ok (.xwr 0 0 4) ∧ decodeSlot 0 0xFE024000 = .ok (.brk 0) := by decide

theorem test_meets_NopEncodingAndEffect :
    controlBits 0xFE000000 = 0 ∧ fld (1 : SlotWord) 22 6 = 0 ∧ fld (controlBits 1) 14 6 = 0 ∧ controlBits 1 ≠ 0 := by decide

theorem test_meets_MemoryReadsWhatWasWritten : Memory.wf [(5, 7), (9, 1)] = true := by decide

theorem test_meets_RegisterFiles :
    Tab.okAbove (0 : Lane32) 0 [(3, 5)] = true
    ∧ (scalarResult s0 1 1 (some .a) 0 7 .la).dst = 0 ∧ (scalarResult s0 1 1 (some .a) 0 7 .la).file = some .a := by
  decide

theorem test_meets_ResultsInFlight :
    (scalarResult s0 1 1 (some .a) 31 7 .la).file = some .a ∧ (scalarResult s0 1 1 (some .a) 31 7 .la).dst.toNat = 31
    ∧ (scalarResult s0 0 1 (some .p) 7 1 .none).dst.toNat = 7 ∧ (scalarResult s0 0 1 none 0 1 .none).file = none := by
  decide

theorem test_meets_StepTakesTheOldestEvent :
    ({ s0 with inputs := [.go] } : State).inputs = [.go] ∧ ofBundle .go = false ∧ ofBundle .restartMark = true := by
  decide

/-- ADD a3 ← a1, a2 in slot 1 of the bundle at the PC. -/
def runs : State := s0.withFetchWord 32 0x00460840

theorem test_meets_StepRunsTheDecodedInstruction :
    runs.inputs = [] ∧ runs.region.clocked = true ∧ runs.swallows = (false, runs) ∧ runs.core.gate = []
    ∧ runs.core.run = .running ∧ runs.core.dead = 0 ∧ runs.core.wait = .none ∧ runs.core.held = .none
    ∧ runs.core.fault = none ∧ runs.core.mark.inForce = false ∧ runs.nullified runs.core.bundle = false
    ∧ runs.core.r.preb.toNat = 65536 ∧ runs.core.psCount < 65536
    ∧ (Header.of (runs.core.slotWord 0)).rm = false
    ∧ ((Header.of (runs.core.slotWord 0)).ps && runs.core.preReq) = false
    ∧ illegalBundle runs (Header.of (runs.core.slotWord 0)) runs.core.bundle = none
    ∧ decodeSlot 1 (runs.core.slotWord 1) = .ok (.add 0 0 3 1 2 0)
    ∧ isNopSlot (decodeSlot 0 (runs.core.slotWord 0))
    ∧ (∀ j, j < 8 → j ≠ 0 → j ≠ 1 → isNopSlot (decodeSlot j (runs.core.slotWord j))) := by
  refine ⟨?_, ?_, ?_, ?_, ?_, ?_, ?_, ?_, ?_, ?_, ?_, ?_, ?_, ?_, ?_, ?_, ?_, .inl (by decide +kernel), fun j h0 h1 h2 => .inr ⟨BitVec.ofNat 3 j, ?_⟩⟩
  all_goals first
    | decide +kernel
    | (have : ∀ j < 8, j ≠ 0 → j ≠ 1 → decodeSlot j (runs.core.slotWord j) = .ok (.nop (BitVec.ofNat 3 j)) := by decide +kernel
       exact this j h0 h1 h2)

theorem test_meets_GuardFalseDoesNothing :
    decodeSlot 1 0x10460840 = .ok (.add 0 1 3 1 2 0) ∧ s0.guardOn (guardOf 1 0x10460840) = false := by decide

theorem test_meets_SlotInstructionsActLater :
    slotOf (.add 0 0 3 1 2 0) = some 1
    ∧ exec (.add 0 0 3 1 2 0) s0 = .next (s0.push (unitResult s0 0 0 3 1 0)) := by
  exact ⟨by decide, rfl⟩

theorem test_meets_ScalarOfTwoSources :
    s0.guardOn 0 = true ∧ s0.waitsA 1 = false ∧ s0.waitsA 47 = false := by decide

/-- The same hypotheses serve ScalarOfOneSource, and the vector statements with their sources. -/
theorem test_meets_ScalarOfOneSource_and_the_vector_statements :
    s0.guardOn 0 = true ∧ s0.waitsA 31 = false ∧ s0.waitsV 15 = false ∧ s0.waitsV 31 = false := by decide

theorem test_meets_QueueHeads :
    (withHead []).waitsA 45 = true ∧ (withHead []).waitsV 29 = true ∧ (withHead []).core.heads[(1 : BitVec 2).toNat] = some 5
    ∧ s0.core.heads[(1 : BitVec 2).toNat] = none
    ∧ (let s := withHead [{ line := false, data := 9 }]
       (s.core.rq[(5 : BitVec 5).toNat]).msgs.drop (s.core.rq[(5 : BitVec 5).toNat]).popped = [{ line := false, data := 9 }])
    ∧ (∀ i j : Fin 4, (withHead []).core.heads[i] = (withHead []).core.heads[j] → (withHead []).core.heads[i] ≠ none → i = j)
    ∧ (let e : BitVec 64 := 0x9400000000000000
       bitAt e 63 = true ∧ bitsAt e 60 3 = (1 : BitVec 3) ∧ bitAt e 58 = true) := by
  decide +kernel

theorem test_meets_LoadsOfTheScratchpad :
    s0.newBase 1 0 = some none ∧ (withA 1 8 1).newBase 1 1 = some (some 9)
    ∧ s0.checkAccess 1 0 128 128 .read = .pad 0 ∧ s0.checkAccess 2 0xBFFC0 64 64 .read = .pad 0xBFFC0
    ∧ s0.checkAccess 1 0xBFFFF 1 1 .read = .pad 0xBFFFF ∧ s0.checkAccess 1 0xBFFF8 8 8 .read = .pad 0xBFFF8
    ∧ (s0.core.r.readA 1).toNat % 4 = 0
    ∧ ∀ i, i < 32 → (s0.core.r.readA 1).toNat + 4 * (elem (s0.core.r.readV 1) 32 i).toNat + 4 ≤ Config.scratchBytes := by
  decide +kernel

theorem test_meets_LoadsOfTheQuireWindow :
    (withCore mapped).newBase 1 0 = some none ∧ (withCore mapped).reload = none
    ∧ (withCore mapped).checkAccess 1 ((withCore mapped).core.r.readA 1) 128 128 .read = .quire 3 0 false false
    ∧ (withCore mapped).checkAccess 1 0x4001FFFF8 8 8 .read = .quire 3 0x1FFFF8 false false := by
  decide +kernel

/-- A load of eight bytes from offset 16. -/
def load8 : Load :=
  { seq := 0, readAt := 0, bytes := (List.range 8).map fun i => (i, 16 + i), quire := false, zeros := false, poison := false,
    form := .scalar 8 true, land := scalarResult s0 1 13 (some .a) 3 0 .lda, word := 0, markRem := none, done := false, until_ := 0 }

theorem test_meets_AccessesPerformExactly :
    load8.quire = false ∧ load8.zeros = false ∧ load8.poison = false ∧ s0.loadPoisoned load8 = false ∧ load8.markRem = none
    ∧ load8.bytes = ((List.range 8).map fun i => (i, 16 + i)) ∧ (load8.bytes.map (·.1)).Nodup
    ∧ (∀ b ∈ load8.bytes, b.1 < 128) ∧ Memory.wf s0.core.scratch = true := by
  decide

theorem test_meets_StoresOfTheScratchpad :
    s0.blocked (.store []) = false ∧ s0.newBase 1 0 = some none ∧ s0.checkAccess 1 0 128 128 .write = .pad 0
    ∧ s0.checkAccess 2 0xBFFF8 8 8 .write = .pad 0xBFFF8 := by
  decide +kernel

theorem test_meets_BasesAndModifiers :
    (withA 1 8 0xC000000000000000).newBase 1 1 = none
    ∧ (bitsAt (0x4000000A00000003 : Word) 62 2 = 1 ∧ (bitsAt (0x4000000A00000003 : Word) 32 24).toNat = 10)
    ∧ (bitsAt (0x8000000100000001 : Word) 62 2 = 2 ∧ (bitsAt (0x8000000100000001 : Word) 32 5).toNat = 1)
    ∧ (bitsAt (0x8000001800000001 : Word) 62 2 = 2 ∧ (bitsAt (0x8000001800000001 : Word) 32 5).toNat = 24)
    ∧ (bitsAt (0x8000001900000001 : Word) 62 2 = 2 ∧ 24 < (bitsAt (0x8000001900000001 : Word) 32 5).toNat) := by
  decide +kernel

theorem test_meets_AccessFaults :
    (4 : Word).toNat % 8 ≠ 0 ∧ s0.core.translate 0xBFFFF = .pad 0xBFFFF ∧ s0.core.translate 0xC0000 = .none
    ∧ mapped.translate 0x400000000 = .phys 3 (entry 3 0x10000 0x3E0000 7) 0xF800000000 ∧ quireOff 0xF800000000 = some 0
    ∧ mapped.translate 0x8001FFFFF = .phys 4 (entry 3 0x20000 0 7) 0x1FFFFF ∧ quireOff 0x1FFFFF = none
    ∧ bitAt (entry 2 0x10000 0x3E0000 7) 0 = false
    ∧ s0.checkAccess 1 4 8 8 .read = .bad (accessFault .misalignment 1 .read 0 4) := by
  decide +kernel

theorem test_meets_BankPhasesAndMark :
    s0.guardOn 0 = true ∧ (∀ g ∈ [0, 32], (s0.core.ldFree[g % 32]?).getD 0 ≤ 4) ∧ (∀ g ∈ [0, 32], g % 32 ≠ 31) := by decide

theorem test_meets_Streams :
    (∀ k : Nat, 1 ≤ (fun _ => 3 : Nat → Nat) k ∧ (fun _ => 2 : Nat → Nat) k < (fun _ => 3 : Nat → Nat) k)
    ∧ s0.checkAccess 1 (BitVec.ofNat 64 (stAddr (s0.core.r.readSt 2))) 128 128 .read = .pad 0
    ∧ s0.checkAccess 1 (BitVec.ofNat 64 (stAddr (s0.core.r.readSt 2))) 128 128 .write = .pad 0
    ∧ s0.blocked (.store []) = false
    ∧ s0.checkAccess 1 4 128 128 .read = .bad (accessFault .misalignment 1 .read 0 4) := by
  refine ⟨by simp, ?_, ?_, ?_, ?_⟩ <;> decide +kernel

theorem test_meets_RoundingIsCorrect :
    (1 : Nat) ≠ 0 ∧ (fp32.roundNum 3 true 1 0).f &&& ofFlag = 0 ∧ (fp32.roundNum 0 false 1 200).f &&& ofFlag ≠ 0
    ∧ (bf16.roundNum 0 false 257 0).f &&& nxFlag ≠ 0 := by decide +kernel

theorem test_meets_FloatArithmeticIsExact :
    fp32Of 0x3F800000 = .num false 8388608 (-23) ∧ fp32Of 0xC0000000 = .num true 8388608 (-22) ∧ fp32Of 0 = .num false 0 (-149)
    ∧ isNan32 0x7FC00000 = true ∧ fp32Of 0x00000001 = .num false 1 (-149) := by decide +kernel

theorem test_meets_Conversions :
    (8 : Nat) ∈ [8, 16, 32] ∧ (32 : Nat) ∈ [8, 16, 32] ∧ (3 : Nat) < 4 ∧ (0xFFFF : Nat) < 2 ^ 16 := by decide

theorem test_meets_BlockQuantisation :
    let ones : List Lane32 := List.replicate 32 0x3F800000
    let zeros : List Lane32 := List.replicate 32 0x80000000
    let nans : List Lane32 := 0x7F800000 :: List.replicate 31 0
    ones.length = 32 ∧ zeros.length = 32 ∧ nans.length = 32 ∧ (∀ x ∈ ones, x.toNat % 2 ^ 31 < 0x7F800000)
    ∧ (∀ x ∈ zeros, x.toNat % 2 ^ 31 = 0) ∧ ∃ x ∈ nans, 0x7F800000 ≤ x.toNat % 2 ^ 31 :=
  ⟨rfl, rfl, rfl, fun x h => by rw [List.eq_of_mem_replicate h]; decide, fun x h => by rw [List.eq_of_mem_replicate h]; decide,
    0x7F800000, List.mem_cons_self, by decide⟩

theorem test_meets_PermutesAndLaneMasks :
    (7 : BitVec 5).toNat < 8 ∧ 8 ≤ (8 : BitVec 5).toNat ∧ (31 : BitVec 5).toNat < 32 ∧ s0.guardOn 0 = true ∧ s0.waitsV 15 = false := by
  decide

theorem test_meets_Reductions :
    ((List.range 32).filter fun i => takesPart 3 0x80000000 i) = [31]
    ∧ ((List.range 32).filter fun i => takesPart 3 0x00000001 i) = [] ∧ isNan32 0x7FC00001 = true ∧ isNan32 0x7F800000 = false := by
  decide

theorem test_meets_VectorHelpers :
    fp32Of 0x00000001 = .num false 1 (-149) ∧ fp32Of 0xFF7FFFFF = .num true 16777215 104 ∧ magExp 1 (-149) = -149
    ∧ isNan32 0x7FC00001 = true ∧ isNan32 0x7F800000 = false ∧ (0xFF800000 : Lane32).toNat % 2 ^ 31 = 0x7F800000
    ∧ (0x80000000 : Lane32).toNat % 2 ^ 31 = 0 := by decide +kernel

theorem test_meets_ResidueFormIsExact :
    (-8388480 : Int) ≤ -8388480 ∧ (8388479 : Int) ≤ 8388479
    ∧ (∀ x ∈ List.replicate 32 (0xFFFFFF80 : Lane32), -128 ≤ x.toInt ∧ x.toInt < 128)
    ∧ (∀ x ∈ List.replicate 32 (7 : Lane32), -8 ≤ x.toInt ∧ x.toInt < 8) :=
  ⟨by decide, by decide, fun x h => by rw [List.eq_of_mem_replicate h]; decide, fun x h => by rw [List.eq_of_mem_replicate h]; decide⟩

theorem test_meets_ExactAccumulator :
    let top : Exa := { v := BitVec.ofNat 256 (2 ^ 255 - 1), tag := 0 }
    ¬(top.v.toInt + (⌊((1 : Int) : ℚ) * (2 : ℚ) ^ (0 : Int) * (2 : ℚ) ^ (128 - (128 : Int))⌋) < 2 ^ 255)
    ∧ top.tag = 0 ∧ top.v ≠ 0 ∧ ({ v := 5, tag := 2 } : Exa).tag ≠ 0 ∧ ({ v := 0, tag := 0 } : Exa).v = 0 := by
  refine ⟨?_, by decide, by decide +kernel, by decide, by decide⟩
  have h : (⌊((1 : Int) : ℚ) * (2 : ℚ) ^ (0 : Int) * (2 : ℚ) ^ (128 - (128 : Int))⌋) = 1 := by norm_num
  rw [h]; decide +kernel

/-- A block of MMA in the residue form of int8 data, all of its rows at 127 and its columns at −128. -/
def block : Block :=
  { seq := 0, tile := 1, z := false, prof := 0, readAt := 0, rows := List.replicate 32 0, scaleAt := none,
    a := List.replicate 32 (List.replicate 32 127), ea := List.replicate 32 0, b := List.replicate 32 (List.replicate 32 0xFFFFFF80),
    eb := List.replicate 32 0, bad := List.replicate 32 false, flg := 0, allocAt := 3, portAt := 7, landAt := 9, scale := none,
    word := 0, late := none }

theorem test_meets_BlockLanding :
    block.prof.toNat < 3 ∧ block.a[31]? = some (List.replicate 32 127) ∧ block.b[0]? = some (List.replicate 32 0xFFFFFF80)
    ∧ (∀ x ∈ List.replicate 32 (127 : Lane32), -128 ≤ x.toInt ∧ x.toInt < 128)
    ∧ (∀ x ∈ List.replicate 32 (0xFFFFFF80 : Lane32), -128 ≤ x.toInt ∧ x.toInt < 128)
    ∧ nth 0 block.ea 31 ≠ 0xFF ∧ nth false block.bad 0 = false ∧ block.scale = none
    ∧ ({ block with scale := some ({ ea := [0xFF], eb := [0] }, 3) } : Block).scale = some ({ ea := [0xFF], eb := [0] }, 3)
    ∧ nth 0 [(0xFF : Byte)] 0 = 0xFF ∧ nth 0 ({ block with ea := [0xFF] } : Block).ea 0 = 0xFF :=
  ⟨by decide, by decide +kernel, by decide +kernel, fun x h => by rw [List.eq_of_mem_replicate h]; decide,
    fun x h => by rw [List.eq_of_mem_replicate h]; decide, by decide +kernel, by decide +kernel, rfl, rfl, rfl, rfl⟩

/-- A block of BF16 ones, of which column 1 holds an infinity. -/
def floatBlock : Block :=
  { block with
    prof := 8, a := List.replicate 32 (List.replicate 32 0x3F80)
    b := List.replicate 32 0x3F80 :: (0x7F80 :: List.replicate 31 0x3F80) :: List.replicate 30 (List.replicate 32 0x3F80) }

theorem test_meets_BlockLanding_of_floats :
    floatBlock.prof = 8 ∧ floatBlock.a[31]? = some (List.replicate 32 0x3F80) ∧ floatBlock.b[0]? = some (List.replicate 32 0x3F80)
    ∧ floatBlock.b[1]? = some (0x7F80 :: List.replicate 31 0x3F80) ∧ (List.replicate 32 (0x3F80 : Lane32)).length = 32
    ∧ (0x7F80 :: List.replicate 31 (0x3F80 : Lane32)).length = 32 := by decide +kernel

/-- st1 and st2 hold two descriptors. -/
def streamed (a b : Nat) : State :=
  withCore { Core.reset with r := { Core.reset.r with
    st := (Core.reset.r.st.set 1 (BitVec.ofNat 512 a)).set 2 (BitVec.ofNat 512 b) } }

/-- A descriptor: FMT, GEOM, BASE, SBASE, the index and the stride of dimension 0 (11 R197). -/
def descr (fmt geom base sbase idx stride : Nat) : Nat :=
  base + fmt * 2 ^ 48 + geom * 2 ^ 52 + sbase * 2 ^ 64 + idx * 2 ^ 224 + stride * 2 ^ 320

/-- Streams for profile 0: st1 is the A stream, st2 the B stream of the weight buffer. -/
def streams : State := streamed (descr 7 0 0 0 0 0) (descr 7 2 0 0 0 0)

/-- A block for tile 1 is in flight, and the residue array is taken until cycle 4. -/
def multiplying : State := withCore { Core.reset with mx := { Core.reset.mx with blocks := [block], resFree := 4 } }

theorem test_meets_MatrixIssue_of_profiles :
    streams.mmaFault 1 2 0 = none ∧ (streamed (descr 8 1 0 32 0 16) (descr 8 2 0 0 0 0)).mmaFault 1 2 1 = none
    ∧ (streamed (descr 7 1 0 (768 * 1024 - 32) 0 32) (descr 8 2 0 0 0 0)).mmaFault 1 2 2 = none
    ∧ (streamed (descr 1 0 0 0 32 64) (descr 1 0 64 0 0 64)).mmaFault 1 2 8 = none
    ∧ (streamed (descr 2 0 0 0 0 64) (descr 2 0 0 0 32 64)).mmaFault 1 2 9 = none ∧ s0.mmaFault 0 1 12 = none := by decide +kernel

/-- One fault of each kind and in each place that the check names. -/
theorem test_meets_MatrixIssue_of_faults :
    (let x := streamed (descr 7 0 0 0 1 0) (descr 7 2 0 0 0 0)
     stIdx (x.core.r.readSt 1) 0 % 32 ≠ 0 ∧ (x.mmaFault 1 2 0).map (·.kind) = some .misalignment)
    ∧ (let x := streamed (descr 0 0 0 0 0 0) (descr 0 0 64 0 0 0)
       stAddr (x.core.r.readSt 2) % 128 ≠ 0 ∧ (x.mmaFault 1 2 12).map (·.va) = some 64)
    ∧ (let x := streamed (descr 7 1 0 16 0 0) (descr 7 2 0 0 0 0)
       stGeom (x.core.r.readSt 1) = 1 ∧ (x.mmaFault 1 2 0).map (·.va) = some 16)
    ∧ (let x := streamed (descr 7 0 0 0 0 (2 ^ 18)) (descr 7 2 0 0 0 0)
       (x.mmaFault 1 2 0).map (fun f => (f.kind, f.va)) = some (.outOfTable, 0xC0000))
    ∧ (let x := streamed (descr 7 1 0 (768 * 1024) 0 0) (descr 7 2 0 0 0 0)
       (x.mmaFault 1 2 0).map (fun f => (f.kind, f.va)) = some (.outOfTable, 0xC0000)) := by decide +kernel

theorem test_meets_MatrixIssue :
    (s0.mmaFault 0 1 0).isSome = true ∧ s0.core.mx.busy 1 = false
    ∧ s0.core.mx.fltFree ≤ s0.core.cyc ∧ s0.core.mx.resFree ≤ s0.core.cyc
    ∧ multiplying.core.cyc < multiplying.core.mx.resFree ∧ multiplying.core.mx.busy 1 = true
    ∧ stFmt (s0.core.r.readSt 0) ≠ (profileStreams 0).1 := by decide +kernel

/-- Head 0 is free, and capability 1 is a receive capability for queue 0. -/
theorem test_meets_HelpersBlocksAndHeadsComplete :
    let s := withCore { Core.reset with caps := [(1, 0x9400000000000000)] }
    let e := Tab.get 0 s.core.caps (1 : BitVec 8).toNat
    s.guardOn 0 = true ∧ bitAt e 63 = true ∧ bitsAt e 60 3 = (1 : BitVec 3) ∧ bitAt e 58 = true
    ∧ s.core.heads[(0 : BitVec 2).toNat] = none ∧ (∀ k : Fin 4, s.core.heads[k] ≠ some (bitsAt e 45 5))
    ∧ s.waitsV 15 = false ∧ s.waitsV 27 = false := by decide +kernel

theorem test_meets_HelpersBlocksAndHeadsComplete_of_blocks :
    let da := streams.core.r.readSt 1
    let db := streams.core.r.readSt 2
    streams.core.mx.resFree ≤ streams.core.cyc ∧ stFmt da = 7 ∧ stGeom da = 0 ∧ stFmt db = 7 ∧ stGeom db = 2 ∧ stIdx da 0 % 32 = 0
    ∧ stAddr da % 32 = 0 ∧ stStride da 0 % 32 = 0 ∧ streams.core.mx.busy 0 = false
    ∧ ∀ m, m < 32 → (((stAddr da : Int) + m * stStride da 0) % 2 ^ 48).toNat + 32 ≤ Config.scratchBytes := by
  refine ⟨?_, ?_, ?_, ?_, ?_, ?_, ?_, ?_, ?_, fun m _ => ?_⟩
  all_goals first
    | decide +kernel
    | (have h : stAddr (streams.core.r.readSt 1) = 0 ∧ stStride (streams.core.r.readSt 1) 0 = 0 := by decide +kernel
       rw [h.1, h.2]; simp [Config.scratchBytes])

theorem test_meets_TileInstructions :
    multiplying.core.mx.busy 1 = true ∧ multiplying.core.mx.busy 0 = false ∧ (7 : BitVec 4).toNat < 8
    ∧ 32 * (31 : BitVec 5).toNat + 4 * (7 : BitVec 4).toNat ≤ 1023 := by decide +kernel

/-- A load of 128 bytes for the end of the weight buffer that has read and lands now. -/
def weights : Load :=
  { load8 with bytes := (List.range 128).map fun i => (i, i), form := .wbuf 0x1FF80, done := true, land := scalarResult s0 5 0 none 0 5 .none }

theorem test_meets_WeightBufferLoad :
    4092 < (4093 : BitVec 12).toNat ∧ (4092 : BitVec 12).toNat ≤ 4092
    ∧ s0.checkAccess 5 (BitVec.ofNat 64 (stAddr (s0.core.r.readSt 1))) 128 128 .read = .pad 0
    ∧ Memory.wf Core.reset.wbuf = true ∧ { Core.reset with loads := [weights] }.loads = [weights]
    ∧ weights.done = true ∧ weights.land.due ≤ Core.reset.cyc ∧ weights.form = .wbuf (32 * (4092 : BitVec 12).toNat) := by
  decide +kernel

theorem test_meets_SumProductNodes :
    (∀ op : BitVec 3, (bitsAt (op.zeroExtend 64) (3 * 0) 3 : BitVec 3).toNat = op.toNat)
    ∧ ({ v := 5, ok := true, f := 0 } : Node).ok = true ∧ ({ v := 5, ok := false, f := 0 } : Node).ok = false
    ∧ spDecode 0x3F800000 = (.num 65536 (-16527), 0) ∧ spDecode 0x40000000 = (.num 65536 (-16399), 0) := by decide +kernel

/-- Shape 3 has one leaf, and tree 2 holds the stash of an upward pass with it. -/
def treed : State :=
  withCore { Core.reset with sp := { Core.reset.sp with
    shape := [(3, BitVec.ofNat 64 (2 ^ 45))],
    stash := Core.reset.sp.stash.set 2 (some { num := 3, shape := BitVec.ofNat 64 (2 ^ 45), sp32 := false, leaves := [(5, true)], nodes := [], weights := [] }) } }

/-- The bank file is taken until cycle 4. -/
def banked : State := withCore { Core.reset with sp := { Core.reset.sp with busy := 4 } }

theorem test_meets_SumProductPasses :
    banked.core.cyc < banked.core.sp.busy ∧ treed.core.sp.busy ≤ treed.core.cyc
    ∧ (bitsAt (Tab.get 0 treed.core.sp.shape 3) 45 5 : BitVec 5).toNat = 1 ∧ (bitsAt (Tab.get 0 s0.core.sp.shape 3) 45 5 : BitVec 5).toNat = 0
    ∧ lane (treed.core.r.readV 0) 0 &&& 0xF000F000 = 0 ∧ s0.core.sp.stash[(2 : BitVec 3).toNat] = none
    ∧ (treed.core.sp.stash[(2 : BitVec 3).toNat]).map (·.num) = some 3 ∧ treed.core.sp.last[(2 : BitVec 3).toNat] ≤ treed.core.cyc := by
  decide +kernel

theorem test_meets_SumProductMoves :
    banked.core.cyc < banked.core.sp.busy ∧ s0.core.sp.busy ≤ s0.core.cyc ∧ Tab.okAbove (0 : Lane32) 0 s0.core.sp.weight = true
    ∧ (bitsAt (BitVec.ofNat 64 (16 * 2 ^ 45)) 45 5 : BitVec 5).toNat = 16 ∧ (bitsAt (BitVec.ofNat 64 (17 * 2 ^ 45)) 45 5 : BitVec 5).toNat = 17
    ∧ (255 : BitVec 8).toNat + (0 : BitVec 8).toNat + 1 ≤ 256 ∧ 256 < (255 : BitVec 8).toNat + (1 : BitVec 8).toNat + 1 := by
  decide +kernel

/-- A core with a queue capability 1, its first copy command waiting, port 0 a writer and port 1 a FIFO reader, and owning
the first felt slot. -/
def porty : State :=
  { withCore { mapped with
      caps := [(1, BitVec.ofNat 64 (2 ^ 63 + 2 ^ 59 + 2 ^ 58))]
      xp := (Core.reset.xp.set 0 { Port.reset with cfg := BitVec.ofNat 64 (2 ^ 63) }).set 1 { Port.reset with
        cfg := BitVec.ofNat 64 (2 ^ 63 + 2 ^ 62), fifo := [7] } } with
    feltTab := [(0, 0x80000000)] }

theorem test_meets_PortSlotEffects :
    porty.guardOn 0 = true ∧ porty.blocked (.cpy 0 0 0) = false ∧ porty.blocked (.send 1 true 0) = false
    ∧ (porty.core.r.readA 0).toNat % 128 = 0 ∧ (porty.core.r.readA 0).toNat < Config.scratchBytes
    ∧ (bitAt (Tab.get 0 porty.core.caps 1) 63 = true ∧ bitAt (Tab.get 0 porty.core.caps 1) 59 = true
      ∧ bitsAt (Tab.get 0 porty.core.caps 1) 60 3 = (0 : BitVec 3) ∧ porty.namesCore (Tab.get 0 porty.core.caps 1) = true)
    ∧ porty.feltTarget (porty.core.r.readA 1).toNat 32 128 .write (fun o => (o, 128)) = .ok (3, 0)
    ∧ porty.feltTarget 0x4001FFF80 128 128 .write (fun o => (o, 128)) = .ok (3, 0x1FFF80)
    ∧ (porty.part.cells.1 ≤ (31 : BitVec 5).toNat ∧ (31 : BitVec 5).toNat < porty.part.cells.1 + porty.part.cells.2)
    ∧ (bitAt (porty.core.xp[(0 : BitVec 2).toNat]).cfg 63 = true ∧ bitAt (porty.core.xp[(0 : BitVec 2).toNat]).cfg 62 = false
      ∧ bitsAt (porty.core.xp[(0 : BitVec 2).toNat]).cfg 40 11 = porty.core.tix) := by
  decide +kernel

theorem test_meets_PortSlotEffects_of_atomics :
    porty.core.translate 0 = .pad 0 ∧ porty.core.translate (porty.core.r.readA 2).toNat = .phys 4 (entry 3 0x20000 0 7) 0
    ∧ quireOff 0 = none ∧ isHbm 0 = true ∧ permits (entry 3 0x20000 0 7) .atomic = true
    ∧ stateAllows (entry 3 0x20000 0 7) .atomic = true ∧ (porty.core.r.readA 2).toNat % 8 = 0
    ∧ porty.blocked (.atmLocal 6 true 0 0 0) = false ∧ within porty.part.frames 0 8 = true
    ∧ within ({ porty with part := { porty.part with frames := [] } } : State).part.frames 0 8 = false
    ∧ ({ porty with webTab := [(256 * 0 + 3, 1)] } : State).pairExists 0 porty.core.pos = true := by
  decide +kernel

theorem test_meets_EffectsEnterTheirQueues :
    ({ s0 with hbmTab := [(511, 0xC000)] } : State).ownsHbm 0 true 1023 = true ∧ (3 : BitVec 10) ∉ s0.dev.followExt
    ∧ (∀ k, s0.ownsHbm 0 true k = false)
    ∧ (3 : BitVec 10) ∈ ({ s0 with dev := { s0.dev with followExt := [3] } } : State).dev.followExt :=
  ⟨by decide, by decide, fun _ => by simp [State.ownsHbm, State.reset, Tab.get, bitAt], by decide⟩

/-- ATM.ADD of eight bytes at offset 16 in its bank cycle. -/
def atom : AtomAccess := { seq := 0, at_ := 0, eff := .atmLocal 0 true 16 1 0, w := 4, due := 13 }

theorem test_meets_AtomicsAndBinSets :
    atom.eff = .atmLocal 0 true 16 1 0 ∧ Memory.wf s0.core.scratch = true ∧ s0.core.poison = [] ∧ s0.core.mark.inForce = false
    ∧ (2 ^ 64 - 1 : Nat) < 2 ^ 64 ∧ isNan32 0xFFC00001 = true ∧ fp32Of 0xBF800000 = .num true 8388608 (-23)
    ∧ (∀ b, b < 7 → |(elem (0 : BitVec 512) 64 b : BitVec 64).toInt| < 2 ^ 62)
    ∧ ((16 : Word).toNat % 64 ≠ 0) ∧ Config.scratchBytes % 64 = 0 ∧ (s0.core.r.readA 1).toNat % 64 = 0
    ∧ (s0.core.r.readA 1).toNat < Config.scratchBytes := by
  decide +kernel

theorem test_meets_BinFoldTable :
    (∀ b, b < 7 → elem (BitVec.ofNat 512 (2 ^ 464)) 64 b = (elem (0 : BitVec 512) 64 b : BitVec 64))
    ∧ (elem (BitVec.ofNat 512 (2 ^ 464)) 64 7 : BitVec 64) ||| 0x10000 = (elem (0 : BitVec 512) 64 7 : BitVec 64) ||| 0x10000
    ∧ bitAt (BitVec.ofNat 64 (2 ^ 17)) 17 = true := by decide +kernel

theorem test_meets_CrossingPorts :
    (let p := porty.core.xp[(1 : BitVec 2).toNat]
     bitAt p.cfg 63 = true ∧ bitAt p.cfg 62 = true ∧ bitsAt p.cfg 40 11 = porty.core.tix ∧ (bitsAt p.cfg 60 2 : BitVec 2).toNat = 0
      ∧ p.fifo.drop p.popped = [7] ∧ (p.fifo.drop p.popped).length < 16)
    ∧ (let p := { Port.reset with fifo := List.replicate 17 7, popped := 1 }
       16 ≤ (p.fifo.drop p.popped).length)
    ∧ bitAt (s0.core.xp[(1 : BitVec 2).toNat]).cfg 63 = false ∧ porty.core.xline = []
    ∧ (4 : BitVec 3).toNat ≤ 4 ∧ 4 < (5 : BitVec 3).toNat
    ∧ (bitsAt (BitVec.ofNat 64 (2 ^ 63 + 2 ^ 62 + 2 ^ 60)) 60 2 : BitVec 2).toNat = 1 := by
  decide +kernel

/-- A core in an inner loop at its last bundle, index 9 of the levels [5, 9] and [3, 20]. -/
def looping : State :=
  withCore { Core.reset with
    seq := { half := 0, index := 9, loops := [{ start := 5, stop := 9, rem := 1, idx := 0, opn := false },
      { start := 3, stop := 20, rem := 0, idx := 0, opn := true }] }
    run := .running }

theorem test_meets_ControlTransfers :
    s0.core.seq.loops = [] ∧ looping.core.seq.loops ≠ []
    ∧ ((looping.core.seq.loops.head?).map fun l => (decide (l.stop = looping.core.seq.index), l.opn, l.rem)) = some (true, false, 1)
    ∧ (s0.core.r.readA 1).toNat = 0 ∧ 2 ^ 32 ≤ ((withA 1 (2 ^ 32) 0).core.r.readA 1).toNat
    ∧ ((withA 1 (2 ^ 32 - 1) 0).core.r.readA 1).toNat < 2 ^ 32 ∧ (1023 : Int) < 1024
    ∧ (Header.of 0x00024000).pop = 0 ∧ looping.core.stepOnce = false ∧ looping.core.taken = none
    ∧ { looping.core with dead := 1 }.dead = 1 := by decide +kernel

theorem test_meets_WaitsAndTheirEnds :
    s0.guardOn 0 = true ∧ s0.core.overlaysDone s0.core.cyc = true
    ∧ ({ Core.reset with ovlEnd := 4 } : Core).overlaysDone 3 = false
    ∧ ((withA 1 8 0).core.r.readA 1).toNat % 16 ≠ 0
    ∧ s0.core.wordPlace 0xBFFF0 = some (false, 0xBFFF0) ∧ s0.core.wordPlace 0xC0000 = none
    ∧ mapped.wordPlace 0x400000010 = some (true, 16) ∧ ({ s0 with reload := some 9 } : State).reload.isSome = true
    ∧ (Memory.readNat s0.core.scratch (0xBFFF0 + 8) 4 % 512 + 512 - (257 : BitVec 9).toNat) % 512 < 256
    ∧ ¬((Memory.readNat s0.core.scratch (0xBFFF0 + 8) 4 % 512 + 512 - (256 : BitVec 9).toNat) % 512 < 256)
    ∧ s0.region.smpc = s0.core.lw.toNat ∧ ({ s0.region with smpc := 1 } : Region).smpc ≠ s0.core.lw.toNat
    ∧ ({ Core.reset with wait := .wmw false 0 1 (some 0), cyc := 3 } : Core).cyc = 0 + 3
    ∧ (Instr.bankExtensionResume, Held.bankExtension) ∈ [(Instr.queueHeadResume, Held.queueHead), (.busyBitResume, .busyBit),
        (.queueCapResume, .queueCap), (.queueCapResume, .mirrorReload), (.bankExtensionResume, .bankExtension)] := by
  decide +kernel

theorem test_meets_PredicatesTilesAndStops :
    2 < (3 : BitVec 3).toNat ∧ s0.core.r.esnap = true ∧ s0.core.snapTrg = false ∧ s0.core.gate = [] ∧ [0, 5].Nodup
    ∧ (∀ l ∈ [0, 5], l < 6 ∧ 0 < (((Vector.replicate 6 3 : Vector (BitVec 32) 6)[l]?).getD 0).toNat % 2 ^ 16)
    ∧ ¬(s0.core.walk < s0.core.walkEnd) ∧ ({ Core.reset with walkEnd := 1 } : Core).walk < 1 := by decide +kernel

theorem test_meets_SpecialRegisters :
    readable 0x005 = true ∧ readable 0x006 = false ∧ writable 0x041 = true ∧ writable 0x000 = false
    ∧ readable 0x13F = true ∧ (0x100 ≤ (0x13F : BitVec 9).toNat ∧ (0x13F : BitVec 9).toNat < 0x140 ∧ s0.core.priv = false)
    ∧ ({ Core.reset with priv := true } : Core).priv = true
    ∧ ({ s0 with region := { s0.region with rclk := BitVec.ofNat 64 (9 * 2 ^ 59 + 26 * 2 ^ 39) } } : State).inFabric = true
    ∧ s0.hasMates = false ∧ s0.region.newAt ≠ s0.web + 1
    ∧ (scalarResult s0 0 1 (some .special) 0x040 2 .none).file = some .special ∧ (scalarResult s0 0 1 (some .special) 0x040 2 .none).bad = none := by
  decide +kernel

/-- A residency fault has stopped the core. -/
def faulted : State :=
  withCore { mapped with
    run := .faulted, stopAt := some 0, cyc := 7
    fault := some { FaultInfo.plain .residency 1 with entry := 4, resumes := true } }

theorem test_meets_PreciseFaults :
    (FaultInfo.plain .illegalOperation 3).kind ≠ .violation ∧ (accessFault .residency 1 .read 3 0).kind ≠ .violation
    ∧ (accessFault .residency 1 .read 3 0).resumes = true ∧ (FaultInfo.plain .illegalOperation 3).resumes = false
    ∧ s0.core.r.preb ≠ 0 ∧ s0.core.r.preb.toNat ≤ ({ Core.reset with psCount := 65536 } : Core).psCount
    ∧ faulted.core.run = .faulted ∧ (faulted.core.fault.map (·.resumes)) = some true ∧ faulted.core.late = false
    ∧ faulted.core.stopAt = some 0 ∧ (0 : Nat) ≤ faulted.core.cyc ∧ s0.core.run = .idle := by decide +kernel

/-- A restart point is in force, and one operation waits in the gate buffer. -/
def marked : State :=
  withCore { Core.reset with
    mark := { Core.reset.mark with inForce := true }
    gate := [{ seq := 0, slot := 7, eff := .wms 16 3, committed := false, waited := false }] }

theorem test_meets_RestartAndRollback :
    multiplying.core.mx.inFlight = true ∧ s0.core.mx.inFlight = false ∧ s0.core.gate = [] ∧ marked.core.mark.inForce = true
    ∧ marked.core.gate.length = 1 ∧ marked.core.room (.wms 16 3) = true
    ∧ (accessFault .residency 1 .read 3 0).kind ≠ .violation ∧ (accessFault .residency 1 .read 3 0).resumes = true := by
  decide +kernel

/-- A local copy of one beat from offset 0 to offset 0x1000, checked, whose beat 0 performs in two cycles. -/
def copy : Cmd :=
  { id := 2, old := [], ovl := false, desc := 0x800, wm := 0, word := 0, start := 0, startWeb := 0, raw := some (BitVec.ofNat 1024 (2 ^ 16 + 0x1000 * 2 ^ 64)),
    checked := true, stopped := false, localBase := 12, localLast := 12, beats := 1, next := 0, kind := .local_, took := [], ideal := none, webLate := false, shifted := false, done := [], counted := [], feltWait := [],
    lastSlot := none, waits := false, stagingEnd := 0, stall := 0, stalled := false, half := 0, began := some 0, fetched := [], fetchEnd := 0, finish := none }

/-- The core that runs it. -/
def copying (k : Cmd) (n : Nat) : State := withCore { Core.reset with cmds := [k], cyc := n }

theorem test_meets_CopyEngine_of_starts :
    (copying { copy with raw := none, checked := false } 0).core.cmd 2 = some { copy with raw := none, checked := false }
    ∧ (copying { copy with raw := none, checked := false, start := 1 } 0).core.cyc < 1
    ∧ (copying { copy with checked := false } 1).core.cmd 2 = some { copy with checked := false } := by decide +kernel

/-- A slot of channel 5 that starts now is held for a read of 64 bytes. -/
def held : SlotHold :=
  { channel := 5, start := 0, best := false, write := false, grp := some (2, [{ n := 0, pa := 0x1E0000000, place := .pad 0, zeros := false, bad := none, ents := [] }]),
    atm := none, seq := 0, ideal := none }

theorem test_meets_CopyEngine_of_slots :
    s0.web % 9 = 0 ∧ (383 : BitVec 9).toNat < 384 ∧ 384 ≤ (384 : BitVec 9).toNat
    ∧ (∀ h ∈ (withCore { Core.reset with slotsHeld := [{ held with best := true, start := 9 }] }).core.slotsHeld,
        h.channel = (5 : BitVec 9).toNat → if h.best then s0.web < h.start else h.start ≠ s0.web)
    ∧ (withCore { Core.reset with slotsHeld := [held] }).core.slotsHeld = [held] ∧ held.channel = (5 : BitVec 9).toNat
    ∧ held.start = s0.web ∧ held.best = false ∧ s0.withheld 5 false (s0.web / 9) = false ∧ s0.region.st ≠ .frozen
    ∧ Memory.wf s0.core.scratch = true ∧ Tab.okAbove (0 : Bundle) 0 s0.core.istore = true
    ∧ ({ copy with finish := some 4 } : Cmd).finish = some 4 := by decide +kernel

theorem test_meets_CopyEngine_of_beats :
    (copying { copy with raw := some 0 } 10).beatDue { copy with raw := some 0 } 0 = some .local_
    ∧ (copying { copy with raw := some 0 } 11).beatDue { copy with raw := some 0 } 0 = none
    ∧ ((copying { copy with raw := some 0 } 10).reachBeat { copy with raw := some 0 } 0).toOption.map (fun r => (r.1.side, r.1.viol, r.1.zeros))
      = some (.pad, none, false) := by decide +kernel

/-- A packet for the first 128 bytes of the quire waits in the send queue of a core that owns felt slot 1. -/
def felty : State :=
  { withCore { Core.reset with
      feltQ := [{ pk := { party := 0, wme := false, wma := 0, sz := false, aux := 0, op := 0, mask := 0xFFFFFFFF, addr := 0, payload := 7 },
                  entry := 0, qat := false, beat := none, wm := none, ent := none, seq := 0 }] } with
    web := 2, feltTab := [(1, 0x80000000)] }

/-- The same packet of another core, sent in beat 1. -/
def sent (n : Nat) : State :=
  { s0 with
    web := n
    felt := [{ beat := 1, pk := { party := 1, wme := false, wma := 0, sz := false, aux := 0, op := 2, mask := 1, addr := 0, payload := 7 },
               own := none, cell := none, applied := false, told := false }] }

theorem test_meets_FeltAndGateway :
    s0.feltReady = none ∧ s0.gatewayReady = none ∧ felty.feltReady.isSome = true ∧ felty.core.feltQ.length = 1
    ∧ ((sent 12).felt.find? fun f => f.beat == (sent 12).web / 2 - 5).isSome = true
    ∧ ((sent 14).felt.find? fun f => f.beat == (sent 14).web / 2 - 5) = none
    ∧ 10 ≤ (sent 14).web ∧ ((sent 14).ownsFelt ((sent 14).web / 2 - 5) || (sent 14).gatewayOwns ((sent 14).web / 2 - 5)) = false
    ∧ (sent 14).web / 2 - 5 ∉ (sent 14).dev.refused ∧ (sent 8).web < 10
    ∧ 16 * (0x1FFF8 : BitVec 17).toNat + 128 ≤ Config.quireBytes ∧ Memory.wf (sent 12).quire = true
    ∧ (s0.gw.cells[(31 : BitVec 5).toNat]).state s0.web ≠ 1
    ∧ ({ st := 1, n := 2, got := 0, anchor := 0, sums := List.replicate 32 (0, 0), dest := 0, ream := false, cap := 0, mine := false, left := 0, idleAt := 0 } : GwCell).sums.length = 32 := by
  decide +kernel

/-- A message for receive queue 5 of its own core waits in the send queue; slot 0 leads there. -/
def flit : Flit := { src := 0, dst := 0, data := 9, body := .msg 5 false false none }

def webby : State :=
  { withCore { Core.reset with sendQ := [{ fl := flit, ready := 0, cap := 1, first := false, beat := none, delayed := false, displaced := false, kept := false }] } with
    webTab := [(0, 1)] }

theorem test_meets_WebAndLinks :
    s0.slotWanted = false ∧ webby.slotDst = some 0 ∧ webby.returning 0 = none
    ∧ (webby.headTo 0).map (fun f => (f.fl, f.beat, decide (f.ready ≤ webby.web), (webby.overAllowance f).1)) = some (flit, none, true, false)
    ∧ flit.dst = webby.core.pos
    ∧ webby.queueTakes 5 = true ∧ flit.dst ≠ 64 ∧ webby.core.run ≠ .parked ∧ webby.webPort ≠ webby.web + 1 ∧ webby.gwPort ≠ webby.web + 1
    ∧ ({ s0 with webPort := 1 } : State).webPort = s0.web + 1
    ∧ (s0.core.awaiting.find? fun a => a.seq == 3 && a.due.isNone) = none
    ∧ (63 : BitVec 7).toNat < 64 ∧ (s0.link_ 15).st = .down ∧ (s0.link_ 15).cut = none ∧ s0.fabricKind = false
    ∧ ({ s0 with links := s0.links.set 15 { s0.links[15] with st := .timed, seqRx := 4 } }.link_ 15).st = .timed
    ∧ ({ s0 with links := s0.links.set 15 { s0.links[15] with st := .timed, seqRx := 4 } }).linkInUse 15 = false
    ∧ ({ s0 with region := { s0.region with rclk := BitVec.ofNat 64 (9 * 2 ^ 59 + 26 * 2 ^ 39) } } : State).fabricKind = true := by
  decide +kernel

/-- The old value of atomic 3 is awaited from somewhere, and a message waits in the crossing buffer of a region of the fabric group. -/
def crossing (src : Return) : State :=
  { withCore { Core.reset with
      awaiting := [{ seq := 3, src := src, due := none }]
      inbound := [{ tau := 0, port := 2, item := .msg 5 false 9 (some 0x40) }] } with
    region := { s0.region with rclk := BitVec.ofNat 64 (9 * 2 ^ 59 + 26 * 2 ^ 39) } }

/-- The first flit of a line for queue 5 has come from core 7. -/
def half : State := withCore { Core.reset with rq := Core.reset.rq.set 5 { msgs := [], popped := 0, partials := [(7, 11)] } }

theorem test_meets_WebAndLinks_of_arrivals :
    (∀ src ∈ [Return.felt, .hbm, .core 7], ((crossing src).core.awaiting.find? fun a => a.seq == 3 && a.due.isNone)
      = some { seq := 3, src := src, due := none })
    ∧ (crossing .hbm).inFabric = true ∧ (crossing .hbm).overdue 0 = false ∧ (0 : Nat) ≤ (crossing .hbm).web
    ∧ (crossing .hbm).core.inbound = [{ tau := 0, port := 2, item := .msg 5 false 9 (some 0x40) }]
    ∧ (half.core.rq[(5 : BitVec 5).toNat]).partials = [(7, 11)] := by decide +kernel

/-- A packet for queue 5 of core 0. -/
def packet : ReamPacket := { seq := 4, dtix := 0, qn := 5, gline := false, scalar := true, flits := [9] }

/-- Link 15 in a state of its own. -/
def linked (f : Link → Link) : State := s0.setLink 15 f

theorem test_meets_WebAndLinks_of_links :
    packet.flits ≠ [] ∧ readWire (packetWire packet) = some packet ∧ readWire [{ type := 1, data := 0 }] = none
    ∧ (let s := linked fun l => { l with st := .timed, seqRx := 4 }
       packet.seq = (s.link_ 15).seqRx ∧ (s.link_ 15).held + packet.flits.length ≤ 64)
    ∧ (let s := linked fun l => { l with st := .train, unsched := true }
       (s.link_ 15).st = .train ∧ (s.link_ 15).unsched = true)
    ∧ (let s := linked fun l => { l with st := .train, lat := 40 }
       (s.link_ 15).unsched = false ∧ (40 : BitVec 20).toNat ≤ (s.link_ 15).lat.toNat ∧ (s.link_ 15).lat.toNat < (41 : BitVec 20).toNat)
    ∧ ((linked fun l => { l with st := .train, replay := [packet] }).link_ 15).replay ≠ []
    ∧ ((linked fun l => { l with st := .slipped }).link_ 15).st = .slipped ∧ ((linked fun l => { l with cut := some 0 }).link_ 15).cut = some 0
    ∧ ((linked fun l => { l with newAt := 1 }).link_ 15).newAt = s0.web + 1 := by decide +kernel

/-- A message of one flit for queue 5 of this core waits behind link 15, and slot 0 leads from the gateway to the core. -/
def forwarding : State :=
  { linked fun l => { l with recv := [{ due := 0, dtix := 0, flits := [{ flit with src := 64 }] }] } with webTab := [(256 * 64, 1)] }

theorem test_meets_WebAndLinks_of_forwarding :
    (forwarding.link_ 15).recv = [{ due := 0, dtix := 0, flits := [{ flit with src := 64 }] }] ∧ (0 : BitVec 7) = forwarding.core.pos
    ∧ (0 : BitVec 11) = forwarding.core.tix ∧ forwarding.pairOwns 64 0 forwarding.web = true ∧ forwarding.core.run ≠ .parked
    ∧ forwarding.queueTakes 5 = true ∧ s0.pairOwns 64 0 s0.web = false := by decide +kernel

/-- A kernel is resident on a region that follows reference 9 with another ratio, and is gated. -/
def occupied : State :=
  { s0 with
    part := { s0.part with resident := some 0 }
    region := { s0.region with st := .track, gated := true, rclk := BitVec.ofNat 64 (9 * 2 ^ 59 + 25 * 2 ^ 39) } }

theorem test_meets_RegionEvents :
    s0.region.st = .off ∧ s0.occupied = false ∧ occupied.occupied = true ∧ occupied.inFabric = false ∧ occupied.onWebRef = true
    ∧ occupied.region.gated = true ∧ s0.region.bud ≤ s0.region.cis ∧ s0.region.gated = false ∧ (1 : BitVec 4) &&& 0b1011 ≠ 0
    ∧ (4 : BitVec 4) &&& 0b1011 = 0 ∧ s0.region.div ≠ 1 ∧ s0.part.capw = 0 ∧ 0x5FFF < 0x6000 ∧ bitAt s0.region.rv 63 = false
    ∧ 12 ≤ (12 : BitVec 4).toNat ∧ (11 : BitVec 4).toNat < 12 ∧ s0.dev.htlNext = [] := by decide +kernel

/-- The data of a copy read and of a gateway beat are on their way to the core. -/
def arriving : State :=
  { s0 with
    arriving := [(170, { due := 0, port := 0, place := .pad 0, data := 5, cmd := some (2, 0), wm := none, wms := none, bad := none, atm := none, ents := [] }),
      (171, { due := 0, port := 1, place := .pad 64, data := 5, cmd := none, wm := none, wms := none, bad := none, atm := none, ents := [] })]
    core := { s0.core with cmds := [copy] } }

theorem test_meets_RegionEvents_of_errors :
    (arriving.arriving[0]?).map (fun x => (x.1, x.2.place, x.2.cmd, x.2.port)) = some (170, .pad 0, some (2, 0), 0)
    ∧ (arriving.arriving[0]?).map (fun x => x.2.atm.isNone && x.2.wms.isNone && x.2.bad.isNone) = some true
    ∧ (arriving.arriving[1]?).map (fun x => (x.2.port, x.2.cmd)) = some (1, none) ∧ arriving.core.cmd 2 = some copy := by decide +kernel

theorem test_meets_RegionEvents_of_samples :
    (0xFFFF : Nat) < 0x10000 ∧ (0x5FFF : Nat) < 0x6000
    ∧ (let s := { s0 with region := { s0.region with st := .hold, pending := true } }
       s.region.st = .hold ∧ s.region.pending = true)
    ∧ (let r := { occupied.region with gated := false, bud := 3, cis := 2 }
       r.pending = false ∧ r.bud ≤ r.cis + 1 ∧ r.cis < r.bud)
    ∧ (5 : BitVec 3).toNat ≤ 5 ∧ 5 < (6 : BitVec 3).toNat := by decide +kernel

/-- Launch entry 0 is pending with well-formed tables at 0x10000 and above, and a start credit is there. -/
def pending : State :=
  { s0 with
    hbm := [(0x80000, 1)]
    part := { s0.part with
      entry := [(0, 0x10000), (2, 0x20000), (3, 0x30000), (4, 0x40000), (6, 0x80000), (7, 0x60000), (8, 0x70000)]
      st := s0.part.st.set 0 1, credits := 1 } }

theorem test_meets_LaunchAndPreEmption :
    pending.part.stOf 0 = 1 ∧ pending.part.blockedBy 0 = false ∧ pending.part.resident = none ∧ pending.part.credits ≠ 0
    ∧ pending.part.isNext 0 = true ∧ pending.web % 4608 = 0 ∧ pending.part.wellFormed 0 = true ∧ pending.part.coresOf 0 = 0
    ∧ s0.part.stOf 7 ≠ 2 ∧ (7 : Nat) ∉ s0.part.deps 7 ∧ s0.occupied = false ∧ s0.drained = true ∧ s0.allPerformed = true
    ∧ s0.part.shadow = none ∧ occupied.occupied = true ∧ pending.dev.scanDue = false := by decide +kernel

/-- Shares at the bounds of what a partition can have, and beyond. -/
theorem test_meets_LaunchAndPreEmption_of_shares :
    sharesOk { frames := [(0, Config.hbmEnd)], quire := [(0, Config.quireBytes)], cells := (0, 32), hbmSlots := 464, feltSlots := 64, ream := [(15, 9)], regions := [95], code := none } = true
    ∧ sharesOk { frames := [], quire := [], cells := (0, 32), hbmSlots := 465, feltSlots := 64, ream := [], regions := [], code := none } = false := by decide +kernel

/-- A kernel on one core and one on two, halted, with a request to pre-empt it. -/
def halted (n : BitVec 11) : State :=
  { withCore { Core.reset with run := .halted, preReq := true } with part := { s0.part with resident := some 0, cores := n } }

theorem test_meets_LaunchAndPreEmption_of_ends :
    (halted 0).part.resident = some 0 ∧ (halted 0).core.run = .halted ∧ (halted 0).allPerformed = true
    ∧ (halted 0).part.subAt[(0 : BitVec 3).toNat] ≠ (halted 0).web + 1 ∧ (halted 1).part.cores ≠ 0
    ∧ (halted 0).core.preReq = true ∧ (halted 0).drained = true ∧ (halted 0).allArrived = true ∧ s0.core.preReq = false
    ∧ (crossing .hbm).allArrived = false
    ∧ ({ s0.part with shadow := some (s0.context 3) } : Partition).shadow = some (s0.context 3) ∧ s0.part.resident = none := by
  decide +kernel

theorem test_meets_LaunchAndPreEmption_of_tables : pending.tablesOk 0 = true := by decide +kernel

theorem test_meets_LaunchAndPreEmption_of_placement :
    (pending.place 0).isSome = true ∧ pending.movesPend (((pending.place 0).map (·.2)).getD []) = false
    ∧ (let s := { pending with dev := { pending.dev with rmap := (List.range 96).map fun q => (q, BitVec.ofNat 64 (2 ^ 52)) } }
       s.placement (s.part.coresOf 0) (s.phys (s.part.dw 0 6) 8) = none) := by decide +kernel

theorem test_meets_DriverAndMillCores :
    Tab.okAbove (0 : BitVec 128) 0 mapped.xlat = true ∧ Tab.okAbove (0 : BitVec 65) 0 s0.dev.xlatLow = true
    ∧ (∀ x ∈ mapped.xlat, x.1 < 1024) ∧ s0.core.awaitsResidency 3 = false ∧ faulted.core.awaitsResidency 4 = true
    ∧ faulted.extentsIn 4 0x40000000 (extentBytes (faulted.core.entry 4)) = []
    ∧ (0x8FFFFFFFF8 : BitVec 40).toNat % 8 = 0 ∧ (0x8FFFFFFFF8 : BitVec 40).toNat < Config.hbmEnd
    ∧ s0.regAt 0x200000418 = .part 0x418 ∧ s0.regAt 0x110170000 = .slp 23 ∧ s0.regAt 0x300000010 = .device 0x10
    ∧ s0.regAt 0x3FFFFFFF8 = .reserved ∧ s0.part.resident = none
    ∧ frameFits (faulted.core.entry 4) 0x40000000 = true ∧ within faulted.part.frames 0x40000000 (extentBytes (faulted.core.entry 4)) = true
    ∧ (bitsAt (faulted.core.entry 4) 117 10 : BitVec 10) = 0 ∧ s0.linkTrained = false
    ∧ (linked fun l => { l with st := .slipped }).linkTrained = true
    ∧ ((23 : BitVec 5).toNat < 24) ∧ (halted 1).part.cores ≠ 0 := by decide +kernel

/-- The pages of entry 0 stand in channel 1, and the launch entry that comes next places them on channel 0, where the partition has one
free frame. -/
def moving : State :=
  let x := entry 3 0x10000 0x1800 0
  { pending with
    core := { pending.core with xlat := [(0, x)] }
    hbm := Memory.writeNat (Memory.writeNat (Memory.writeNat [(0x80000, 1)] 0x60000 8 1) 0x60010 8 (0x10000 + 3 * 2 ^ 56)) 0x30000 16 x.toNat
    part := { pending.part with frames := [(0x40000000, 0x40000), (0x60000000, 0x40000)] } }

/-- The home that it gets. -/
def home : Home := { ent := 0, old := 0x60000000, new := 0x40000000, size := 0x40000, homed := true, contents := .frame }

theorem test_meets_DriverAndMillCores_of_moves :
    moving.part.resident = none ∧ moving.dev.scanDue = false ∧ (bitsAt (moving.core.entry 0) 117 10 : BitVec 10) = 0
    ∧ moving.extentsIn 0 0x40000000 (extentBytes (moving.homeOf 0)) = [] ∧ moving.homeOf 0 = moving.core.entry 0 ∧ extentBase (moving.core.entry 0) = home.old
    ∧ extentBytes (moving.core.entry 0) = home.size ∧ home.old ≠ home.new ∧ Memory.wf moving.hbm = true := by decide +kernel

/-- The extent as the placement reads it. -/
def moved : Extent := { ext := (0x10000 + 3 * 2 ^ 56, 0), entry := entry 3 0x10000 0x1800 0, base := 0x60000000, homed := true, contents := .frame }

theorem test_meets_DriverAndMillCores_of_homes : home ∈ moving.nextHomes := by
  have h1 : (List.range 8).find? moving.part.isNext = some 0 := by decide +kernel
  have h2 : moving.slotsFit (moving.part.dw 0 6) = true := by decide +kernel
  have h3 : moving.placement (moving.part.coresOf 0) (moving.phys (moving.part.dw 0 6) 8) = some ((List.range 24).map fun i => (i, 0)) := by
    decide +kernel
  have h4 : moving.launchExtents (moving.part.dw 0 7) (moving.part.dw 0 3) (moving.part.coresOf 0)
      = [moved] := by decide +kernel
  have h5 : moving.splitExtents ((List.range 24).map fun i => (i, 0))
      [moved] []
      = ([], [moved]) := by decide +kernel
  have h6 : ((moving.homeChannels moved ((List.range 24).map fun i => (i, 0))).map (moving.freeFrames moved [])).find? (fun l => !l.isEmpty)
      = some [0x40000000] := by decide +kernel
  have h7 : moved.follow = false := by decide
  have h8 : moving.parkedFrames = [] := by decide +kernel
  simp only [State.nextHomes, h1, State.place, h2, h3, h4, State.homes, h5, List.filter, h7, h8, Bool.not_false, List.append_nil, framesOf, List.map_nil,
    State.moveExtents, h6, List.length_singleton, Nat.mod_one]
  decide +kernel

theorem test_meets_SleepSnapshotsDebugAndBoot :
    (23 : BitVec 5).toNat < 24 ∧ s0.sheetInUse 23 = false ∧ occupied.sheetInUse 0 = true ∧ s0.dev.asleep[23]? = some false
    ∧ s0.reload = none ∧ s0.core.snapTrg = false ∧ s0.dev.snapAt = [] ∧ s0.core.seq.loops.length ≤ 6 ∧ s0.dev.debugOpen = false
    ∧ s0.dev.boot = .off ∧ ({ s0.dev with debugOpen := true } : Device).debugOpen = true := by decide +kernel

theorem test_meets_StepKeepsMemories : s0.memoriesWf = true ∧ ∃ t, step { s0 with inputs := [.go] } = .next t :=
  ⟨by decide +kernel, _, rfl⟩


/-! ### Boundary cases of statements with several clauses -/

theorem test_meets_StepTakesTheOldestEvent_of_boot :
    s0.dev.boot ≠ .failed ∧ ({ s0 with dev := { s0.dev with boot := .failed } } : State).dev.boot = .failed ∧ byMillCore .go = true
    ∧ byMillCore .powerGood = false ∧ runs.core.bundlePoisoned = false := by decide +kernel

theorem test_meets_ResultsInFlight_of_tile_coordinates :
    (scalarResult s0 0 24 (some .tc) 19 0 .none).file = some .tc
    ∧ (scalarResult s0 0 24 (some .tc) 19 0 .none).dst.toNat = 16 + (3 : Fin 4).val := by decide

/-- Stream 2 begins at an address of the quire window, and a1 there. -/
def quired : State :=
  withCore { mapped with r := { mapped.r with st := mapped.r.st.set 2 (BitVec.ofNat 512 0x400000000) } }

theorem test_meets_LoadsOfTheQuireWindow_of_all_forms :
    (∀ n : Nat, n ∈ [1, 2, 4, 8, 32, 64, 128] → quired.checkAccess 1 (quired.core.r.readA 1) n n .read = .quire 3 0 false false)
    ∧ quired.checkAccess 1 (BitVec.ofNat 64 (stAddr (quired.core.r.readSt 2))) 128 128 .read = .quire 3 0 false false
    ∧ ({ quired with part := { quired.part with quireShare := [(4096, 4096)] } } : State).checkAccess 2 0x400000F80 128 128 .read
      = .quire 3 0xF80 false true
    ∧ ({ quired with reload := some 9 } : State).reload ≠ none := by
  refine ⟨fun n hn => ?_, by decide +kernel, by decide +kernel, by decide⟩
  simp only [List.mem_cons, List.not_mem_nil, or_false] at hn
  rcases hn with rfl | rfl | rfl | rfl | rfl | rfl | rfl <;> decide +kernel

/-- Ones: their largest magnitude is 1, of exponent 0. -/
theorem test_meets_BlockQuantisation_of_finite_blocks : IsTop 0 ((List.replicate 32 (0x3F800000 : Lane32)).map (valueOf fp32)) := by
  have h : valueOf fp32 0x3F800000 = 1 := by
    have : fp32.decode (0x3F800000 : Lane32).toNat = .num false 8388608 (-23) := by decide +kernel
    simp only [valueOf, this, ratOf]; norm_num
  rw [List.map_replicate, h]
  exact ⟨⟨1, by simp, by norm_num⟩, fun x hx => by rw [List.eq_of_mem_replicate hx]; norm_num⟩

/-- A block of BF16 whose row 0 and column 0 hold 1 and 2^−100: the window floor discards their small product. -/
def lossy : Block :=
  { block with
    prof := 8, a := (0x3F80 :: 0x0D80 :: List.replicate 30 0) :: List.replicate 31 (List.replicate 32 0)
    b := (0x3F80 :: 0x0D80 :: List.replicate 30 0) :: List.replicate 31 (List.replicate 32 0) }

theorem test_meets_BlockLanding_of_lost_bits : (lossy.terms 0 0).lost = true ∧ (floatBlock.terms 31 0).lost = false := by decide +kernel

theorem test_meets_BlockLanding_of_windows :
    IsTop 0 ((List.range 32).map fun k => valueOf bf16 (nth 0 (List.replicate 32 (0x3F80 : Lane32)) (32 * 0 + k))
      * valueOf bf16 (nth 0 (List.replicate 32 (0x3F80 : Lane32)) (32 * 0 + k))) := by
  have h : valueOf bf16 0x3F80 = 1 := by
    have : bf16.decode (0x3F80 : Lane32).toNat = .num false 128 (-7) := by decide +kernel
    simp only [valueOf, this, ratOf]; norm_num
  have hn : ∀ k, k < 32 → nth 0 (List.replicate 32 (0x3F80 : Lane32)) (32 * 0 + k) = 0x3F80 := by decide
  refine ⟨⟨1, List.mem_map.2 ⟨0, by simp, by rw [hn 0 (by omega), h]; norm_num⟩, by norm_num⟩, fun x hx => ?_⟩
  obtain ⟨k, hk, rfl⟩ := List.mem_map.1 hx
  rw [hn k (List.mem_range.1 hk), h]; norm_num

/-- No quadrant is the partition's. -/
def outside : State :=
  { porty with dev := { porty.dev with rmap := (List.range 96).map fun q => (q, BitVec.ofNat 64 (2 ^ 52)) } }

theorem test_meets_PortSlotEffects_of_capabilities :
    outside.capOutside (Tab.get 0 outside.core.caps 1) = true ∧ outside.blocked (.send 1 true 0) = false ∧ outside.guardOn 0 = true
    ∧ porty.capOutside (Tab.get 0 porty.core.caps 1) = false ∧ (porty.core.r.readA 0).toNat % 2 ^ 20 % 8 = 0
    ∧ outside.blocked (.atmOutside true (accessFault .violation 7 .atomic 0 1)) = false := by decide +kernel

/-- Port 1 is an INTERP reader with two taps and lines 1 and 3, and port 0 a writer to it. -/
def interp : State :=
  withCore { Core.reset with
    xp := (Core.reset.xp.set 0 { Port.reset with cfg := BitVec.ofNat 64 (2 ^ 63 + 2 ^ 31), written := 2 }).set 1 { Port.reset with
      cfg := BitVec.ofNat 64 (2 ^ 63 + 2 ^ 62 + 2 * 2 ^ 60 + 2 ^ 55 + 2 ^ 1), hist := [(3, 7), (1, 5)] } }

theorem test_meets_CrossingPorts_of_interpolation :
    (let p := interp.core.xp[(1 : BitVec 2).toNat]
     bitAt p.cfg 63 = true ∧ bitAt p.cfg 62 = true ∧ bitsAt p.cfg 40 11 = interp.core.tix ∧ (bitsAt p.cfg 60 2 : BitVec 2).toNat = 2
      ∧ p.hist.Pairwise (fun l m => m.1.toNat < l.1.toNat) ∧ p.hist.length ≤ 32 ∧ (bitsAt p.cfg 33 7 : BitVec 7).toNat = interp.core.region)
    ∧ interp.core.loopPort (interp.core.xp[(0 : BitVec 2).toNat]).cfg = some 1
    ∧ interp.core.loopPort (s0.core.xp[(0 : BitVec 2).toNat]).cfg = none
    ∧ (let s := withCore { interp.core with xline := [(0, 1, 9, 4)] }
       s.core.xline = [(0, 1, 9, 4)] ∧ 0 ≤ s.core.cyc)
    ∧ (interp.core.xp[(0 : BitVec 2).toNat]).written < 3 := by decide +kernel

theorem test_meets_WaitsAndTheirEnds_of_poison :
    (0xBFFF0 / 32 + (if (false : Bool) then 2 ^ 20 else 0)) ∈ ({ Core.reset with poison := [0x5FFF] } : Core).poison
    ∧ (0xBFFF0 / 32 + (if (false : Bool) then 2 ^ 20 else 0)) ∉ s0.core.poison
    ∧ ({ Core.reset with wait := .wmw false 0xBFFF0 1 none } : Core).wait = .wmw false 0xBFFF0 1 none := by decide

theorem test_meets_PredicatesTilesAndStops_of_the_gate_buffer :
    (∃ e rest, marked.core.gate = e :: rest ∧ marked.core.room e.eff = true)
    ∧ ({ Core.reset with feltQ := List.replicate 8 { pk := plainPacket 0 0 0 0, entry := 0, qat := false, beat := none, wm := none, ent := none, seq := 0 } } : Core).room (.felt (plainPacket 0 0 0 0) false 0) = false :=
  ⟨⟨_, _, rfl, by decide⟩, by decide⟩

theorem test_meets_ControlTransfers_of_groups :
    ({ Core.reset with newGroup := true } : Core).newGroup = true ∧ s0.core.newGroup = false ∧ s0.core.held = .none
    ∧ s0.region.newAt ≠ s0.moment + 1 := by decide

/-- No restart point is in force, and a store of one byte has been applied ahead of its bank cycle. -/
def unmarked : State :=
  withCore { Core.reset with
    scratch := [(9, 4)], stores := [{ seq := 0, w := 5, bytes := [(9, 4)], applied := true, old := [(9, 0)] }] }

theorem test_meets_RestartAndRollback_of_the_entry_bundle :
    unmarked.core.mark.inForce = false ∧ unmarked.core.acted = false ∧ unmarked.core.undo ≤ 256 ∧ unmarked.core.cyc < 5
    ∧ Memory.wf unmarked.core.scratch = true ∧ ({ Core.reset with acted := true } : Core).acted = true
    ∧ (FaultInfo.plain .copyCommand 7).resumes = false ∧ (halted 0).part.subAt[(0 : BitVec 3).toNat] ≠ (halted 0).web + 1 := by decide +kernel

/-- Entries 3, 4 and 5 lead to the quire window, to HBM and to the staging SRAM. -/
def threeWays : Core := { mapped with xlat := mapped.xlat ++ [(5, entry 3 0x30000 0x3C0000 7)] }

/-- A command of one beat, its destination kind among the fields of its descriptor. -/
def rowCmd (src dst kind : Nat) (r : Row) : Cmd :=
  { copy with raw := some (BitVec.ofNat 1024 (src + kind * 2 ^ 52 + 2 ^ 56 + dst * 2 ^ 64)), kind := r }

/-- The core that runs it in cycle n, with a capability for itself and a felt slot. -/
def rowed (k : Cmd) (n : Nat) : State :=
  { withCore { threeWays with cmds := [k], cyc := n, caps := [(1, BitVec.ofNat 64 (2 ^ 63 + 2 ^ 59))] } with web := 20, feltTab := [(0, 0x80000000)] }

theorem test_meets_CopyEngine_of_rows :
    (∀ x ∈ [(0x400000000, 0x1000, 0, Row.quireSrc, 8), (0xC00000000, 0x1000, 0, .staging, 44), (0, 0x400000000, 0, .quireDst, 4),
        (0, 0x4001FFFC0, 0, .quireDst, 4), (0, 0x1000, 1, .remote, 4), (0x800000000, 0x1000, 0, .hbm, 4)],
      let k := rowCmd x.1 x.2.1 x.2.2.1 x.2.2.2.1
      let s := rowed k x.2.2.2.2
      s.core.cmd k.id = some k ∧ s.beatDue k 0 = some x.2.2.2.1 ∧ (s.reachBeat k 0).toOption.isSome = true ∧ s.cpyFault k = none)
    ∧ (let k := rowCmd 0xC0000 0x1000 0 .local_
       (rowed k 10).beatDue k 0 = some .local_ ∧ ((rowed k 10).reachBeat k 0).toOption.isNone = true) := by
  refine ⟨fun x hx => ?_, by decide +kernel⟩
  simp only [List.mem_cons, List.not_mem_nil, or_false] at hx
  rcases hx with rfl | rfl | rfl | rfl | rfl | rfl <;> decide +kernel

/-- A load of two bundles of ones from HBM, checked. -/
def overlay : Cmd :=
  { copy with ovl := true, raw := some (BitVec.ofNat 1024 (0x800000000 + 66 * 2 ^ 64 + 64 * 2 ^ 160 + 2 ^ 166)) }

theorem test_meets_CopyEngine_of_checks :
    ({ overlay with raw := some (BitVec.ofNat 1024 (0x800000000 + 66 * 2 ^ 64 + 64 * 2 ^ 192)) } : Cmd).ovlFault = none ∧ ({ overlay with raw := some 0 } : Cmd).ovlFault ≠ none
    ∧ (rowed (rowCmd 0 0x1001 0 .local_) 1).cpyFault (rowCmd 0 0x1001 0 .local_) ≠ none
    ∧ (∃ g ∈ granulesFrom (0x800 : Nat) 128, g ∈ ({ Core.reset with poison := [0x43] } : Core).poison)
    ∧ ¬∃ g ∈ granulesFrom (0x800 : Nat) 128, g ∈ s0.core.poison := by decide +kernel

theorem test_meets_CopyEngine_of_still_and_best_effort :
    (let s := { withCore { Core.reset with slotsHeld := [held] } with region := { s0.region with st := .frozen } }
     s.region.st = .frozen ∧ held.grp = some (2, [{ n := 0, pa := 0x1E0000000, place := .pad 0, zeros := false, bad := none, ents := [] }]))
    ∧ s0.region.st ≠ .frozen ∧ s0.region.st ≠ .relock
    ∧ ({ held with best := true } : SlotHold).best = true ∧ (279 / 9) % 32 = 31 ∧ 279 % 9 = 0
    ∧ ({ held with grp := none, atm := some (.atmHbm 0 true 0x1E0000000 3 1 0) } : SlotHold).atm = some (.atmHbm 0 true 0x1E0000000 3 1 0) := by
  decide +kernel

/-- A packet of this core has been applied at the base die, and its old value is due. -/
def shown (n : Nat) (f : FeltSent) : State :=
  { s0 with web := n, felt := [f], region := { s0.region with rclk := BitVec.ofNat 64 (9 * 2 ^ 59 + 26 * 2 ^ 39) } }

/-- A QAT of this core, applied. -/
def asked : FeltSent :=
  { beat := 1, pk := { plainPacket 3 2 0 5 with aux := 0 }, own := some { pk := plainPacket 3 2 0 5, entry := 0, qat := true, beat := none, wm := none, ent := some 3, seq := 6 },
    cell := none, applied := true, told := false }

theorem test_meets_FeltAndGateway_of_mirrors :
    (shown 18 asked).inFabric = true ∧ (shown 17 asked).web < 2 * asked.beat + 16 ∧ 2 * asked.beat + 16 ≤ (shown 18 asked).web
    ∧ (shown 18 asked).core.poison = [] ∧ (shown 18 asked).reload = none ∧ atomicOperand asked.pk = (4, 32, 5, 0) ∧ asked.applied = true := by
  decide +kernel

/-- The gateway owns felt slot 3, and cell 7 collects two contributions and has one. -/
def collecting : State :=
  let s := { s0 with feltTab := [(3, 0xC0000000)] }
  s.setCell 7 fun c => { c with st := 1, n := 2, got := 1, anchor := 3, sums := List.replicate 32 (2, 0), dest := 0xFFFFFFFF00000080 }

theorem test_meets_FeltAndGateway_of_cells :
    (let c := collecting.gw.cells[(7 : BitVec 5).toNat]
     c.state collecting.web = 1 ∧ c.n ≤ c.got + 1 ∧ c.ream = false ∧ c.sums.length = 32 ∧ collecting.gw.q = []
      ∧ collecting.badSetting c.dest false c.cap = false)
    ∧ (s0.gw.cells[(31 : BitVec 5).toNat]).state s0.web = 0
    ∧ (let dest : Word := 0xFFFFFFFF001FFC00
       (bitsAt dest 0 32 : BitVec 32).toNat + 1024 = Config.quireBytes ∧ within s0.part.quireShare (bitsAt dest 0 32 : BitVec 32).toNat 1024 = true
        ∧ (bitsAt dest 32 32 : BitVec 32).toNat = 0xFFFFFFFF)
    ∧ collecting.gatewayOwns 3 = true ∧ ((255 : Word).toNat < 256 ∧ bitAt (0xA000000000000000 : Word) 63 = true
      ∧ bitsAt (0xA000000000000000 : Word) 60 3 = (2 : BitVec 3)) := by decide +kernel

/-- A line of this core's own is on its way to cell 7. -/
theorem test_meets_FeltAndGateway_of_own_lines :
    let a : GwAdd := { due := 14, at_ := none, cell := 7, con := { anchor := 0, els := List.replicate 32 (0, 0), own := true }, info := FaultInfo.plain .gateway 7 }
    let s := { shown 0 asked with gw := { s0.gw with adds := [a] }, core := { s0.core with cyc := 14 } }
    a.con.own = true ∧ s.gw.adds = [a] ∧ s.inFabric = true ∧ a.due ≤ s.core.cyc ∧ a.con.els.length = 32 := by decide +kernel

/-- A flit of core 5 for link 2 comes to the gateway in a revolution in which the partition has sent its share of one flit. -/
theorem test_meets_WebAndLinks_of_shares :
    let fl : Flit := { src := 5, dst := 64, data := 0, body := .ream 2 64 3 false false }
    let s : State := { s0 with web := 9, part := { s0.part with reamShare := [(2, 2)], reamSent := [(2, 1)] } }
    fl.dst = 64 ∧ fl.src ≠ s.core.pos ∧ s.inPartition fl.src.toNat = true ∧ 5 ≤ s.web % 256
    ∧ Tab.get 0 s.part.reamShare (2 : BitVec 4).toNat = 1 + 1 ∧ 1 ≤ Tab.get 0 s.part.reamSent (2 : BitVec 4).toNat
    ∧ packet.flits.length ≤ 16 ∧ forwarding.gwSent ≠ forwarding.web + 1 ∧ ({ s0 with gwSent := 1 } : State).gwSent = s0.web + 1
    ∧ s0.region.still = false ∧ (2 : BitVec 2) ≠ 3 := by decide +kernel

theorem test_meets_RegionEvents_of_throttles :
    (let r := { s0.region with fast := true, rv := BitVec.ofNat 64 1 }
     r.fast = true ∧ r.alm &&& 0b1011 = 0)
    ∧ s0.region.fast = false ∧ bitAt (8 : BitVec 4) 3 = true ∧ s0.dev.mcap = 0 ∧ ({ s0.dev with mcap := 300 } : Device).mcap ≠ 0
    ∧ ({ s0.part with capw := 9 } : Partition).capw ≠ 0 ∧ (95 : BitVec 7).toNat < 96 ∧ 96 ≤ (96 : BitVec 7).toNat
    ∧ Tab.okAbove (0 : Word) 0 s0.dev.rmap = true ∧ (0xFFF : Nat) < 0x1000 := by decide +kernel

theorem test_meets_LaunchAndPreEmption_of_submissions :
    pending.part.subAt[(0 : BitVec 3).toNat] ≠ pending.web + 1
    ∧ ({ s0.part with subAt := s0.part.subAt.set 7 1 } : Partition).subAt[(7 : BitVec 3).toNat] = s0.web + 1
    ∧ (let p := { s0.part with entry := [(5, BitVec.ofNat 64 (2 ^ 57))], st := (s0.part.st.set 0 1).set 1 4 }
       p.stOf 0 = 1 ∧ ∃ f ∈ p.deps 0, p.stOf f = 4)
    ∧ (halted 1).part.resident = some 0 ∧ (halted 1).core.run ≠ .parked ∧ s0.part.resident = none
    ∧ bitsAt s0.region.rclk 59 4 = s0.region.lockSrc := by decide +kernel

theorem test_meets_DriverAndMillCores_of_stops :
    faulted.evictable (faulted.extentsIn 4 0x40000000 (extentBytes (faulted.core.entry 4))) = true
    ∧ s0.evictable [3] = false ∧ faulted.hasFreeFrame 4 (faulted.core.entry 4) = true
    ∧ (bitsAt (0 : Word) 0 16 : BitVec 16) = 0 ∧ bitAt s0.region.alm 2 = false
    ∧ bitAt ({ s0.region with rv := BitVec.ofNat 64 (2 ^ 18) } : Region).alm 2 = true ∧ s0.regAt 0x100000000 = .rvreg := by decide +kernel

theorem test_meets_SleepSnapshotsDebugAndBoot_of_debug :
    s0.isSnapshot 0 = false ∧ s0.regAt 0x5000 = .core 0x5000
    ∧ (bitAt (0xC000000000000000 : Word) 63 = true ∧ (bitsAt (0xC000000000000000 : Word) 60 3 : BitVec 3).toNat ≤ 4
      ∧ bitsAt (0xC000000000000000 : Word) 48 8 = (0 : BitVec 8))
    ∧ ¬((bitsAt (0xD000000000000000 : Word) 60 3 : BitVec 3).toNat ≤ 4)
    ∧ (let s := { s0 with dev := { s0.dev with debugOpen := true }, core := { s0.core with run := .debugHalted } }
       s.dev.debugOpen = true ∧ s.core.run = .debugHalted) := by decide +kernel

theorem test_meets_CopyEngine_of_withheld_slots :
    let h := { held with start := 9 }
    let s : State := { withCore { Core.reset with slotsHeld := [h] } with
      web := 9, hbmTab := [(2560, 0x8000), (2561, 0x8000)], dev := { s0.dev with htl := s0.dev.htl.set 0 3 } }
    h.start = s.web ∧ h.best = false ∧ s.web % 9 = 0 ∧ s.withheld (5 : BitVec 9).toNat h.write (s.web / 9) = true := by decide +kernel

/-! ### Witnesses of further clauses -/

/-- The running core with another bundle at the PC. -/
def runsBundle (b : Bundle) : State := { runs with core := { runs.core with istore := [(0, b)] } }

theorem test_meets_StepRunsTheDecodedInstruction_of_stops :
    (let s := { runs with region := { runs.region with gap := 3 } }
     s.inputs = [] ∧ s.region.clocked = true ∧ 0 < s.region.gap)
    ∧ runs.region.gap = 0 ∧ runs.core.newGroup = false ∧ runs.core.taken = none ∧ runs.core.bundlePoisoned = false
    ∧ (let s := runsBundle (BitVec.ofNat 256 (0x0FC00000 * 2 ^ 32))
       (decodeSlot 1 (s.core.slotWord 1)).isOk = false ∧ illegalBundle s (Header.of (s.core.slotWord 0)) s.core.bundle = none
        ∧ (∀ j, j < 8 → j ≠ 0 → j ≠ 1 → decodeSlot j (s.core.slotWord j) = .ok (.nop (BitVec.ofNat 3 j))))
    ∧ (let s := runsBundle (BitVec.ofNat 256 (2 ^ 24))
       illegalBundle s (Header.of (s.core.slotWord 0)) s.core.bundle = some 0) := by decide +kernel

theorem test_meets_ResultsInFlight_of_latches_and_flags :
    ({ scalarResult s0 2 1 none 0 5 .x with lsel := 1 } : Landing).latch = .x ∧ ({ scalarResult s0 2 1 none 0 5 .y with lsel := 1 } : Landing).latch = .y
    ∧ (scalarResult s0 0 1 (some .special) 0x41 2 .none).file = some .special ∧ (scalarResult s0 0 1 (some .special) 0x41 2 .none).dst = 0x41 := by
  decide

theorem test_meets_LoadsOfTheQuireWindow_of_landings :
    let l : Load := { load8 with quire := true }
    let line : Load := { l with form := .line, bytes := (List.range 128).map fun i => (i, 16 + i) }
    l.quire = true ∧ l.markRem = none ∧ (8 : Nat) ∈ [1, 2, 4, 8] ∧ l.bytes = ((List.range 8).map fun i => (i, 16 + i))
    ∧ (line.bytes.map (·.1)).Nodup ∧ (∀ b ∈ line.bytes, b.1 < 128) ∧ ({ l with zeros := true } : Load).zeros = true
    ∧ ({ l with poison := true } : Load).poison = true ∧ (withCore mapped).reloads = false
    ∧ ({ withCore mapped with reload := some 9 } : State).reloads = true := by decide +kernel

theorem test_meets_StoresOfTheScratchpad_of_kinds :
    (∀ k ∈ ([0, 1, 2, 3, 8, 9, 10] : List (BitVec 4)),
      let size := if k.toNat % 8 = 0 then 1 else if k.toNat % 8 = 1 then 2 else if k.toNat % 8 = 2 then 4 else 8
      s0.checkAccess 2 0xBFFF8 size size .write = .pad 0xBFFF8) := by decide +kernel

theorem test_meets_RoundingIsCorrect_of_tiny_values :
    |(1 : ℚ)| < 2 ∧ (fp32.roundNum 0 false 3 (-150)).f &&& ufFlag ≠ 0 ∧ (fp32.roundNum 0 false 3 (-149)).f = 0 := by
  refine ⟨by norm_num, ?_⟩; decide +kernel

theorem test_meets_Conversions_of_formats :
    fp32Of 0x40000000 = .num false 8388608 (-22) ∧ fp32Of 0xBF800000 = .num true 8388608 (-23) ∧ (8388608 : Nat) ≠ 0
    ∧ ((0x3F800000 : Lane32).toNat / 2 ^ 16 < 65535) ∧ ((0xFFFF0000 : Lane32).toNat / 2 ^ 16 = 65535) := by decide +kernel

theorem test_meets_MatrixIssue_of_blocks :
    block.prof ∈ ([0, 1, 2, 8, 9, 12] : List (BitVec 6)) ∧ s0.core.poison = []
    ∧ ({ block with rows := List.replicate 32 64 } : Block).rows[31]? = some 64 := by decide +kernel

theorem test_meets_WeightBufferLoad_of_the_quire_window :
    (4092 : BitVec 12).toNat ≤ 4092 ∧ quired.checkAccess 5 (BitVec.ofNat 64 (stAddr (quired.core.r.readSt 2))) 128 128 .read = .quire 3 0 false false
    ∧ (let l : Load := { weights with quire := true, done := false }
       l.form = .wbuf (32 * (4092 : BitVec 12).toNat) ∧ (l.bytes.map (·.1)).Nodup ∧ (∀ b ∈ l.bytes, b.1 < 128)
        ∧ (withCore { Core.reset with loads := [l] }).core.loads = [l]) := by decide +kernel

theorem test_meets_SumProductNodes_of_specials :
    spDecode 0xFFFFFFFF = (.nan, 0) ∧ spDecode 0xFFFF0000 = (.sat, 0) ∧ spDecode 0 = (.zero, 0) ∧ spDecode 1 = (.zero, sprFlag)
    ∧ (0 < (0x7FFF0000 : Lane32).toNat / 2 ^ 16) := by decide +kernel

theorem test_meets_SumProductPasses_of_writes :
    let w : BankWrite := { req := 3, rank := 0, seq := 1, ord := 0, addr := 5, val := 9, acc := none }
    let e : StashSet := { due := 4, tree := 2, seq := 1, stash := none }
    Tab.okAbove (0 : Lane32) 0 s0.core.sp.bank = true ∧ bankChoice 3 5 [w] = some w ∧ bankChoice 2 5 [w] = none
    ∧ (let c := { Core.reset with cyc := 4, sp := { Core.reset.sp with sets := [e] } }
       c.frozen c.cyc = false ∧ c.sp.sets = [e] ∧ c.sp.writes = [] ∧ e.due ≤ c.cyc)
    ∧ (List.replicate 16 ((0 : Lane32), false)).length = 16 ∧ (List.replicate 15 ((0 : Lane32), false)).length = 15 := by decide +kernel

theorem test_meets_AtomicsAndBinSets_of_bins :
    ({ atom with eff := .abn 64 0x3F800000 } : AtomAccess).eff = .abn 64 0x3F800000 ∧ Memory.wf s0.core.scratch = true ∧ s0.core.poison = []
    ∧ fp32Of 0x3F800000 = .num false 8388608 (-23) := by decide +kernel

theorem test_meets_WaitsAndTheirEnds_of_fences :
    ({ Core.reset with wait := .fenced 3 } : Core).wait = .fenced 3 ∧ ({ Core.reset with wait := .ifence 3 } : Core).wait = .ifence 3
    ∧ ({ Core.reset with wait := .wsamp, lw := 1 } : Core).lw.toNat = 1 ∧ s0.region.smpc < 1
    ∧ ({ Core.reset with ovlEnd := 4, cyc := 4 } : Core).overlaysDone 4 = true ∧ ({ Core.reset with ovlEnd := 4, cyc := 4 } : Core).overlaysDone (4 - 1) = false := by
  decide +kernel

/-- A TRAP or SYSC has stopped the core. -/
def trapped (sysc : Bool) : State :=
  withCore { Core.reset with run := .trapped, trapRec := some { sysc := sysc, code := 5, arg := 9, half := 0, index := 4 } }

theorem test_meets_PredicatesTilesAndStops_of_traps :
    (trapped true).core.run = .trapped ∧ (trapped false).core.trapRec = some { sysc := false, code := 5, arg := 9, half := 0, index := 4 }
    ∧ (trapped false).core.tres = false ∧ ({ (trapped false).core with tres := true } : Core).tres = true ∧ s0.core.run ≠ .trapped
    ∧ s0.core.tix.toNat < s0.part.coresOf (0 : BitVec 3).toNat + 1 := by decide +kernel

theorem test_meets_PreciseFaults_of_traps_and_violations :
    ∀ sysc, (trapped sysc).core.stopAt = none ∧ (trapped sysc).core.fault = none ∧ (trapped sysc).core.run = .trapped
      ∧ ({ accessFault .violation 2 .read 3 64 with vkind := 1 } : FaultInfo).kind = .violation
      ∧ ({ s0.core with r := { s0.core.r with eflt := true } } : Core).r.eflt = true ∧ s0.core.snapTrg = false := by decide +kernel

theorem test_meets_CopyEngine_of_queues :
    (s0.reloads = false ∧ ({ s0 with reload := some 9 } : State).reloads = true)
    ∧ (let c := { Core.reset with feltGone := List.replicate 8 4 }
       8 ≤ c.feltQ.length + c.feltGone.length)
    ∧ copy.base = some 0 ∧ copy.shifted = false ∧ copy.ideal = none
    ∧ ({ copy with ideal := some (384, 0), lastSlot := some (5, 9) } : Cmd).ideal = some (384, 0)
    ∧ (copying copy 3).core.cmd copy.id = some copy ∧ 0 < copy.beatCount ∧ (copying copy 3).core.rowOf copy 0 = some .local_
    ∧ ({ copy with stopped := true } : Cmd).stopped = true := by decide +kernel

theorem test_meets_FeltAndGateway_of_raises :
    (let pk := { plainPacket 0 0 0 5 with wme := true, wma := 8 }
     pk.wme = true ∧ 16 * pk.addr.toNat + 128 ≤ Config.quireBytes)
    ∧ ({ plainPacket 0 0 0 5 with op := 1 } : FeltPacket).op = 1 ∧ s0.core.raised = [] ∧ Memory.wf s0.core.scratch = true
    ∧ (let c := { Core.reset with raises := [{ due := 0, off := 64, bytes := 64 }, { due := 0, off := 64, bytes := 8 }] }
       c.raises ≠ [] ∧ ∀ r ∈ c.raises, r.off = 64 ∧ r.due ≤ c.cyc)
    ∧ (let f : FeltItem := { pk := plainPacket 0 0 0 5, entry := 0, qat := false, beat := some (2, 0, 64), wm := none, ent := none, seq := 0 }
       let s := { withCore { Core.reset with feltQ := [f] } with web := 2, feltTab := [(1, 0x80000000)] }
       s.feltReady = some f ∧ s.core.poison = []) := by decide +kernel

theorem test_meets_WebAndLinks_of_allowances :
    (let f : SendItem := { fl := { flit with dst := 64, body := .ream 2 64 3 false false }, ready := 0, cap := 1, first := false, beat := none,
                           delayed := false, displaced := false, kept := false }
     let s : State := { s0 with
       part := { s0.part with reamShare := [(2, 2)], reamSent := [(2, 1)] }
       dev := { s0.dev with rmap := (List.range 96).map fun q => (q, BitVec.ofNat 64 (2 ^ 52)) } }
     s.matesHere = false ∧ s.core.beyond f.cap = false ∧ flitLink f.fl = some 2 ∧ (s.overAllowance f).1 = true ∧ s.region.still = false
      ∧ ({ s with webTab := [(0, 65)], core := { s.core with sendQ := [f] } } : State).slotDst = some 64
      ∧ ({ s with core := { s.core with sendQ := [f] } } : State).headTo 64 = some f)
    ∧ (withCore { Core.reset with caps := [(1, BitVec.ofNat 64 (2 ^ 50))] }).core.beyond 1 = false
    ∧ Tab.get 0 s0.part.reamShare (2 : BitVec 4).toNat = 0 ∧ flitLink flit = none := by decide +kernel

theorem test_meets_WebAndLinks_of_remote_atomics :
    let w : EngWrite := { due := 0, port := 2, place := .pad 16, data := 0, cmd := none, wm := none, wms := none, bad := none,
                          atm := some (0, true, 1, 0, 5), ents := [] }
    w.place = .pad 16 ∧ w.atm = some (0, true, 1, 0, 5) ∧ Memory.wf s0.core.scratch = true ∧ s0.core.poison = [] := by decide

theorem test_meets_WebAndLinks_of_messages :
    let fl : Flit := { src := 5, dst := 64, data := 9, body := .ream 2 64 3 true true }
    let s := s0.setLink 2 fun l => { l with st := .timed, gather := [(5, 64, 3, 8)] }
    fl.dst = 64 ∧ Tab.get 0 s.part.reamShare (2 : BitVec 4).toNat = 0 ∧ (s.link_ 2).gather = [(fl.src, 64, 3, 8)]
    ∧ (s.link_ 2).st = .timed ∧ flitsOf (s.link_ 2).replay + 2 ≤ 512 ∧ (s.link_ 2).waiting = [] := by decide +kernel

theorem test_meets_RegionEvents_of_the_base_die : (0xFFFF : Nat) < 0x10000 ∧ (0x10000 : Nat) ≤ 0x10000
    ∧ (let w : EngWrite := { due := 0, port := 6, place := .remote flit, data := 0, cmd := some (2, 0), wm := none, wms := none, bad := none, atm := none, ents := [] }
       w.place ≠ .away ∧ w.atm = none ∧ w.wms = none) := by decide

theorem test_meets_LaunchAndPreEmption_of_regions :
    pending.regionsOk 0 = true ∧ pending.loadsOk 0 = true ∧ kernelRegions 0 = [0]
    ∧ (10 ≤ (bitsAt (BitVec.ofNat 64 (10 * 2 ^ 59)) 59 4 : BitVec 4).toNat) := by decide +kernel

theorem test_meets_DriverAndMillCores_of_homes_and_caps :
    Tab.okAbove (0 : BitVec 128) 0 moving.dev.homeTab = true ∧ bitAt (Tab.get 0 moving.core.xlat (0 : BitVec 10).toNat) 127 = true
    ∧ bitAt (Tab.get 0 s0.core.xlat (0 : BitVec 10).toNat) 127 = false ∧ s0.dev.basePoison = [] ∧ s0.regAt 0x300000008 = .device 0x8
    ∧ bitAt s0.region.alm 3 = false ∧ bitAt ({ s0.region with rv := BitVec.ofNat 64 (2 ^ 19) } : Region).alm 3 = true := by decide +kernel

theorem test_meets_SleepSnapshotsDebugAndBoot_of_latches :
    ({ s0.dev with snapAt := [24, 30] } : Device).snapAt = [24, 30] ∧ s0.web < 24
    ∧ ({ s0 with web := 24 } : State).web ≥ 24 ∧ ({ s0 with reload := some 4 } : State).reload = some 4 := by decide

/-! ### Single operations and steps, with the values of the spec's own examples -/

/-- A next state that has a property. -/
def after (o : Out) (p : State → Bool) : Bool :=
  match o with
  | .next t => p t
  | _ => false

/-- 12, the ring walk: MODE 1, LEN 512, INC 128 takes 0x2180 to 0x2000 and that to 0x2080. -/
theorem test_modifier_ring :
    modUpdate 0x4000020000000080 0x2180 = some 0x2000 ∧ modUpdate 0x4000020000000080 0x2000 = some 0x2080 := by decide +kernel

/-- 12, the ring walk: the load of 0x2580 conflicts with that of 0x2180 in banks 12 to 15 and takes the next cycle. -/
theorem test_bank_conflict :
    let c := { Core.reset with cyc := 6 }
    let a := c.loadPhase (granulesFrom 0x2180 128)
    let b := a.2.2.loadPhase (granulesFrom 0x2580 128)
    a.1 = 10 ∧ b.1 = 11 ∧ (b.2.2.loadPhase (granulesFrom 0x2000 128)).1 = 10 := by decide +kernel

/-- 14, the reciprocal: seeds of 3, +0, 2^−149 and −4, and the step from the seed of 3. -/
theorem test_reciprocal :
    rcpSeed 0x40400000 = quiet 0x3EAAAA00 ∧ rcpSeed 0 = { v := 0x7F800000, f := dzFlag }
    ∧ rcpSeed 1 = { v := 0x7F800000, f := ofFlag ||| nxFlag } ∧ rcpSeed 0xC0800000 = quiet 0xBE800000
    ∧ newton false 0x40400000 0x3EAAAA00 = { v := 0x3EAAAAAB, f := nxFlag } := by decide +kernel

/-- 13, the compare-exchange: −0 is below +0. -/
theorem test_signed_zeros :
    fmin32 0x80000000 0 = 0x80000000 ∧ fmax32 0x80000000 0 = 0 ∧ fmin32 0xC0000000 0x40E00000 = 0xC0000000 := by decide +kernel

/-- 04, the residue form of −300. -/
theorem test_residue :
    Residue.ofInt (-300) = { c255 := 210, c256 := 212, c257 := 214 } ∧ (Residue.ofInt (-300)).word = 0x0359A8D2
    ∧ (Residue.ofInt (-300)).value = -300 := by decide +kernel

/-- 04, the Q4 masked block: elements 0, 3 and 31 hold −1, 5 and 2, scale 2^1, 8 bytes in all. -/
theorem test_weight_block :
    let b := readWcb [(0, 9), (3, 0x80), (4, 0x80), (5, 3), (6, 0x5F), (7, 2)] true 0
    b.size = 8 ∧ b.eb = 0x80 ∧ b.bad = false ∧ (nth 0 b.col 0).toInt = -1 ∧ (nth 0 b.col 3).toInt = 5 ∧ (nth 0 b.col 31).toInt = 2
    ∧ nth 0 b.col 1 = 0 := by decide +kernel

/-- 07, the copy with a watermark: generation 0 has not reached 1; nine bits wrap, so it has reached 511. -/
theorem test_generation : genReached 0 1 = false ∧ genReached 1 1 = true ∧ genReached 0 511 = true := by decide +kernel

/-- 16, the subtree: 0.75·0.5 + 0.5·0.25 = 0.5, and 0.5·0.5 = 0.25. -/
theorem test_tree_nodes :
    nodeValue false (2 * 2 ^ 0) [0x3F400000, 0x3F000000] 0 { v := 0x3F000000, ok := true, f := 0 } { v := 0x3E800000, ok := true, f := 0 }
      = { v := 0x3F000000, ok := true, f := 0 }
    ∧ nodeValue false 1 [] 0 { v := 0x3F000000, ok := true, f := 0 } { v := 0x3F000000, ok := true, f := 0 }
      = { v := 0x3E800000, ok := true, f := 0 } := by decide +kernel

/-- 04 R86: −0 + −0 + +0 with five leaves of padding is +0; −0 and −0 alone are −0; with no valid leaf the result is +0. -/
theorem test_zero_sums :
    let root := fun (k : Lane32) (x : Line) =>
      nth { v := 0, ok := false, f := 0 } (treeFold (redAdd32 0) 3 (leaves 0 k 0x80000000 x)) 0
    (root 7 (BitVec.ofNat 1024 (2 ^ 31 + 2 ^ 63))).v = 0 ∧ (root 3 (BitVec.ofNat 1024 (2 ^ 31 + 2 ^ 63))).v = 0x80000000
    ∧ (root 0 0).ok = false := by decide +kernel

/-- 04 R75: one times one in SP32. -/
theorem test_sp32_one : spMul 0x7FFF0000 0x7FFF0000 = quiet 0x7FFF0000 := by decide +kernel

/-- 12, the ring walk: ADDI of 1 to a0 lands in a1 and in `la` in the next cycle. -/
theorem test_addi_lands :
    after (exec (.addi 1 0 1 0 1 0) s0) (fun t =>
      (t.core.land.map fun l => (l.due, l.file, l.dst, l.latch, l.val)) == [(1, some .a, 1, .lb, 1)]) = true := by decide +kernel

/-- 18, the loop left by BRK: the back-edge of the inner level, then its fall-through. -/
theorem test_loop_advance :
    looping.core.seq.advance.index = 5 ∧ (looping.core.seq.advance.loops.map fun l => (l.rem, l.idx)) = [(0, 1), (0, 0)]
    ∧ (let q := { looping.core.seq with loops := [{ start := 5, stop := 9, rem := 0, idx := 1, opn := false }] }
       q.advance = { q with index := 10, loops := [] }) := by decide +kernel

/-- 18: BRK takes its target, the end of its loop plus 1, and pops the level. -/
theorem test_brk :
    after (exec (.brk 0) looping) (fun t => t.core.taken.map (fun x => (x.index, x.loops.length)) == some (10, 1)) = true := by decide +kernel

/-- 03 R58, 21 R376: an LDS at an odd address takes the misalignment fault, KIND 3, with its address in the record. -/
theorem test_misaligned :
    after (exec (.lds 0 0 3 1 0 3) (withA 1 4 0)) (fun t =>
      t.core.run == .aborted && (t.core.frec[0]).toNat % 256 == 3 && t.core.frec[2] == 4) = true := by decide +kernel

/-- 19 R345: the submitted entry of well-formed tables starts, and its core runs. -/
theorem test_launch :
    after (exec (.kernelStart 0 none) pending) (fun t =>
      t.core.run == .running && t.part.st[0] == 2 && t.part.credits == 0 && t.core.seq.index == 0) = true := by decide +kernel

/-- 08 and 24: the checksums of the stream 00 and of the stream 01 00 40 05 00. -/
theorem test_crc : crc32 [0] = 0xD202EF8D ∧ crc32 [1, 0, 0x40, 5, 0] = 0xF6AFA728 := by decide +kernel

end Sys2Proof.Tests
end

section
/-! SUPPORT. What an instruction of a slot leaves alone in the cycle in which it issues (00 R7, 03 R59, 07 R126): a part of the state that
only later cycles change, one lemma for each operation that keeps it, and with them every instruction. -/

namespace Sys2Proof.Machine

/-! ## The part of the state that later cycles change -/

/-- The registers, latches and flags, the cycle number, the place of the PC, every byte of every memory, the tiles with their anchors, the
bank file, and the web cycle. -/
structure Settled where
  r : Regs
  lat : Latches
  fstat : BitVec 9
  cyc : Nat
  half : BitVec 1
  index : BitVec 10
  scratch : Memory
  wbuf : Memory
  hbm : Memory
  quire : Memory
  mirror : Memory
  istore : Tab Bundle
  tile : Tab Exa
  anchor : Vector (BitVec 16) 2
  bank : Tab Lane32
  web : Nat

/-- That part of a state. -/
def State.settled (s : State) : Settled :=
  { r := s.core.r, lat := s.core.lat, fstat := s.core.fstat, cyc := s.core.cyc, half := s.core.seq.half, index := s.core.seq.index,
    scratch := s.core.scratch, wbuf := s.core.wbuf, hbm := s.hbm, quire := s.quire, mirror := s.mirror, istore := s.core.istore,
    tile := s.core.mx.tile, anchor := s.core.mx.anchor, bank := s.core.sp.bank, web := s.web }

/-- Two states agree in it when registers, memories, tiles, bank file and web cycle are the same. -/
theorem State.settled_eq_iff {s t : State} : t.settled = s.settled ↔
    KeepsRegisters s t ∧ KeepsMemory s t ∧ t.core.mx.tile = s.core.mx.tile ∧ t.core.mx.anchor = s.core.mx.anchor
      ∧ t.core.sp.bank = s.core.sp.bank ∧ t.web = s.web := by
  simp only [State.settled, Settled.mk.injEq, KeepsRegisters, KeepsMemory]
  tauto

theorem State.settled_ite {s t u : State} {c : Prop} [Decidable c] (ht : t.settled = s.settled) (hu : u.settled = s.settled) :
    (if c then t else u).settled = s.settled := by
  split
  · exact ht
  · exact hu

/-- A meaning that answers a next state has left that part of the state as it was. -/
def ActsLater (s : State) (o : Out) : Prop := ∀ t, o = .next t → t.settled = s.settled

/-! ## Results, holds and loads -/

@[simp] theorem State.push_settled (s : State) (l : Landing) : (s.push l).settled = s.settled := rfl

@[simp] theorem State.push64_settled (s : State) (k n : Nat) (f : Option RegFile) (d : BitVec 10) (x : Word) (l : Latch) :
    (s.push64 k n f d x l).settled = s.settled := s.push_settled _

@[simp] theorem State.pushLine_settled (s : State) (k n : Nat) (f : Option RegFile) (d : BitVec 10) (x y : Line) (g : BitVec 9)
    (l : Latch) : (s.pushLine k n f d x y g l).settled = s.settled := s.push_settled _

@[simp] theorem State.pushStream_settled (s : State) (k : Nat) (n : BitVec 4) (x y : Line) :
    (s.pushStream k n x y).settled = s.settled := s.push_settled _

@[simp] theorem State.pushLoad_settled (s : State) (n : Nat) (bs : List (Nat × Nat)) (q z p : Bool) (f : LoadForm) (l : Landing) :
    (s.pushLoad n bs q z p f l).settled = s.settled := rfl

@[simp] theorem State.hold_settled (s : State) (h : Held) : (s.hold h).settled = s.settled := rfl

@[simp] theorem State.await_settled (s : State) (w : Wait) : (s.await w).settled = s.settled := rfl

@[simp] theorem State.slips_settled (s : State) (n : Nat) : (s.slips n).settled = s.settled := rfl

/-- The new base of an access is a result like others. -/
@[simp] theorem State.bumpBase_settled (s : State) (k : Nat) (n : BitVec 5) (nb : Option Word) :
    (s.bumpBase k n nb).settled = s.settled := by
  cases nb with
  | none => rfl
  | some x =>
    exact State.settled_ite rfl (s.push64_settled ..)

/-! ## Free values and what is known of the other side -/

@[simp] theorem State.cross_settled (s : State) (n : Nat) : (s.cross n).2.settled = s.settled := by
  obtain ⟨k, h⟩ := s.cross_eq n
  rw [h]; rfl

@[simp] theorem State.pastWeb_settled (s : State) : s.pastWeb.2.settled = s.settled := by
  unfold State.pastWeb
  split <;> rfl

@[simp] theorem State.partnerFacts_settled (s : State) (p : Port) : (s.partnerFacts p).2.settled = s.settled := by
  unfold State.partnerFacts
  split
  · rfl
  · exact s.pastWeb_settled

@[simp] theorem State.readerBit_settled (s : State) (p : Port) (n : Nat) : (s.readerBit p n).2.settled = s.settled := by
  unfold State.readerBit
  split
  case h_4 =>
    split
    · rfl
    · exact s.partnerFacts_settled p
  all_goals rfl

@[simp] theorem State.writerBit_settled (s : State) (p : Port) (n : Nat) : (s.writerBit p n).2.settled = s.settled := by
  unfold State.writerBit
  split
  · rfl
  · split
    · dsimp only
      split
      · rfl
      · exact s.readerBit_settled _ n
    · exact s.partnerFacts_settled p

@[simp] theorem State.ovrc_settled (s : State) : s.ovrc.2.settled = s.settled := by
  unfold State.ovrc
  dsimp only
  split <;> rfl

@[simp] theorem State.readSpecial_settled (s : State) (n : Nat) : (s.readSpecial n).2.settled = s.settled := by
  unfold State.readSpecial
  split
  · exact s.pastWeb_settled
  · split
    · exact s.ovrc_settled
    · rfl

/-! ## Translation entries -/

/-- Counting a pending access changes the translation table alone. -/
@[simp] theorem State.pend_settled (s : State) (c : Core) (k : Nat) (up : Bool) :
    State.settled { s with core := c.pend k up } = State.settled { s with core := c } := by
  obtain ⟨x, h⟩ := c.pend_eq k up
  rw [h]; rfl

/-- So does counting several. -/
@[simp] theorem State.pendAll_settled (s : State) (ks : List Nat) :
    State.settled { s with core := ks.foldl (fun c k => c.pend k true) s.core } = s.settled :=
  foldl_keeps (P := fun c => State.settled { s with core := c } = s.settled)
    (fun c k h => (s.pend_settled c k true).trans h) ks rfl

/-! ## Faults -/

@[simp] theorem State.trigger_settled (s : State) (n : BitVec 3) : (s.trigger n).settled = s.settled :=
  State.settled_ite rfl rfl

@[simp] theorem State.abortKernel_settled (s : State) (n : BitVec 5) : (s.abortKernel n).settled = s.settled := by
  obtain ⟨hr, hm, ht, ha, hb, _⟩ := s.abortKernel_keeps n
  exact State.settled_eq_iff.mpr ⟨hr, hm, ht, ha, hb, rfl⟩

@[simp] theorem State.afterFault_settled (s : State) (i : FaultInfo) : (s.afterFault i).settled = s.settled := by
  have told : ∀ x, State.settled { s with dev := { s.dev with sent := x } } = s.settled := fun _ => rfl
  have logged : ∀ u : State, (u.logViolation i).settled = u.settled := fun _ => rfl
  simp only [State.afterFault]
  split_ifs <;> simp [told, logged]

/-- A fault discards the cycle's results: it changes the record and what issue does next. -/
@[simp] theorem State.takePrecise_settled (s : State) (i : FaultInfo) : (s.takePrecise i).settled = s.settled :=
  State.afterFault_settled _ _

/-! ## Gated operations -/

/-- An atomic on HBM takes its slot. -/
theorem State.enterHbmAtom_settled (s : State) (q : Nat) (e : Eff) (pa : Nat) : (s.enterHbmAtom q e pa).settled = s.settled := by
  dsimp only [State.enterHbmAtom]
  generalize s.chooseSlot _ _ _ _ = slot
  rfl

theorem State.enterSend_settled (s : State) (cap : BitVec 8) (line : Bool) (x : Line) :
    (s.enterSend cap line x).settled = s.settled := by
  have h := s.cross_settled s.web
  dsimp only [State.enterSend]
  generalize s.cross s.web = crossing at h
  exact h

theorem State.enterFelt_settled (s : State) (pk : FeltPacket) (qat : Bool) (ent : BitVec 10) (q : Nat) :
    (s.enterFelt pk qat ent q).settled = s.settled := by
  have h := s.cross_settled s.web
  dsimp only [State.enterFelt]
  generalize s.cross s.web = crossing at h
  exact h

theorem State.enterRemoteAtom_settled (s : State) (q : Nat) (op : BitVec 3) (i64 : Bool) (cap : BitVec 8) (off : Nat) (x cmp : Word) :
    (s.enterRemoteAtom q op i64 cap off x cmp).settled = s.settled := by
  have h := s.cross_settled s.web
  dsimp only [State.enterRemoteAtom]
  generalize s.cross s.web = crossing at h
  exact h

/-- An effect enters its queue; it performs later. -/
@[simp] theorem State.applyEff_settled (s : State) (q : Nat) (e : Eff) : (s.applyEff q e).settled = s.settled := by
  cases e with
  | send cap line data => exact s.enterSend_settled cap line data
  | felt pk qat ent => exact s.enterFelt_settled pk qat ent q
  | atmRemote op i64 cap off x cmp => exact s.enterRemoteAtom_settled q op i64 cap off x cmp
  | atmHbm op i64 pa ent x cmp => simp only [State.applyEff, State.enterHbmAtom_settled]
  | atmPoison i64 pa info => simp only [State.applyEff, State.enterHbmAtom_settled]
  | xwr port ln stamp =>
    dsimp only [State.applyEff]
    split <;> rfl
  | _ => rfl

@[simp] theorem State.enact_settled (s : State) (k : Nat) (e : Eff) : (s.enact k e).settled = s.settled := by
  cases h : s.core.mark.inForce
  · rw [State.enact_now h]
    exact State.applyEff_settled _ _ _
  · rw [State.enact_gated h]
    rfl

theorem State.releaseGate_settled : ∀ (n : Nat) (s : State), (State.releaseGate n s).settled = s.settled
  | 0, _ => rfl
  | n + 1, s => by
    unfold State.releaseGate
    split
    · rfl
    · split
      · rfl
      · split
        · exact (State.releaseGate_settled n _).trans (State.applyEff_settled _ _ _)
        · rfl

theorem State.commitEntries_settled (s : State) : s.commitEntries.settled = s.settled := by
  unfold State.commitEntries
  exact State.releaseGate_settled _ _

/-- A commit sets the restart point and sends the gated operations on their way. -/
@[simp] theorem State.commitGate_settled (s : State) : s.commitGate.settled = s.settled :=
  s.commitEntries_settled

/-! ## Meanings put together -/

/-- A meaning that answers a state which agrees acts later. -/
theorem ActsLater.next {s t : State} (h : t.settled = s.settled) : ActsLater s (.next t) := by
  intro u hu
  cases hu
  exact h

theorem ActsLater.ite {s : State} {c : Prop} [Decidable c] {x y : Out} (hx : ActsLater s x) (hy : ActsLater s y) :
    ActsLater s (if c then x else y) := by
  split
  · exact hx
  · exact hy

/-- A guarded operation acts later if the operation does. -/
theorem ActsLater.guarded {s : State} {g : BitVec 4} {k : State → Out} (h : ActsLater s (k s)) :
    ActsLater s (guarded g s k) := by
  intro t ht
  rcases guarded_next ht with ⟨_, rfl⟩ | ⟨_, hk⟩
  · rfl
  · exact h t hk

/-- An operation that only sends a result acts later. -/
theorem ActsLater.push (s : State) (l : Landing) : ActsLater s (.next (s.push l)) := .next (s.push_settled l)

/-- An operation that its bundle holds acts later. -/
theorem ActsLater.hold (s : State) (h : Held) : ActsLater s (.next (s.hold h)) := .next (s.hold_settled h)

/-- An operation that faults changes nothing. -/
theorem ActsLater.takePrecise (s : State) (i : FaultInfo) : ActsLater s (.next (s.takePrecise i)) :=
  .next (s.takePrecise_settled i)

/-- An operation that a restart point gates acts later. -/
theorem ActsLater.enact (s : State) (k : Nat) (e : Eff) : ActsLater s (.next (s.enact k e)) := .next (s.enact_settled k e)

end Sys2Proof.Machine
end

section
/-! SUPPORT. Every instruction of a slot acts later: the courses that instructions share, then those with a course of their own, slot by
slot. -/

namespace Sys2Proof.Machine

/-! ## The address units -/

theorem alu2_actsLater (u : BitVec 1) (g : BitVec 4) (d : BitVec 5) (a b : BitVec 6) (w : BitVec 1) (n : Nat) (f : Word → Word → Word)
    (s : State) : ActsLater s (alu2 u g d a b w n f s) :=
  .guarded (.ite (.hold s _) (.push s _))

theorem alu1_actsLater (u : BitVec 1) (g : BitVec 4) (d : BitVec 5) (a : BitVec 6) (w : BitVec 1) (n : Nat) (f : Word → Word)
    (s : State) : ActsLater s (alu1 u g d a w n f s) :=
  .guarded (.ite (.hold s _) (.push s _))

theorem execAupd_actsLater (u : BitVec 1) (g : BitVec 4) (d m : BitVec 5) (b : BitVec 6) (w : BitVec 1) (s : State) :
    ActsLater s (execAupd u g d m b w s) := by
  refine .guarded (.ite (.hold s _) ?_)
  split
  · exact .takePrecise s _
  · exact .push s _

/-- A load that has passed its checks enters the load queue. -/
@[simp] theorem State.issueLoad_settled (s : State) (k : Nat) (ck : Checked) (bs : Nat → List (Nat × Nat)) (f : LoadForm) (l : Landing) :
    (s.issueLoad k ck bs f l).settled = s.settled := by
  cases ck with
  | pad off =>
    dsimp only [State.issueLoad]
    rw [State.pushLoad_settled]
    split <;> rfl
  | quire e off zeros viol =>
    dsimp only [State.issueLoad]
    rw [State.pushLoad_settled]
    split <;> rfl
  | bad i => rfl

theorem loadWith_actsLater (u : BitVec 1) (g : BitVec 4) (n : BitVec 5) (m : BitVec 1) (size align : Nat)
    (bs : State → Nat → List (Nat × Nat)) (f : LoadForm) (l : State → Landing) (s : State) :
    ActsLater s (loadWith u g n m size align bs f l s) := by
  refine .guarded ?_
  split
  · exact .takePrecise s _
  · dsimp only
    split
    · exact .takePrecise s _
    · exact .ite (.hold s _) (.next (by simp))

theorem storeWith_actsLater (u : BitVec 1) (g : BitVec 4) (n : BitVec 5) (m : BitVec 1) (size align : Nat)
    (cells : State → Nat → List Host.Cell) (s : State) : ActsLater s (storeWith u g n m size align cells s) := by
  refine .guarded (.ite (.hold s _) ?_)
  split
  · exact .takePrecise s _
  · split
    · exact .takePrecise s _
    · exact .takePrecise s _
    · exact .next (by simp)

theorem execLdg_actsLater (u : BitVec 1) (g v : BitVec 4) (n : BitVec 5) (m : BitVec 1) (w : BitVec 2) (k : BitVec 4) (s : State) :
    ActsLater s (execLdg u g v n m w k s) := by
  dsimp only [execLdg]
  refine .guarded ?_
  split
  · exact .takePrecise s _
  · split
    · exact .takePrecise s _
    · exact .next (by simp)

theorem execStg_actsLater (u : BitVec 1) (g v : BitVec 4) (n : BitVec 5) (m : BitVec 1) (w : BitVec 2) (k : BitVec 4) (s : State) :
    ActsLater s (execStg u g v n m w k s) := by
  dsimp only [execStg]
  refine .guarded (.ite (.hold s _) ?_)
  split
  · exact .takePrecise s _
  · split
    · exact .takePrecise s _
    · exact .next (by simp)

theorem execLdt_actsLater (u : BitVec 1) (g : BitVec 4) (sp : BitVec 10) (t : BitVec 4) (k : BitVec 1) (s : State) :
    ActsLater s (execLdt u g sp t k s) := by
  refine .guarded ?_
  dsimp only
  split
  · exact .takePrecise s _
  · exact .ite (.hold s _) (.next (by simp))

theorem execStt_actsLater (u : BitVec 1) (g : BitVec 4) (sp : BitVec 10) (t : BitVec 4) (k : BitVec 1) (s : State) :
    ActsLater s (execStt u g sp t k s) := by
  refine .guarded (.ite (.hold s _) ?_)
  split
  · exact .takePrecise s _
  · exact .takePrecise s _
  · exact .next (by simp)

/-! ## The vector slots -/

theorem vec2_actsLater (u : BitVec 1) (g d : BitVec 4) (w : BitVec 1) (a b : BitVec 5) (n : Nat) (f : State → Line → Line → VRes)
    (s : State) : ActsLater s (vec2 u g d w a b n f s) :=
  .guarded (.ite (.hold s _) (.push s _))

theorem vec1_actsLater (u : BitVec 1) (g d : BitVec 4) (w : BitVec 1) (a : BitVec 5) (n : Nat) (f : State → Line → VRes) (s : State) :
    ActsLater s (vec1 u g d w a n f s) :=
  .guarded (.ite (.hold s _) (.push s _))

theorem lanes2_actsLater (u : BitVec 1) (g d : BitVec 4) (w : BitVec 1) (a b : BitVec 5) (z k : BitVec 3) (n : Nat)
    (f : Nat → Lane32 → Lane32 → Flagged) (s : State) : ActsLater s (lanes2 u g d w a b z k n f s) :=
  vec2_actsLater u g d w a b n _ s

theorem lanes1_actsLater (u : BitVec 1) (g d : BitVec 4) (w : BitVec 1) (a : BitVec 5) (z k : BitVec 3) (n : Nat)
    (f : Lane32 → Flagged) (s : State) : ActsLater s (lanes1 u g d w a z k n f s) :=
  vec1_actsLater u g d w a n _ s

theorem fused_actsLater (u : BitVec 1) (g d : BitVec 4) (w : BitVec 1) (a b : BitVec 5) (z k : BitVec 3) (p q : Bool) (s : State) :
    ActsLater s (fused u g d w a b z k p q s) :=
  vec2_actsLater u g d w a b 4 _ s

theorem ints2_actsLater (u : BitVec 1) (g d : BitVec 4) (w : BitVec 1) (a b : BitVec 5) (z k : BitVec 3)
    (f : Lane32 → Lane32 → Lane32) (s : State) : ActsLater s (ints2 u g d w a b z k f s) :=
  lanes2_actsLater u g d w a b z k 2 _ s

theorem intsImm_actsLater (u : BitVec 1) (g d : BitVec 4) (w : BitVec 1) (a : BitVec 5) (z : BitVec 3) (f : Lane32 → Lane32)
    (s : State) : ActsLater s (intsImm u g d w a z f s) :=
  vec1_actsLater u g d w a 2 _ s

theorem convert_actsLater (u : BitVec 1) (g d : BitVec 4) (w : BitVec 1) (a : BitVec 5) (z : BitVec 3) (m n : Nat)
    (f : Nat → Flagged) (s : State) : ActsLater s (convert u g d w a z m n f s) :=
  vec1_actsLater u g d w a 3 _ s

theorem reduction_actsLater (u : BitVec 1) (g d : BitVec 4) (w : BitVec 1) (a : BitVec 5) (z k : BitVec 3) (pad empty : Lane32)
    (op : Nat → Lane32 → Lane32 → Flagged) (s : State) : ActsLater s (reduction u g d w a z k pad empty op s) :=
  vec1_actsLater u g d w a 8 _ s

theorem laneMove_actsLater (u : BitVec 1) (g d : BitVec 4) (w : BitVec 1) (a : BitVec 5) (z k : BitVec 3) (f : Nat → Nat) (s : State) :
    ActsLater s (laneMove u g d w a z k f s) :=
  vec1_actsLater u g d w a 3 _ s

theorem laneMove2_actsLater (u : BitVec 1) (g d : BitVec 4) (w : BitVec 1) (a b : BitVec 5) (z k : BitVec 3)
    (f : Line → Line → Nat → Lane32) (s : State) : ActsLater s (laneMove2 u g d w a b z k f s) :=
  vec2_actsLater u g d w a b 3 _ s

theorem mask2_actsLater (u : BitVec 1) (g : BitVec 4) (d : BitVec 3) (w : BitVec 1) (a b : BitVec 5) (z : BitVec 3)
    (f : Lane32 → Lane32 → Bool × FFlags) (s : State) : ActsLater s (mask2 u g d w a b z f s) :=
  .guarded (.ite (.hold s _) (.push s _))

theorem maskK_actsLater (u : BitVec 1) (g : BitVec 4) (d : BitVec 3) (w : BitVec 1) (a b z : BitVec 3) (f : Bool → Bool → Bool)
    (s : State) : ActsLater s (maskK u g d w a b z f s) :=
  .guarded (.push s _)

theorem execVbcst_actsLater (u : BitVec 1) (g d : BitVec 4) (w : BitVec 1) (a j : BitVec 5) (z k : BitVec 3) (s : State) :
    ActsLater s (execVbcst u g d w a j z k s) :=
  .ite (.takePrecise s _) (laneMove_actsLater u g d w a z k _ s)

theorem execVxch_actsLater (u : BitVec 1) (g d : BitVec 4) (w : BitVec 1) (a j : BitVec 5) (z k : BitVec 3) (s : State) :
    ActsLater s (execVxch u g d w a j z k s) :=
  .ite (.takePrecise s _) (laneMove_actsLater u g d w a z k _ s)

/-! ## The matrix slot -/

theorem tileGuard_actsLater (g : BitVec 4) (t : BitVec 1) {k : State → Out} {s : State} (h : ActsLater s (k s)) :
    ActsLater s (tileGuard g t k s) :=
  .guarded (.ite (.hold s _) h)

@[simp] theorem State.pushTile_settled (s : State) (n : Nat) (t : BitVec 1) (op : TileOp) : (s.pushTile n t op).settled = s.settled := rfl

/-- The advance of stream A, of which that of stream B goes on. -/
theorem State.advanceStreams_settled (s : State) (a b : BitVec 4) (y hx : BitVec 1) (n : Nat) :
    (s.advanceStreams a b y hx n).settled = s.settled := by
  have hA : (if hx = 0 then s.pushStream 5 a (stAdvanced (s.core.r.readSt a) 0 32) idxSel else s).settled = s.settled :=
    State.settled_ite (s.pushStream_settled 5 a _ _) rfl
  have hB : ∀ (u : State) (x y : Line), u.settled = s.settled → (u.pushStream 5 b x y).settled = s.settled :=
    fun u x y h => (u.pushStream_settled 5 b x y).trans h
  exact State.settled_ite hA (State.settled_ite (hB _ _ _ hA) (State.settled_ite hA (hB _ _ _ hA)))

theorem State.issueBlock_settled (s : State) (a b : BitVec 4) (t : BitVec 1) (p : BitVec 6) (y hx : BitVec 1) (z : Bool) :
    (s.issueBlock a b t p y hx z).settled = s.settled :=
  State.advanceStreams_settled _ a b y hx _

theorem execMma_actsLater (g a b : BitVec 4) (t : BitVec 1) (p : BitVec 6) (y hx : BitVec 1) (s : State) :
    ActsLater s (execMma g a b t p y hx s) := by
  refine .guarded (.ite (.hold s _) ?_)
  split
  · exact .takePrecise s _
  · exact .next (s.issueBlock_settled ..)

theorem execMmaz_actsLater (g a b : BitVec 4) (t : BitVec 1) (p : BitVec 6) (y hx : BitVec 1) (s : State) :
    ActsLater s (execMmaz g a b t p y hx s) := by
  refine .guarded (.ite (.hold s _) ?_)
  split
  · exact .takePrecise s _
  · exact .next (s.issueBlock_settled ..)

theorem execMldw_actsLater (g st : BitVec 4) (f : BitVec 12) (s : State) : ActsLater s (execMldw g st f s) := by
  refine .guarded (.ite (.takePrecise s _) ?_)
  split
  · exact .takePrecise s _
  · exact .ite (.hold s _) (.next (by simp))

/-! ## The sum-product slot -/

theorem spSlot_actsLater (g : BitVec 4) {k : State → Out} {s : State} (h : ActsLater s (k s)) : ActsLater s (spSlot g k s) :=
  .guarded (.ite (.hold s _) h)

theorem spIllegal_actsLater (s : State) : ActsLater s (spIllegal s) := .takePrecise s _

/-- A change of the engine's own state that leaves the bank file. -/
theorem State.setSp_settled (s : State) {p : SumProd} (h : p.bank = s.core.sp.bank) :
    State.settled { s with core := { s.core with sp := p } } = s.settled := by
  simp only [State.settled, h]

theorem execSpd_actsLater (g : BitVec 4) (t : BitVec 3) (h : BitVec 6) (v : BitVec 4) (r : BitVec 8) (f : BitVec 1) (s : State) :
    ActsLater s (execSpd g t h v r f s) := by
  refine spSlot_actsLater g ?_
  dsimp only
  split
  · exact .takePrecise s _
  · exact .ite (.takePrecise s _) (.ite (spIllegal_actsLater s)
      (.next ((State.pushLine_settled ..).trans (s.setSp_settled rfl))))

/-! ## The port slot -/

theorem State.sendOut_actsLater (s : State) (cap : BitVec 8) (line : Bool) (x : Line) : ActsLater s (s.sendOut cap line x) :=
  .ite (.hold s _) (.ite (.takePrecise s _) (.ite (.takePrecise s _) (.enact s 7 _)))

theorem State.sendFelt_actsLater (s : State) (n : BitVec 5) (align span : Nat) (d : Doing) (qat : Bool) (packet : Nat → Nat × Nat)
    (mk : Nat → FeltPacket) : ActsLater s (s.sendFelt n align span d qat packet mk) := by
  refine .ite (.hold s _) ?_
  split
  · exact .takePrecise s _
  · exact .next ((State.enact_settled _ 7 _).trans (s.pend_settled s.core _ true))

theorem State.toCell_actsLater (s : State) (c : BitVec 5) (e : Eff) : ActsLater s (s.toCell c e) := by
  refine .ite (.hold s _) ?_
  split
  · exact .takePrecise s _
  · exact .enact s 7 e

theorem execCpy_actsLater (g : BitVec 4) (n m : BitVec 5) (s : State) : ActsLater s (execCpy g n m s) :=
  .guarded (.ite (.hold s _) (.ite (.takePrecise s _) (.ite (.takePrecise s _) (.ite (.takePrecise s _)
    (.ite (.takePrecise s _) (.enact s 7 _))))))

theorem execWms_actsLater (g : BitVec 4) (n : BitVec 5) (f : BitVec 1) (t : BitVec 16) (s : State) : ActsLater s (execWms g n f t s) :=
  .guarded (.ite (.hold s _) (.ite (.takePrecise s _) (.ite (.takePrecise s _) (.enact s 7 _))))

theorem execOvl_actsLater (g : BitVec 4) (n : BitVec 5) (s : State) : ActsLater s (execOvl g n s) := by
  refine .guarded (.ite (.hold s _) (.ite (.takePrecise s _) (.ite (.takePrecise s _) ?_)))
  split
  · exact .takePrecise s _
  · exact .enact s 7 _

theorem execQat_actsLater (g : BitVec 4) (n : BitVec 5) (v : BitVec 4) (o : BitVec 3) (f : BitVec 1) (s : State) :
    ActsLater s (execQat g n v o f s) :=
  .guarded (.ite (.takePrecise s _) (s.sendFelt_actsLater n _ _ _ _ _ _))

theorem execGcm_actsLater (g : BitVec 4) (c : BitVec 5) (t : BitVec 1) (r : BitVec 5) (s : State) : ActsLater s (execGcm g c t r s) :=
  .guarded (.ite (.hold s _) (s.toCell_actsLater c _))

theorem execAtm_actsLater (g : BitVec 4) (n m k : BitVec 5) (o : BitVec 3) (f r : BitVec 1) (s : State) :
    ActsLater s (execAtm g n m k o f r s) := by
  refine .guarded (.ite (.takePrecise s _) (.ite (.hold s _) ?_))
  split
  · exact .takePrecise s _
  · exact .next ((State.enact_settled _ 7 _).trans (s.pendAll_settled _))

theorem execAbn_actsLater (g : BitVec 4) (n m : BitVec 5) (s : State) : ActsLater s (execAbn g n m s) := by
  refine .guarded (.ite (.hold s _) ?_)
  split
  · exact .takePrecise s _
  · exact .enact s 7 _

theorem execBfold_actsLater (g : BitVec 4) (n m : BitVec 5) (e : BitVec 2) (s : State) : ActsLater s (execBfold g n m e s) := by
  refine .guarded ?_
  split
  · exact .takePrecise s _
  · exact .next rfl

theorem execXwr_actsLater (g : BitVec 4) (p : BitVec 2) (v : BitVec 4) (s : State) : ActsLater s (execXwr g p v s) := by
  refine .guarded (.ite (.hold s _) ?_)
  split
  · exact .takePrecise s _
  · exact .enact s 7 _

theorem execXrd_actsLater (g : BitVec 4) (p : BitVec 2) (s : State) : ActsLater s (execXrd g p s) := by
  refine .guarded ?_
  split
  · exact .takePrecise s _
  · exact .next ((State.pushLine_settled ..).trans rfl)

theorem State.portBit_settled (s : State) (q : Port) (n : Nat) :
    (if q.isReader then s.readerBit q n else s.writerBit q n).2.settled = s.settled := by
  split
  · exact s.readerBit_settled q n
  · exact s.writerBit_settled q n

theorem execXst_actsLater (g : BitVec 4) (p : BitVec 2) (d f : BitVec 3) (s : State) : ActsLater s (execXst g p d f s) := by
  refine .guarded ?_
  split
  · exact .takePrecise s _
  · dsimp only
    split
    · exact .takePrecise s _
    · exact .next ((State.push64_settled ..).trans (s.portBit_settled _ _))

/-! ## The control slot -/

theorem State.illegal_actsLater (s : State) : ActsLater s s.illegal := .takePrecise s _

theorem State.goTo_actsLater (s : State) (target : Int) (loops : Nat → List Level) : ActsLater s (s.goTo target loops) :=
  .ite (.next rfl) s.illegal_actsLater

theorem State.callTo_actsLater (s : State) (target : Int) : ActsLater s (s.callTo target) :=
  .ite (fun t ht => (s.link.goTo_actsLater target _ t ht).trans (s.push64_settled ..)) s.illegal_actsLater

theorem State.pushLevel_actsLater (s : State) (stop : Nat) (rem : BitVec 32) (opn : Bool) : ActsLater s (s.pushLevel stop rem opn) :=
  .ite (.next rfl) s.illegal_actsLater

theorem execBrk_actsLater (g : BitVec 4) (s : State) : ActsLater s (execBrk g s) := by
  refine .guarded ?_
  split
  · exact s.illegal_actsLater
  · exact s.goTo_actsLater _ _

theorem execLoopa_actsLater (g : BitVec 4) (n : BitVec 5) (l : BitVec 6) (s : State) : ActsLater s (execLoopa g n l s) :=
  .guarded (.ite s.illegal_actsLater
    (.ite (.ite (s.goTo_actsLater _ _) s.illegal_actsLater) (s.pushLevel_actsLater _ _ _)))

theorem execLoopn_actsLater (g : BitVec 4) (n : BitVec 5) (l : BitVec 6) (s : State) : ActsLater s (execLoopn g n l s) :=
  .guarded (.ite s.illegal_actsLater (s.pushLevel_actsLater _ _ _))

theorem execWmw_actsLater (g : BitVec 4) (n : BitVec 5) (e : BitVec 9) (s : State) : ActsLater s (execWmw g n e s) := by
  refine .guarded (.ite (.takePrecise s _) ?_)
  split
  · exact .takePrecise s _
  · exact .ite (.next rfl) (.ite (.next rfl) (.next rfl))

@[simp] theorem State.pushPred_settled (s : State) (k n : Nat) (d : BitVec 3) (b : Bool) : (s.pushPred k n d b).settled = s.settled :=
  s.push64_settled ..

/-- The rotation pointer and the position of the walk are not of that part. -/
theorem State.walk_settled (s : State) (p : BitVec 2) (w : Nat) :
    State.settled { s with core := { s.core with tctr := p, walk := w } } = s.settled := rfl

theorem execNxt_actsLater (g : BitVec 4) (d : BitVec 3) (s : State) : ActsLater s (execNxt g d s) := by
  refine .guarded (.next ?_)
  rw [State.walk_settled, State.pushPred_settled, State.push_settled]

theorem execSnap_actsLater (g : BitVec 4) (s : State) : ActsLater s (execSnap g s) := by
  refine .guarded (.next ?_)
  split
  · exact s.trigger_settled 0
  · rfl

theorem execSrd_actsLater (g : BitVec 4) (n : BitVec 9) (a : BitVec 5) (s : State) : ActsLater s (execSrd g n a s) :=
  .guarded (.ite (.takePrecise s _) (.ite (.takePrecise s _)
    (.next ((State.push64_settled ..).trans (s.readSpecial_settled _)))))

theorem execSwr_actsLater (g : BitVec 4) (n : BitVec 9) (a : BitVec 5) (s : State) : ActsLater s (execSwr g n a s) :=
  .guarded (.ite (.takePrecise s _) (.ite (.takePrecise s _) (.ite (.next rfl) (.push s _))))

/-! ## All slots -/

/-- Every instruction of a slot acts later. -/
theorem exec_actsLater {i : Instr} {k : Nat} (h : slotOf i = some k) (s : State) : ActsLater s (exec i s) := by
  unfold exec
  cases i with
  | nop | nopControl => exact .next rfl
  | br | bri | ret => exact .guarded (s.goTo_actsLater _ _)
  | call | calli => exact .guarded (s.callTo_actsLater _)
  | brk => exact execBrk_actsLater _ s
  | loop => exact .guarded (s.pushLevel_actsLater _ _ _)
  | loopa => exact execLoopa_actsLater _ _ _ s
  | loopn => exact execLoopn_actsLater _ _ _ s
  | plog => exact .guarded (.ite s.illegal_actsLater (.push s _))
  | pset => exact .guarded (.push s _)
  | nxt => exact execNxt_actsLater _ _ s
  | waitc | ifence | trap | sysc | mark => exact .guarded (.next rfl)
  | wsamp => exact .guarded (.ite (.next rfl) (.next rfl))
  | wmw => exact execWmw_actsLater _ _ _ s
  | bswap => exact .guarded (.ite s.illegal_actsLater (.next rfl))
  | snap => exact execSnap_actsLater _ s
  | halt => exact .guarded (.next s.commitGate_settled)
  | srd => exact execSrd_actsLater _ _ _ s
  | swr => exact execSwr_actsLater _ _ _ s
  | add | sub | and | or | xor | shl | shr | sar | mul | mulh | mulhu | min | max | minu | maxu | andn =>
    exact alu2_actsLater _ _ _ _ _ _ _ _ s
  | addi | andi | ori | xori | shli | shri | sari | muli | imx => exact alu1_actsLater _ _ _ _ _ _ _ s
  | cmp | cmpi | mset | kmovBits => exact .guarded (.ite (.hold s _) (.push s _))
  | aupd => exact execAupd_actsLater _ _ _ _ _ _ s
  | ldl | lds | ldb => exact loadWith_actsLater _ _ _ _ _ _ _ _ _ s
  | stl | sts => exact storeWith_actsLater _ _ _ _ _ _ _ s
  | ldg => exact execLdg_actsLater _ _ _ _ _ _ _ s
  | stg => exact execStg_actsLater _ _ _ _ _ _ _ s
  | sdef => exact .guarded (.ite (.takePrecise s _) (.push s _))
  | lane | srdf | sadv | srst => exact .guarded (.push s _)
  | ldt => exact execLdt_actsLater _ _ _ _ _ s
  | stt => exact execStt_actsLater _ _ _ _ _ s
  | vfadd | vfsub | vfmul | vfmin | vfmax | fnrcp | fnrsq | fscale => exact lanes2_actsLater _ _ _ _ _ _ _ _ _ _ s
  | vfabs | frcps | frsqs | fgete | fgetm => exact lanes1_actsLater _ _ _ _ _ _ _ _ _ s
  | vfma | vfms | vfnma => exact fused_actsLater _ _ _ _ _ _ _ _ _ _ s
  | vadd | vsub | vmul | vmulh | vadds | vmin | vmax | vand | vor | vxor | vshl | vshr => exact ints2_actsLater _ _ _ _ _ _ _ _ _ s
  | vaddi | vandi | vshli | vshri => exact intsImm_actsLater _ _ _ _ _ _ _ s
  | vcfi | vcif | vcfn | vcnf | vcfs | vcsf => exact convert_actsLater _ _ _ _ _ _ _ _ _ s
  | vrsum | vrmax | vrmin | vrisum => exact reduction_actsLater _ _ _ _ _ _ _ _ _ _ s
  | vmov => exact laneMove_actsLater _ _ _ _ _ _ _ _ s
  | vzip | vuzp => exact laneMove2_actsLater _ _ _ _ _ _ _ _ _ s
  | vperm | vsel | vrng => exact vec2_actsLater _ _ _ _ _ _ _ _ s
  | vqnt | vdqn | vscan | frint => exact vec1_actsLater _ _ _ _ _ _ _ s
  | vfcmp | vcmp | kmovNz => exact mask2_actsLater _ _ _ _ _ _ _ _ s
  | kand | kor | kxor | kmov => exact maskK_actsLater _ _ _ _ _ _ _ _ s
  | vbcst => exact execVbcst_actsLater _ _ _ _ _ _ _ _ s
  | vxch => exact execVxch_actsLater _ _ _ _ _ _ _ _ s
  | vmovi | vpmov => exact .guarded (.push s _)
  | mma => exact execMma_actsLater _ _ _ _ _ _ _ s
  | mmaz => exact execMmaz_actsLater _ _ _ _ _ _ _ s
  | mrd | mrdx => exact tileGuard_actsLater _ _ (.push s _)
  | mwrx | mclr | manc => exact tileGuard_actsLater _ _ (.next rfl)
  | mldw => exact execMldw_actsLater _ _ _ s
  | msc => exact .guarded (.next rfl)
  | spu | spsh | spcv => exact spSlot_actsLater _ (.ite (spIllegal_actsLater s) (.next rfl))
  | spd => exact execSpd_actsLater _ _ _ _ _ _ s
  | spst => exact spSlot_actsLater _ (.push s _)
  | spld => exact spSlot_actsLater _ (.next rfl)
  | spw | spsc | spcl => exact spSlot_actsLater _ (.next (s.setSp_settled rfl))
  | cpy => exact execCpy_actsLater _ _ _ s
  | wms => exact execWms_actsLater _ _ _ _ s
  | ovl => exact execOvl_actsLater _ _ s
  | send | sendLine => exact .guarded (s.sendOut_actsLater _ _ _)
  | chb => exact .guarded (.ite (.takePrecise s _) (.next rfl))
  | chu => exact .guarded (.next rfl)
  | qwr | qwrWm | qwrXadd => exact .guarded (s.sendFelt_actsLater _ _ _ _ _ _ _)
  | qat => exact execQat_actsLater _ _ _ _ _ s
  | gcs | gcsReam => exact .guarded (s.toCell_actsLater _ _)
  | gcm => exact execGcm_actsLater _ _ _ _ s
  | atm => exact execAtm_actsLater _ _ _ _ _ _ _ s
  | abn => exact execAbn_actsLater _ _ _ s
  | bfold => exact execBfold_actsLater _ _ _ _ s
  | xwr => exact execXwr_actsLater _ _ _ s
  | xrd => exact execXrd_actsLater _ _ s
  | xst => exact execXst_actsLater _ _ _ _ s
  | _ => cases h

/-- Settles O11: every meaning of a slot's instruction is put together of results, holds, faults and gated operations, none of which
changes what later cycles change. -/
theorem slotInstructionsActLater : Obligations.SlotInstructionsActLater :=
  fun _ _ s t h ht => State.settled_eq_iff.mp (exec_actsLater h s t ht)

end Sys2Proof.Machine
end

section
/-! SUPPORT. The special registers (18 R338, 11 R200): their numbers, what each shows, SRD and SWR, and what a write of one lands. -/

namespace Sys2Proof.Machine

/-! ## Numbers -/

theorem readable_iff (n : BitVec 9) : readable n = true ↔ n.toNat ≤ 5 ∨ n = 0x010 ∨ (0x020 ≤ n.toNat ∧ n.toNat ≤ 0x027) ∨ n = 0x040
    ∨ n = 0x041 ∨ (0x080 ≤ n.toNat ∧ n.toNat ≤ 0x083) ∨ (0x0C0 ≤ n.toNat ∧ n.toNat ≤ 0x0C8) ∨ n = 0x100
    ∨ (0x120 ≤ n.toNat ∧ n.toNat ≤ 0x13F) := by
  simp only [readable, Bool.or_eq_true, Bool.and_eq_true, decide_eq_true_eq, beq_iff_eq, ← BitVec.toNat_inj]
  simp
  omega

theorem writable_iff (n : BitVec 9) : writable n = true ↔ n = 0x040 ∨ n = 0x041 ∨ n = 0x083 ∨ n = 0x0C0 ∨ n = 0x100
    ∨ (0x120 ≤ n.toNat ∧ n.toNat ≤ 0x13F) := by
  simp only [writable, Bool.or_eq_true, Bool.and_eq_true, decide_eq_true_eq, beq_iff_eq, ← BitVec.toNat_inj]
  simp
  omega

theorem State.barred_iff (s : State) (n : BitVec 9) : s.barred n = true ↔ 0x100 ≤ n.toNat ∧ n.toNat < 0x140 ∧ s.core.priv = false := by
  simp [State.barred, and_assoc]

/-! ## What they show -/

theorem State.special_tileLow (s : State) (i : Fin 4) :
    s.special (0x020 + 2 * i.val) = elemsNat 16 (fun k => ((s.core.r.tc[i]).t[k]?.getD 0).toNat) 4 := by
  fin_cases i <;> simp [State.special, TileCoord.word, elemsNat] <;> omega

theorem State.special_tileHigh (s : State) (i : Fin 4) :
    s.special (0x021 + 2 * i.val) = (if (s.core.r.tc[i]).v then 2 ^ 32 else 0)
        + ((s.core.r.tc[i]).t[5]?.getD 0).toNat * 2 ^ 16 + ((s.core.r.tc[i]).t[4]?.getD 0).toNat := by
  fin_cases i <;> simp [State.special, TileCoord.word, b2n] 

theorem State.special_limits (s : State) (i : Fin 32) :
    s.special (0x120 + i.val) = (s.core.r.qcap[i]).toNat * 2 ^ 16 + (s.core.r.qmin[i]).toNat := by
  have hi := i.isLt
  unfold State.special
  split
  case h_15 =>
    rw [if_neg (by omega), if_neg (by omega), if_pos (by omega)]
    simp [Regs.qlim]
  all_goals omega

theorem State.special_violation (s : State) (i : Fin 8) : s.special (0x0C1 + i.val) = (s.core.vlog[i]).toNat := by
  have hi := i.isLt
  unfold State.special
  split
  case h_15 =>
    rw [if_neg (by omega), if_pos (by omega)]
    simp
  all_goals omega

/-! ## SRD -/

theorem execSrd_illegal {g : BitVec 4} {n : BitVec 9} {a : BitVec 5} {s : State} (hg : s.guardOn g = true) (hn : readable n = false) :
    execSrd g n a s = .next (s.takePrecise (.plain .illegalOperation 0)) := by
  rw [execSrd, guarded_of_true hg, if_pos (by simp [hn])]

theorem execSrd_barred {g : BitVec 4} {n : BitVec 9} {a : BitVec 5} {s : State} (hg : s.guardOn g = true) (hn : readable n = true)
    (hb : s.barred n = true) : execSrd g n a s = .next (s.takePrecise (privViolation n .read)) := by
  rw [execSrd, guarded_of_true hg, if_neg (by simp [hn]), if_pos hb]

/-- A read of a register that the core may reach sends what the register gives, in the state that the read leaves. -/
theorem execSrd_sends {g : BitVec 4} {n : BitVec 9} {a : BitVec 5} {s u : State} {x : Nat} (hg : s.guardOn g = true)
    (hn : readable n = true) (hb : s.barred n = false) (hx : s.readSpecial n.toNat = (x, u)) :
    execSrd g n a s = .next (u.push (scalarResult u 0 1 (some .a) a.toNat (BitVec.ofNat 64 x) .none)) := by
  rw [execSrd, guarded_of_true hg, if_neg (by simp [hn]), if_neg (by simp [hb]), hx]
  rfl

theorem State.readSpecial_plain (s : State) {n : BitVec 9} (h2 : n ≠ 0x082) (h3 : n ≠ 0x083) :
    s.readSpecial n.toNat = (s.special n.toNat, s) := by
  have h2' : n.toNat ≠ 0x082 := fun h => h2 (BitVec.eq_of_toNat_eq h)
  have h3' : n.toNat ≠ 0x083 := fun h => h3 (BitVec.eq_of_toNat_eq h)
  rw [State.readSpecial, if_neg h2', if_neg h3']

/-- In the fabric timing group `wheel` is read as it stands. -/
theorem State.readSpecial_wheel {s : State} (h : s.inFabric = true) : s.readSpecial 0x082 = (s.wheelAt s.web, s) := by
  simp [State.readSpecial, State.pastWeb, h]

theorem State.pastWeb_core (s : State) : s.pastWeb.2.core = s.core := by
  unfold State.pastWeb
  split <;> rfl

theorem State.readSpecial_wheel_core (s : State) : (s.readSpecial 0x082).2.core = s.core := s.pastWeb_core

/-- What a read of `ovrc` draws is the number of the next free value. -/
theorem State.ovrc_eq (s : State) : ∃ k, s.ovrc.2 = { s with fresh := k } := by
  unfold State.ovrc
  dsimp only
  split
  · exact ⟨s.fresh + 4, rfl⟩
  · exact ⟨s.fresh, rfl⟩

/-- A read of `ovrc` resets its counts, but for those of the present moment. -/
theorem State.readSpecial_ovrc (s : State) : (s.readSpecial 0x083).2.core = s.core
    ∧ (s.readSpecial 0x083).2.region = s.region.uncount s.moment := by
  obtain ⟨k, hk⟩ := s.ovrc_eq
  have h : (s.readSpecial 0x083).2 = { s.ovrc.2 with region := s.ovrc.2.region.uncount s.ovrc.2.moment } := rfl
  rw [h, hk]
  exact ⟨rfl, rfl⟩

/-- With no other core in the region and nothing counted in the present moment, it returns the counts and leaves none. -/
theorem State.readSpecial_ovrc_alone {s : State} (hm : s.hasMates = false) (hn : s.region.newAt ≠ s.moment + 1) :
    s.readSpecial 0x083 = (s.special 0x083, { s with region := { s.region with phev := 0, miss := 0, drop := 0, ovr := 0 } }) := by
  have hf : s.region.fresh_ s.moment = Vector.replicate 4 0 := if_neg hn
  simp [State.readSpecial, State.ovrc, Region.uncount, State.special, hm, hf]
  omega

/-! ## SWR -/

theorem execSwr_illegal {g : BitVec 4} {n : BitVec 9} {a : BitVec 5} {s : State} (hg : s.guardOn g = true) (hn : writable n = false) :
    execSwr g n a s = .next (s.takePrecise (.plain .illegalOperation 0)) := by
  rw [execSwr, guarded_of_true hg, if_pos (by simp [hn])]

theorem execSwr_barred {g : BitVec 4} {n : BitVec 9} {a : BitVec 5} {s : State} (hg : s.guardOn g = true) (hn : writable n = true)
    (hb : s.barred n = true) : execSwr g n a s = .next (s.takePrecise (privViolation n .write)) := by
  rw [execSwr, guarded_of_true hg, if_neg (by simp [hn]), if_pos hb]

/-- `ovrc` takes no write. -/
theorem execSwr_ovrc {g : BitVec 4} {a : BitVec 5} {s : State} (hg : s.guardOn g = true) : execSwr g 0x083 a s = .next s := by
  rw [execSwr, guarded_of_true hg, if_neg (by decide), if_neg (by simp [State.barred]), if_pos rfl]

theorem execSwr_sends {g : BitVec 4} {n : BitVec 9} {a : BitVec 5} {s : State} (hg : s.guardOn g = true) (hn : writable n = true)
    (hb : s.barred n = false) (h3 : n ≠ 0x083) :
    execSwr g n a s = .next (s.push (scalarResult s 0 1 (some .special) n.toNat (s.core.r.readA a) .none)) := by
  rw [execSwr, guarded_of_true hg, if_neg (by simp [hn]), if_neg (by simp [hb]), if_neg h3]
  rfl

/-! ## What a write lands -/

/-- The flags of the present cycle are noted, none of them new. -/
theorem Core.setFlags_zero (c : Core) : c.setFlags 0 = { c with
    flagAt := c.cyc + 1, flagNew := if c.flagAt = c.cyc + 1 then c.flagNew else 0 } := by
  simp [Core.setFlags]

/-- A write of a special register lands in the registers, and in `fstat` or the trigger of snapshots. -/
theorem Core.landOne_special {c : Core} {l : Landing} (hf : l.file = some .special) (hg : l.flg = 0) (hb : l.bad = none)
    (hl : l.latch = .none) : c.landOne l =
      (if l.dst = 0x41 then Core.clearFlags { c.setFlags 0 with r := c.r.write .special l.dst l.val l.sel } (bitsAt l.val 0 9)
       else if l.dst = 0xC0 ∧ bitAt l.val 7 then { c.setFlags 0 with r := c.r.write .special l.dst l.val l.sel, snapTrg := false }
       else { c.setFlags 0 with r := c.r.write .special l.dst l.val l.sel }) := by
  have hlat : c.lat.take l.latch l.lval l.lsel = c.lat := by rw [hl]; rfl
  have hlate : c.raiseLate l.bad = c.lateDue := by rw [hb]; rfl
  simp only [Core.landOne, hf, hg, hlat, hlate, true_and]
  rfl

theorem Regs.write_fmode (r : Regs) (x y : Line) : r.write .special 0x40 x y = { r with fmode := bitsAt x 0 2 } := rfl

theorem Regs.write_fstat (r : Regs) (x y : Line) : r.write .special 0x41 x y = r := rfl

theorem Regs.write_snapc (r : Regs) (x y : Line) :
    r.write .special 0xC0 x y = { r with eflt := bitAt x 2, esnap := bitAt x 1 } := rfl

theorem Regs.write_preb (r : Regs) (x y : Line) : r.write .special 0x100 x y = { r with preb := bitsAt x 0 32 } := rfl

/-- The numbers of the limits of the receive queues. -/
theorem limitsNumber_toNat (i : Fin 32) : (BitVec.ofNat 10 (0x120 + i.val)).toNat = 0x120 + i.val := by
  rw [BitVec.toNat_ofNat]
  omega

/-- They are past those of every other register. -/
theorem limitsNumber_ne (i : Fin 32) {n : BitVec 10} (hn : n.toNat < 0x120) : BitVec.ofNat 10 (0x120 + i.val) ≠ n := by
  rintro rfl
  rw [limitsNumber_toNat] at hn
  omega

theorem Regs.write_limits (r : Regs) (i : Fin 32) (x y : Line) : r.write .special (BitVec.ofNat 10 (0x120 + i.val)) x y
    = { r with qcap := r.qcap.set i.val (bitsAt x 16 10), qmin := r.qmin.set i.val (bitsAt x 0 10) } := by
  have hi := i.isLt
  unfold Regs.write
  simp only [limitsNumber_toNat]
  rw [if_neg (by omega), if_neg (by omega), if_neg (by omega), if_pos (by omega)]
  simp [Vector.setIfInBounds, Vector.set, Array.setIfInBounds]

/-- Flags of the present cycle stay when `fstat` is written in it (00 R10). -/
theorem Core.clearFlags_same_cycle {c : Core} (h : c.flagAt = c.cyc + 1) (f : BitVec 9) :
    c.clearFlags f = { c with fstat := c.fstat &&& ~~~(f &&& ~~~c.flagNew) } := by
  rw [Core.clearFlags, if_pos h]

/-- Settles O50: each clause is the lemma above of its case, and a number is barred when it is privileged and the core is not. -/
theorem specialRegisters : Obligations.SpecialRegisters := by
  refine ⟨fun g n a s hg => ?_, fun s => ?_, fun n => ⟨readable_iff n, writable_iff n⟩, fun c l hf hfl hbad hlat => ?_⟩
  · dsimp only
    rw [← s.barred_iff n, Bool.not_eq_true]
    refine ⟨execSrd_illegal hg, execSwr_illegal hg, execSrd_barred hg, execSwr_barred hg, fun hn hb => ?_, fun hn hb => ⟨?_, ?_⟩⟩
    · have sends := fun {x : Nat} {u : State} => execSrd_sends (a := a) (x := x) (u := u) hg hn hb
      refine ⟨fun h2 h3 => sends (s.readSpecial_plain h2 h3), ?_, ?_, ?_, ?_⟩
      · rintro rfl hfab
        exact sends (State.readSpecial_wheel hfab)
      · rintro rfl
        exact ⟨_, _, sends rfl, s.readSpecial_wheel_core⟩
      · rintro rfl
        exact ⟨_, _, sends rfl, s.readSpecial_ovrc⟩
      · rintro rfl hm hnew
        exact sends (State.readSpecial_ovrc_alone hm hnew)
    · rintro rfl
      exact execSwr_ovrc hg
    · exact execSwr_sends hg hn hb
  · refine ⟨rfl, rfl, rfl, rfl, rfl, rfl, rfl, rfl, rfl, rfl, rfl, rfl, ?_, ?_, s.special_tileHigh, s.special_limits, s.special_violation,
      s.special_tileLow⟩
    · simp [State.special, b2n]
    · simp [State.special, b2n]
  · have hland := Core.landOne_special (c := c) hf hfl hbad hlat
    dsimp only
    refine ⟨fun hd => ?_, fun hd => ?_, fun hd => ?_, fun hd => ?_, fun i hd => ?_⟩
    · rw [hland, hd, Regs.write_fmode, Core.setFlags_zero]
      rfl
    · rw [hland, hd, Regs.write_fstat, if_pos rfl, Core.setFlags_zero]
      exact Core.clearFlags_same_cycle rfl _
    · rw [hland, hd, Regs.write_preb, Core.setFlags_zero]
      rfl
    · rw [hland, hd, Regs.write_snapc, Core.setFlags_zero]
      cases h7 : bitAt l.val 7 <;> simp
    · rw [hland, hd, Regs.write_limits, if_neg (limitsNumber_ne i (by decide)),
        if_neg fun h => limitsNumber_ne i (by decide) h.1, Core.setFlags_zero]

end Sys2Proof.Machine
end

section
/-! SUPPORT. The end of a web cycle in which a mill core has written an entry (05 R103, R104): the entries that it does not write, when
the driver has cleared counters in the same cycle. -/

namespace Sys2Proof.Machine

/-! ## Clearing counters -/

theorem noAcc_acc (e : BitVec 128) : bitsAt (noAcc e) 97 16 = 0 := by
  have he := e.isLt
  refine BitVec.eq_of_toNat_eq (Eq.trans ?_ (rfl : 0 = (0 : BitVec 16).toNat))
  simp only [noAcc, bitsAt, BitVec.toNat_ofNat]
  omega

/-- Clearing a counter again changes nothing. -/
@[simp] theorem noAcc_noAcc (e : BitVec 128) : noAcc (noAcc e) = noAcc e := by
  rw [noAcc, noAcc_acc]
  simp

/-- ACC of an entry of the core's table cleared, as the end of a web cycle does for each entry that the driver has scanned in it. -/
def State.clearAcc (s : State) (k : BitVec 10) : State := { s with core := s.core.setEntry k (noAcc (s.core.entry k)) }

theorem State.clearAcc_okAbove {s : State} (h : Tab.okAbove (0 : BitVec 128) 0 s.core.xlat = true) (k : BitVec 10) :
    Tab.okAbove (0 : BitVec 128) 0 (s.clearAcc k).core.xlat = true :=
  Tab.put_okAbove h (Nat.zero_le _)

theorem State.clearAcc_get {s : State} (h : Tab.okAbove (0 : BitVec 128) 0 s.core.xlat = true) (k : BitVec 10) (n : Nat) :
    Tab.get 0 (s.clearAcc k).core.xlat n = if n = k.toNat then noAcc (Tab.get 0 s.core.xlat n) else Tab.get 0 s.core.xlat n := by
  refine (Tab.get_put h).trans ?_
  split
  · next hn => rw [hn, Core.entry]
  · rfl

@[simp] theorem State.foldl_clearAcc_dev : ∀ (ks : List (BitVec 10)) (s : State), (ks.foldl State.clearAcc s).dev = s.dev
  | [], _ => rfl
  | k :: ks, s => State.foldl_clearAcc_dev ks (s.clearAcc k)

theorem State.foldl_clearAcc_okAbove : ∀ (ks : List (BitVec 10)) {s : State}, Tab.okAbove (0 : BitVec 128) 0 s.core.xlat = true →
    Tab.okAbove (0 : BitVec 128) 0 (ks.foldl State.clearAcc s).core.xlat = true
  | [], _, h => h
  | k :: ks, _, h => State.foldl_clearAcc_okAbove ks (State.clearAcc_okAbove h k)

/-- Clearing the counters of several entries clears those, and no other entry changes. -/
theorem State.foldl_clearAcc_get (n : Nat) : ∀ (ks : List (BitVec 10)) {s : State}, Tab.okAbove (0 : BitVec 128) 0 s.core.xlat = true →
    Tab.get 0 (ks.foldl State.clearAcc s).core.xlat n
      = if n ∈ ks.map (·.toNat) then noAcc (Tab.get 0 s.core.xlat n) else Tab.get 0 s.core.xlat n
  | [], _, _ => rfl
  | k :: ks, s, h => by
    rw [List.foldl_cons, State.foldl_clearAcc_get n ks (State.clearAcc_okAbove h k), State.clearAcc_get h]
    by_cases hk : n = k.toNat <;> by_cases hks : n ∈ ks.map (·.toNat) <;> simp [hk, hks]

/-! ## The end of the web cycle -/

/-- Counters are cleared before the written entries are taken. -/
theorem State.takeEntries_xlat {s : State} (h : s.dev.xlatNew ≠ []) :
    s.takeEntries.core.xlat = (s.dev.xlatNew.foldl State.takeEntry (s.dev.accNew.foldl State.clearAcc s)).core.xlat := by
  have hw : ¬(s.dev.xlatNew.isEmpty ∧ s.dev.accNew.isEmpty) := by simp [h]
  have hnew : (s.dev.accNew.foldl State.clearAcc s).dev.xlatNew = s.dev.xlatNew := by rw [State.foldl_clearAcc_dev]
  rw [State.takeEntries, if_neg hw, ← hnew]
  dsimp only
  split <;> rfl

/-- An entry that no mill core has written loses ACC when the driver has scanned it in that web cycle, and else stays as it is. -/
theorem State.takeEntries_get_other {s : State} {ent : BitVec 10} {new : BitVec 128} (hx : s.dev.xlatNew = [(ent, new)])
    (h : Tab.okAbove (0 : BitVec 128) 0 s.core.xlat = true) {n : Nat} (hn : n ≠ ent.toNat) :
    Tab.get 0 s.takeEntries.core.xlat n
      = if n ∈ s.dev.accNew.map (·.toNat) then noAcc (Tab.get 0 s.core.xlat n) else Tab.get 0 s.core.xlat n := by
  rw [State.takeEntries_xlat (by simp [hx]), hx, ← State.foldl_clearAcc_get n s.dev.accNew h]
  exact (Tab.get_put (State.foldl_clearAcc_okAbove _ h)).trans (if_neg hn)

/-- A mill-core write of half an entry leaves the clearings of the web cycle to come. -/
theorem exec_translationEntryWrite_accNew {ent : BitVec 10} {hi : Bool} {dw : Word} {s t : State}
    (h : exec (.translationEntryWrite ent hi dw) s = .next t) : t.dev.accNew = s.dev.accNew := by
  cases hi <;> cases h <;> rfl

/-! ## An access counted in the web cycle of the scan -/

/-- A table whose entry 3 is valid and RESIDENT, with nothing counted in it. -/
def State.beforeScan : State :=
  { State.reset with core := State.reset.core.setEntry 3 (BitVec.ofNat 128 (2 ^ 127 + 2 ^ 3 + 3)) }

/-- What the scan of the access counters leaves of it. -/
def State.scanned : State := State.beforeScan.scanEntry [] 3

/-- An access through entry 3 is counted after the scan, before the web cycle ends. -/
def State.countedOver : State := { State.scanned with core := State.scanned.core.touch 3 false }

/-- The state comes of the model's own scan. -/
theorem exec_scan_beforeScan : exec (.accessCounterScan []) State.beforeScan = .next State.scanned := by
  rfl

theorem State.countedOver_entry : Tab.get 0 State.countedOver.core.xlat 3 = BitVec.ofNat 128 (2 ^ 127 + 2 ^ 97 + 2 ^ 3 + 3) := by
  decide +kernel

/-- Refutes O58: the first clause has every entry but the written one keep its value at the end of the web cycle, and an entry that the
driver has scanned in that cycle loses what an access has counted in ACC since (05 R103, 00 R10). -/
theorem not_driverAndMillCores : ¬ Obligations.DriverAndMillCores := by
  rintro ⟨writes, -⟩
  obtain ⟨t, v, _, ht, -, hv, hcore, -, -, -, others⟩ := writes State.countedOver 0 0 0 (by decide +kernel) (by decide +kernel)
  have cleared : v.dev.accNew = [3] := (exec_translationEntryWrite_accNew hv).trans (exec_translationEntryWrite_accNew ht)
  have entry3 := others 3 (by decide)
  rw [State.takeEntries_get_other rfl (hcore ▸ by decide +kernel) (by decide), hcore, cleared, State.countedOver_entry] at entry3
  exact absurd entry3 (by decide +kernel)

end Sys2Proof.Machine
end

section
/-! SUPPORT. Elements of numbers and of words (03 R59, 11 R194): what one of them is when the number is put together of elements, of bytes,
or read as bits. -/

namespace Sys2Proof.Machine

/-! ## Lists by place -/

theorem nth_eq_getD {α : Type} (d : α) : ∀ (l : List α) (i : Nat), nth d l i = l[i]?.getD d
  | [], _ => rfl
  | _ :: _, 0 => rfl
  | _ :: t, n + 1 => nth_eq_getD d t n

@[simp] theorem nth_map_range {α : Type} (d : α) (f : Nat → α) {i n : Nat} (h : i < n) :
    nth d ((List.range n).map f) i = f i := by
  simp [nth_eq_getD, h]

/-! ## Numbers from elements -/

theorem elemsNat_lt (w : Nat) (f : Nat → Nat) : ∀ n, elemsNat w f n < 2 ^ (w * n)
  | 0 => by simp [elemsNat]
  | n + 1 => by
    have ih := elemsNat_lt w f n
    have digit : f n % 2 ^ w + 1 ≤ 2 ^ w := Nat.mod_lt _ (Nat.two_pow_pos w)
    calc elemsNat w f (n + 1) < 2 ^ (w * n) + f n % 2 ^ w * 2 ^ (w * n) := Nat.add_lt_add_right ih _
      _ = (f n % 2 ^ w + 1) * 2 ^ (w * n) := by ring
      _ ≤ 2 ^ w * 2 ^ (w * n) := Nat.mul_le_mul_right _ digit
      _ = 2 ^ (w * (n + 1)) := by rw [← Nat.pow_add]; congr 1; ring

/-- Element i of a number that elements make, before it is cut to its width. -/
theorem elemsNat_elem (w : Nat) (f : Nat → Nat) {i : Nat} : ∀ {n}, i < n → elemsNat w f n / 2 ^ (w * i) % 2 ^ w = f i % 2 ^ w
  | 0, h => absurd h (Nat.not_lt_zero i)
  | n + 1, h => by
    rw [elemsNat]
    rcases Nat.lt_succ_iff_lt_or_eq.mp h with hlt | rfl
    · have hsplit : 2 ^ (w * n) = 2 ^ (w * i) * (2 ^ w * 2 ^ (w * (n - i - 1))) := by
        rw [← Nat.pow_add, ← Nat.pow_add]
        congr 1
        obtain ⟨k, rfl⟩ := Nat.exists_eq_add_of_lt hlt
        rw [show i + k + 1 - i - 1 = k by omega]
        ring
      rw [hsplit, Nat.mul_left_comm, Nat.add_mul_div_left _ _ (Nat.two_pow_pos _), Nat.mul_left_comm, Nat.add_mul_mod_self_left,
        elemsNat_elem w f hlt]
    · rw [Nat.add_mul_div_right _ _ (Nat.two_pow_pos _), Nat.div_eq_of_lt (elemsNat_lt w f i), Nat.zero_add, Nat.mod_mod]

theorem elemsNat_congr {w : Nat} {f g : Nat → Nat} : ∀ {n}, (∀ i, i < n → f i = g i) → elemsNat w f n = elemsNat w g n
  | 0, _ => rfl
  | n + 1, h => by
    rw [elemsNat, elemsNat, elemsNat_congr fun i hi => h i (Nat.lt_succ_of_lt hi), h n (Nat.lt_succ_self n)]

theorem elemsNat_zero (w : Nat) : ∀ n, elemsNat w (fun _ => 0) n = 0
  | 0 => rfl
  | n + 1 => by simp [elemsNat, elemsNat_zero w n]

/-! ## Elements of words -/

theorem elem_toNat {n : Nat} (x : BitVec n) (w i : Nat) : (elem x w i).toNat = x.toNat / 2 ^ (w * i) % 2 ^ w := by
  simp [elem]

/-- An element of a word that a number gives is the element of the number, if it lies in the word. -/
theorem elem_ofNat {n w i : Nat} (x : Nat) (h : w * (i + 1) ≤ n) :
    elem (BitVec.ofNat n x) w i = BitVec.ofNat w (x / 2 ^ (w * i)) := by
  refine BitVec.eq_of_toNat_eq ?_
  have hn : 2 ^ n = 2 ^ (w * i) * (2 ^ w * 2 ^ (n - w * (i + 1))) := by
    rw [← Nat.pow_add, ← Nat.pow_add]
    congr 1
    rw [Nat.mul_succ] at h ⊢
    omega
  rw [elem_toNat, BitVec.toNat_ofNat, BitVec.toNat_ofNat, hn, Nat.mod_mul_right_div_self, Nat.mod_mul_right_mod]

theorem elem_ofNat_elemsNat {n w i k : Nat} (f : Nat → Nat) (hi : i < k) (hk : w * k ≤ n) :
    elem (BitVec.ofNat n (elemsNat w f k)) w i = BitVec.ofNat w (f i) := by
  rw [elem_ofNat _ (Nat.le_trans (Nat.mul_le_mul_left w hi) hk)]
  refine BitVec.eq_of_toNat_eq ?_
  rw [BitVec.toNat_ofNat, BitVec.toNat_ofNat, elemsNat_elem w f hi]

theorem lane_ofLanes (f : Nat → Lane32) {i : Nat} (h : i < 32) : lane (ofLanes f) i = f i := by
  rw [lane, ofLanes, elem_ofNat_elemsNat _ h (by decide), BitVec.ofNat_toNat, BitVec.setWidth_eq]

theorem ofLanes_zero : ofLanes (fun _ => 0) = 0 :=
  congrArg (BitVec.ofNat 1024) (elemsNat_zero 32 32)

theorem lane_laneSel (p : Nat → Bool) {i : Nat} (h : i < 32) : lane (laneSel p) i = if p i then 0xFFFFFFFF else 0 :=
  lane_ofLanes _ h

end Sys2Proof.Machine
end

section
/-! SUPPORT. The registers at reset (11 R192 to R197). -/

namespace Sys2Proof.Machine

theorem Regs.launch_readV (n : BitVec 4) : Regs.launch.readV n = 0 := by
  simp [Regs.readV, Regs.launch]

theorem Regs.launch_readSt (n : BitVec 4) : Regs.launch.readSt n = 0 := by
  simp [Regs.readSt, Regs.launch]

theorem Regs.launch_readPlane (spec : BitVec 10) : Regs.launch.readPlane spec = 0 := ofLanes_zero

/-- Settles O5: `State.reset` names every value; those of 32 registers and more are the lemmas above or a finite check. -/
theorem resetValues : Obligations.ResetValues := by
  refine ⟨by decide, fun n => ⟨Regs.launch_readV n, Regs.launch_readSt n⟩, by decide, by decide, Regs.launch_readPlane, ?_⟩
  refine ⟨by decide, by decide, by decide, rfl, rfl, rfl, rfl, rfl, rfl, rfl, by decide, rfl, by decide, rfl, rfl, rfl, rfl, ?_⟩
  exact ⟨by decide, rfl, rfl, by decide, rfl, by decide, by decide⟩

end Sys2Proof.Machine
end

section
/-! SUPPORT. BIN sets (04 R82 to R84): their sum, and the fold of one into FP32. -/

namespace Sys2Proof.Machine

/-! ## Bits of a word -/

theorem bitAt_eq_testBit {w : Nat} (x : BitVec w) (i : Nat) : bitAt x i = x.toNat.testBit i := by
  rw [bitAt, Nat.testBit_eq_decide_div_mod_eq, Bool.beq_eq_decide_eq]

theorem bitAt_eq_getLsbD {w : Nat} (x : BitVec w) (i : Nat) : bitAt x i = x.getLsbD i := bitAt_eq_testBit x i

theorem bitsAt_getLsbD {w : Nat} (x : BitVec w) (lo n i : Nat) :
    (bitsAt x lo n).getLsbD i = (decide (i < n) && x.getLsbD (lo + i)) := by
  rw [bitsAt, BitVec.getLsbD_ofNat, Nat.testBit_div_two_pow, Nat.add_comm]
  rfl

/-! ## The sum of a set -/

/-- The exact sum of a set, bin by bin (04 R82). -/
theorem binSum_eq (set : BitVec 512) : binSum set =
    (elem set 64 0).toInt * 2 ^ 192 + (elem set 64 1).toInt * 2 ^ 160 + (elem set 64 2).toInt * 2 ^ 128
      + (elem set 64 3).toInt * 2 ^ 96 + (elem set 64 4).toInt * 2 ^ 64 + (elem set 64 5).toInt * 2 ^ 32 + (elem set 64 6).toInt := by
  rw [binSum, show List.range 7 = [0, 1, 2, 3, 4, 5, 6] from rfl]
  simp only [List.map, List.foldl, zero_add, Nat.sub_self, Nat.mul_zero, pow_zero, mul_one]

theorem binSum_congr {set other : BitVec 512} (h : ∀ b, b < 7 → elem other 64 b = (elem set 64 b : BitVec 64)) :
    binSum other = binSum set := by
  rw [binSum_eq, binSum_eq, h 0 (by decide), h 1 (by decide), h 2 (by decide), h 3 (by decide), h 4 (by decide), h 5 (by decide),
    h 6 (by decide)]

/-! ## The fold -/

/-- The fold, by the flags of word 7 (04 R84). -/
theorem binFold_eq (set : BitVec 512) (mode : Nat) : binFold set mode =
    (let w7 : BitVec 64 := elem set 64 7
     if bitAt w7 17 || bitAt w7 20 || (bitAt w7 18 && bitAt w7 19) then { v := 0x7FC00000, f := nvFlag }
     else if bitAt w7 18 then { v := 0x7F800000, f := 0 }
     else if bitAt w7 19 then { v := 0xFF800000, f := 0 }
     else if binSum set = 0 then { v := if bitAt w7 21 && !bitAt w7 22 then 0x80000000 else 0, f := 0 }
     else fp32.roundNum mode (decide (binSum set < 0)) (binSum set).natAbs ((bitsAt w7 0 16).toInt - 224)) := by
  have anchor : bitsAt (elem set 64 7) 0 16 = BitVec.ofNat 16 (binWord set 7) := by rw [bitsAt, Nat.pow_zero, Nat.div_one, binWord]
  simp only [anchor]
  rfl

/-- TRN does not matter for the fold. -/
theorem binFold_congr {set other : BitVec 512} (h : ∀ b, b < 7 → elem other 64 b = (elem set 64 b : BitVec 64))
    (h7 : (elem other 64 7 : BitVec 64) ||| 0x10000 = elem set 64 7 ||| 0x10000) (mode : Nat) : binFold other mode = binFold set mode := by
  have bits : ∀ i, i ≠ 16 → (elem other 64 7).getLsbD i = (elem set 64 7).getLsbD i := by
    intro i hi
    have mask : (0x10000 : BitVec 64) = BitVec.twoPow 64 16 := rfl
    rw [mask] at h7
    simpa [hi.symm] using congrArg (·.getLsbD i) h7
  have anchor : (bitsAt (elem other 64 7) 0 16 : BitVec 16) = bitsAt (elem set 64 7) 0 16 := by
    refine BitVec.eq_of_getLsbD_eq fun i hi => ?_
    rw [bitsAt_getLsbD, bitsAt_getLsbD, bits _ (by omega)]
  simp only [binFold_eq, bitAt_eq_getLsbD, binSum_congr h, anchor, bits 17 (by decide), bits 18 (by decide), bits 19 (by decide),
    bits 20 (by decide), bits 21 (by decide), bits 22 (by decide)]

/-- Settles O45: the table of R84 is the fold written with the flags of word 7. -/
theorem binFoldTable : Obligations.BinFoldTable := by
  intro set mode
  dsimp only
  rw [← binSum_eq]
  refine ⟨fun hbad => ?_, fun hnan hbov => ⟨fun hp hn => ?_, fun hp hn => ?_, fun hp hn => ⟨fun hz => ?_, fun hz => ?_⟩⟩,
    fun other h h7 => binFold_congr h h7 mode, fun l rnd => ?_⟩
  · rw [binFold_eq, if_pos]
    simpa [or_assoc] using hbad
  · simp [binFold_eq, hnan, hbov, hp, hn]
  · simp [binFold_eq, hnan, hbov, hp, hn]
  · simp [binFold_eq, hnan, hbov, hp, hn, hz]
  · simp [binFold_eq, hnan, hbov, hp, hn, hz]
  · simp [LoadForm.fill]

end Sys2Proof.Machine
end

section
/-! SUPPORT. Tiles (15 R265, R276 to R281): what an element of a tile is after a write of the tile, and the instructions that read and
write tiles. -/

namespace Sys2Proof.Machine

/-! ## Tables put together -/

/-- A key that a table does not list reads as the default. -/
theorem Tab.get_of_unlisted {α : Type} {d : α} {n : Nat} : ∀ {t : Tab α}, (∀ p ∈ t, p.1 ≠ n) → Tab.get d t n = d
  | [], _ => rfl
  | (k, x) :: t, h => by
    rw [Tab.get, if_neg (h _ List.mem_cons_self)]
    exact Tab.get_of_unlisted fun p hp => h p (List.mem_cons_of_mem _ hp)

theorem Tab.get_append_right {α : Type} {d : α} {n : Nat} {b : Tab α} :
    ∀ {a : Tab α}, (∀ p ∈ a, p.1 ≠ n) → Tab.get d (a ++ b) n = Tab.get d b n
  | [], _ => rfl
  | (k, x) :: a, h => by
    rw [List.cons_append, Tab.get, if_neg (h _ List.mem_cons_self)]
    exact Tab.get_append_right fun p hp => h p (List.mem_cons_of_mem _ hp)

theorem Tab.get_append_left {α : Type} {d : α} {n : Nat} {b : Tab α} (h : ∀ p ∈ b, p.1 ≠ n) :
    ∀ a : Tab α, Tab.get d (a ++ b) n = Tab.get d a n
  | [] => Tab.get_of_unlisted h
  | (k, x) :: a => by rw [List.cons_append, Tab.get, Tab.get, Tab.get_append_left h a]

/-- Removing entries of other keys changes nothing for a key. -/
theorem Tab.get_filter {α : Type} {d : α} {n : Nat} {keep : Nat × α → Bool} (h : ∀ x, keep (n, x) = true) :
    ∀ t : Tab α, Tab.get d (t.filter keep) n = Tab.get d t n
  | [] => rfl
  | (k, x) :: t => by
    have ih := Tab.get_filter (d := d) h t
    by_cases hk : k = n
    · subst hk
      rw [List.filter_cons_of_pos (h x), Tab.get, Tab.get, if_pos rfl, if_pos rfl]
    · rw [Tab.get, if_neg hk, List.filter_cons]
      split
      · rw [Tab.get, if_neg hk, ih]
      · exact ih

/-- The entries that a function gives at some places, those equal to the default left out. -/
theorem Tab.get_filterMap {α : Type} [DecidableEq α] (d : α) (f : Nat → α) (base i : Nat) : ∀ l : List Nat,
    Tab.get d (l.filterMap fun j => if f j = d then none else some (base + j, f j)) (base + i) = if i ∈ l then f i else d
  | [] => rfl
  | j :: l => by
    have ih := Tab.get_filterMap d f base i l
    by_cases hj : f j = d
    · rw [List.filterMap_cons_none (by rw [if_pos hj]), ih]
      by_cases hij : i = j
      · subst hij
        simp [hj]
      · simp [hij]
    · rw [List.filterMap_cons_some (by rw [if_neg hj]), Tab.get, ih]
      by_cases hij : i = j
      · simp [hij]
      · simp [hij, Ne.symm hij]

/-! ## Elements of a tile -/

/-- A written tile has the elements that the function gives; the other tile keeps its own. -/
theorem Matrix.setTile_el (m : Matrix) (t o : BitVec 1) (f : Nat → Exa) {i : Nat} (hi : i < 1024) :
    (m.setTile t f).el o i = if o = t then f i else m.el o i := by
  have key : ∀ u : BitVec 1, (1024 * u.toNat + i) / 1024 = u.toNat := fun u => by omega
  by_cases hot : o = t
  · subst hot
    have kept : ∀ p ∈ m.tile.filter fun k => k.1 / 1024 != o.toNat, p.1 ≠ 1024 * o.toNat + i := by
      intro p hp he
      have := (List.mem_filter.mp hp).2
      rw [he, key o] at this
      simp at this
    have new := Tab.get_filterMap Exa.zero f (1024 * o.toNat) i (List.range 1024)
    rw [if_pos (List.mem_range.mpr hi)] at new
    rw [if_pos rfl, ← new, Matrix.el, Matrix.setTile]
    dsimp only
    split
    · exact Tab.get_append_left kept _
    · rw [new, Tab.get_append_right kept, ← new]
  · have hne : o.toNat ≠ t.toNat := fun h => hot (BitVec.eq_of_toNat_eq h)
    have new : ∀ p ∈ (List.range 1024).filterMap (fun j => if f j = Exa.zero then none else some (1024 * t.toNat + j, f j)),
        p.1 ≠ 1024 * o.toNat + i := by
      intro p hp he
      obtain ⟨j, hj, hsome⟩ := List.mem_filterMap.mp hp
      rw [List.mem_range] at hj
      split at hsome
      · cases hsome
      · cases hsome
        dsimp only at he
        omega
    have kept : Tab.get Exa.zero (m.tile.filter fun k => k.1 / 1024 != t.toNat) (1024 * o.toNat + i) = m.el o i := by
      refine Tab.get_filter (fun x => ?_) _
      simp [key o, hne]
    rw [if_neg hot, ← kept, Matrix.el, Matrix.setTile]
    dsimp only
    split
    · exact Tab.get_append_right new
    · exact Tab.get_append_left new _

/-! ## Landings of tile writes -/

/-- No write touches the other tile. -/
theorem Matrix.landWrite_el_other (m : Matrix) (d : Nat) {t o : BitVec 1} (op : TileOp) {i : Nat} (h : o ≠ t) (hi : i < 1024) :
    (m.landWrite { due := d, tile := t, op := op }).el o i = m.el o i := by
  have other : ∀ f, (m.setTile t f).el o i = m.el o i := fun f => by rw [Matrix.setTile_el m t o f hi, if_neg h]
  cases op with
  | clear a => cases a <;> exact other _
  | chunk row c data =>
    dsimp only [Matrix.landWrite]
    split <;> exact other _

/-- A chunk of elements, which a tile write lands in its row (15 R280). -/
theorem Matrix.landWrite_chunk (m : Matrix) (d : Nat) (t : BitVec 1) (row : BitVec 5) {c : BitVec 4} (x : Line) (hc : c.toNat < 8) :
    m.landWrite { due := d, tile := t, op := .chunk row c x } = m.setTile t fun i =>
      if 32 * row.toNat + 4 * c.toNat ≤ i ∧ i < 32 * row.toNat + 4 * c.toNat + 4 then
        let v := elem x 256 (i - (32 * row.toNat + 4 * c.toNat))
        { v := v, tag := if v = quirePoison then 1 else (m.el t i).tag }
      else m.el t i := by
  dsimp only [Matrix.landWrite]
  rw [if_pos hc]

/-- The tags of a row and the anchor, which the last chunk holds (15 R280). -/
theorem Matrix.landWrite_tags (m : Matrix) (d : Nat) (t : BitVec 1) (row : BitVec 5) (x : Line) :
    m.landWrite { due := d, tile := t, op := .chunk row 8 x } =
      { m.setTile t fun i =>
          if 32 * row.toNat ≤ i ∧ i < 32 * row.toNat + 32 then
            { m.el t i with tag := storedTag (elem x 2 (i - 32 * row.toNat)) }
          else m.el t i with
        anchor := m.anchor.set t.toNat (bitsAt x 64 16) } := rfl

theorem eq_quirePoison_iff {v : BitVec 256} : v = quirePoison ↔ v.toNat = 2 ^ 255 :=
  ⟨fun h => h ▸ rfl, fun h => BitVec.eq_of_toNat_eq h⟩

/-! ## Chunks as MRDX reads them -/

/-- A chunk of four elements. -/
theorem Matrix.readChunk_elem (m : Matrix) (t : BitVec 1) (row : BitVec 5) {c : BitVec 4} (hc : c.toNat < 8) {e : Nat} (he : e < 4) :
    elem (m.readChunk t row c) 256 e = (m.el t (32 * row.toNat + (4 * c.toNat + e))).v := by
  rw [Matrix.readChunk, if_pos hc, ofElems, elem_ofNat_elemsNat _ he (by decide), BitVec.ofNat_toNat, BitVec.setWidth_eq,
    Nat.add_assoc]

/-- The chunk of the tags and the anchor, as a number. -/
theorem Matrix.readChunk_tags (m : Matrix) (t : BitVec 1) (row : BitVec 5) : ∃ n, n < 2 ^ 64 ∧
    m.readChunk t row 8 = BitVec.ofNat 1024 (n + (m.anchor[t.toNat]).toNat * 2 ^ 64)
      ∧ ∀ k, k < 32 → n / 2 ^ (2 * k) % 2 ^ 2 = (m.el t (32 * row.toNat + k)).tag.toNat := by
  refine ⟨_, elemsNat_lt 2 _ 32, rfl, fun k hk => ?_⟩
  rw [elemsNat_elem 2 _ hk]
  exact Nat.mod_eq_of_lt (BitVec.isLt _)

/-! ## Instructions of tiles -/

/-- An instruction of a tile holds while something is in flight to it. -/
theorem tileGuard_busy {g : BitVec 4} {t : BitVec 1} {s : State} (hg : s.guardOn g = true) (hb : s.core.mx.busy t = true)
    (k : State → Out) : tileGuard g t k s = .next (s.hold .busyBit) := by
  rw [tileGuard, guarded_of_true hg, if_pos hb]

theorem tileGuard_free {g : BitVec 4} {t : BitVec 1} {s : State} (hg : s.guardOn g = true) (hb : s.core.mx.busy t = false)
    (k : State → Out) : tileGuard g t k s = k s := by
  rw [tileGuard, guarded_of_true hg, if_neg (by simp [hb])]

/-- A lane of a row that MRD reads. -/
theorem lane_ofElems (f : Nat → Flagged) {n : Nat} (h : n < 32) :
    lane (ofElems 32 32 fun i => (nth (quiet 0) ((List.range 32).map f) i).v) n = (f n).lane := by
  rw [lane, ofElems, elem_ofNat_elemsNat _ h (by decide), nth_map_range _ _ h, Flagged.lane]

end Sys2Proof.Machine
end

section
/-! SUPPORT. The six tile instructions, put together (15 R276 to R281). -/

namespace Sys2Proof.Machine

/-- The last chunk holds the tags of the row, two bits each, the anchor above them, and zeros (15 R280). -/
theorem Matrix.readChunk_last (m : Matrix) (t : BitVec 1) (row : BitVec 5) :
    (∀ n, n < 32 → elem (m.readChunk t row 8) 2 n = (m.el t (32 * row.toNat + n)).tag)
      ∧ bitsAt (m.readChunk t row 8) 64 16 = m.anchor[t.toNat] ∧ (bitsAt (m.readChunk t row 8) 80 944 : BitVec 944) = 0 := by
  obtain ⟨n, hn, hread, htag⟩ := m.readChunk_tags t row
  have ha := (m.anchor[t.toNat]).isLt
  have hval : (m.readChunk t row 8).toNat = n + (m.anchor[t.toNat]).toNat * 2 ^ 64 := by
    rw [hread, BitVec.toNat_ofNat]
    exact Nat.mod_eq_of_lt (by omega)
  refine ⟨fun k hk => BitVec.eq_of_toNat_eq ?_, BitVec.eq_of_toNat_eq ?_, congrArg (BitVec.ofNat 944) ?_⟩
  · have split : 2 ^ 64 = 2 ^ (2 * k) * (2 ^ 2 * 2 ^ (62 - 2 * k)) := by
      rw [← Nat.pow_add, ← Nat.pow_add]
      congr 1
      omega
    rw [elem_toNat, hval, ← htag k hk, split, Nat.mul_left_comm, Nat.add_mul_div_left _ _ (Nat.two_pow_pos _), Nat.mul_left_comm,
      Nat.add_mul_mod_self_left]
  · rw [bitsAt, hval, BitVec.toNat_ofNat]
    omega
  · rw [hval]
    exact Nat.div_eq_of_lt (by omega)

/-- The meanings of the six instructions. -/
theorem exec_tile (g : BitVec 4) (t : BitVec 1) (r : BitVec 5) (s : State) :
    (∀ ln f e, exec (.mrd g t r ln f e) s = execMrd g t r ln f e s) ∧ (∀ v c, exec (.mrdx g t r v c) s = execMrdx g t r v c s)
      ∧ (∀ v c, exec (.mwrx g t r v c) s = execMwrx g t r v c s) ∧ exec (.mclr g t) s = execMclr g t s
      ∧ (∀ a, exec (.manc g t a) s = execManc g t a s) ∧ ∀ bias, exec (.msc g bias) s = execMsc g bias s :=
  ⟨fun _ _ _ => rfl, fun _ _ => rfl, fun _ _ => rfl, rfl, fun _ => rfl, fun _ => rfl⟩

/-- Settles O37: a busy tile holds its instructions, a free one is read or takes a write in flight, and a landing write gives the tile by
a function of its places. -/
theorem tileInstructions : Obligations.TileInstructions := by
  refine ⟨fun g t r s hg => ?_, fun m d t => ?_⟩
  · obtain ⟨hmrd, hmrdx, hmwrx, hmclr, hmanc, hmsc⟩ := exec_tile g t r s
    simp only [hmrd, hmrdx, hmwrx, hmclr, hmanc, hmsc]
    refine ⟨fun hb => ?_, fun hb => ?_, fun bias => guarded_of_true hg _⟩
    · have held := tileGuard_busy hg hb
      exact ⟨fun _ _ _ => held _, fun _ _ => ⟨held _, held _⟩, held _, fun _ => held _⟩
    · have acts := tileGuard_free hg hb
      refine ⟨fun ln f e => ⟨_, acts _, rfl, rfl, rfl, rfl, rfl, rfl, fun n hn => lane_ofElems _ hn, ?_⟩,
        fun v c => ⟨⟨_, acts _, rfl, rfl, rfl, rfl, rfl, rfl, rfl, ?_, ?_⟩, acts _⟩, acts _, fun a => acts _⟩
      · exact congrArg orFlags List.map_map
      · exact fun hc k hk => Matrix.readChunk_elem _ t r hc hk
      · rintro rfl
        exact Matrix.readChunk_last _ t r
  · refine ⟨fun i hi => ?_, rfl, fun a => rfl, fun op o i ho hi => m.landWrite_el_other d op ho hi, fun r c x i hi => ⟨fun hc => ?_, ?_⟩⟩
    · exact (Matrix.setTile_el m t t _ hi).trans (if_pos rfl)
    · rw [Matrix.landWrite_chunk m d t r x hc]
      refine ⟨rfl, ?_⟩
      rw [Matrix.setTile_el m t t _ hi, if_pos rfl]
      simp only [eq_quirePoison_iff]
    · rintro rfl
      rw [Matrix.landWrite_tags]
      exact ⟨rfl, (Matrix.setTile_el m t t _ hi).trans (if_pos rfl)⟩

end Sys2Proof.Machine
end

section
/-! SUPPORT. The residue form (04 R72 to R74): reverse conversion undoes forward conversion, and the channels of a block of products are
those of the exact sum. -/

namespace Sys2Proof.Machine

/-! ## Channels -/

/-- The channels are the least non-negative residues. -/
theorem Residue.ofInt_channels (x : Int) :
    ((Residue.ofInt x).c255 : Int) = x % 255 ∧ ((Residue.ofInt x).c256 : Int) = x % 256 ∧ ((Residue.ofInt x).c257 : Int) = x % 257 := by
  simp only [Residue.ofInt]
  omega

/-- What each channel says of an integer says it modulo the product of the moduli, which have no common factor (04 R72). -/
theorem emod_of_channels {x y : Int} (h255 : y % 255 = x % 255) (h256 : y % 256 = x % 256) (h257 : y % 257 = x % 257) :
    y % 16776960 = x % 16776960 := by
  have h : y ≡ x [ZMOD 255 * 256] := (Int.modEq_and_modEq_iff_modEq_mul (by decide)).mp ⟨h255, h256⟩
  exact (Int.modEq_and_modEq_iff_modEq_mul (m := 255 * 256) (n := 257) (by decide)).mp ⟨h, h257⟩

/-- The number that the mixed-radix digits of R74 make has the residues of the channels. -/
theorem Residue.ofInt_digits (x : Int) :
    let r := Residue.ofInt x
    let a1 : Int := r.c256
    let a2 := ((r.c255 : Int) - a1) % 255
    let a3 := (((r.c257 : Int) - a1) * 256 - a2) * 128 % 257
    let v := a1 + 256 * a2 + 65280 * a3
    0 ≤ v ∧ v < 16776960 ∧ v % 16776960 = x % 16776960 := by
  obtain ⟨h255, h256, h257⟩ := Residue.ofInt_channels x
  dsimp only
  rw [h255, h256, h257]
  refine ⟨by omega, by omega, emod_of_channels ?_ ?_ ?_⟩ <;> omega

theorem Residue.value_ofInt_emod (x : Int) : (Residue.ofInt x).value % 16776960 = x % 16776960 := by
  have h := Residue.ofInt_digits x
  simp only [Residue.value]
  dsimp only at h
  split <;> omega

theorem Residue.value_ofInt_range (x : Int) : -8388480 ≤ (Residue.ofInt x).value ∧ (Residue.ofInt x).value ≤ 8388479 := by
  have h := Residue.ofInt_digits x
  simp only [Residue.value]
  dsimp only at h
  split <;> omega

/-- An integer of the range of R72 comes back. -/
theorem Residue.value_ofInt {x : Int} (lo : -8388480 ≤ x) (hi : x ≤ 8388479) : (Residue.ofInt x).value = x := by
  have hmod := Residue.value_ofInt_emod x
  have hrange := Residue.value_ofInt_range x
  omega

/-- The channels in the residue word (04 R72). -/
theorem Residue.ofInt_word (x : Int) :
    let r := Residue.ofInt x
    r.word / 2 ^ 27 = 0 ∧ r.word / 2 ^ 18 % 2 ^ 9 = r.c257 ∧ r.word / 2 ^ 9 % 2 ^ 9 = r.c256 ∧ r.word % 2 ^ 9 = r.c255 := by
  have h255 : (x % 255).toNat < 255 := by omega
  have h256 : (x % 256).toNat < 256 := by omega
  have h257 : (x % 257).toNat < 257 := by omega
  simp only [Residue.word, Residue.ofInt]
  generalize (x % 255).toNat = a at *
  generalize (x % 256).toNat = b at *
  generalize (x % 257).toNat = c at *
  omega

/-! ## Arithmetic -/

theorem Residue.add_ofInt (x y : Int) : Residue.add (.ofInt x) (.ofInt y) = .ofInt (x + y) := by
  simp only [Residue.add, Residue.ofInt, Residue.mk.injEq]
  omega

/-- One channel of a product. -/
theorem toNat_emod_mul (x y : Int) {m : Int} (hm : 0 < m) :
    (x % m).toNat * (y % m).toNat % m.toNat = (x * y % m).toNat := by
  have hne : m ≠ 0 := by omega
  rw [← Int.toNat_mul (Int.emod_nonneg _ hne) (Int.emod_nonneg _ hne),
    ← Int.toNat_emod (Int.mul_nonneg (Int.emod_nonneg _ hne) (Int.emod_nonneg _ hne)) hm.le, ← Int.mul_emod]

theorem Residue.mul_ofInt (x y : Int) : Residue.mul (.ofInt x) (.ofInt y) = .ofInt (x * y) := by
  simp only [Residue.mul, Residue.ofInt, Residue.mk.injEq]
  exact ⟨toNat_emod_mul x y (m := 255) (by decide), toNat_emod_mul x y (m := 256) (by decide), toNat_emod_mul x y (m := 257) (by decide)⟩

/-! ## Blocks of products -/

/-- The channels of a block are those of the sum of its products (04 R73). -/
theorem residueDot_eq : ∀ a b : List Lane32,
    residueDot a b = .ofInt (List.zipWith (fun x y => x.toInt * y.toInt) a b).sum
  | [], _ => rfl
  | _ :: _, [] => rfl
  | x :: a, y :: b => by
    rw [residueDot, residueDot_eq a b, Residue.mul_ofInt, Residue.add_ofInt, List.zipWith_cons_cons, List.sum_cons]

/-- A sum of products of elements of magnitude at most q. -/
theorem abs_sum_products_le {q : Int} : ∀ {a b : List Lane32},
    (∀ x ∈ a, -q ≤ x.toInt ∧ x.toInt < q) → (∀ x ∈ b, -q ≤ x.toInt ∧ x.toInt < q) →
      |(List.zipWith (fun x y => x.toInt * y.toInt) a b).sum| ≤ a.length * (q * q)
  | [], _, _, _ => by simp
  | x :: a, [], _, _ => by
    simp only [List.zipWith_nil_right, List.sum_nil, abs_zero]
    exact mul_nonneg (Int.natCast_nonneg _) (mul_self_nonneg q)
  | x :: a, y :: b, ha, hb => by
    obtain ⟨hx, ha⟩ := List.forall_mem_cons.mp ha
    obtain ⟨hy, hb⟩ := List.forall_mem_cons.mp hb
    have ih := abs_sum_products_le ha hb
    have hprod : |x.toInt * y.toInt| ≤ q * q := by
      rw [abs_mul]
      exact mul_le_mul (abs_le.mpr ⟨hx.1, hx.2.le⟩) (abs_le.mpr ⟨hy.1, hy.2.le⟩) (abs_nonneg _) (by omega)
    rw [List.zipWith_cons_cons, List.sum_cons, List.length_cons]
    calc |x.toInt * y.toInt + (List.zipWith (fun x y => x.toInt * y.toInt) a b).sum|
        ≤ |x.toInt * y.toInt| + |(List.zipWith (fun x y => x.toInt * y.toInt) a b).sum| := abs_add_le _ _
      _ ≤ q * q + a.length * (q * q) := add_le_add hprod ih
      _ = ((a.length + 1 : Nat) : Int) * (q * q) := by push_cast; ring

/-- Settles O32: the digits of R74 have the residues of the channels, channels follow sums and products, and the sum of a block lies in the
range. -/
theorem residueFormIsExact : Obligations.ResidueFormIsExact := by
  refine ⟨fun x => ?_, fun x y => ⟨Residue.add_ofInt x y, Residue.mul_ofInt x y⟩, fun q a b hq hla _ ha hb => ?_⟩
  · obtain ⟨h255, h256, h257⟩ := Residue.ofInt_channels x
    obtain ⟨hhigh, w257, w256, w255⟩ := Residue.ofInt_word x
    exact ⟨h255, h256, h257, hhigh, w257, w256, w255, rfl, Residue.value_ofInt_emod x, (Residue.value_ofInt_range x).1,
      (Residue.value_ofInt_range x).2, Residue.value_ofInt⟩
  · have hsum := abs_sum_products_le ha hb
    have hbound : |(List.zipWith (fun x y => x.toInt * y.toInt) a b).sum| ≤ if q = 8 then 2048 else 524288 := by
      rw [hla] at hsum
      rcases hq with rfl | rfl <;> exact hsum
    have hrange : |(List.zipWith (fun x y => x.toInt * y.toInt) a b).sum| ≤ 524288 := hbound.trans (by split <;> decide)
    obtain ⟨lo, hi⟩ := abs_le.mp hrange
    refine ⟨?_, hbound⟩
    rw [residueDot_eq]
    exact Residue.value_ofInt (by omega) (by omega)

end Sys2Proof.Machine
end

section
/-! SUPPORT. Integers times powers of two (00 R11, 03 R59): their floors, which the shifts of the model give. -/

namespace Sys2Proof.Machine

/-! ## Powers of two -/

theorem two_zpow_pos (e : Int) : (0 : ℚ) < 2 ^ e := zpow_pos (by decide) e

theorem intCast_mul_zpow_of_nonneg (i : Int) {sh : Int} (h : 0 ≤ sh) : (i : ℚ) * 2 ^ sh = ((i * 2 ^ sh.toNat : Int) : ℚ) := by
  obtain ⟨n, rfl⟩ := Int.eq_ofNat_of_zero_le h
  simp

theorem intCast_mul_zpow_of_neg (i : Int) {sh : Int} (h : sh < 0) :
    (i : ℚ) * 2 ^ sh = (i : ℚ) / ((2 ^ (-sh).toNat : Nat) : ℚ) := by
  obtain ⟨n, hn⟩ := Int.eq_ofNat_of_zero_le (show 0 ≤ -sh by omega)
  obtain rfl : sh = -(n : Int) := by omega
  simp [zpow_neg, div_eq_mul_inv]

/-- A quotient of integers is a whole number exactly when nothing remains. -/
theorem floor_div_eq_iff (i : Int) {d : Nat} (hd : 0 < d) : ((⌊(i : ℚ) / (d : ℚ)⌋ : ℤ) : ℚ) = (i : ℚ) / (d : ℚ) ↔ i % d = 0 := by
  have hd' : (d : ℚ) ≠ 0 := by positivity
  rw [Rat.floor_intCast_div_natCast, eq_div_iff hd']
  norm_cast
  have := Int.ediv_mul_add_emod i d
  omega

/-! ## The floor of a shift (04 R79) -/

theorem floorShift_fst (i sh : Int) : (floorShift i sh).1 = ⌊(i : ℚ) * 2 ^ sh⌋ := by
  unfold floorShift
  split
  · next h => rw [intCast_mul_zpow_of_nonneg i h, Int.floor_intCast]
  · next h =>
    rw [intCast_mul_zpow_of_neg i (by omega), Rat.floor_intCast_div_natCast]
    push_cast
    rfl

/-- It discards something exactly when the value is no integer. -/
theorem floorShift_snd (i sh : Int) :
    (floorShift i sh).2 = true ↔ ((⌊(i : ℚ) * 2 ^ sh⌋ : ℤ) : ℚ) ≠ (i : ℚ) * 2 ^ sh := by
  unfold floorShift
  split
  · next h =>
    rw [intCast_mul_zpow_of_nonneg i h, Int.floor_intCast]
    simp
  · next h =>
    have whole := floor_div_eq_iff i (Nat.two_pow_pos (-sh).toNat)
    rw [intCast_mul_zpow_of_neg i (by omega)]
    push_cast at whole ⊢
    exact decide_eq_true_iff.trans (not_congr whole.symm)

end Sys2Proof.Machine
end

section
/-! SUPPORT. The exact accumulator (04 R78 to R80): contributions to an element, and its readout. -/

namespace Sys2Proof.Machine

/-! ## Contributions -/

/-- V keeps the low 256 bits of the sum. -/
theorem Exa.addInt_v (x : Exa) (n : Int) : (x.addInt n).v = x.v + BitVec.ofInt 256 n := by
  simp only [Exa.addInt, BitVec.ofInt_add, BitVec.ofInt_toInt]

/-- Inside the range V is the sum and the tag stays. -/
theorem Exa.addInt_inside {x : Exa} {n : Int} (lo : -(2 ^ 255) ≤ x.v.toInt + n) (hi : x.v.toInt + n < 2 ^ 255) :
    (x.addInt n).v.toInt = x.v.toInt + n ∧ (x.addInt n).tag = x.tag := by
  refine ⟨BitVec.toInt_ofInt_eq_self (by decide) lo hi, ?_⟩
  have hpast : (decide (x.v.toInt + n < -(2 ^ 255)) || decide (2 ^ 255 ≤ x.v.toInt + n)) = false := by
    simp only [Bool.or_eq_false_iff, decide_eq_false_iff_not, not_lt, not_le]
    exact ⟨lo, hi⟩
  simp only [Exa.addInt, hpast, Bool.false_and, Bool.false_eq_true, if_false]

/-- Outside it the tag becomes overflowed, unless it is invalid. -/
theorem Exa.addInt_outside {x : Exa} {n : Int} (h : ¬(-(2 ^ 255) ≤ x.v.toInt + n ∧ x.v.toInt + n < 2 ^ 255)) :
    (x.addInt n).tag = if x.tag = 1 then 1 else 2 := by
  have hpast : (decide (x.v.toInt + n < -(2 ^ 255)) || decide (2 ^ 255 ≤ x.v.toInt + n)) = true := by
    rw [Bool.or_eq_true, decide_eq_true_iff, decide_eq_true_iff]
    omega
  simp only [Exa.addInt, hpast, Bool.true_and, bne_iff_ne, ne_eq, ite_not]
  split
  · assumption
  · rfl

/-- A contribution in units of the element (04 R79). -/
theorem contribution_units (anchor i e : Int) : (i : ℚ) * 2 ^ e * 2 ^ (128 - anchor) = i * 2 ^ (e + 128 - anchor) := by
  rw [mul_assoc, ← zpow_add₀ (by decide), add_sub_assoc]

theorem Exa.addTerm_fst (anchor : Int) (x : Exa) (i e : Int) :
    (x.addTerm anchor i e).1 = x.addInt ⌊(i : ℚ) * 2 ^ e * 2 ^ (128 - anchor)⌋ := by
  rw [contribution_units, ← floorShift_fst]
  rfl

theorem Exa.addTerm_snd (anchor : Int) (x : Exa) (i e : Int) : (x.addTerm anchor i e).2 = true ↔
    ((⌊(i : ℚ) * 2 ^ e * 2 ^ (128 - anchor)⌋ : ℤ) : ℚ) ≠ (i : ℚ) * 2 ^ e * 2 ^ (128 - anchor) := by
  rw [contribution_units, ← floorShift_snd]
  rfl

/-- Contributions in either order leave the same V. -/
theorem Exa.addInt_comm_v (x : Exa) (m n : Int) : ((x.addInt m).addInt n).v = ((x.addInt n).addInt m).v := by
  simp only [Exa.addInt_v, BitVec.add_assoc, BitVec.add_comm (BitVec.ofInt 256 m)]

/-! ## Readout -/

/-- Any tag but that of a valid element reads as the NaN of the format, or 0 in I32, with NV. -/
theorem Exa.readout_invalid {x : Exa} (h : x.tag ≠ 0) (anchor : Int) (mode : Nat) :
    (∀ f, f < 3 → x.readout anchor f mode = { v := (fmtOf f).nan, f := nvFlag })
      ∧ x.readout anchor 3 mode = { v := 0, f := nvFlag } := by
  refine ⟨fun f hf => ?_, ?_⟩
  · rw [Exa.readout, if_neg (by omega), if_neg h]
  · rw [Exa.readout, if_pos rfl, if_neg h]

/-- A valid element is rounded once. -/
theorem Exa.readout_valid {x : Exa} (h : x.tag = 0) (anchor : Int) (mode : Nat) :
    (∀ f, f < 3 → x.readout anchor f mode = (fmtOf f).round mode (.ofInt x.v.toInt (anchor - 128) false))
      ∧ x.readout anchor 3 mode = toIntW mode 32 false (.ofInt x.v.toInt (anchor - 128) false) := by
  refine ⟨fun f hf => ?_, ?_⟩
  · rw [Exa.readout, if_neg (by omega), if_pos h]
  · rw [Exa.readout, if_pos rfl, if_pos h]

/-- Nothing rounds to nothing. -/
theorem roundUnits_zero (mode : Nat) (neg : Bool) (e q : Int) : roundUnits mode neg 0 e q = (0, false) := by
  have exact : roundsUp mode neg 0 0 (2 ^ (q - e).toNat) = false := by
    unfold roundsUp
    split <;> simp
  unfold roundUnits
  split
  · simp
  · simp [exact]

theorem toIntW_zero (mode : Nat) (neg : Bool) (e : Int) : toIntW mode 32 false (.num neg 0 e) = quiet 0 := by
  simp [toIntW, intRange, roundUnits_zero, signedMag, flagIf, quiet]

/-- Settles O33: a contribution is the addition of an integer, and a valid element reads as its value rounded. -/
theorem exactAccumulator : Obligations.ExactAccumulator := by
  refine ⟨fun anchor x i e => ?_, fun anchor x mode _ => ⟨fun h => Exa.readout_invalid h anchor mode, fun h hv => ?_, fun h hv => ?_⟩⟩
  · refine ⟨Exa.addTerm_snd anchor x i e, ?_⟩
    simp only [Exa.addTerm_fst]
    exact ⟨Exa.addInt_v x _, fun lo hi => Exa.addInt_inside lo hi, fun h => Exa.addInt_outside h, ⟨rfl, rfl⟩,
      fun j f => Exa.addInt_comm_v x _ _⟩
  · obtain ⟨float, int⟩ := Exa.readout_valid h anchor mode
    have hzero : Fp.ofInt x.v.toInt (anchor - 128) false = .num false 0 (anchor - 128) := by
      rw [hv]
      rfl
    rw [hzero] at float int
    intro f hf
    rcases Nat.lt_succ_iff_lt_or_eq.mp hf with hf | rfl
    · rw [float f hf]
      simp [Fmt.round, Fmt.signBit]
    · rw [int, toIntW_zero]
  · have hv' : x.v.toInt ≠ 0 := fun h0 => hv (BitVec.toInt_inj.mp h0)
    have hnum : Fp.ofInt x.v.toInt (anchor - 128) false = .num (decide (x.v.toInt < 0)) x.v.toInt.natAbs (anchor - 128) := by
      rw [Fp.ofInt, if_neg hv']
    obtain ⟨float, int⟩ := Exa.readout_valid h anchor mode
    rw [hnum] at float int
    refine ⟨fun f hf => (float f hf).trans ?_, int⟩
    rw [Fmt.round, if_neg (Int.natAbs_ne_zero.mpr hv')]

end Sys2Proof.Machine
end

section
/-! SUPPORT. Reductions and scans (13 R229 to R232, R249, R250, 04 R85): the lanes of a vector result, the lanes that take part, and the
root of the pairwise tree. -/

namespace Sys2Proof.Machine

/-! ## Widths -/

theorem lanesOfWidth_snd (z : BitVec 3) : (lanesOfWidth z).2 = lanesOf z := by
  revert z
  decide

theorem firstLane_add_lanesOf_le (z : BitVec 3) : firstLane z + lanesOf z ≤ 32 := by
  revert z
  decide

/-- A width holds a power of two of lanes, eight at least. -/
theorem lanesOf_eq_pow (z : BitVec 3) : lanesOf z = 2 ^ treeLevels z ∧ 3 ≤ treeLevels z := by
  revert z
  decide

theorem takesPart_iff {z : BitVec 3} {k : Lane32} {i : Nat} :
    takesPart z k i = true ↔ firstLane z ≤ i ∧ i < firstLane z + lanesOf z ∧ bitAt k i = true := by
  rw [takesPart, lanesOfWidth_snd, Bool.and_eq_true, decide_eq_true_iff, and_assoc]
  rfl

theorem bitAt_ones {i : Nat} (h : i < 32) : bitAt (0xFFFFFFFF : Lane32) i = true := by
  revert i
  decide

/-- The lanes that take part, in order, are those of the width whose bit is set (03 R40, R41). -/
theorem filter_takesPart (z : BitVec 3) (k : Lane32) : (List.range 32).filter (fun i => takesPart z k i) =
    ((List.range (lanesOf z)).map (firstLane z + ·)).filter (fun i => bitAt k i) := by
  have width : (List.range 32).filter (fun i => decide ((lanesOfWidth z).1 ≤ i ∧ i < (lanesOfWidth z).1 + (lanesOfWidth z).2)) =
      (List.range (lanesOf z)).map (firstLane z + ·) := by
    revert z
    decide
  rw [← width, List.filter_filter]
  exact congrArg (fun p => List.filter p (List.range 32)) (funext fun i => Bool.and_comm _ _)

/-! ## Lanes of a result -/

@[simp] theorem quiet_lane (x : Lane32) : (quiet x.toNat).lane = x := by
  simp [quiet, Flagged.lane]

/-- A lane that takes part holds what the operation gives it. -/
theorem lanesOut_val {z : BitVec 3} {k : Lane32} (f : Nat → Flagged) {i : Nat} (h : takesPart z k i = true) :
    lane (lanesOut z k f).val i = (f (i - firstLane z)).lane := by
  obtain ⟨lo, hi, hk⟩ := takesPart_iff.mp h
  obtain ⟨j, rfl⟩ := Nat.exists_eq_add_of_le lo
  have hj : j < lanesOf z := by omega
  have hw := firstLane_add_lanesOf_le z
  have shift : 2 ^ (32 * (firstLane z + j)) = 2 ^ (32 * firstLane z) * 2 ^ (32 * j) := by rw [← Nat.pow_add, Nat.mul_add]
  rw [lane, lanesOut, elem_ofNat _ (by omega), shift, ← Nat.div_div_eq_div_mul, Nat.mul_div_cancel _ (Nat.two_pow_pos _)]
  refine BitVec.eq_of_toNat_eq ?_
  rw [BitVec.toNat_ofNat, elemsNat_elem 32 _ hj, nth_map_range _ _ hj, if_pos hk, Nat.add_sub_cancel_left, Flagged.lane,
    BitVec.toNat_ofNat]

/-- What a vector instruction lands, in terms of its result. -/
theorem State.pushVec_eq (s : State) (u w : BitVec 1) (d : BitVec 4) (n : Nat) (r : VRes) : s.pushVec u w d n r = s.push
    { due := s.core.cyc + n, seq := 0, slot := 3 + u.toNat, file := if w = 0 then some .v else none, dst := BitVec.ofNat 10 d.toNat,
      val := r.val, sel := r.sel, flg := r.flg, latch := if u = 0 then .x else .y, lval := r.val, lsel := r.sel } := rfl

/-! ## The tree -/

theorem Node.join_ok (op : Lane32 → Lane32 → Flagged) (x y : Node) : (Node.join op x y).ok = (x.ok || y.ok) := rfl

theorem length_pairUp (op : Lane32 → Lane32 → Flagged) : ∀ l : List Node, (pairUp op l).length = (l.length + 1) / 2
  | [] => rfl
  | [_] => by simp [pairUp]
  | x :: y :: t => by
    simp only [pairUp, List.length_cons, length_pairUp op t]
    omega

/-- A tree over 2^n leaves has one root. -/
theorem treeFold_root (op : Lane32 → Lane32 → Flagged) (d : Node) : ∀ (n : Nat) {l : List Node}, l.length = 2 ^ n →
    treeFold op n l = [nth d (treeFold op n l) 0]
  | 0, l, h => by
    obtain ⟨x, rfl⟩ := List.length_eq_one_iff.mp h
    rfl
  | n + 1, l, h => by
    refine treeFold_root op d n (l := pairUp op l) ?_
    rw [length_pairUp, h, Nat.pow_succ]
    omega

/-- What every level keeps, the tree keeps. -/
theorem treeFold_keeps {op : Lane32 → Lane32 → Flagged} {P : List Node → Prop} (hP : ∀ l, P l → P (pairUp op l)) :
    ∀ (n : Nat) {l : List Node}, P l → P (treeFold op n l)
  | 0, _, h => h
  | n + 1, _, h => treeFold_keeps hP n (hP _ h)

/-- A node of the next level is a join of two nodes, or one that had no partner. -/
theorem mem_pairUp {op : Lane32 → Lane32 → Flagged} {n : Node} : ∀ {l : List Node}, n ∈ pairUp op l →
    n ∈ l ∨ ∃ x ∈ l, ∃ y ∈ l, n = Node.join op x y
  | [], h => .inl h
  | [_], h => .inl h
  | x :: y :: t, h => by
    rcases List.mem_cons.mp h with rfl | h
    · exact .inr ⟨x, by simp, y, by simp, rfl⟩
    · rcases mem_pairUp h with h | ⟨a, ha, b, hb, rfl⟩
      · exact .inl (by simp [h])
      · exact .inr ⟨a, by simp [ha], b, by simp [hb], rfl⟩

/-- Every node goes on to the next level, alone or in a join. -/
theorem mem_pairUp_of_mem {op : Lane32 → Lane32 → Flagged} {n : Node} : ∀ {l : List Node}, n ∈ l →
    n ∈ pairUp op l ∨ ∃ x ∈ l, Node.join op n x ∈ pairUp op l ∨ Node.join op x n ∈ pairUp op l
  | [_], h => .inl h
  | x :: y :: t, h => by
    simp only [List.mem_cons] at h
    rcases h with rfl | rfl | h
    · exact .inr ⟨y, by simp, .inl (by simp [pairUp])⟩
    · exact .inr ⟨x, by simp, .inr (by simp [pairUp])⟩
    · rcases mem_pairUp_of_mem (op := op) h with h | ⟨a, ha, h | h⟩
      · exact .inl (by simp [pairUp, h])
      · exact .inr ⟨a, by simp [ha], .inl (by simp [pairUp, h])⟩
      · exact .inr ⟨a, by simp [ha], .inr (by simp [pairUp, h])⟩

theorem any_ok_pairUp (op : Lane32 → Lane32 → Flagged) : ∀ l : List Node, (pairUp op l).any (·.ok) = l.any (·.ok)
  | [] => rfl
  | [_] => rfl
  | x :: y :: t => by simp [pairUp, any_ok_pairUp op t, Node.join_ok, Bool.or_assoc]

/-- The root is valid exactly when some leaf is. -/
theorem treeFold_ok (op : Lane32 → Lane32 → Flagged) (d : Node) (n : Nat) {l : List Node} (h : l.length = 2 ^ n) :
    (nth d (treeFold op n l) 0).ok = l.any (·.ok) := by
  have keep := treeFold_keeps (op := op) (P := fun t => t.any (·.ok) = l.any (·.ok)) (fun t ht => (any_ok_pairUp op t).trans ht) n rfl
  rw [treeFold_root op d n h] at keep
  simpa using keep

/-! ## Leaves -/

theorem length_leaves (z : BitVec 3) (k pad : Lane32) (x : Line) : (leaves z k pad x).length = 2 ^ treeLevels z := by
  rw [leaves, List.length_map, List.length_range, (lanesOf_eq_pow z).1]

/-- A leaf takes part, or holds the padding. -/
theorem mem_leaves {z : BitVec 3} {k pad : Lane32} {x : Line} {n : Node} (h : n ∈ leaves z k pad x) :
    n.f = 0 ∧ (n.ok = false → n.v = pad) := by
  simp only [leaves, List.mem_map] at h
  obtain ⟨i, -, rfl⟩ := h
  split <;> simp

/-- The values of the leaves that take part are the lanes that take part, in order. -/
theorem filter_leaves (z : BitVec 3) (k pad : Lane32) (x : Line) :
    ((leaves z k pad x).filter (·.ok)).map (·.v) = ((List.range 32).filter fun i => takesPart z k i).map (lane x) := by
  rw [filter_takesPart, List.filter_map, List.map_map, leaves, List.filter_map, List.map_map]
  have ok : ((fun n : Node => n.ok) ∘ fun i => if bitAt k (firstLane z + i) then ({ v := opLane z x i, ok := true, f := 0 } : Node)
      else { v := pad, ok := false, f := 0 }) = (fun i => bitAt k i) ∘ (firstLane z + ·) := by
    funext i
    simp only [Function.comp_apply]
    split <;> simp_all
  rw [ok]
  refine List.map_congr_left fun i hi => ?_
  have hk : bitAt k (firstLane z + i) = true := (List.mem_filter.mp hi).2
  simp only [Function.comp_apply, hk, if_true]
  rfl

theorem any_ok_leaves (z : BitVec 3) (k pad : Lane32) (x : Line) :
    (leaves z k pad x).any (·.ok) = decide (((List.range 32).filter fun i => takesPart z k i) ≠ []) := by
  have h := congrArg List.isEmpty (filter_leaves z k pad x)
  rw [Bool.eq_iff_iff, decide_eq_true_iff, ← List.isEmpty_eq_false_iff, ← List.isEmpty_map (f := lane x), ← h, List.isEmpty_map]
  simp [List.isEmpty_eq_false_iff]

end Sys2Proof.Machine
end

section
/-! SUPPORT. The reductions by their operations (13 R249, 04 R85): the integer sum, and the operations that pick one of two words. -/

namespace Sys2Proof.Machine

/-! ## Operations that pick a word -/

/-- An operation gives the canonical NaN from a NaN, and else one of its two operands, which is not below any by a measure. -/
def PicksBy (m : Lane32 → Int) (op : Lane32 → Lane32 → Lane32) : Prop :=
  ∀ a b, (isNan32 a = true ∨ isNan32 b = true → op a b = 0x7FC00000)
    ∧ (isNan32 a = false → isNan32 b = false → (op a b = a ∨ op a b = b) ∧ m a ≤ m (op a b) ∧ m b ≤ m (op a b))

theorem fmax32_picks : PicksBy order32 fmax32 := by
  refine fun a b => ⟨fun h => ?_, fun ha hb => ?_⟩
  · rw [fmax32, if_pos (by simpa using h)]
  · rw [fmax32, if_neg (by simp [ha, hb])]
    split
    · next h => exact ⟨.inr rfl, h, le_rfl⟩
    · next h => exact ⟨.inl rfl, le_rfl, (not_le.mp h).le⟩

theorem fmin32_picks : PicksBy (fun x => -order32 x) fmin32 := by
  refine fun a b => ⟨fun h => ?_, fun ha hb => ?_⟩
  · rw [fmin32, if_pos (by simpa using h)]
  · rw [fmin32, if_neg (by simp [ha, hb])]
    split
    · next h => exact ⟨.inl rfl, le_rfl, neg_le_neg h⟩
    · next h => exact ⟨.inr rfl, neg_le_neg (not_le.mp h).le, le_rfl⟩

/-- The least word that is no NaN is minus infinity, and the greatest plus infinity. -/
theorem eq_infinity_of_order32 {x : Lane32} (h : isNan32 x = false) :
    (order32 x ≤ order32 0xFF800000 → x = 0xFF800000) ∧ (order32 0x7F800000 ≤ order32 x → x = 0x7F800000) := by
  have hx := x.isLt
  have low : order32 0xFF800000 = -0x7F800001 := by decide
  have high : order32 0x7F800000 = 0x7F800000 := by decide
  rw [isNan32, decide_eq_false_iff_not] at h
  rw [low, high, order32]
  refine ⟨fun hle => BitVec.eq_of_toNat_eq ?_, fun hle => BitVec.eq_of_toNat_eq ?_⟩
  · show x.toNat = 0xFF800000
    split at hle <;> omega
  · show x.toNat = 0x7F800000
    split at hle <;> omega

/-- Such an operation at the nodes of a tree; it raises no flag. -/
def pickOp (op : Lane32 → Lane32 → Lane32) : Lane32 → Lane32 → Flagged := fun x y => quiet (op x y).toNat

@[simp] theorem join_pickOp (op : Lane32 → Lane32 → Lane32) (x y : Node) :
    Node.join (pickOp op) x y = { v := op x.v y.v, ok := x.ok || y.ok, f := x.f ||| y.f } := by
  simp only [Node.join, pickOp, quiet_lane]
  simp [quiet]

section
variable {op : Lane32 → Lane32 → Lane32} {m : Lane32 → Int} {d : Node} {n : Nat} {l : List Node}

/-- Nodes without flags give a root without flags. -/
theorem treeFold_pickOp_flags (hl : l.length = 2 ^ n) (h : ∀ x ∈ l, x.f = 0) : (nth d (treeFold (pickOp op) n l) 0).f = 0 := by
  have keep := treeFold_keeps (op := pickOp op) (P := fun t => ∀ x ∈ t, x.f = 0) (fun t ht x hx => ?_) n h
  · rw [treeFold_root (pickOp op) d n hl] at keep
    simpa using keep
  · rcases mem_pairUp hx with hx | ⟨a, ha, b, hb, rfl⟩
    · exact ht x hx
    · simp [ht a ha, ht b hb]

/-- A NaN has a partner in a level of even length, and their join is the canonical NaN. -/
theorem pairUp_nan (hop : PicksBy m op) : ∀ {l : List Node}, l.length % 2 = 0 → (∃ x ∈ l, isNan32 x.v = true) →
    ∃ y ∈ pairUp (pickOp op) l, y.v = 0x7FC00000
  | [], _, h => by simp at h
  | [_], hlen, _ => by simp at hlen
  | a :: b :: t, hlen, ⟨x, hx, hnan⟩ => by
    simp only [List.mem_cons] at hx
    rcases hx with rfl | rfl | hx
    · exact ⟨_, List.mem_cons_self, by simpa using (hop x.v b.v).1 (.inl hnan)⟩
    · exact ⟨_, List.mem_cons_self, by simpa using (hop a.v x.v).1 (.inr hnan)⟩
    · rw [List.length_cons, List.length_cons] at hlen
      obtain ⟨y, hy, hv⟩ := pairUp_nan hop (l := t) (by omega) ⟨x, hx, hnan⟩
      exact ⟨y, List.mem_cons_of_mem _ hy, hv⟩

/-- The canonical NaN stays through every level. -/
theorem pairUp_canonical (hop : PicksBy m op) (t : List Node) (h : ∃ x ∈ t, x.v = 0x7FC00000) :
    ∃ x ∈ pairUp (pickOp op) t, x.v = 0x7FC00000 := by
  obtain ⟨x, hx, hv⟩ := h
  have hnan : isNan32 x.v = true := by
    rw [hv]
    decide
  rcases mem_pairUp_of_mem (op := pickOp op) hx with hx | ⟨y, -, hy | hy⟩
  · exact ⟨x, hx, hv⟩
  · exact ⟨_, hy, by simpa using (hop x.v y.v).1 (.inl hnan)⟩
  · exact ⟨_, hy, by simpa using (hop y.v x.v).1 (.inr hnan)⟩

/-- A NaN among the leaves makes the root the canonical NaN. -/
theorem treeFold_nan (hop : PicksBy m op) (hl : l.length = 2 ^ (n + 1)) (h : ∃ x ∈ l, isNan32 x.v = true) :
    (nth d (treeFold (pickOp op) (n + 1) l) 0).v = 0x7FC00000 := by
  have first := pairUp_nan hop (by rw [hl, Nat.pow_succ]; omega) h
  have keep := treeFold_keeps (pairUp_canonical hop) n first
  have root : treeFold (pickOp op) n (pairUp (pickOp op) l) = [nth d (treeFold (pickOp op) (n + 1) l) 0] :=
    treeFold_root (pickOp op) d (n + 1) hl
  rw [root] at keep
  simpa using keep

/-- Without a NaN the root holds the value of a leaf, which is not below any. -/
theorem treeFold_picks (hop : PicksBy m op) (hl : l.length = 2 ^ n) (h : ∀ x ∈ l, isNan32 x.v = false) :
    let r := nth d (treeFold (pickOp op) n l) 0
    (∃ x ∈ l, r.v = x.v) ∧ ∀ x ∈ l, m x.v ≤ m r.v := by
  have keep := treeFold_keeps (op := pickOp op)
    (P := fun t => (∀ y ∈ t, ∃ x ∈ l, y.v = x.v) ∧ ∀ x ∈ l, ∃ y ∈ t, m x.v ≤ m y.v) (fun t ht => ?_) n
    ⟨fun y hy => ⟨y, hy, rfl⟩, fun x hx => ⟨x, hx, le_rfl⟩⟩
  · rw [treeFold_root (pickOp op) d n hl] at keep
    simpa using keep
  · obtain ⟨from_, above⟩ := ht
    have real : ∀ y ∈ t, isNan32 y.v = false := fun y hy => by
      obtain ⟨x, hx, hv⟩ := from_ y hy
      rw [hv]
      exact h x hx
    refine ⟨fun y hy => ?_, fun x hx => ?_⟩
    · rcases mem_pairUp hy with hy | ⟨a, ha, b, hb, rfl⟩
      · exact from_ y hy
      · rw [join_pickOp]
        rcases ((hop a.v b.v).2 (real a ha) (real b hb)).1 with hv | hv
        · obtain ⟨x, hx, hax⟩ := from_ a ha
          exact ⟨x, hx, hv.trans hax⟩
        · obtain ⟨x, hx, hbx⟩ := from_ b hb
          exact ⟨x, hx, hv.trans hbx⟩
    · obtain ⟨y, hy, hle⟩ := above x hx
      rcases mem_pairUp_of_mem (op := pickOp op) hy with hy' | ⟨z, hz, hy' | hy'⟩
      · exact ⟨y, hy', hle⟩
      · exact ⟨_, hy', hle.trans (by simpa using ((hop y.v z.v).2 (real y hy) (real z hz)).2.1)⟩
      · exact ⟨_, hy', hle.trans (by simpa using ((hop z.v y.v).2 (real z hz) (real y hy)).2.2)⟩

end

/-! ## The integer sum -/

/-- The levels of an integer sum keep the sum of the values. -/
theorem sum_pairUp_add : ∀ l : List Node, ((pairUp (pickOp (· + ·)) l).map (·.v)).sum = (l.map (·.v)).sum
  | [] => rfl
  | [_] => rfl
  | x :: y :: t => by simp [pairUp, sum_pairUp_add t, add_assoc]

theorem treeFold_add (d : Node) {n : Nat} {l : List Node} (hl : l.length = 2 ^ n) :
    (nth d (treeFold (pickOp (· + ·)) n l) 0).v = (l.map (·.v)).sum := by
  have keep := treeFold_keeps (op := pickOp (· + ·)) (P := fun t => (t.map (·.v)).sum = (l.map (·.v)).sum)
    (fun t ht => (sum_pairUp_add t).trans ht) n rfl
  rw [treeFold_root _ d n hl] at keep
  simpa using keep

/-- Padding with zero adds nothing. -/
theorem sum_filter_ok : ∀ {l : List Node}, (∀ x ∈ l, x.ok = false → x.v = 0) → ((l.filter (·.ok)).map (·.v)).sum = (l.map (·.v)).sum
  | [], _ => rfl
  | x :: l, h => by
    obtain ⟨hx, hl⟩ := List.forall_mem_cons.mp h
    cases hok : x.ok
    · simp [hok, hx hok, sum_filter_ok hl]
    · simp [hok, sum_filter_ok hl]

theorem sum_lanes_eq_ofNat : ∀ xs : List Lane32, xs.sum = BitVec.ofNat 32 (xs.map (·.toNat)).sum
  | [] => rfl
  | x :: xs => by
    rw [List.sum_cons, sum_lanes_eq_ofNat xs, List.map_cons, List.sum_cons, BitVec.ofNat_add, BitVec.ofNat_toNat, BitVec.setWidth_eq]

/-! ## Instructions -/

/-- A result in every lane of the width, with flags of its own, lands at c+8 (13 R249, R250). -/
theorem vec1_everyLane {u : BitVec 1} {g d : BitVec 4} {w : BitVec 1} {a : BitVec 5} {z : BitVec 3} {s : State}
    {f : State → Line → Nat → Lane32} {flg : State → Line → FFlags} (hg : s.guardOn g = true) (ha : s.waitsV a = false) :
    ∃ l : Landing, vec1 u g d w a 8 (fun s x => { lanesOut z 0xFFFFFFFF (fun i => quiet (f s x i).toNat) with flg := flg s x }) s
        = .next (s.push l) ∧ l.due = s.core.cyc + 8
      ∧ l.slot = 3 + u.toNat ∧ l.file = (if w = 0 then some .v else none) ∧ l.dst = BitVec.ofNat 10 d.toNat
      ∧ l.latch = (if u = 0 then .x else .y) ∧ l.lval = l.val ∧ l.lsel = l.sel ∧ l.flg = flg s (s.srcV a)
      ∧ (∀ i, i < 32 → lane l.sel i = if takesPart z 0xFFFFFFFF i then 0xFFFFFFFF else 0)
      ∧ ∀ i, takesPart z 0xFFFFFFFF i = true → lane l.val i = f s (s.srcV a) (i - firstLane z) := by
  refine ⟨_, (vec1_eq hg ha).trans (congrArg Host.Outcome.next (s.pushVec_eq ..)), rfl, rfl, rfl, rfl, rfl, rfl, rfl, rfl,
    fun i hi => lane_laneSel _ hi, fun i hi => ?_⟩
  exact (lanesOut_val _ hi).trans (quiet_lane _)

/-- A reduction lands its root, or what an empty one gives, in every lane of the width. -/
theorem reduction_lands {u : BitVec 1} {g d : BitVec 4} {w : BitVec 1} {a : BitVec 5} {z k : BitVec 3} {s : State} {pad empty v : Lane32}
    {op : Nat → Lane32 → Lane32 → Flagged} {flg : FFlags} (hg : s.guardOn g = true) (ha : s.waitsV a = false)
    (hv : (let r := reduceRoot z (s.core.r.readK k) pad (op s.core.r.fmode.toNat) (s.srcV a)
      (if r.ok then r.v else empty) = v ∧ r.f = flg)) :
    ∃ l : Landing, reduction u g d w a z k pad empty op s = .next (s.push l) ∧ l.due = s.core.cyc + 8
      ∧ l.slot = 3 + u.toNat ∧ l.file = (if w = 0 then some .v else none) ∧ l.dst = BitVec.ofNat 10 d.toNat
      ∧ l.latch = (if u = 0 then .x else .y) ∧ l.lval = l.val ∧ l.lsel = l.sel ∧ l.flg = flg
      ∧ (∀ i, i < 32 → lane l.sel i = if takesPart z 0xFFFFFFFF i then 0xFFFFFFFF else 0)
      ∧ ∀ i, i < 32 → takesPart z 0xFFFFFFFF i = true → lane l.val i = v := by
  obtain ⟨rfl, rfl⟩ := hv
  obtain ⟨l, sent, hdue, hslot, hfile, hdst, hlatch, hlval, hlsel, hflg, hsel, hval⟩ := vec1_everyLane (u := u) (d := d) (w := w) (z := z)
    (f := fun s x _ => let r := reduceRoot z (s.core.r.readK k) pad (op s.core.r.fmode.toNat) x; if r.ok then r.v else empty)
    (flg := fun s x => (reduceRoot z (s.core.r.readK k) pad (op s.core.r.fmode.toNat) x).f) hg ha
  exact ⟨l, sent, hdue, hslot, hfile, hdst, hlatch, hlval, hlsel, hflg, hsel, fun i _ hi => hval i hi⟩

/-- The root of a reduction is valid when some lane takes part. -/
theorem reduceRoot_ok (z : BitVec 3) (k pad : Lane32) (op : Lane32 → Lane32 → Flagged) (x : Line) :
    (reduceRoot z k pad op x).ok = decide (((List.range 32).filter fun i => takesPart z k i) ≠ []) :=
  (treeFold_ok op _ _ (length_leaves z k pad x)).trans (any_ok_leaves z k pad x)

/-- The root of an operation that picks, over the lanes that take part, when the padding is below all other words. -/
theorem reduceRoot_picks {z : BitVec 3} {k pad : Lane32} {op : Lane32 → Lane32 → Lane32} {m : Lane32 → Int} {x : Line}
    (hop : PicksBy m op) (hpad : isNan32 pad = false) (hleast : ∀ y, isNan32 y = false → m y ≤ m pad → y = pad)
    (hsome : ((List.range 32).filter fun i => takesPart z k i) ≠ []) :
    let xs := ((List.range 32).filter fun i => takesPart z k i).map (lane x)
    let r := reduceRoot z k pad (pickOp op) x
    ((∃ y ∈ xs, isNan32 y = true) → r.v = 0x7FC00000)
      ∧ ((∀ y ∈ xs, isNan32 y = false) → r.v ∈ xs ∧ ∀ y ∈ xs, m y ≤ m r.v) := by
  intro xs r
  have hxs : xs = ((leaves z k pad x).filter (·.ok)).map (·.v) := (filter_leaves z k pad x).symm
  have isLeaf : ∀ y ∈ xs, ∃ n ∈ leaves z k pad x, n.v = y := fun y hy => by
    rw [hxs, List.mem_map] at hy
    obtain ⟨n, hn, rfl⟩ := hy
    exact ⟨n, (List.mem_filter.mp hn).1, rfl⟩
  have hlen := length_leaves z k pad x
  obtain ⟨n, hn⟩ : ∃ n, treeLevels z = n + 1 := ⟨treeLevels z - 1, by have := (lanesOf_eq_pow z).2; omega⟩
  refine ⟨fun ⟨y, hy, hnan⟩ => ?_, fun hreal => ?_⟩
  · obtain ⟨leaf, hleaf, rfl⟩ := isLeaf y hy
    rw [hn] at hlen
    have := treeFold_nan (d := { v := pad, ok := false, f := 0 }) hop hlen ⟨leaf, hleaf, hnan⟩
    rwa [← hn] at this
  · have real : ∀ n ∈ leaves z k pad x, isNan32 n.v = false := fun n hn => by
      cases hok : n.ok
      · rw [(mem_leaves hn).2 hok]
        exact hpad
      · refine hreal _ ?_
        rw [hxs]
        exact List.mem_map_of_mem (List.mem_filter.mpr ⟨hn, hok⟩)
    obtain ⟨⟨leaf, hleaf, hroot⟩, above⟩ := treeFold_picks (d := { v := pad, ok := false, f := 0 }) hop hlen real
    have above' : ∀ y ∈ xs, m y ≤ m r.v := fun y hy => by
      obtain ⟨n, hn, rfl⟩ := isLeaf y hy
      exact above n hn
    refine ⟨?_, above'⟩
    cases hok : leaf.ok
    · have hpadRoot : r.v = pad := hroot.trans ((mem_leaves hleaf).2 hok)
      obtain ⟨y, hy⟩ := List.exists_mem_of_ne_nil xs (by simpa [xs] using hsome)
      have := hleast y (hreal y hy) (hpadRoot ▸ above' y hy)
      rwa [hpadRoot, ← this]
    · have : r.v = leaf.v := hroot
      rw [this, hxs]
      exact List.mem_map_of_mem (List.mem_filter.mpr ⟨hleaf, hok⟩)

/-- The integer root is the sum of the lanes that take part. -/
theorem reduceRoot_add (z : BitVec 3) (k : Lane32) (x : Line) : (reduceRoot z k 0 (pickOp (· + ·)) x).v =
    BitVec.ofNat 32 ((((List.range 32).filter fun i => takesPart z k i).map (lane x)).map (·.toNat)).sum := by
  rw [← sum_lanes_eq_ofNat, ← filter_leaves z k 0 x, sum_filter_ok fun n hn => (mem_leaves hn).2]
  exact treeFold_add _ (length_leaves z k 0 x)

theorem reduceRoot_pickOp_flags (z : BitVec 3) (k pad : Lane32) (op : Lane32 → Lane32 → Lane32) (x : Line) :
    (reduceRoot z k pad (pickOp op) x).f = 0 :=
  treeFold_pickOp_flags (length_leaves z k pad x) fun _ hn => (mem_leaves hn).1

/-- An empty reduction gives its own value. -/
theorem reduceRoot_or_empty (z : BitVec 3) (k pad empty : Lane32) (op : Lane32 → Lane32 → Flagged) (x : Line) :
    (if (reduceRoot z k pad op x).ok then (reduceRoot z k pad op x).v else empty)
      = if ((List.range 32).filter fun i => takesPart z k i) = [] then empty else (reduceRoot z k pad op x).v := by
  rw [reduceRoot_ok]
  split <;> split <;> simp_all

/-- The meanings of the reductions and of the scan. -/
theorem exec_reductions (u : BitVec 1) (g d : BitVec 4) (w : BitVec 1) (a : BitVec 5) (z k : BitVec 3) (s : State) :
    exec (.vrsum u g d w a z k) s = reduction u g d w a z k 0x80000000 0 redAdd32 s
      ∧ exec (.vrmax u g d w a z k) s = reduction u g d w a z k 0xFF800000 0xFF800000 (fun _ => pickOp fmax32) s
      ∧ exec (.vrmin u g d w a z k) s = reduction u g d w a z k 0x7F800000 0x7F800000 (fun _ => pickOp fmin32) s
      ∧ exec (.vrisum u g d w a z k) s = reduction u g d w a z k 0 0 (fun _ => pickOp (· + ·)) s
      ∧ exec (.vscan u g d w a z k) s = execVscan u g d w a z k s :=
  ⟨rfl, rfl, rfl, rfl, rfl⟩

/-- VSCAN lands the prefixes in the lanes of the width (13 R250). -/
theorem execVscan_lands {u : BitVec 1} {g d : BitVec 4} {w : BitVec 1} {a : BitVec 5} {z k : BitVec 3} {s : State}
    (hg : s.guardOn g = true) (ha : s.waitsV a = false) :
    let p := scanLevels (redAdd32 s.core.r.fmode.toNat) (treeLevels z) 0 (leaves z (s.core.r.readK k) 0x80000000 (s.srcV a)) 0
    ∃ l : Landing, execVscan u g d w a z k s = .next (s.push l) ∧ l.due = s.core.cyc + 8 ∧ l.lval = l.val
      ∧ l.file = (if w = 0 then some .v else none) ∧ l.dst = BitVec.ofNat 10 d.toNat ∧ l.latch = (if u = 0 then .x else .y)
      ∧ (∀ i, i < 32 → lane l.sel i = if takesPart z 0xFFFFFFFF i then 0xFFFFFFFF else 0)
      ∧ l.flg = p.2 ∧ ∀ i, i < lanesOf z → opLane z l.val i =
        (let n := nth { v := 0, ok := false, f := 0 } p.1 i
         if n.ok then canon32 n.v else 0) := by
  obtain ⟨l, sent, hdue, -, hfile, hdst, hlatch, hlval, -, hflg, hsel, hval⟩ := vec1_everyLane (u := u) (d := d) (w := w) (z := z)
    (f := fun s x i =>
      let n := nth { v := 0, ok := false, f := 0 } (scanLevels (redAdd32 s.core.r.fmode.toNat) (treeLevels z) 0
        (leaves z (s.core.r.readK k) 0x80000000 x) 0).1 i
      if n.ok then canon32 n.v else 0)
    (flg := fun s x => (scanLevels (redAdd32 s.core.r.fmode.toNat) (treeLevels z) 0 (leaves z (s.core.r.readK k) 0x80000000 x) 0).2) hg ha
  refine ⟨l, sent, hdue, hlval, hfile, hdst, hlatch, hsel, hflg, fun i hi => ?_⟩
  have hw := firstLane_add_lanesOf_le z
  have read := hval (firstLane z + i) (takesPart_iff.mpr ⟨by omega, by omega, bitAt_ones (by omega)⟩)
  rwa [Nat.add_sub_cancel_left] at read

/-- Settles O30: each reduction lands its root, whose value the operation's own lemma gives. -/
theorem reductions : Obligations.Reductions := by
  intro u g d w a z k s hg ha
  dsimp only
  obtain ⟨hsum, hmax, hmin, hisum, hscan⟩ := exec_reductions u g d w a z k s
  rw [hsum, hmax, hmin, hisum, hscan]
  set kk := s.core.r.readK k
  set x := s.srcV a
  have notNan : isNan32 0xFF800000 = false ∧ isNan32 0x7F800000 = false := by decide
  have flags := fun pad op => reduceRoot_pickOp_flags z kk pad op x
  have big := reduceRoot_picks (z := z) (k := kk) (x := x) fmax32_picks notNan.1 fun y hy => (eq_infinity_of_order32 hy).1
  have small := reduceRoot_picks (z := z) (k := kk) (x := x) fmin32_picks notNan.2 fun y hy h =>
    (eq_infinity_of_order32 hy).2 (neg_le_neg_iff.mp h)
  refine ⟨reduction_lands hg ha ⟨reduceRoot_or_empty .., rfl⟩, reduction_lands hg ha ⟨reduceRoot_or_empty .., flags _ _⟩,
    reduction_lands hg ha ⟨reduceRoot_or_empty .., flags _ _⟩, reduction_lands hg ha ⟨?_, flags _ _⟩,
    fun hsome hnan => ⟨(big hsome).1 hnan, (small hsome).1 hnan⟩, fun hsome hreal => ?_, execVscan_lands hg ha⟩
  · rw [reduceRoot_or_empty, reduceRoot_add]
    split
    · next h => rw [h]; rfl
    · rfl
  · obtain ⟨hbig, above⟩ := (big hsome).2 hreal
    obtain ⟨hsmall, below⟩ := (small hsome).2 hreal
    exact ⟨hbig, hsmall, fun y hy => ⟨above y hy, neg_le_neg_iff.mp (below y hy)⟩⟩

end Sys2Proof.Machine
end

section
/-! SUPPORT. Rounding to the nearest integer, ties to even (00 R11, 03 R59), over rationals and as the model computes it. -/

namespace Sys2Proof.Machine

/-! ## The nearest integer -/

@[simp] theorem roundHalfEven_intCast (n : Int) : roundHalfEven (n : ℚ) = n := by
  simp [roundHalfEven]

/-- It is one of the two integers beside the number, and the nearer one. -/
theorem roundHalfEven_cases (x : ℚ) : (roundHalfEven x = ⌊x⌋ ∧ x - ⌊x⌋ ≤ 1 / 2) ∨ (roundHalfEven x = ⌊x⌋ + 1 ∧ 1 / 2 ≤ x - ⌊x⌋) := by
  unfold roundHalfEven
  split
  · next h => exact .inl ⟨rfl, h.le⟩
  · next hlow =>
    split
    · next h => exact .inr ⟨rfl, h.le⟩
    · next hhigh =>
      split
      · exact .inl ⟨rfl, not_lt.mp hhigh⟩
      · exact .inr ⟨rfl, not_lt.mp hlow⟩

/-- No integer is nearer. -/
theorem roundHalfEven_nearest (x : ℚ) (n : Int) : |(roundHalfEven x : ℚ) - x| ≤ |(n : ℚ) - x| := by
  have hlo := Int.floor_le x
  have hhi := Int.lt_floor_add_one x
  have below : |(n : ℚ) - x| ≥ x - ⌊x⌋ ∨ |(n : ℚ) - x| ≥ ⌊x⌋ + 1 - x := by
    rcases le_or_gt n ⌊x⌋ with h | h
    · left
      have : (n : ℚ) ≤ ⌊x⌋ := by exact_mod_cast h
      rw [abs_of_nonpos (by linarith)]
      linarith
    · right
      have : (⌊x⌋ : ℚ) + 1 ≤ n := by exact_mod_cast h
      rw [abs_of_nonneg (by linarith)]
      linarith
  rcases roundHalfEven_cases x with ⟨h, hx⟩ | ⟨h, hx⟩
  · rw [h, abs_of_nonpos (by linarith)]
    rcases below with hb | hb <;> linarith
  · rw [h, Int.cast_add, Int.cast_one, abs_of_nonneg (by linarith)]
    rcases below with hb | hb <;> linarith

/-- It is the number exactly when the number is an integer. -/
theorem roundHalfEven_eq_iff (x : ℚ) : (roundHalfEven x : ℚ) = x ↔ ((⌊x⌋ : ℤ) : ℚ) = x := by
  refine ⟨fun h => ?_, fun h => ?_⟩
  · rw [← h, Int.floor_intCast]
  · rw [← h, roundHalfEven_intCast]

/-- It keeps integer bounds. -/
theorem roundHalfEven_mem {x : ℚ} {a b : Int} (ha : (a : ℚ) ≤ x) (hb : x < b) : a ≤ roundHalfEven x ∧ roundHalfEven x ≤ b := by
  have hfa : a ≤ ⌊x⌋ := Int.le_floor.mpr ha
  have hfb : ⌊x⌋ < b := Int.floor_lt.mpr hb
  rcases roundHalfEven_cases x with ⟨h, -⟩ | ⟨h, -⟩ <;> omega

/-- A quotient of natural numbers rounds by twice its remainder. -/
theorem roundHalfEven_div (m : Nat) {d : Nat} (hd : 0 < d) : roundHalfEven ((m : ℚ) / (d : ℚ)) =
    if 2 * (m % d) < d then ((m / d : Nat) : Int) else if d < 2 * (m % d) then ((m / d : Nat) : Int) + 1
    else if m / d % 2 = 0 then ((m / d : Nat) : Int) else ((m / d : Nat) : Int) + 1 := by
  have hd' : (0 : ℚ) < d := by exact_mod_cast hd
  have hfloor : ⌊(m : ℚ) / (d : ℚ)⌋ = ((m / d : Nat) : Int) := Rat.floor_natCast_div_natCast m d
  have hfrac : (m : ℚ) / (d : ℚ) - (((m / d : Nat) : Int) : ℚ) = ((m % d : Nat) : ℚ) / d := by
    have cast : (d : ℚ) * ((m / d : Nat) : ℚ) + ((m % d : Nat) : ℚ) = m := by exact_mod_cast Nat.div_add_mod m d
    rw [Int.cast_natCast, eq_div_iff hd'.ne', sub_mul, div_mul_cancel₀ _ hd'.ne']
    linarith
  have low : ((m % d : Nat) : ℚ) / d < 1 / 2 ↔ 2 * (m % d) < d := by
    rw [div_lt_div_iff₀ hd' (by norm_num)]
    norm_cast
    omega
  have high : 1 / 2 < ((m % d : Nat) : ℚ) / d ↔ d < 2 * (m % d) := by
    rw [div_lt_div_iff₀ (by norm_num) hd']
    norm_cast
    omega
  have even : ((m / d : Nat) : Int) % 2 = 0 ↔ m / d % 2 = 0 := by omega
  simp only [roundHalfEven, hfloor, hfrac, low, high, even]

/-! ## The model's rounding of a magnitude -/

/-- A magnitude in units of 2^q (03 R59). -/
theorem natCast_mul_zpow_sub (m : Nat) (e q : Int) : (m : ℚ) * 2 ^ e / 2 ^ q = m * 2 ^ (e - q) := by
  rw [zpow_sub₀ (by decide), mul_div_assoc]

theorem roundUnits_of_le (mode : Nat) (neg : Bool) (m : Nat) {e q : Int} (h : q ≤ e) :
    roundUnits mode neg m e q = (m * 2 ^ (e - q).toNat, false) := if_pos h

/-- In mode 0 it is the nearest integer, ties to even. -/
theorem roundUnits_nearest (neg : Bool) (m : Nat) (e q : Int) :
    ((roundUnits 0 neg m e q).1 : Int) = roundHalfEven ((m : ℚ) * 2 ^ e / 2 ^ q) := by
  rw [natCast_mul_zpow_sub]
  by_cases h : q ≤ e
  · have hx := intCast_mul_zpow_of_nonneg (m : Int) (sh := e - q) (by omega)
    rw [Int.cast_natCast] at hx
    rw [roundUnits_of_le _ _ _ h, hx, roundHalfEven_intCast]
    push_cast
    rfl
  · have hx := intCast_mul_zpow_of_neg (m : Int) (sh := e - q) (by omega)
    rw [Int.cast_natCast, neg_sub] at hx
    rw [hx, roundHalfEven_div m (Nat.two_pow_pos _), roundUnits, if_neg h]
    have hrem := Nat.mod_lt m (Nat.two_pow_pos (q - e).toNat)
    generalize 2 ^ (q - e).toNat = den at *
    simp only [roundsUp, Bool.or_eq_true, decide_eq_true_iff, Bool.and_eq_true, beq_iff_eq]
    split_ifs <;> omega

/-- It is inexact exactly when the number is no integer. -/
theorem roundUnits_inexact (mode : Nat) (neg : Bool) (m : Nat) (e q : Int) :
    (roundUnits mode neg m e q).2 = false ↔ ((⌊(m : ℚ) * 2 ^ e / 2 ^ q⌋ : ℤ) : ℚ) = (m : ℚ) * 2 ^ e / 2 ^ q := by
  rw [natCast_mul_zpow_sub]
  by_cases h : q ≤ e
  · have hx := intCast_mul_zpow_of_nonneg (m : Int) (sh := e - q) (by omega)
    rw [Int.cast_natCast] at hx
    rw [roundUnits_of_le _ _ _ h, hx, Int.floor_intCast]
    simp
  · have hx := intCast_mul_zpow_of_neg (m : Int) (sh := e - q) (by omega)
    have whole := floor_div_eq_iff (m : Int) (Nat.two_pow_pos (q - e).toNat)
    rw [Int.cast_natCast, neg_sub] at hx
    rw [hx]
    rw [Int.cast_natCast] at whole
    rw [whole, roundUnits, if_neg h]
    simp only [decide_eq_false_iff_not, ne_eq, not_not]
    omega

/-- The exponent of a magnitude is the floor of its logarithm. -/
theorem magExp_bounds {m : Nat} (hm : m ≠ 0) (e : Int) :
    (2 : ℚ) ^ magExp m e ≤ m * 2 ^ e ∧ (m : ℚ) * 2 ^ e < 2 ^ (magExp m e + 1) := by
  have lo : ((2 ^ Nat.log2 m : Nat) : ℚ) ≤ m := by exact_mod_cast Nat.log2_self_le hm
  have hi : (m : ℚ) < ((2 ^ (Nat.log2 m + 1) : Nat) : ℚ) := by exact_mod_cast Nat.lt_log2_self
  have split : ∀ k : Nat, (2 : ℚ) ^ (e + (k : Int)) = ((2 ^ k : Nat) : ℚ) * 2 ^ e := fun k => by
    rw [zpow_add₀ (by decide), zpow_natCast, mul_comm]
    push_cast
    rfl
  have hpos := two_zpow_pos e
  refine ⟨?_, ?_⟩
  · rw [magExp, split]
    exact mul_le_mul_of_nonneg_right lo hpos.le
  · have := split (Nat.log2 m + 1)
    rw [magExp, add_assoc]
    push_cast at this
    rw [this]
    exact_mod_cast mul_lt_mul_of_pos_right hi hpos

end Sys2Proof.Machine
end

section
/-! SUPPORT. SP32 (04 R75, R76): the value of a word, its word again, and the rounding of a magnitude. -/

namespace Sys2Proof.Machine

/-! ## Words and their values -/

/-- What a word stands for, by its exponent field (04 R75). -/
theorem spDecode_zero {w : Lane32} (h : w.toNat / 2 ^ 16 = 0) :
    spDecode w = (.zero, if w.toNat % 2 ^ 16 = 0 then 0 else sprFlag) := by
  rw [spDecode, if_pos h, flagIf]
  simp only [decide_eq_true_iff, ne_eq, ite_not]

theorem spDecode_top {w : Lane32} (h : w.toNat / 2 ^ 16 = 65535) :
    spDecode w = (if w.toNat % 2 ^ 16 = 0 then .sat else .nan, 0) := by
  rw [spDecode, if_neg (by omega), if_pos h]

theorem spDecode_finite {w : Lane32} (lo : 0 < w.toNat / 2 ^ 16) (hi : w.toNat / 2 ^ 16 < 65535) :
    spDecode w = (.num (2 ^ 16 + w.toNat % 2 ^ 16) (((w.toNat / 2 ^ 16 : Nat) : Int) - 32783), 0) := by
  rw [spDecode, if_neg (by omega), if_neg (by omega)]

/-- The value of a finite word by its fields. -/
theorem ratOf_fields (fr : Nat) (k : Int) :
    ratOf false (2 ^ 16 + fr) (k - 32783) = (1 + (fr : ℚ) / 65536) * (2 : ℚ) ^ (k - 32767) := by
  have h : (2 : ℚ) ^ (k - 32767) = 65536 * 2 ^ (k - 32783) := by
    rw [show k - 32767 = 16 + (k - 32783) by ring, zpow_add₀ (by decide)]
    norm_num
  rw [ratOf, h]
  push_cast
  ring

/-- The fields of a word that stands for a number. -/
theorem spDecode_num {w : Lane32} {m : Nat} {e : Int} {f : FFlags} (h : spDecode w = (.num m e, f)) :
    f = 0 ∧ w.toNat / 2 ^ 16 < 65535 ∧ 0 < w.toNat / 2 ^ 16 ∧ m = 2 ^ 16 + w.toNat % 2 ^ 16
      ∧ e = ((w.toNat / 2 ^ 16 : Nat) : Int) - 32783 := by
  have hw := w.isLt
  by_cases h0 : w.toNat / 2 ^ 16 = 0
  · rw [spDecode_zero h0] at h
    cases h
  · by_cases h1 : w.toNat / 2 ^ 16 = 65535
    · rw [spDecode_top h1] at h
      split at h <;> cases h
    · rw [spDecode_finite (by omega) (by omega)] at h
      cases h
      exact ⟨rfl, by omega, by omega, rfl, rfl⟩

/-- A significand has 17 bits, the highest one set. -/
theorem spDecode_num_bounds {w : Lane32} {m : Nat} {e : Int} {f : FFlags} (h : spDecode w = (.num m e, f)) :
    2 ^ 16 ≤ m ∧ m < 2 ^ 17 := by
  obtain ⟨-, -, -, rfl, -⟩ := spDecode_num h
  omega

/-- The word of a finite value, whose significand has 17 bits. -/
theorem roundSp_word {mode m : Nat} {k : Int} (hm : 2 ^ 16 ≤ m) (hm' : m < 2 ^ 17) (lo : 1 ≤ k) (hi : k < 65535) :
    roundSp mode m (k - 32783) = quiet (k.toNat * 2 ^ 16 + (m - 2 ^ 16)) := by
  have hlog : Nat.log2 m = 16 := (Nat.log2_eq_iff (by omega)).mpr ⟨hm, hm'⟩
  have hq : magExp m (k - 32783) - 16 = k - 32783 := by
    rw [magExp, hlog]
    omega
  simp only [roundSp, hq, roundUnits_of_le _ _ _ (le_refl (k - 32783)), sub_self, Int.toNat_zero, pow_zero, mul_one]
  rw [if_neg (by omega), if_neg (by omega), quiet]
  simp only [flagIf, Bool.false_eq_true, if_false, Flagged.mk.injEq, and_true]
  omega

/-- A word as an operation reads it (04 R75). -/
theorem encode_spDecode (w : Lane32) : (spDecode w).1.encode =
    quiet (if (spDecode w).1 = .zero then 0 else if (spDecode w).1 = .nan then 0xFFFFFFFF else w.toNat) := by
  have hw := w.isLt
  by_cases h0 : w.toNat / 2 ^ 16 = 0
  · rw [spDecode_zero h0, if_pos rfl, Sp.encode]
  · by_cases h1 : w.toNat / 2 ^ 16 = 65535
    · rw [spDecode_top h1]
      by_cases hf : w.toNat % 2 ^ 16 = 0
      · rw [if_pos hf, if_neg (by decide), if_neg (by decide), Sp.encode]
        exact congrArg quiet (by omega)
      · rw [if_neg hf, if_neg (by decide), if_pos rfl, Sp.encode, spNan]
    · rw [spDecode_finite (by omega) (by omega), if_neg (by simp), if_neg (by simp), Sp.encode, if_neg (by omega),
        roundSp_word (by omega) (by omega) (by omega) (by omega)]
      exact congrArg quiet (by omega)

/-- A word that is no NaN is not read as the canonical one. -/
theorem spCanon_eq_nan_iff (w : Lane32) : (spCanon w).v = spNan ↔ spDecode w = (.nan, 0) := by
  have hw := w.isLt
  have hv : (spCanon w).v = if (spDecode w).1 = .zero then 0 else if (spDecode w).1 = .nan then 0xFFFFFFFF else w.toNat := by
    rw [spCanon]
    exact congrArg Flagged.v (encode_spDecode w)
  rw [hv, spNan]
  by_cases h0 : w.toNat / 2 ^ 16 = 0
  · rw [spDecode_zero h0]
    simp
  · by_cases h1 : w.toNat / 2 ^ 16 = 65535
    · rw [spDecode_top h1]
      by_cases hf : w.toNat % 2 ^ 16 = 0
      · rw [if_pos hf]
        simp
        omega
      · rw [if_neg hf]
        simp
    · rw [spDecode_finite (by omega) (by omega)]
      simp
      omega

/-! ## Rounding a magnitude -/

/-- The largest finite value. -/
theorem spLargest_eq : ((2 : ℚ) - 2⁻¹ ^ 16) * 2 ^ 32767 = 131071 * 2 ^ (32751 : Int) := by
  have h : (2 : ℚ) ^ 32767 = 2 ^ 16 * 2 ^ 32751 := by rw [← pow_add]
  have hz : (2 : ℚ) ^ (32751 : Int) = 2 ^ 32751 := zpow_natCast 2 32751
  rw [h, hz]
  generalize (2 : ℚ) ^ 32751 = x
  ring

/-- Multiples of powers of two in their order. -/
theorem mul_zpow_lt {r a : Int} {q p : Int} (h : q < p) (ha : 0 ≤ a) (hr : r < 2 * a) : (r : ℚ) * 2 ^ q < a * 2 ^ p := by
  have hr' : (r : ℚ) < 2 * a := by exact_mod_cast hr
  have ha' : (0 : ℚ) ≤ a := by exact_mod_cast ha
  have hstep : (2 : ℚ) * 2 ^ q ≤ 2 ^ p := by
    rw [← zpow_one_add₀ (by decide)]
    exact zpow_le_zpow_right₀ (by decide) (by omega)
  calc (r : ℚ) * 2 ^ q < 2 * a * 2 ^ q := mul_lt_mul_of_pos_right hr' (two_zpow_pos q)
    _ = a * (2 * 2 ^ q) := by ring
    _ ≤ a * 2 ^ p := mul_le_mul_of_nonneg_left hstep ha'

theorem mul_zpow_le {r a : Int} {q p : Int} (h : q < p) (ha : 0 ≤ a) (hr : r ≤ 2 * a) : (r : ℚ) * 2 ^ q ≤ a * 2 ^ p := by
  have hr' : (r : ℚ) ≤ 2 * a := by exact_mod_cast hr
  have ha' : (0 : ℚ) ≤ a := by exact_mod_cast ha
  have hstep : (2 : ℚ) * 2 ^ q ≤ 2 ^ p := by
    rw [← zpow_one_add₀ (by decide)]
    exact zpow_le_zpow_right₀ (by decide) (by omega)
  calc (r : ℚ) * 2 ^ q ≤ 2 * a * 2 ^ q := mul_le_mul_of_nonneg_right hr' (two_zpow_pos q).le
    _ = a * (2 * 2 ^ q) := by ring
    _ ≤ a * 2 ^ p := mul_le_mul_of_nonneg_left hstep ha'

/-- A rounded value lies below the smallest finite one when its exponent field has none. -/
theorem spTiny_iff {r q : Int} (lo : 2 ^ 16 ≤ r) (hi : r ≤ 2 ^ 17) :
    (r : ℚ) * 2 ^ q < 2 ^ (-32766 : Int) ↔ (q + 32783) * 65536 + r - 65536 < 65536 := by
  have bound : (2 : ℚ) ^ (-32766 : Int) = ((2 ^ 17 : Int) : ℚ) * 2 ^ (-32783 : Int) := by
    have h17 : (2 : ℚ) ^ (17 : Int) = ((2 ^ 17 : Int) : ℚ) := by norm_num
    rw [show (-32766 : Int) = 17 + -32783 from rfl, zpow_add₀ (by decide), h17]
  rw [bound]
  rcases lt_trichotomy q (-32783) with h | rfl | h
  · exact iff_of_true (mul_zpow_lt h (by norm_num) (by omega)) (by omega)
  · rw [mul_lt_mul_iff_left₀ (two_zpow_pos _), Int.cast_lt]
    omega
  · exact iff_of_false (not_lt.mpr (mul_zpow_le h (by omega) (by omega))) (by omega)

/-- It lies above the largest one when its exponent field is past the last. -/
theorem spLarge_iff {r q : Int} (lo : 2 ^ 16 ≤ r) (hi : r ≤ 2 ^ 17) :
    (2 - 2⁻¹ ^ 16) * 2 ^ 32767 < (r : ℚ) * 2 ^ q ↔ 65535 * 65536 ≤ (q + 32783) * 65536 + r - 65536 := by
  have bound : (2 - 2⁻¹ ^ 16 : ℚ) * 2 ^ 32767 = ((131071 : Int) : ℚ) * 2 ^ (32751 : Int) := by
    rw [spLargest_eq, Int.cast_ofNat]
  rw [bound]
  rcases lt_trichotomy q 32751 with h | rfl | h
  · exact iff_of_false (not_lt.mpr (mul_zpow_le h (by norm_num) (by omega))) (by omega)
  · rw [mul_lt_mul_iff_left₀ (two_zpow_pos _), Int.cast_lt]
    omega
  · exact iff_of_true (mul_zpow_lt h (by omega) (by omega)) (by omega)

/-- The word with a code between the bounds stands for the rounded value. -/
theorem spDecode_code {r q : Int} {t : Nat} (ht : (t : Int) = (q + 32783) * 65536 + r - 65536) (lo : 2 ^ 16 ≤ r) (hi : r ≤ 2 ^ 17)
    (hlo : 65536 ≤ t) (hhi : t < 65535 * 65536) :
    t < 2 ^ 32 ∧ ∃ (m : Nat) (e : Int), spDecode (BitVec.ofNat 32 t) = (.num m e, 0) ∧ ratOf false m e = (r : ℚ) * 2 ^ q := by
  have hval : (BitVec.ofNat 32 t).toNat = t := by
    rw [BitVec.toNat_ofNat]
    exact Nat.mod_eq_of_lt (by omega)
  refine ⟨by omega, _, _, spDecode_finite (by omega) (by omega), ?_⟩
  rw [hval, ratOf]
  rcases Int.lt_or_eq_of_le hi with h | rfl
  · have hm : ((2 ^ 16 + t % 2 ^ 16 : Nat) : Int) = r := by omega
    have he : ((t / 2 ^ 16 : Nat) : Int) - 32783 = q := by omega
    rw [he, ← hm, Int.cast_natCast]
    simp
  · have hm : 2 ^ 16 + t % 2 ^ 16 = 2 ^ 16 := by omega
    have he : ((t / 2 ^ 16 : Nat) : Int) - 32783 = 1 + q := by omega
    rw [he, hm, zpow_one_add₀ (by decide)]
    push_cast
    ring

/-- The ends of a binade of 17-bit significands. -/
theorem binade_ends (q : Int) : (2 : ℚ) ^ (q + 16) = ((2 ^ 16 : Int) : ℚ) * 2 ^ q ∧ (2 : ℚ) ^ (q + 17) = ((2 ^ 17 : Int) : ℚ) * 2 ^ q := by
  constructor <;> rw [zpow_add₀ (by decide), mul_comm] <;> norm_num

/-- A nonzero magnitude is rounded to nearest even (04 R75, R76). -/
theorem roundSp_isSpRounded {m : Nat} (hm : m ≠ 0) (e : Int) : IsSpRounded 0 (roundSp 0 m e) (ratOf false m e) := by
  obtain ⟨low, high⟩ := magExp_bounds hm e
  have hv : ratOf false m e = (m : ℚ) * 2 ^ e := by simp [ratOf]
  rw [hv]
  obtain ⟨q, hq⟩ : ∃ q, q = magExp m e - 16 := ⟨_, rfl⟩
  have hexp : magExp m e = q + 16 := by omega
  rw [hexp] at low high
  rw [add_assoc, show (16 : Int) + 1 = 17 from rfl] at high
  set x := (m : ℚ) * 2 ^ e / 2 ^ q with hx
  have hxv : x * 2 ^ q = m * 2 ^ e := div_mul_cancel₀ _ (two_zpow_pos q).ne'
  have hlo : ((2 ^ 16 : Int) : ℚ) ≤ x := by
    rwa [hx, le_div_iff₀ (two_zpow_pos q), ← (binade_ends q).1]
  have hhi : x < ((2 ^ 17 : Int) : ℚ) := by
    rwa [hx, div_lt_iff₀ (two_zpow_pos q), ← (binade_ends q).2]
  obtain ⟨rlo, rhi⟩ := roundHalfEven_mem hlo hhi
  refine ⟨q, low, high, ?_⟩
  have tiny := spTiny_iff (q := q) rlo rhi
  have large := spLarge_iff (q := q) rlo rhi
  have units := roundUnits_nearest false m e q
  have exact_ := roundUnits_inexact 0 false m e q
  rw [← hx] at units exact_
  have hr : roundDir 0 x = roundHalfEven x := rfl
  dsimp only
  rw [hr]
  have hround : roundSp 0 m e =
      (let t : Int := (q + 32783) * 65536 + roundHalfEven x - 65536
       if t < 65536 then { v := 0, f := ufFlag ||| nxFlag }
       else if 65535 * 65536 ≤ t then { v := 0xFFFF0000, f := ofFlag ||| nxFlag }
       else { v := t.toNat, f := flagIf (roundUnits 0 false m e q).2 nxFlag }) := by
    rw [← units, hq]
    rfl
  rw [hround]
  dsimp only
  refine ⟨fun h => if_pos (tiny.mp h), fun h => ?_, fun hl hh => ?_⟩
  · have ht := large.mp h
    rw [if_neg (by omega), if_pos ht]
  · have ht := not_lt.mp (mt tiny.mpr (not_lt.mpr hl))
    have ht' := not_le.mp (mt large.mpr (not_lt.mpr hh))
    rw [if_neg (by omega), if_neg (by omega)]
    obtain ⟨hw, m', e', hdec, hval⟩ := spDecode_code (q := q) (t := ((q + 32783) * 65536 + roundHalfEven x - 65536).toNat)
      (by omega) rlo rhi (by omega) (by omega)
    have hexact : ((roundHalfEven x : ℚ) * 2 ^ q = m * 2 ^ e) ↔ (roundUnits 0 false m e q).2 = false := by
      rw [exact_, ← roundHalfEven_eq_iff, ← hxv, mul_left_inj' (two_zpow_pos q).ne']
    refine ⟨hw, m', e', hdec, hval, fun h => ?_, fun h => ?_⟩
    · rw [hexact.mp h]
      rfl
    · rw [Bool.eq_true_of_not_eq_false (mt hexact.mpr h)]
      rfl

/-- The multiple of 2^q that a value rounds to, when the value has 17 bits before that place, is no farther than any other number of 17
bits. -/
theorem rounded_nearest {v : ℚ} {q : Int} (lo : (2 : ℚ) ^ (q + 16) ≤ v) {p : Nat} (hp : p < 2 ^ 17) (g : Int) :
    |(roundHalfEven (v / 2 ^ q) : ℚ) * 2 ^ q - v| ≤ |(p : ℚ) * 2 ^ g - v| := by
  have hq := two_zpow_pos q
  have scale : ∀ n : ℚ, |n * 2 ^ q - v| = |n - v / 2 ^ q| * 2 ^ q := fun n => by
    rw [← abs_of_pos hq, ← abs_mul, abs_of_pos hq, sub_mul, div_mul_cancel₀ _ hq.ne']
  have nearest : ∀ n : Int, |(roundHalfEven (v / 2 ^ q) : ℚ) * 2 ^ q - v| ≤ |(n : ℚ) * 2 ^ q - v| := fun n => by
    rw [scale, scale]
    exact mul_le_mul_of_nonneg_right (roundHalfEven_nearest _ n) hq.le
  rcases le_or_gt q g with h | h
  · have whole : (p : ℚ) * 2 ^ g = ((p * 2 ^ (g - q).toNat : Int) : ℚ) * 2 ^ q := by
      have := intCast_mul_zpow_of_nonneg (p : Int) (sh := g - q) (by omega)
      rw [← this, mul_assoc, ← zpow_add₀ (by decide), sub_add_cancel, Int.cast_natCast]
    rw [whole]
    exact nearest _
  · have below : (p : ℚ) * 2 ^ g ≤ ((2 ^ 16 : Int) : ℚ) * 2 ^ q := by
      have := mul_zpow_le (r := (p : Int)) (a := 2 ^ 16) h (by norm_num) (by omega)
      rwa [Int.cast_natCast] at this
    rw [(binade_ends q).1] at lo
    refine (nearest (2 ^ 16)).trans ?_
    rw [abs_of_nonpos (by linarith), abs_of_nonpos (by linarith)]
    linarith

/-- A rounded value is the nearest of all finite ones, and inexact exactly when NX says so. -/
theorem IsSpRounded.nearest {r : Flagged} {v : ℚ} (h : IsSpRounded 0 r v) :
    (r.f &&& (ofFlag ||| ufFlag) = 0 → ∃ (m' : Nat) (e' : Int), spDecode r.lane = (.num m' e', 0)
        ∧ (r.f &&& nxFlag = 0 ↔ ratOf false m' e' = v)
        ∧ ∀ (z : Lane32) (p : Nat) (q : Int) (fz : FFlags), spDecode z = (.num p q, fz) → |ratOf false m' e' - v| ≤ |ratOf false p q - v|)
      ∧ (r.f &&& ofFlag ≠ 0 → r = { v := 0xFFFF0000, f := ofFlag ||| nxFlag })
      ∧ (r.f &&& ufFlag ≠ 0 → r = { v := 0, f := ufFlag ||| nxFlag }) := by
  obtain ⟨q, lo, hi, small, large, normal⟩ := h
  set y := (roundDir 0 (v / 2 ^ q) : ℚ) * 2 ^ q with hy
  rcases lt_or_ge y (2 ^ (-32766 : Int)) with hs | hs
  · have hr := small hs
    subst hr
    refine ⟨fun h0 => absurd h0 (by decide), fun h0 => absurd rfl h0, fun _ => rfl⟩
  rcases lt_or_ge ((2 - 2⁻¹ ^ 16) * 2 ^ 32767) y with hl | hl
  · have hr := large hl
    subst hr
    refine ⟨fun h0 => absurd h0 (by decide), fun _ => rfl, fun h0 => absurd rfl h0⟩
  obtain ⟨-, m, e, hdec, hval, hexact, hinexact⟩ := normal hs hl
  have flags : r.f = 0 ∨ r.f = nxFlag := by
    by_cases hyv : y = v
    · exact .inl (hexact hyv)
    · exact .inr (hinexact hyv)
  refine ⟨fun _ => ⟨m, e, hdec, ?_, fun z p g fz hz => ?_⟩, fun h0 => absurd ?_ h0, fun h0 => absurd ?_ h0⟩
  · rw [hval]
    by_cases hyv : y = v
    · rw [hexact hyv]
      exact iff_of_true rfl hyv
    · rw [hinexact hyv]
      exact iff_of_false (by decide) hyv
  · rw [hval, ratOf]
    simp only [Bool.false_eq_true, if_false, one_mul]
    exact rounded_nearest lo (spDecode_num_bounds hz).2 g
  all_goals rcases flags with hf | hf <;> rw [hf] <;> rfl

/-! ## Sums and products -/

/-- The exact sum of two magnitudes. -/
theorem exactSum_magnitudes {m n : Nat} (hm : m ≠ 0) (e : Int) (f : Int) :
    (exactSum false m e false n f).1.toNat ≠ 0
      ∧ ratOf false (exactSum false m e false n f).1.toNat (exactSum false m e false n f).2 = ratOf false m e + ratOf false n f := by
  obtain ⟨q, hq⟩ : ∃ q, q = if e ≤ f then e else f := ⟨_, rfl⟩
  have hs : exactSum false m e false n f = (((m * 2 ^ (e - q).toNat + n * 2 ^ (f - q).toNat : Nat) : Int), q) := by
    rw [exactSum, ← hq]
    simp [signedMag]
  have part : ∀ (k : Nat) {i : Int}, q ≤ i → ((k * 2 ^ (i - q).toNat : Nat) : ℚ) * 2 ^ q = k * 2 ^ i := fun k i hi => by
    have := intCast_mul_zpow_of_nonneg (k : Int) (sh := i - q) (by omega)
    rw [Int.cast_natCast] at this
    calc ((k * 2 ^ (i - q).toNat : Nat) : ℚ) * 2 ^ q = (k * 2 ^ (i - q)) * 2 ^ q := by rw [this]; push_cast; rfl
      _ = k * 2 ^ i := by rw [mul_assoc, ← zpow_add₀ (by decide), sub_add_cancel]
  have he : q ≤ e := by
    rw [hq]
    split <;> omega
  have hf : q ≤ f := by
    rw [hq]
    split <;> omega
  rw [hs]
  simp only [Int.toNat_natCast]
  refine ⟨?_, ?_⟩
  · have : 0 < m * 2 ^ (e - q).toNat := Nat.mul_pos (Nat.pos_of_ne_zero hm) (Nat.two_pow_pos _)
    omega
  · simp only [ratOf, Bool.false_eq_true, if_false, one_mul]
    rw [Nat.cast_add, add_mul, part m he, part n hf]

theorem ratOf_mul (m n : Nat) (e f : Int) : ratOf false (m * n) (e + f) = ratOf false m e * ratOf false n f := by
  simp only [ratOf, Bool.false_eq_true, if_false, one_mul]
  rw [zpow_add₀ (by decide)]
  push_cast
  ring

section
variable {x y : Lane32} {m n : Nat} {e f : Int} {fx fy : FFlags}

/-- The sum of two numbers is their exact sum rounded. -/
theorem spAdd_isSpRounded (hx : spDecode x = (.num m e, fx)) (hy : spDecode y = (.num n f, fy)) :
    IsSpRounded 0 (spAdd x y) (ratOf false m e + ratOf false n f) := by
  obtain ⟨rfl, -⟩ := spDecode_num hx
  obtain ⟨rfl, -⟩ := spDecode_num hy
  have hm := (spDecode_num_bounds hx).1
  obtain ⟨hne, hval⟩ := exactSum_magnitudes (m := m) (n := n) (by omega) e f
  have h : spAdd x y = roundSp 0 (exactSum false m e false n f).1.toNat (exactSum false m e false n f).2 := by
    simp [spAdd, hx, hy]
  rw [h, ← hval]
  exact roundSp_isSpRounded hne _

/-- The product of two numbers is their exact product rounded. -/
theorem spMul_isSpRounded (hx : spDecode x = (.num m e, fx)) (hy : spDecode y = (.num n f, fy)) :
    IsSpRounded 0 (spMul x y) (ratOf false m e * ratOf false n f) := by
  obtain ⟨rfl, -⟩ := spDecode_num hx
  obtain ⟨rfl, -⟩ := spDecode_num hy
  have hm := (spDecode_num_bounds hx).1
  have hn := (spDecode_num_bounds hy).1
  have h : spMul x y = roundSp 0 (m * n) (e + f) := by
    simp [spMul, hx, hy]
  rw [h, ← ratOf_mul]
  exact roundSp_isSpRounded (Nat.mul_ne_zero (by omega) (by omega)) _

end

/-- The sums and products with a word that is no number (04 R76). -/
theorem spAdd_spMul_special (x y : Lane32) :
    let a := (spDecode x).1
    let b := (spDecode y).1
    let gives := fun (r : Flagged) (v : Nat) (f : FFlags) => r = { v := v, f := f ||| (spDecode x).2 ||| (spDecode y).2 }
    (a = .nan ∨ b = .nan → gives (spAdd x y) 0xFFFFFFFF 0 ∧ gives (spMul x y) 0xFFFFFFFF 0)
    ∧ (a ≠ .nan → b ≠ .nan → a = .sat ∨ b = .sat → gives (spAdd x y) 0xFFFF0000 0
      ∧ (a = .zero ∨ b = .zero → gives (spMul x y) 0xFFFFFFFF nvFlag) ∧ (a ≠ .zero → b ≠ .zero → gives (spMul x y) 0xFFFF0000 0))
    ∧ (a = .zero → b ≠ .nan → b ≠ .sat → gives (spAdd x y) (if b = .zero then 0 else y.toNat) 0 ∧ gives (spMul x y) 0 0)
    ∧ (b = .zero → a ≠ .nan → a ≠ .sat → gives (spAdd x y) (if a = .zero then 0 else x.toNat) 0 ∧ gives (spMul x y) 0 0) := by
  have hx := encode_spDecode x
  have hy := encode_spDecode y
  cases ha : (spDecode x).1 <;> cases hb : (spDecode y).1 <;> rw [ha] at hx <;> rw [hb] at hy <;>
    simp [spAdd, spMul, ha, hb, hx, hy, quiet, spNan]

end Sys2Proof.Machine
end

section
/-! SUPPORT. A node of a sum-product tree from its children, operation by operation (16 R292 to R294). -/

namespace Sys2Proof.Machine

section
variable {sp : Bool} {h : BitVec 64} {ws : List Lane32} {i : Nat} {a b : Node}

/-- ZERO gives an invalid node. -/
theorem nodeValue_zero (hop : shapeOp h i = 6) :
    (nodeValue sp h ws i a b).ok = false ∧ (nodeValue sp h ws i a b).f = a.f ||| b.f := by
  simp [nodeValue, hop]

/-- So do two invalid children. -/
theorem nodeValue_invalid (ha : a.ok = false) (hb : b.ok = false) : (nodeValue sp h ws i a b).ok = false := by
  simp only [nodeValue, ha, hb, Bool.not_false, Bool.and_true, if_true]
  split <;> rfl

/-- A valid child passed on as it is, but for a reserved word or a NaN. -/
theorem nodePass_lane (sp : Bool) (x : Lane32) : nodePass sp x =
    { v := if sp then (spCanon x).v else (if isNan32 x then 0x7FC00000 else x).toNat, f := if sp then (spCanon x).f else 0 } := by
  cases sp
  · simp only [nodePass, quiet, Bool.false_eq_true, if_false]
    cases isNan32 x <;> rfl
  · rfl

/-- The larger of two SP32 words, as a node picks it (04 R75). -/
theorem spPick_lane (x y : Lane32) : (spPick true x y).lane = (if spDecode x = (.nan, 0) ∨ spDecode y = (.nan, 0) then 0xFFFFFFFF
    else if (spCanon y).v ≤ (spCanon x).v then (spCanon x).lane else (spCanon y).lane) := by
  simp only [spPick, spCanon_eq_nan_iff, if_true, Flagged.lane]
  split
  · rfl
  · split
    · next h => rw [Nat.max_eq_max, max_eq_left h]
    · next h => rw [Nat.max_eq_max, max_eq_right (by omega)]

/-- The operations of one flag set on two valid children. -/
theorem nodeValue_valid (ha : a.ok = true) (hb : b.ok = true) :
    let of := fun (r : Flagged) => ({ v := r.lane, ok := true, f := a.f ||| b.f ||| r.f } : Node)
    (shapeOp h i = 0 ∨ shapeOp h i = 7 → nodeValue sp h ws i a b = of (nodeAdd sp a.v b.v))
      ∧ (shapeOp h i = 1 → nodeValue sp h ws i a b = of (nodeMul sp a.v b.v))
      ∧ (shapeOp h i = 3 → nodeValue sp h ws i a b = of (nodeMax sp a.v b.v))
      ∧ (shapeOp h i = 4 → nodeValue sp h ws i a b = of (nodePass sp a.v))
      ∧ (shapeOp h i = 5 → nodeValue sp h ws i a b = of (nodePass sp b.v)) := by
  refine ⟨?_, ?_, ?_, ?_, ?_⟩
  · rintro (hop | hop) <;> simp [nodeValue, hop, ha, hb]
  all_goals
    intro hop
    simp [nodeValue, hop, ha, hb]

/-- WSUM weights its valid children (16 R293). -/
theorem nodeValue_wsum (hop : shapeOp h i = 2) (hok : a.ok = true ∨ b.ok = true) :
    let one := quiet (if sp then 0 else 0x80000000)
    let x := if a.ok then nodeMul sp (nth 0 ws (2 * i)) a.v else one
    let y := if b.ok then nodeMul sp (nth 0 ws (2 * i + 1)) b.v else one
    let r := nodeAdd sp x.lane y.lane
    nodeValue sp h ws i a b = { v := r.lane, ok := true, f := a.f ||| b.f ||| (r.f ||| x.f ||| y.f) } := by
  have hpad : quiet (padOf sp 2).toNat = quiet (if sp then 0 else 0x80000000) := by cases sp <;> rfl
  have some_ : (!a.ok && !b.ok) = false := by rcases hok with h | h <;> simp [h]
  have ok : (a.ok || b.ok) = true := by rcases hok with h | h <;> simp [h]
  simp [nodeValue, hop, some_, ok, hpad, Flagged.lane]

end

/-- Settles O39: a node by its operation, and SP32 by the rounding of exact values. -/
theorem sumProductNodes : Obligations.SumProductNodes := by
  refine ⟨fun sp h ws i a b => ?_, fun w => ⟨spDecode_zero, spDecode_top, fun lo hi => ⟨_, _, spDecode_finite lo hi, ratOf_fields _ _⟩⟩,
    spAdd_spMul_special, fun x y m n e f fx fy hx hy => ⟨spAdd_isSpRounded hx hy, spMul_isSpRounded hx hy⟩,
    fun x y m n e f fx fy hx hy => ⟨(spAdd_isSpRounded hx hy).nearest, (spMul_isSpRounded hx hy).nearest⟩⟩
  refine ⟨nodeValue_zero, nodeValue_invalid, fun _ ha hb => ?_, nodeValue_wsum⟩
  obtain ⟨add, mul, max, left, right⟩ := nodeValue_valid (sp := sp) (h := h) (ws := ws) (i := i) ha hb
  refine ⟨add, mul, fun h3 hsp => ?_, fun h3 hsp => ?_, fun h4 => ?_, fun h5 => ?_⟩
  · rw [max h3, hsp]
    exact congrArg (Node.mk · true _) (spPick_lane a.v b.v)
  · rw [max h3, hsp]
    show Node.mk (quiet (fmax32 a.v b.v).toNat).lane true (a.f ||| b.f ||| 0#9) = _
    rw [quiet_lane, BitVec.or_zero]
  · rw [left h4, nodePass_lane]
    cases sp <;> simp [Flagged.lane]
  · rw [right h5, nodePass_lane]
    cases sp <;> simp [Flagged.lane]

end Sys2Proof.Machine
end

section
/-! SUPPORT. Numbers in memory (00 R3): bytes as elements, cells of a number, and what a byte is after they are written. -/

namespace Sys2Proof.Machine

/-! ## Numbers as bytes -/

/-- The lowest element first. -/
theorem elemsNat_succ_low (w : Nat) (f : Nat → Nat) : ∀ n, elemsNat w f (n + 1) = f 0 % 2 ^ w + 2 ^ w * elemsNat w (fun i => f (i + 1)) n
  | 0 => by simp [elemsNat]
  | n + 1 => by
    rw [elemsNat, elemsNat_succ_low w f n, elemsNat, Nat.mul_add, Nat.mul_succ, Nat.pow_add]
    ring

theorem Memory.readNat_eq_elemsNat (m : Memory) : ∀ (n a : Nat), m.readNat a n = elemsNat 8 (fun i => (m.byte (a + i)).toNat) n
  | 0, _ => rfl
  | n + 1, a => by
    have shift : (fun i => (m.byte (a + 1 + i)).toNat) = fun i => (m.byte (a + (i + 1))).toNat :=
      funext fun i => by rw [Nat.add_assoc, Nat.add_comm 1 i]
    rw [Memory.readNat, Memory.readNat_eq_elemsNat m n (a + 1), elemsNat_succ_low, shift, Nat.add_zero,
      Nat.mod_eq_of_lt (BitVec.isLt _), show 2 ^ 8 = 256 from rfl]

/-! ## Cells of a number -/

/-- Some bytes of a number over a memory. -/
theorem Memory.byte_writeCells_cellsOf : ∀ (n : Nat) {m : Memory} (a x b : Nat), m.wf = true →
    (m.writeCells (cellsOf a n x)).byte b = if a ≤ b ∧ b < a + n then BitVec.ofNat 8 (x / 256 ^ (b - a)) else m.byte b
  | 0, m, a, x, b, _ => by
    rw [if_neg (by omega)]
    rfl
  | n + 1, m, a, x, b, h => by
    have ih := Memory.byte_writeCells_cellsOf n (a + 1) (x / 256) b (Memory.setByte_wf h a (BitVec.ofNat 8 x))
    rw [cellsOf, Memory.writeCells, ih, Memory.byte_setByte h]
    by_cases hb : b = a
    · subst hb
      rw [if_neg (by omega), if_pos rfl, if_pos (by omega), Nat.sub_self, Nat.pow_zero, Nat.div_one]
    · rw [if_neg hb]
      by_cases hin : a + 1 ≤ b ∧ b < a + 1 + n
      · rw [if_pos hin, if_pos (by omega), Nat.div_div_eq_div_mul, ← Nat.pow_succ']
        congr 3
        omega
      · rw [if_neg hin, if_neg (by omega)]

/-! ## Bytes as an atomic reads them -/

/-- Without poison an atomic reads the scratchpad as it stands. -/
theorem Core.padNat_eq {c : Core} (h : c.poison = []) (off n : Nat) : c.padNat off n = Memory.readNat c.scratch off n := by
  rw [Memory.readNat_eq_elemsNat, Core.padNat, h]
  rfl

theorem Core.atomPoison_eq_none {c : Core} (h : c.poison = []) (off n : Nat) : c.atomPoison off n = none := by
  simp [Core.atomPoison, Core.padPoisoned, h]

/-- An old value on its way touches no memory and no register. -/
theorem State.flyOld_keeps (s : State) (l : Landing) : KeepsRegisters s (s.flyOld l) ∧ KeepsMemory s (s.flyOld l)
    ∧ l ∈ (s.flyOld l).core.land := by
  have hland : l ∈ (s.fly l).core.land := mem_insertBy.mpr (.inl rfl)
  unfold State.flyOld
  dsimp only
  split
  · exact ⟨⟨rfl, rfl, rfl, rfl, rfl, rfl⟩, ⟨rfl, rfl, rfl, rfl, rfl, rfl⟩, hland⟩
  · exact ⟨⟨rfl, rfl, rfl, rfl, rfl, rfl⟩, ⟨rfl, rfl, rfl, rfl, rfl, rfl⟩, hland⟩

end Sys2Proof.Machine
end

section
/-! SUPPORT. Additions into a BIN set (04 R82, R83): the units of an addend, the bins after it, and the flags of word 7. -/

namespace Sys2Proof.Machine

/-! ## Units of an addend -/

/-- The units of an addend are the floor of a shift. -/
theorem binUnits_eq_floorShift (m : Nat) (e anchor : Int) :
    ((binUnits m e anchor).1 : Int) = (floorShift m (e + 224 - anchor)).1 ∧ (binUnits m e anchor).2 = (floorShift m (e + 224 - anchor)).2 := by
  unfold binUnits floorShift
  dsimp only
  split
  · exact ⟨by push_cast; rfl, rfl⟩
  · refine ⟨by push_cast; rfl, ?_⟩
    rw [decide_eq_decide]
    norm_cast

/-- The value of an addend in units of 2^(E−224). -/
theorem ratOf_units (m : Nat) (e anchor : Int) : ratOf false m e * 2 ^ (224 - anchor) = ((m : Int) : ℚ) * 2 ^ (e + 224 - anchor) := by
  rw [ratOf, if_neg (by decide), one_mul, mul_assoc, ← zpow_add₀ (by decide), Int.cast_natCast, add_sub_assoc]

theorem binUnits_fst (m : Nat) (e anchor : Int) : ((binUnits m e anchor).1 : Int) = ⌊ratOf false m e * (2 : ℚ) ^ (224 - anchor)⌋ := by
  rw [(binUnits_eq_floorShift m e anchor).1, floorShift_fst, ratOf_units]

theorem binUnits_snd (m : Nat) (e anchor : Int) : (binUnits m e anchor).2 = true ↔
    ((⌊ratOf false m e * (2 : ℚ) ^ (224 - anchor)⌋ : ℤ) : ℚ) ≠ ratOf false m e * 2 ^ (224 - anchor) := by
  rw [(binUnits_eq_floorShift m e anchor).2, floorShift_snd, ratOf_units]

/-- No bin holds the units of a magnitude from 2^E up (04 R83). -/
theorem le_binUnits_iff (m : Nat) (e anchor : Int) : 2 ^ 224 ≤ (binUnits m e anchor).1 ↔ (2 : ℚ) ^ anchor ≤ ratOf false m e := by
  have hint : 2 ^ 224 ≤ (binUnits m e anchor).1 ↔ ((2 ^ 224 : Nat) : Int) ≤ ((binUnits m e anchor).1 : Int) := Int.ofNat_le.symm
  have hpow : (((2 ^ 224 : Nat) : Int) : ℚ) = 2 ^ anchor * 2 ^ (224 - anchor) := by
    rw [← zpow_add₀ (by decide), add_sub_cancel]
    norm_num
  rw [hint, binUnits_fst, Int.le_floor, hpow, mul_le_mul_iff_left₀ (two_zpow_pos _)]

/-! ## The bins -/

/-- The digit of bin b of some units (04 R82). -/
def binDigit (u b : Nat) : Nat := u / 2 ^ (32 * (6 - b)) % 2 ^ 32

/-- What bin b holds after the addition of its digit, as an integer (04 R83). -/
def binTotal (set : BitVec 512) (neg : Bool) (u b : Nat) : Int :=
  (elem set 64 b).toInt + (if neg then -(binDigit u b : Int) else binDigit u b)

/-- Bin b leaves the int64 range (04 R83). -/
def binLeaves (set : BitVec 512) (neg : Bool) (u b : Nat) : Prop :=
  binTotal set neg u b < -(2 ^ 63) ∨ 2 ^ 63 ≤ binTotal set neg u b

/-- The digits make the units again. -/
theorem binDigits_sum {u : Nat} (h : u < 2 ^ 224) :
    binDigit u 0 * 2 ^ 192 + binDigit u 1 * 2 ^ 160 + binDigit u 2 * 2 ^ 128 + binDigit u 3 * 2 ^ 96 + binDigit u 4 * 2 ^ 64
      + binDigit u 5 * 2 ^ 32 + binDigit u 6 = u := by
  simp only [binDigit]
  omega

/-- The bins below n after an addition: the totals of those that stay in the range, and whether one leaves it. -/
theorem binAddTo_spec (set : BitVec 512) (neg : Bool) (u : Nat) : ∀ (n : Nat) (s : State),
    (binAddTo set neg u n s).1.length = n
      ∧ (∀ b, b < n → ¬binLeaves set neg u b →
          BitVec.ofNat 64 (nth 0 (binAddTo set neg u n s).1 b) = BitVec.ofInt 64 (binTotal set neg u b))
      ∧ ((binAddTo set neg u n s).2.1 = true ↔ ∃ b, b < n ∧ binLeaves set neg u b)
      ∧ ∃ k, (binAddTo set neg u n s).2.2 = { s with fresh := k }
  | 0, s => ⟨rfl, fun b hb => absurd hb (Nat.not_lt_zero b), by simp [binAddTo], s.fresh, rfl⟩
  | n + 1, s => by
    obtain ⟨hlen, hval, hout, k, hs⟩ := binAddTo_spec set neg u n s
    have total : (elem set 64 n).toInt + (if neg then -((u / 2 ^ (32 * (6 - n)) % 2 ^ 32 : Nat) : Int)
        else ((u / 2 ^ (32 * (6 - n)) % 2 ^ 32 : Nat) : Int)) = binTotal set neg u n := rfl
    have range : (binTotal set neg u n < -2 ^ 63 ∨ 2 ^ 63 - 1 < binTotal set neg u n) ↔ binLeaves set neg u n := by
      unfold binLeaves
      omega
    have earlier : ∀ x b, b < n → nth 0 ((binAddTo set neg u n s).1 ++ [x]) b = nth 0 (binAddTo set neg u n s).1 b := by
      intro x b hb
      rw [nth_eq_getD, nth_eq_getD, List.getElem?_append_left (by omega)]
    have last : ∀ x, nth 0 ((binAddTo set neg u n s).1 ++ [x]) n = x := by
      intro x
      rw [nth_eq_getD, List.getElem?_append_right (by omega), hlen, Nat.sub_self]
      rfl
    have split_ : ∀ P : Nat → Prop, (∃ b, b < n + 1 ∧ P b) ↔ P n ∨ ∃ b, b < n ∧ P b := fun P => by
      simp only [Nat.lt_succ_iff_lt_or_eq, or_and_right, exists_or, exists_eq_left]
      exact or_comm
    rw [binAddTo]
    dsimp only
    simp only [total]
    split
    · next h =>
      have hl := range.mp h
      refine ⟨by simp [hlen], fun b hb hin => ?_, ?_, k + 1, ?_⟩
      · rcases Nat.lt_succ_iff_lt_or_eq.mp hb with hb | rfl
        · rw [earlier _ b hb]
          exact hval b hb hin
        · exact absurd hl hin
      · rw [split_]
        exact iff_of_true rfl (.inl hl)
      · rw [hs]
        rfl
    · next h =>
      have hl := mt range.mpr h
      refine ⟨by simp [hlen], fun b hb hin => ?_, ?_, k, hs⟩
      · rcases Nat.lt_succ_iff_lt_or_eq.mp hb with hb | rfl
        · rw [earlier _ b hb]
          exact hval b hb hin
        · rw [last]
          refine BitVec.eq_of_toNat_eq ?_
          rw [BitVec.toNat_ofNat, BitVec.toNat_ofInt]
          exact Nat.mod_eq_of_lt (by omega)
      · rw [split_, hout]
        exact (or_iff_right hl).symm

end Sys2Proof.Machine
end

section
/-! SUPPORT. ABN's addition as a whole (04 R83): each bin, and each flag of word 7. -/

namespace Sys2Proof.Machine

/-- E of a BIN set (04 R82). -/
def binAnchor (set : BitVec 512) : Int := (bitsAt (elem set 64 7) 0 16 : BitVec 16).toInt

/-- The sign and the units of an addend, and whether its units drop bits: nothing for an infinity or a NaN (04 R83). -/
def binParts (set : BitVec 512) (x : BitVec 32) : Bool × Nat × Bool :=
  match fp32Of x with
  | .num neg m e => (neg, binUnits m e (binAnchor set))
  | _ => (false, 0, false)

/-- The addition in its two halves, the bins and word 7. -/
theorem State.binAdd_eq (s : State) (set : BitVec 512) (x : BitVec 32) : s.binAdd set x =
    (let p := binParts set x
     let r := binAddTo set p.1 (p.2.1 % 2 ^ 224) 7 s
     (BitVec.ofNat 512 (elemsNat 64 (fun b => if b < 7 then nth 0 r.1 b
       else binWord set 7 ||| binFlags x (fp32Of x) p.2.1 p.2.2 r.2.1) 8), r.2.2)) := by
  have anchor : (BitVec.ofNat 16 (binWord set 7)).toInt = binAnchor set := by
    rw [binAnchor, bitsAt, Nat.pow_zero, Nat.div_one, binWord]
  cases h : fp32Of x <;> simp only [State.binAdd, binParts, anchor, h]

section
variable (s : State) (set : BitVec 512) (x : BitVec 32)

/-- The addition draws free values at most. -/
theorem State.binAdd_state : ∃ k, (s.binAdd set x).2 = { s with fresh := k } := by
  rw [State.binAdd_eq]
  exact (binAddTo_spec set _ _ 7 s).2.2.2

/-- The digits of an addend are those of all its units, the highest left out. -/
theorem binTotal_mod (neg : Bool) (u : Nat) {b : Nat} (hb : b < 7) : binTotal set neg (u % 2 ^ 224) b = binTotal set neg u b := by
  have digit : binDigit (u % 2 ^ 224) b = binDigit u b := by
    have hsplit : 2 ^ 224 = 2 ^ (32 * (6 - b)) * (2 ^ 32 * 2 ^ (192 - 32 * (6 - b))) := by
      rw [← Nat.pow_add, ← Nat.pow_add]
      congr 1
      omega
    rw [binDigit, hsplit, Nat.mod_mul_right_div_self, Nat.mod_mul_right_mod, binDigit]
  rw [binTotal, binTotal, digit]

theorem binLeaves_mod (neg : Bool) (u : Nat) {b : Nat} (hb : b < 7) : binLeaves set neg (u % 2 ^ 224) b ↔ binLeaves set neg u b := by
  rw [binLeaves, binLeaves, binTotal_mod set neg u hb]

/-- A bin that stays in its range holds its total. -/
theorem State.binAdd_bin {b : Nat} (hb : b < 7) (h : ¬binLeaves set (binParts set x).1 (binParts set x).2.1 b) :
    (elem (s.binAdd set x).1 64 b : BitVec 64).toInt = binTotal set (binParts set x).1 (binParts set x).2.1 b := by
  have h' := mt (binLeaves_mod set (binParts set x).1 (binParts set x).2.1 hb).mp h
  have hval := (binAddTo_spec set (binParts set x).1 ((binParts set x).2.1 % 2 ^ 224) 7 s).2.1 b hb h'
  rw [State.binAdd_eq]
  dsimp only
  rw [elem_ofNat_elemsNat _ (by omega) (by decide), if_pos hb, hval, binTotal_mod set _ _ hb]
  unfold binLeaves at h
  exact BitVec.toInt_ofInt_eq_self (by decide) (by omega) (by omega)

/-- Some bin leaves its range. -/
def binOverflows : Prop := ∃ b, b < 7 ∧ binLeaves set (binParts set x).1 (binParts set x).2.1 b

/-- A bit of word 7 stays set, or its flag sets it. -/
theorem State.binAdd_word7 {i : Nat} (hi : i < 64) : ∃ bov : Bool, (bov = true ↔ binOverflows set x)
    ∧ bitAt (elem (s.binAdd set x).1 64 7 : BitVec 64) i
      = (bitAt (elem set 64 7 : BitVec 64) i || (binFlags x (fp32Of x) (binParts set x).2.1 (binParts set x).2.2 bov).testBit i) := by
  have hout := (binAddTo_spec set (binParts set x).1 ((binParts set x).2.1 % 2 ^ 224) 7 s).2.2.1
  refine ⟨_, hout.trans (exists_congr fun b => and_congr_right fun hb => binLeaves_mod set _ _ hb), ?_⟩
  rw [State.binAdd_eq]
  dsimp only
  rw [elem_ofNat_elemsNat _ (by decide) (by decide), if_neg (by decide), bitAt_eq_testBit, bitAt_eq_testBit, BitVec.toNat_ofNat,
    Nat.testBit_mod_two_pow, Nat.testBit_or, decide_eq_true hi, Bool.true_and, binWord]

end

/-! ## Flags -/

theorem testBit_flag (b : Bool) (i j : Nat) : (if b then 2 ^ i else 0).testBit j = (b && decide (i = j)) := by
  cases b
  · simp
  · simp [Nat.testBit_two_pow]

/-- The flags of word 7 that an addend sets, bit by bit (04 R83). -/
theorem binFlags_testBit (x : BitVec 32) (v : Fp) (u : Nat) (trn bov : Bool) (j : Nat) : (binFlags x v u trn bov).testBit j =
    (decide (21 = j) || (x != 0x80000000) && decide (22 = j)
      || match v with
        | .nan => decide (17 = j)
        | .inf neg => decide ((if neg then 19 else 18) = j)
        | .num .. => trn && decide (16 = j) || (bov || decide (2 ^ 224 ≤ u)) && decide (20 = j)) := by
  unfold binFlags
  cases v with
  | nan => simp only [Nat.testBit_or, testBit_flag, Nat.testBit_two_pow, if_true]
  | inf neg => cases neg <;> simp only [Nat.testBit_or, testBit_flag, Nat.testBit_two_pow, if_true, Bool.false_eq_true, if_false]
  | num n m e => simp only [Nat.testBit_or, testBit_flag, Nat.testBit_two_pow, if_true]

/-! ## NaNs and infinities -/

theorem fp32Of_nan {x : Lane32} (h : isNan32 x = true) : fp32Of x = .nan := by
  rw [isNan32, decide_eq_true_iff] at h
  have exponent : x.toNat / 2 ^ (fp32.p - 1) % 2 ^ fp32.eb = 2 ^ fp32.eb - 1 := by
    show x.toNat / 2 ^ 23 % 2 ^ 8 = 2 ^ 8 - 1
    omega
  have fraction : x.toNat % 2 ^ (fp32.p - 1) ≠ 0 := by
    show x.toNat % 2 ^ 23 ≠ 0
    omega
  rw [fp32Of, Fmt.decode, if_pos exponent, if_neg fraction]

theorem fp32Of_infinity : fp32Of 0x7F800000 = .inf false ∧ fp32Of 0xFF800000 = .inf true := by decide

/-- Nothing is added for them, and every bin stays as it is. -/
theorem State.binAdd_bin_special (s : State) (set : BitVec 512) {x : BitVec 32} (h : binParts set x = (false, 0, false)) {b : Nat} (hb : b < 7) :
    elem (s.binAdd set x).1 64 b = (elem set 64 b : BitVec 64) := by
  have total : binTotal set false 0 b = (elem set 64 b : BitVec 64).toInt := by simp [binTotal, binDigit]
  have lo := BitVec.le_toInt (elem set 64 b : BitVec 64)
  have hi := BitVec.toInt_lt (x := (elem set 64 b : BitVec 64))
  have stays : ¬binLeaves set false 0 b := by
    unfold binLeaves
    rw [total]
    omega
  have read := s.binAdd_bin set x hb (by rw [h]; exact stays)
  rw [h, total] at read
  exact BitVec.toInt_inj.mp read

end Sys2Proof.Machine
end

section
/-! SUPPORT. Atomics in their bank cycle, ABN's addition clause by clause, and BFOLD's load (17 R317 to R320, 04 R82, R83). -/

namespace Sys2Proof.Machine

/-! ## The bank cycle -/

/-- A local atomic writes its new value, and sends the old one to `lda`. -/
theorem State.atomAct_local {s : State} {a : AtomAccess} {op : BitVec 3} {i64 : Bool} {off : Nat} {x y : Word}
    (ha : a.eff = .atmLocal op i64 off x y) (hwf : Memory.wf s.core.scratch = true) :
    let n := if i64 then 8 else 4
    let w := 8 * n
    let old := s.core.padNat off n
    let t := s.atomAct a
    Memory.wf t.core.scratch = true
    ∧ (∀ b : Nat, Memory.byte t.core.scratch b = if off ≤ b ∧ b < off + n
        then BitVec.ofNat 8 (atomicNew op w old (x.toNat % 2 ^ w) (y.toNat % 2 ^ w) / 256 ^ (b - off)) else Memory.byte s.core.scratch b)
    ∧ KeepsRegisters s t ∧ t.core.wbuf = s.core.wbuf ∧ t.hbm = s.hbm ∧ t.quire = s.quire ∧ t.mirror = s.mirror
    ∧ ∃ l ∈ t.core.land, l.due = a.due ∧ l.latch = .lda ∧ l.file = none ∧ l.flg = 0 ∧ l.lval = BitVec.ofNat 1024 old
      ∧ (s.core.poison = [] → l.bad = none) := by
  intro n w old t
  let c := s.core.atomWrite a (cellsOf off n (atomicNew op w old (x.toNat % 2 ^ w) (y.toNat % 2 ^ w)))
  let l : Landing := { due := a.due, seq := a.seq, slot := 7, file := none, dst := 0, val := 0, sel := 0, flg := 0, latch := .lda,
                       lval := BitVec.ofNat 1024 old, lsel := BitVec.allOnes 1024, bad := s.core.atomPoison off n }
  have ht : t = State.flyOld { s with core := c } l := by
    simp only [t, State.atomAct, ha]
    rfl
  obtain ⟨hregs, ⟨hscratch, hwbuf, hhbm, hquire, hmirror, -⟩, hland⟩ := State.flyOld_keeps { s with core := c } l
  rw [← ht] at hregs hscratch hwbuf hhbm hquire hmirror hland
  have hmem : t.core.scratch = Memory.writeCells s.core.scratch (cellsOf off n (atomicNew op w old (x.toNat % 2 ^ w) (y.toNat % 2 ^ w))) :=
    hscratch
  rw [hmem]
  exact ⟨Memory.writeCells_wf _ hwf, fun b => Memory.byte_writeCells_cellsOf n off _ b hwf, hregs, hwbuf, hhbm, hquire, hmirror,
    l, hland, rfl, rfl, rfl, rfl, rfl, fun hp => Core.atomPoison_eq_none hp off n⟩

/-- A byte of a word. -/
theorem elem_byte {n : Nat} (x : BitVec n) (i : Nat) : elem x 8 i = BitVec.ofNat 8 (x.toNat / 256 ^ i) := by
  rw [elem, Nat.pow_mul, show 2 ^ 8 = 256 from rfl]

/-- ABN in its bank cycle: the set that its addition gives goes to memory.  The addition stands under a name of its own here, so that no
check of the proof evaluates it. -/
theorem State.atomAct_abn_eq {s : State} {a : AtomAccess} {off : Nat} {x : BitVec 32} (ha : a.eff = .abn off x) {set : BitVec 512}
    (hset : set = BitVec.ofNat 512 (s.core.padNat off 64)) : ∃ (k : Nat) (cells : List Host.Cell),
      cells = cellsOf off 64 (s.binAdd set x).1.toNat ∧ s.atomAct a = { s with
        fresh := k
        core := { s.core.atomWrite a cells with lateDue := s.core.raiseLate (s.core.atomPoison off 64) } } := by
  obtain ⟨k, hk⟩ := s.binAdd_state set x
  obtain ⟨add, hadd⟩ : ∃ add, add = State.binAdd := ⟨_, rfl⟩
  unfold State.atomAct
  rw [← hadd] at hk ⊢
  rw [ha]
  dsimp only
  rw [← hset]
  obtain ⟨added, hadded⟩ : ∃ added, added = add s set x := ⟨_, rfl⟩
  rw [← hadded] at hk ⊢
  obtain ⟨set', s'⟩ := added
  dsimp only at hk
  subst hk
  exact ⟨k, _, rfl, rfl⟩

/-- ABN writes its set, and nothing lands. -/
theorem State.atomAct_abn {s : State} {a : AtomAccess} {off : Nat} {x : BitVec 32} (ha : a.eff = .abn off x)
    (hwf : Memory.wf s.core.scratch = true) {set : BitVec 512} (hset : set = BitVec.ofNat 512 (s.core.padNat off 64)) :
    Memory.wf (s.atomAct a).core.scratch = true
    ∧ (∀ b : Nat, Memory.byte (s.atomAct a).core.scratch b = if off ≤ b ∧ b < off + 64 then elem (s.binAdd set x).1 8 (b - off)
        else Memory.byte s.core.scratch b)
    ∧ KeepsRegisters s (s.atomAct a) ∧ (s.atomAct a).core.land = s.core.land ∧ (s.atomAct a).core.wbuf = s.core.wbuf
    ∧ (s.atomAct a).hbm = s.hbm ∧ (s.atomAct a).quire = s.quire ∧ (s.atomAct a).mirror = s.mirror
    ∧ (s.core.poison = [] → (s.atomAct a).core.lateDue = s.core.lateDue) := by
  obtain ⟨k, cells, hcells, ht⟩ := State.atomAct_abn_eq ha hset
  have hmem : (s.atomAct a).core.scratch = Memory.writeCells s.core.scratch cells := by
    rw [ht]
    rfl
  refine ⟨?_, fun b => ?_, ?_⟩
  · rw [hmem]
    exact Memory.writeCells_wf _ hwf
  · rw [hmem, hcells, Memory.byte_writeCells_cellsOf 64 off _ b hwf, elem_byte]
  · rw [ht]
    refine ⟨⟨rfl, rfl, rfl, rfl, rfl, rfl⟩, rfl, rfl, rfl, rfl, rfl, fun hp => ?_⟩
    exact congrArg s.core.raiseLate (Core.atomPoison_eq_none hp off 64)

/-! ## Operations -/

/-- The signed reading of a number, as an atomic takes it. -/
theorem ofNat_toInt {w n : Nat} (hw : 0 < w) (hn : n < 2 ^ w) :
    (BitVec.ofNat w n).toInt = if (n : Int) < 2 ^ (w - 1) then (n : Int) else (n : Int) - 2 ^ w := by
  have hp : 2 ^ w = 2 * 2 ^ (w - 1) := by
    rw [← Nat.pow_succ']
    congr 1
    omega
  rw [BitVec.toInt_eq_toNat_cond, BitVec.toNat_ofNat, Nat.mod_eq_of_lt hn]
  have hcast : ((2 ^ (w - 1) : Nat) : Int) = 2 ^ (w - 1) := by push_cast; rfl
  split <;> split <;> push_cast <;> omega

/-- The new value of an atomic by its code (09 R162, 17 R317). -/
theorem atomicNew_spec {w old x : Nat} (y : Nat) (hw : 0 < w) (ho : old < 2 ^ w) (hx : x < 2 ^ w) :
    let sg := fun (n : Nat) => (BitVec.ofNat w n).toInt
    atomicNew 0 w old x y = (old + x) % 2 ^ w ∧ atomicNew 3 w old x y = min old x ∧ atomicNew 4 w old x y = max old x
    ∧ atomicNew 5 w old x y = x ∧ atomicNew 6 w old x y = (if old = y then x else old)
    ∧ sg (atomicNew 1 w old x y) = min (sg old) (sg x) ∧ sg (atomicNew 2 w old x y) = max (sg old) (sg x) := by
  intro sg
  have smaller : atomicNew 1 w old x y = if sg old ≤ sg x then old else x := by
    simp only [sg, ofNat_toInt hw ho, ofNat_toInt hw hx]
    rfl
  have larger : atomicNew 2 w old x y = if sg old ≤ sg x then x else old := by
    simp only [sg, ofNat_toInt hw ho, ofNat_toInt hw hx]
    rfl
  refine ⟨rfl, rfl, rfl, rfl, rfl, ?_, ?_⟩
  · rw [smaller, apply_ite sg, min_def]
  · rw [larger, apply_ite sg, max_def]

/-! ## The addition of a number -/

section
variable {set : BitVec 512} {x : BitVec 32} {neg : Bool} {m : Nat} {e : Int}

theorem binParts_num (h : fp32Of x = .num neg m e) : binParts set x = (neg, binUnits m e (binAnchor set)) := by
  rw [binParts, h]

/-- The digit of a bin as a floor of the addend (04 R82). -/
theorem binDigit_floor (m : Nat) (e anchor : Int) {b : Nat} (hb : b < 7) : ((binDigit (binUnits m e anchor).1 b : Nat) : Int) =
    ⌊ratOf false m e * (2 : ℚ) ^ (32 * ((b : Int) + 1) - anchor)⌋ % 2 ^ 32 := by
  have hscale : ratOf false m e * (2 : ℚ) ^ (32 * ((b : Int) + 1) - anchor)
      = ratOf false m e * 2 ^ (224 - anchor) / ((2 ^ (32 * (6 - b)) : Nat) : ℚ) := by
    have hexp : 224 - anchor = 32 * ((b : Int) + 1) - anchor + ((32 * (6 - b) : Nat) : Int) := by omega
    rw [hexp, zpow_add₀ (by decide), zpow_natCast, ← mul_assoc]
    push_cast
    rw [mul_div_cancel_right₀ _ (by positivity)]
  rw [hscale, Int.floor_div_natCast, ← binUnits_fst, binDigit]
  push_cast
  rfl

theorem binTotal_num (h : fp32Of x = .num neg m e) {b : Nat} (hb : b < 7) :
    binTotal set (binParts set x).1 (binParts set x).2.1 b = (elem set 64 b : BitVec 64).toInt
      + (if neg then -(⌊ratOf false m e * (2 : ℚ) ^ (32 * ((b : Int) + 1) - binAnchor set)⌋ % 2 ^ 32)
        else ⌊ratOf false m e * (2 : ℚ) ^ (32 * ((b : Int) + 1) - binAnchor set)⌋ % 2 ^ 32) := by
  rw [binParts_num h, ← binDigit_floor m e (binAnchor set) hb]
  rfl

/-- BOV: a magnitude that no bin holds, or a bin that leaves its range (04 R83). -/
theorem State.binAdd_bov (s : State) (h : fp32Of x = .num neg m e) : bitAt (elem (s.binAdd set x).1 64 7 : BitVec 64) 20 = true ↔
    bitAt (elem set 64 7 : BitVec 64) 20 = true ∨ (2 : ℚ) ^ binAnchor set ≤ ratOf false m e ∨ binOverflows set x := by
  obtain ⟨bov, hbov, hbit⟩ := s.binAdd_word7 set x (i := 20) (by decide)
  rw [hbit, binFlags_testBit, h, ← le_binUnits_iff, ← hbov, binParts_num h]
  simp [or_comm]

/-- TRN: the addend has bits below the last bin (04 R83). -/
theorem State.binAdd_trn (s : State) (h : fp32Of x = .num neg m e) : bitAt (elem (s.binAdd set x).1 64 7 : BitVec 64) 16 = true ↔
    bitAt (elem set 64 7 : BitVec 64) 16 = true
      ∨ ((⌊ratOf false m e * (2 : ℚ) ^ (224 - binAnchor set)⌋ : ℤ) : ℚ) ≠ ratOf false m e * 2 ^ (224 - binAnchor set) := by
  obtain ⟨bov, -, hbit⟩ := s.binAdd_word7 set x (i := 16) (by decide)
  rw [hbit, binFlags_testBit, h, ← binUnits_snd, binParts_num h]
  simp

end

end Sys2Proof.Machine
end

section
/-! SUPPORT. Word 7 of a BIN set after an addition, BFOLD's load, and O44 (17 R317 to R320, 04 R82, R83). -/
namespace Sys2Proof.Machine

section
variable (s : State) (set : BitVec 512) (x : BitVec 32)

/-- Word 7 keeps the bits that no flag has (04 R83). -/
theorem State.binAdd_word7_other {i : Nat} (hi : i < 16 ∨ 22 < i) :
    (elem (s.binAdd set x).1 64 7 : BitVec 64).getLsbD i = (elem set 64 7 : BitVec 64).getLsbD i := by
  by_cases h64 : i < 64
  · obtain ⟨bov, -, hbit⟩ := s.binAdd_word7 set x h64
    rw [bitAt_eq_getLsbD, bitAt_eq_getLsbD, binFlags_testBit] at hbit
    rw [hbit]
    have quiet : ∀ j, 16 ≤ j ∧ j ≤ 22 → decide (j = i) = false := fun j hj => decide_eq_false (by omega)
    rw [quiet 21 (by decide), quiet 22 (by decide), quiet 16 (by decide), quiet 20 (by decide), quiet 17 (by decide)]
    cases fp32Of x with
    | nan => simp
    | inf neg => cases neg <;> simp [quiet 18 (by decide), quiet 19 (by decide)]
    | num neg m e => simp
  · rw [BitVec.getLsbD_of_ge _ _ (by omega), BitVec.getLsbD_of_ge _ _ (by omega)]

/-- ANY, and NNZ, after an addition (04 R83). -/
theorem State.binAdd_any : bitAt (elem (s.binAdd set x).1 64 7 : BitVec 64) 21 = true := by
  obtain ⟨bov, -, hbit⟩ := s.binAdd_word7 set x (i := 21) (by decide)
  rw [hbit, binFlags_testBit]
  simp

theorem State.binAdd_nnz : bitAt (elem (s.binAdd set x).1 64 7 : BitVec 64) 22
    = (bitAt (elem set 64 7 : BitVec 64) 22 || decide (x ≠ 0x80000000)) := by
  obtain ⟨bov, -, hbit⟩ := s.binAdd_word7 set x (i := 22) (by decide)
  have nonzero : (x != 0x80000000) = decide (x ≠ 0x80000000) := Bool.eq_iff_iff.mpr (by simp)
  rw [hbit, binFlags_testBit, nonzero]
  cases fp32Of x with
  | nan => simp
  | inf neg => cases neg <;> simp
  | num neg m e => simp

/-- The bits of word 7 beside the flags, as fields. -/
theorem State.binAdd_field {lo n : Nat} (h : lo + n ≤ 16 ∨ 22 < lo) :
    bitsAt (elem (s.binAdd set x).1 64 7 : BitVec 64) lo n = bitsAt (elem set 64 7 : BitVec 64) lo n := by
  refine BitVec.eq_of_getLsbD_eq fun i hi => ?_
  rw [bitsAt_getLsbD, bitsAt_getLsbD, s.binAdd_word7_other set x (by omega)]

variable {x}

/-- A NaN sets its flag, and adds nothing (04 R83). -/
theorem State.binAdd_nan (h : fp32Of x = .nan) : bitAt (elem (s.binAdd set x).1 64 7 : BitVec 64) 17 = true
    ∧ ∀ b, b < 7 → elem (s.binAdd set x).1 64 b = (elem set 64 b : BitVec 64) := by
  have parts : binParts set x = (false, 0, false) := by rw [binParts, h]
  obtain ⟨bov, -, hbit⟩ := s.binAdd_word7 set x (i := 17) (by decide)
  rw [hbit, binFlags_testBit, h]
  exact ⟨by simp, fun b hb => s.binAdd_bin_special set parts hb⟩

/-- An infinity sets the flag of its sign, and adds nothing (04 R83). -/
theorem State.binAdd_infinity {neg : Bool} (h : fp32Of x = .inf neg) :
    bitAt (elem (s.binAdd set x).1 64 7 : BitVec 64) (if neg then 19 else 18) = true
    ∧ ∀ b, b < 7 → elem (s.binAdd set x).1 64 b = (elem set 64 b : BitVec 64) := by
  have parts : binParts set x = (false, 0, false) := by rw [binParts, h]
  obtain ⟨bov, -, hbit⟩ := s.binAdd_word7 set x (i := if neg then 19 else 18) (by cases neg <;> decide)
  rw [hbit, binFlags_testBit, h]
  exact ⟨by simp, fun b hb => s.binAdd_bin_special set parts hb⟩

/-- Bins far from their range take an addend that a bin holds: the sum of the set grows by its units (04 R82, R83). -/
theorem State.binAdd_sum {neg : Bool} {m : Nat} {e : Int} (h : fp32Of x = .num neg m e)
    (hbins : ∀ b, b < 7 → |(elem set 64 b : BitVec 64).toInt| < 2 ^ 62) (hv : ratOf false m e < (2 : ℚ) ^ binAnchor set) :
    binSum (s.binAdd set x).1 = binSum set
        + (if neg then -⌊ratOf false m e * (2 : ℚ) ^ (224 - binAnchor set)⌋ else ⌊ratOf false m e * (2 : ℚ) ^ (224 - binAnchor set)⌋)
      ∧ ¬binOverflows set x := by
  have stays : ∀ b, b < 7 → ¬binLeaves set (binParts set x).1 (binParts set x).2.1 b := by
    intro b hb
    have hbin := abs_lt.mp (hbins b hb)
    have hdigit : binDigit (binParts set x).2.1 b < 2 ^ 32 := Nat.mod_lt _ (by decide)
    unfold binLeaves binTotal
    split <;> omega
  refine ⟨?_, fun ⟨b, hb, hl⟩ => stays b hb hl⟩
  have held : (binUnits m e (binAnchor set)).1 < 2 ^ 224 := by
    rw [← Nat.not_le, le_binUnits_iff, not_le]
    exact hv
  have digits := congrArg (Nat.cast : Nat → Int) (binDigits_sum held)
  have read : ∀ b, b < 7 → (elem (s.binAdd set x).1 64 b : BitVec 64).toInt = (elem set 64 b : BitVec 64).toInt
      + (if neg then -(binDigit (binUnits m e (binAnchor set)).1 b : Int) else binDigit (binUnits m e (binAnchor set)).1 b) := by
    intro b hb
    rw [s.binAdd_bin set x hb (stays b hb), binParts_num h, binTotal]
  rw [binSum_eq, binSum_eq, read 0 (by decide), read 1 (by decide), read 2 (by decide), read 3 (by decide), read 4 (by decide),
    read 5 (by decide), read 6 (by decide), ← binUnits_fst]
  push_cast at digits
  cases neg
  · simp only [Bool.false_eq_true, if_false]
    linarith only [digits]
  · simp only [if_true]
    linarith only [digits]

end

/-! ## BFOLD -/

theorem exec_bfold (g : BitVec 4) (n m : BitVec 5) (e : BitVec 2) (s : State) : exec (.bfold g n m e) s = execBfold g n m e s := rfl

theorem le_maxOf : ∀ (l : List Nat) (lo : Nat), lo ≤ maxOf lo l
  | [], lo => Nat.le_refl lo
  | x :: l, lo => Nat.le_trans (Nat.le_max_left lo x) (le_maxOf l _)

/-- A bank phase begins at its bound or later (07 R125). -/
theorem le_phaseStart (free : Vector Nat 32) (gs : List Nat) (lo : Nat) : lo ≤ phaseStart free gs lo := le_maxOf _ lo

/-- A fenced phase begins four cycles after its issue or later (17 R318, R319). -/
theorem Core.fencedPhase_ge (c : Core) (gs : List Nat) : c.cyc + 4 ≤ (c.fencedPhase gs).1 := by
  unfold Core.fencedPhase
  exact Nat.le_trans (Nat.le_max_left _ _) (Nat.le_trans (le_phaseStart c.ldFree gs _) (Nat.le_max_left _ _))

/-- A result for an address register goes nowhere when that is a0 (11 R38). -/
theorem discards_address (m : BitVec 5) : discards .a (BitVec.ofNat 10 m.toNat) = decide (m = 0) := by
  have zero : BitVec.ofNat 10 m.toNat = 0 ↔ m = 0 := by bv_omega
  rw [discards, show (RegFile.a == .a) = true from rfl, Bool.true_or, Bool.true_or, Bool.true_or, Bool.and_true,
    Bool.beq_eq_decide_eq, decide_eq_decide]
  exact zero

/-- BFOLD queues a load of its set in a fenced bank phase (17 R320). -/
theorem execBfold_spec {g : BitVec 4} {n m : BitVec 5} {e : BitVec 2} {s : State} (hg : s.guardOn g = true) :
    let a := (s.core.r.readA n).toNat
    let ph := s.core.fencedPhase (granulesFrom a 64)
    (a % 64 ≠ 0 → execBfold g n m e s = .next (s.takePrecise (accessFault .misalignment 7 .read 0 a)))
    ∧ (a % 64 = 0 → Config.scratchBytes ≤ a → execBfold g n m e s = .next (s.takePrecise (accessFault .outOfTable 7 .read 0 a)))
    ∧ (a % 64 = 0 → a < Config.scratchBytes → ∃ (t : State) (l : Load), execBfold g n m e s = .next t ∧ QueuesLoad s t l
      ∧ l.bytes = ((List.range 64).map fun i => (i, a + i)) ∧ l.form = .bfold e ∧ l.readAt + 4 = ph.1 ∧ l.land.due = ph.1 + ph.2.1 + 11
      ∧ l.land.file = (if m = 0 then none else some .a) ∧ l.land.dst = BitVec.ofNat 10 m.toNat ∧ l.land.latch = .lda) := by
  intro a ph
  rw [execBfold, guarded, if_pos hg, State.binPlace]
  refine ⟨fun h => ?_, fun h hout => ?_, fun h hin => ?_⟩
  · rw [if_pos h]
  · rw [if_neg (not_not.mpr h), if_pos hout]
  · rw [if_neg (not_not.mpr h), if_neg (Nat.not_le.mpr hin)]
    have hph : s.core.cyc + 4 ≤ ph.1 := s.core.fencedPhase_ge (granulesFrom a 64)
    refine ⟨_, _, rfl, ⟨rfl, rfl, ⟨rfl, rfl, rfl, rfl, rfl, rfl⟩, ⟨rfl, rfl, rfl, rfl, rfl, rfl⟩⟩, rfl, rfl,
      Nat.sub_add_cancel (Nat.le_trans (Nat.le_add_left 4 _) hph), rfl, ?_, rfl, rfl⟩
    show (if discards .a (BitVec.ofNat 10 m.toNat) = true then none else some RegFile.a) = _
    simp only [discards_address, decide_eq_true_eq]

/-! ## The obligation -/

/-- Settles O44: the bank cycle of an atomic and of ABN, the addition by its bins and flags, and BFOLD's load. -/
theorem atomicsAndBinSets : Obligations.AtomicsAndBinSets := by
  refine ⟨fun s a op i64 off x y ha hwf => ?_, fun s a off x ha hwf => ?_, fun s set x n m e h => ?_, fun w old x y hw ho hx => ?_,
    fun s set x => ?_, fun g n m e s hg => ?_⟩
  · obtain ⟨hwf', hrest⟩ := State.atomAct_local ha hwf
    exact ⟨hwf', fun hp => Core.padNat_eq hp off _, hrest⟩
  · obtain ⟨hwf', hrest⟩ := State.atomAct_abn ha hwf rfl
    exact ⟨hwf', fun hp => Core.padNat_eq hp off _, hrest⟩
  · have leaves : ∀ b, b < 7 → (binLeaves set (binParts set x).1 (binParts set x).2.1 b ↔ _) := fun b hb => by
      rw [binLeaves, binTotal_num h hb]
    refine ⟨fun b hb hin => ?_, ?_, s.binAdd_trn h⟩
    · rw [s.binAdd_bin set x hb (mt (leaves b hb).mp hin), binTotal_num h hb]
      rfl
    · rw [s.binAdd_bov h, binOverflows, exists_congr fun b => and_congr_right fun hb => leaves b hb]
      rfl
  · exact atomicNew_spec y (by omega) ho hx
  · refine ⟨s.binAdd_any set x, s.binAdd_nnz set x, s.binAdd_field set x (by decide), s.binAdd_field set x (by decide),
      fun hnan => s.binAdd_nan set (fp32Of_nan hnan), ?_, ?_, fun n m e h hbins hv => ?_⟩
    · rintro rfl
      exact s.binAdd_infinity set fp32Of_infinity.1
    · rintro rfl
      exact s.binAdd_infinity set fp32Of_infinity.2
    · obtain ⟨hsum, hin⟩ := s.binAdd_sum set h hbins hv
      have small : ¬(2 : ℚ) ^ binAnchor set ≤ ratOf false m e := not_le.mpr hv
      refine ⟨hsum, Bool.eq_iff_iff.mpr ?_, Bool.eq_iff_iff.mpr ?_⟩
      · rw [s.binAdd_bov h]
        simp [hin, small]
      · rw [s.binAdd_trn h]
        simp [binAnchor]
  · simp only [exec_bfold]
    exact execBfold_spec hg

end Sys2Proof.Machine
end

section
/-! SUPPORT. Numbers from the bytes of a row, and weight-compressed blocks (04 R70, R71, 15 R269). -/

namespace Sys2Proof.Machine

/-! ## Numbers from bytes -/

/-- A number of bytes as their sum. -/
theorem elemsNat_bytes_eq_sum {f : Nat → Nat} (h : ∀ i, f i < 2 ^ 8) :
    ∀ n, elemsNat 8 f n = ((List.range n).map fun j => f j * 256 ^ j).sum
  | 0 => rfl
  | n + 1 => by
    rw [elemsNat, elemsNat_bytes_eq_sum h n, List.range_succ, List.map_append, List.sum_append, Nat.mod_eq_of_lt (h n), Nat.pow_mul,
      show 2 ^ 8 = 256 from rfl, List.map_singleton, List.sum_singleton]

/-- The lower elements, and those above them. -/
theorem elemsNat_add (w : Nat) (f : Nat → Nat) (a : Nat) : ∀ b,
    elemsNat w f (a + b) = elemsNat w f a + 2 ^ (w * a) * elemsNat w (fun i => f (a + i)) b
  | 0 => by simp [elemsNat]
  | b + 1 => by
    rw [← Nat.add_assoc, elemsNat, elemsNat_add w f a b, elemsNat, Nat.mul_add w, Nat.pow_add]
    ring

/-- A wider element is the number of the elements in it. -/
theorem elemsNat_wide (w : Nat) (f : Nat → Nat) {k i n : Nat} (h : i < n) :
    elemsNat w f (k * n) / 2 ^ (w * k * i) % 2 ^ (w * k) = elemsNat w (fun j => f (k * i + j)) k := by
  obtain ⟨r, rfl⟩ := Nat.exists_eq_add_of_lt h
  have split_ : k * (i + r + 1) = k * i + (k + k * r) := by ring
  rw [split_, elemsNat_add, elemsNat_add, Nat.mul_assoc w k i, Nat.add_mul_div_left _ _ (Nat.two_pow_pos _),
    Nat.div_eq_of_lt (elemsNat_lt w f _), Nat.zero_add, Nat.add_mul_mod_self_left, Nat.mod_eq_of_lt (elemsNat_lt w _ k)]

/-- The signed reading of the bits of a word is its extension by its sign. -/
theorem ofInt_signedOf {w : Nat} (hw : 0 < w) (v : Nat) (x : BitVec w) : BitVec.ofInt v (signedOf w x.toNat) = x.signExtend v := by
  have hp : 2 ^ w = 2 * 2 ^ (w - 1) := by
    rw [← Nat.pow_succ']
    congr 1
    omega
  rw [BitVec.signExtend, BitVec.toInt_eq_toNat_cond, signedOf, Nat.mod_eq_of_lt x.isLt]
  congr 1
  push_cast
  exact if_congr (by omega) rfl rfl

/-! ## The weight buffer -/

theorem wbyte_lt (w : Memory) (a : Nat) : wbyte w a < 2 ^ 8 := BitVec.isLt _

theorem wbytes_eq_elemsNat (w : Memory) : ∀ (n a : Nat), wbytes w a n = elemsNat 8 (fun i => wbyte w (a + i)) n
  | 0, _ => rfl
  | n + 1, a => by
    have shift : (fun i => wbyte w (a + 1 + i)) = fun i => wbyte w (a + (i + 1)) :=
      funext fun i => by rw [Nat.add_assoc, Nat.add_comm 1 i]
    rw [wbytes, wbytes_eq_elemsNat w n (a + 1), elemsNat_succ_low, shift, Nat.add_zero, Nat.mod_eq_of_lt (wbyte_lt w a),
      show 2 ^ 8 = 256 from rfl]

theorem wbytes_eq_sum (w : Memory) (a n : Nat) : wbytes w a n = ((List.range n).map fun j => wbyte w (a + j) * 256 ^ j).sum := by
  rw [wbytes_eq_elemsNat, elemsNat_bytes_eq_sum fun i => wbyte_lt w (a + i)]

/-! ## Blocks -/

theorem testBit_eq_mod (x i : Nat) : (x / 2 ^ i % 2 == 0) = !x.testBit i := by
  rw [Nat.testBit_eq_decide_div_mod_eq]
  rcases Nat.mod_two_eq_zero_or_one (x / 2 ^ i) with h | h <;> rw [h] <;> rfl

/-- The ones below a place, counted (04 R70). -/
theorem popcount_eq (x : Nat) : ∀ n, popcount x n = ((List.range n).filter fun j => x.testBit j).length
  | 0 => rfl
  | n + 1 => by
    rw [popcount, popcount_eq x n, List.range_succ, List.filter_append, List.length_append]
    congr 1
    rcases Nat.mod_two_eq_zero_or_one (x / 2 ^ n) with h | h <;> simp [h, Nat.testBit_eq_decide_div_mod_eq]

section
variable (w : Memory) (q4 : Bool) (cur : Nat)

/-- The byte of the weight buffer some bytes past a cursor (15 R269). -/
def wcbByte (j : Nat) : Byte := Memory.byte w ((cur + j) % Config.wbufBytes)

/-- The mask of a block: which of its 32 elements it holds (04 R70). -/
def wcbMask : Nat := ((List.range 4).map fun j => (wcbByte w cur j).toNat * 256 ^ j).sum

/-- The kind of a block (04 R70). -/
def wcbKind : Nat := (wcbByte w cur 5).toNat

/-- How many elements a block holds below place i (04 R70). -/
def wcbRank (i : Nat) : Nat := ((List.range i).filter fun j => (wcbMask w cur).testBit j).length

/-- A block that is expanded as void (04 R71). -/
abbrev wcbVoid : Prop := 3 < wcbKind w cur ∨ ((wcbKind w cur = 0 ∨ wcbKind w cur = 2) ∧ wcbMask w cur ≠ 0xFFFFFFFF)
  ∨ ¬((wcbKind w cur = 2 ∨ wcbKind w cur = 3) ↔ q4 = true)

theorem wbytes_eq_wcbMask : wbytes w cur 4 = wcbMask w cur := wbytes_eq_sum w cur 4

/-- A block by its parts. -/
theorem readWcb_eq : readWcb w q4 cur =
    (let isQ4 := wcbKind w cur == 2 || wcbKind w cur == 3
     let v := if isQ4 then (wcbRank w cur 32 + 1) / 2 else wcbRank w cur 32
     let bad := decide (3 < wcbKind w cur) || ((wcbKind w cur == 0 || wcbKind w cur == 2) && wcbMask w cur != 0xFFFFFFFF) || isQ4 != q4
     { col := (List.range 32).map fun i =>
         if bad || !(wcbMask w cur).testBit i then (0 : Lane32)
         else BitVec.ofInt 32 (signedOf (if isQ4 then 4 else 8) (if isQ4 then (wcbByte w cur (6 + wcbRank w cur i / 2)).toNat
            / 16 ^ (wcbRank w cur i % 2) % 16 else (wcbByte w cur (6 + wcbRank w cur i)).toNat))
       eb := wcbByte w cur 4, bad := bad, size := 6 + v + (6 + v) % 2 }) := by
  have byte : ∀ j, wbyte w (cur + 6 + j) = (wcbByte w cur (6 + j)).toNat := fun j => by rw [Nat.add_assoc]; rfl
  have kind : wbyte w (cur + 5) = wcbKind w cur := rfl
  have scale : BitVec.ofNat 8 (wbyte w (cur + 4)) = wcbByte w cur 4 := BitVec.ofNat_toNat _ _
  simp only [readWcb, wbytes_eq_wcbMask, byte, kind, scale, testBit_eq_mod, popcount_eq]
  rfl

/-- What a block gives (04 R70, R71). -/
theorem readWcb_spec :
    let kind := wcbKind w cur
    let mask := wcbMask w cur
    let rank := wcbRank w cur
    let isQ4 := kind = 2 ∨ kind = 3
    let v := if isQ4 then (rank 32 + 1) / 2 else rank 32
    let r := readWcb w q4 cur
    (r.bad = true ↔ wcbVoid w q4 cur) ∧ r.eb = wcbByte w cur 4 ∧ r.size = 6 + v + (6 + v) % 2 ∧ r.col.length = 32
    ∧ ∀ i, i < 32 → nth 0 r.col i = if wcbVoid w q4 cur ∨ mask.testBit i = false then 0
        else if isQ4 then (elem (wcbByte w cur (6 + rank i / 2)) 4 (rank i % 2)).signExtend 32
        else (wcbByte w cur (6 + rank i)).signExtend 32 := by
  intro kind mask rank isQ4 v r
  have hkind : (kind == 2 || kind == 3) = decide isQ4 := by simp [isQ4, Bool.beq_eq_decide_eq]
  have hr : r = _ := readWcb_eq w q4 cur
  have hbad : r.bad = true ↔ wcbVoid w q4 cur := by
    rw [hr]
    dsimp only
    cases q4 <;> simp [wcbVoid, or_assoc, ← or_iff_not_imp_left]
  have hv : r.size = 6 + v + (6 + v) % 2 := by
    rw [hr]
    dsimp only
    simp only [v, isQ4, Bool.or_eq_true, beq_iff_eq]
    rfl
  refine ⟨hbad, by rw [hr], hv, by rw [hr]; simp, fun i hi => ?_⟩
  have hcol : nth 0 r.col i = if r.bad || !mask.testBit i then (0 : Lane32)
      else BitVec.ofInt 32 (signedOf (if kind == 2 || kind == 3 then 4 else 8)
        (if kind == 2 || kind == 3 then (wcbByte w cur (6 + rank i / 2)).toNat / 16 ^ (rank i % 2) % 16
          else (wcbByte w cur (6 + rank i)).toNat)) := by
    rw [hr]
    exact nth_map_range 0 _ hi
  have hzero : (r.bad || !mask.testBit i) = true ↔ wcbVoid w q4 cur ∨ mask.testBit i = false := by
    rw [Bool.or_eq_true, hbad, Bool.not_eq_true']
  rw [hcol, if_congr hzero rfl rfl]
  refine if_congr Iff.rfl rfl ?_
  by_cases h4 : isQ4
  · rw [hkind, decide_eq_true h4, if_pos h4, if_pos rfl, if_pos rfl, ← ofInt_signedOf (by decide), elem_toNat, Nat.pow_mul,
      show 2 ^ 4 = 16 from rfl]
  · rw [hkind, decide_eq_false h4, if_neg h4, if_neg Bool.false_ne_true, if_neg Bool.false_ne_true, ← ofInt_signedOf (by decide)]

end

/-- Blocks in sequence: as many as asked for, each behind those before it (15 R269). -/
theorem readWcbs_spec (w : Memory) (q4 : Bool) : ∀ (k cur : Nat), (readWcbs w q4 cur k).length = k
    ∧ ∀ n, n < k → (readWcbs w q4 cur k)[n]? = some (readWcb w q4 (cur + (((readWcbs w q4 cur k).take n).map (·.size)).sum))
  | 0, _ => ⟨rfl, fun n hn => absurd hn (Nat.not_lt_zero n)⟩
  | k + 1, cur => by
    obtain ⟨hlen, hnext⟩ := readWcbs_spec w q4 k (cur + (readWcb w q4 cur).size)
    rw [readWcbs]
    refine ⟨congrArg (· + 1) hlen, fun n hn => ?_⟩
    cases n with
    | zero => rfl
    | succ n =>
      rw [List.getElem?_cons_succ, hnext n (Nat.lt_of_succ_lt_succ hn), List.take_succ_cons, List.map_cons, List.sum_cons,
        Nat.add_assoc]

end Sys2Proof.Machine
end

section
/-! SUPPORT. Rows of a profile's elements and the fetch of a block's A operand (15 R266, R268). -/

namespace Sys2Proof.Machine

/-! ## Profiles -/

/-- The profiles of MMA (15 R266). -/
def mmaProfiles : List (BitVec 6) := [0, 1, 2, 8, 9, 12]

/-- The bits of an A element of a profile (15 R266). -/
def profileBits (p : BitVec 6) : Nat := if p = 0 ∨ p = 2 then 8 else if p = 1 then 4 else if p = 12 then 32 else 16

theorem fmtBits_profile {p : BitVec 6} (hp : p ∈ mmaProfiles) : fmtBits (profileStreams p).1 = profileBits p := by
  revert p
  decide

theorem profile_signed {p : BitVec 6} (hp : p ∈ mmaProfiles) :
    ((profileStreams p).1 = 7 ∨ (profileStreams p).1 = 8) ↔ profileBits p < 16 := by
  revert p
  decide

theorem profileBits_bounds (p : BitVec 6) : 0 < profileBits p ∧ profileBits p ≤ 32 := by
  unfold profileBits
  split_ifs <;> decide

/-! ## Rows -/

/-- An element of a row: an integer by its sign, a code as it stands (15 R268). -/
theorem rowElem_eq {fmt w : Nat} (hw : fmtBits fmt = w) (h0 : 0 < w) (x k : Nat) : rowElem fmt x k =
    if fmt = 7 ∨ fmt = 8 then (BitVec.ofNat w (x / 2 ^ (w * k))).signExtend 32 else (BitVec.ofNat w (x / 2 ^ (w * k))).setWidth 32 := by
  subst hw
  rw [← ofInt_signedOf h0, ← BitVec.ofNat_toNat, BitVec.toNat_ofNat]
  rfl

/-- An element of a row of a profile. -/
theorem nth_rowElems_profile {p : BitVec 6} (hp : p ∈ mmaProfiles) (x : Nat) {i : Nat} (hi : i < 32) :
    let e : BitVec (profileBits p) := elem (BitVec.ofNat 1024 x) (profileBits p) i
    nth 0 (rowElems (profileStreams p).1 x) i = if profileBits p < 16 then e.signExtend 32 else e.zeroExtend 32 := by
  intro e
  obtain ⟨h0, h32⟩ := profileBits_bounds p
  have he : e = BitVec.ofNat (profileBits p) (x / 2 ^ (profileBits p * i)) :=
    elem_ofNat x (Nat.le_trans (Nat.mul_le_mul h32 hi) (by decide))
  rw [rowElems, nth_map_range 0 _ hi, rowElem_eq (fmtBits_profile hp) h0, he]
  exact if_congr (profile_signed hp) rfl rfl

/-! ## The fetch -/

/-- The scale bytes of a block that reads them, or the scale 1 (15 R268). -/
def State.scaleBytes (s : State) : Option Nat → List Byte
  | some a => (List.range 32).map fun i => Memory.byte s.core.scratch (a + i)
  | none => List.replicate 32 127

/-- Without poison a fetch reads the scratchpad as it stands (15 R268). -/
theorem State.fetchBlock_eq {s : State} (b : Block) (h : s.core.poison = []) : s.fetchBlock b = { b with
    a := b.rows.map fun a =>
      rowElems (profileStreams b.prof).1 (Memory.readNat s.core.scratch a (rowBytes (profileStreams b.prof).1))
    ea := s.scaleBytes b.scaleAt } := by
  have number : ∀ a k, elemsNat 8 (fun i => (nth 0 ((List.range k).map fun i => Memory.byte s.core.scratch (a + i)) i).toNat) k
      = Memory.readNat s.core.scratch a k := by
    intro a k
    rw [Memory.readNat_eq_elemsNat]
    exact elemsNat_congr fun i hi => by rw [nth_map_range 0 _ hi]
  simp only [State.fetchBlock, Core.blockPoisoned, h, List.contains_nil, Bool.false_eq_true, if_false, List.length_map, List.length_range,
    number, List.isEmpty_nil, Bool.not_true, Bool.false_and]
  cases b.scaleAt <;> rfl

theorem State.scaleBytes_length (s : State) (a : Option Nat) : (s.scaleBytes a).length = 32 := by
  cases a <;> simp [State.scaleBytes]

theorem State.nth_scaleBytes (s : State) (a : Option Nat) {m : Nat} (hm : m < 32) : nth 0 (s.scaleBytes a) m = match a with
    | some x => Memory.byte s.core.scratch (x + m)
    | none => 127 := by
  cases a with
  | none =>
    rw [State.scaleBytes, nth_eq_getD, List.getElem?_replicate, if_pos hm]
    rfl
  | some x => rw [State.scaleBytes, nth_map_range 0 _ hm]

/-- What a fetch gives without poison (15 R268). -/
theorem State.fetchBlock_spec {s : State} {b : Block} (h : s.core.poison = []) (hp : b.prof ∈ mmaProfiles) :
    let f := s.fetchBlock b
    f = { b with a := f.a, ea := f.ea } ∧ f.a.length = b.rows.length ∧ f.ea.length = 32
    ∧ (∀ m i row, b.rows[m]? = some row → i < 32 →
        let e : BitVec (profileBits b.prof) :=
          elem (BitVec.ofNat 1024 (Memory.readNat s.core.scratch row (4 * profileBits b.prof))) (profileBits b.prof) i
        nth 0 (nth [] f.a m) i = if profileBits b.prof < 16 then e.signExtend 32 else e.zeroExtend 32)
    ∧ ∀ m, m < 32 → nth 0 f.ea m = match b.scaleAt with
        | some x => Memory.byte s.core.scratch (x + m)
        | none => 127 := by
  intro f
  have hf : f = _ := s.fetchBlock_eq b h
  refine ⟨by rw [hf], by rw [hf]; simp, by rw [hf]; exact s.scaleBytes_length b.scaleAt, fun m i row hrow hi => ?_, fun m hm => ?_⟩
  · have hrowA : nth [] f.a m = rowElems (profileStreams b.prof).1 (Memory.readNat s.core.scratch row (4 * profileBits b.prof)) := by
      rw [hf]
      dsimp only
      rw [nth_eq_getD, List.getElem?_map, hrow, rowBytes, fmtBits_profile hp]
      rfl
    rw [hrowA]
    exact nth_rowElems_profile hp _ hi
  · rw [hf]
    exact s.nth_scaleBytes b.scaleAt hm

end Sys2Proof.Machine
end

section
/-! SUPPORT. The checks of MMA in their order, and the block that it issues (15 R266 to R277). -/

namespace Sys2Proof.Machine

/-! ## Profiles as R266 lists them -/

/-- The residue profiles (15 R266). -/
abbrev isResidue (p : BitVec 6) : Prop := p = 0 ∨ p = 1 ∨ p = 2

/-- FMT of stream A of a profile (15 R266). -/
def profileFmtA (p : BitVec 6) : Nat := if p = 0 ∨ p = 2 then 7 else if p = 1 then 8 else if p = 8 then 1 else if p = 9 then 2 else 0

/-- FMT of stream B of a profile (15 R266). -/
def profileFmtB (p : BitVec 6) : Nat := if p = 0 then 7 else if p = 1 ∨ p = 2 then 8 else profileFmtA p

/-- The bytes of a row of a profile (15 R268). -/
def profileRow (p : BitVec 6) : Nat :=
  if profileFmtA p = 7 then 32 else if profileFmtA p = 8 then 16 else if profileFmtA p = 0 then 128 else 64

section
variable {p : BitVec 6} (hp : p ∈ mmaProfiles)
include hp

theorem profileStreams_eq : profileStreams p =
    (profileFmtA p, if isResidue p then [0, 1] else [0], profileFmtB p, if isResidue p then 2 else 0) := by
  revert p
  decide

theorem rowBytes_profile : rowBytes (profileFmtA p) = profileRow p := by
  revert p
  decide

theorem profileTiming_eq : profileTiming p =
    (if p = 1 then 2 else if p = 8 ∨ p = 9 then 16 else if p = 12 then 64 else 4,
      if p = 1 then 9 else if p = 8 ∨ p = 9 then 22 else if p = 12 then 70 else 9) := by
  revert p
  decide

theorem profileDemand_eq : profileDemand p = if p = 12 then 4 else 2 := by
  revert p
  decide

/-- The float profiles have elements of two or four whole bytes. -/
theorem profileFloat (hr : ¬isResidue p) : fmtBits (profileFmtA p) = 8 * (profileRow p / 32)
    ∧ profileRow p = profileRow p / 32 * 32 ∧ profileFmtA p ≠ 7 ∧ profileFmtA p ≠ 8 := by
  revert p
  decide

end

/-! ## The checks -/

section
variable (s : State) (a b : BitVec 4) (p : BitVec 6)

/-- A descriptor that the profile does not allow (15 R270). -/
abbrev mmaBadForm (s : State) (a b : BitVec 4) (p : BitVec 6) : Prop :=
  stFmt (s.core.r.readSt a) ≠ profileFmtA p
    ∨ (stGeom (s.core.r.readSt a) ≠ 0 ∧ ¬(isResidue p ∧ stGeom (s.core.r.readSt a) = 1))
    ∨ stFmt (s.core.r.readSt b) ≠ profileFmtB p ∨ stGeom (s.core.r.readSt b) ≠ (if isResidue p then 2 else 0)

/-- A stream of rows that are not aligned to their size (15 R270). -/
abbrev mmaOddRows (d : BitVec 512) (p : BitVec 6) : Prop :=
  stIdx d 0 % 32 ≠ 0 ∨ stAddr d % profileRow p ≠ 0 ∨ stStride d 0 % profileRow p ≠ 0

/-- The check of a row of A against the scratchpad (15 R270). -/
abbrev mmaFar (d : BitVec 512) (p : BitVec 6) (m : Nat) : Prop :=
  Config.scratchBytes < rowAddr (stAddr d) (stStride d 0) m + profileRow p

/-- A fault of MMA at an address. -/
abbrev mmaFaultAt (k : FaultKind) (va : Nat) : FaultInfo := { FaultInfo.plain k 5 with va := BitVec.ofNat 48 va }

variable {p}

/-- The checks of R270 in their order. -/
theorem State.mmaFault_eq (hp : p ∈ mmaProfiles) :
    let da := s.core.r.readSt a
    let db := s.core.r.readSt b
    s.mmaFault a b p =
      if mmaBadForm s a b p then some (.plain .illegalOperation 5)
      else if mmaOddRows da p then some (mmaFaultAt .misalignment (stAddr da))
      else if ¬isResidue p ∧ mmaOddRows db p then some (mmaFaultAt .misalignment (stAddr db))
      else if stGeom da = 1 ∧ scaleAddr da % 32 ≠ 0 then some (mmaFaultAt .misalignment (scaleAddr da))
      else match (List.range 32).find? fun m => decide (mmaFar da p m) with
        | some m => some (mmaFaultAt .outOfTable (rowAddr (stAddr da) (stStride da 0) m))
        | none => if stGeom da = 1 ∧ Config.scratchBytes < scaleAddr da + 32 then some (mmaFaultAt .outOfTable (scaleAddr da)) else none := by
  intro da db
  have geom : ∀ n : Nat, (!(if isResidue p then [0, 1] else [0]).contains n) = true ↔ n ≠ 0 ∧ ¬(isResidue p ∧ n = 1) := by
    intro n
    split <;> simp [*]
  have float : (if isResidue p then 2 else 0) = 0 ↔ ¬isResidue p := by split <;> simp [*]
  simp only [State.mmaFault, profileStreams_eq hp, rowBytes_profile hp, geom, float, List.find?_map]
  refine if_congr Iff.rfl rfl (if_congr Iff.rfl rfl (if_congr Iff.rfl rfl (if_congr Iff.rfl rfl ?_)))
  simp only [Function.comp_def, da]
  cases (List.range 32).find? fun m => decide (mmaFar (s.core.r.readSt a) p m) <;> rfl

/-- Each check of R270, when those before it pass. -/
theorem State.mmaFault_spec (hp : p ∈ mmaProfiles) :
    let da := s.core.r.readSt a
    let db := s.core.r.readSt b
    let oddB := ¬isResidue p ∧ mmaOddRows db p
    let oddS := stGeom da = 1 ∧ scaleAddr da % 32 ≠ 0
    let far := fun (m : Nat) => m < 32 ∧ mmaFar da p m
    (mmaBadForm s a b p → s.mmaFault a b p = some (.plain .illegalOperation 5))
    ∧ (¬mmaBadForm s a b p → mmaOddRows da p → s.mmaFault a b p = some (mmaFaultAt .misalignment (stAddr da)))
    ∧ (¬mmaBadForm s a b p → ¬mmaOddRows da p → oddB → s.mmaFault a b p = some (mmaFaultAt .misalignment (stAddr db)))
    ∧ (¬mmaBadForm s a b p → ¬mmaOddRows da p → ¬oddB → oddS → s.mmaFault a b p = some (mmaFaultAt .misalignment (scaleAddr da)))
    ∧ (¬mmaBadForm s a b p → ¬mmaOddRows da p → ¬oddB → ¬oddS → ∀ m, far m → (∀ j, j < m → ¬far j) →
        s.mmaFault a b p = some (mmaFaultAt .outOfTable (rowAddr (stAddr da) (stStride da 0) m)))
    ∧ (¬mmaBadForm s a b p → ¬mmaOddRows da p → ¬oddB → ¬oddS → (∀ m, ¬far m) → s.mmaFault a b p =
        if stGeom da = 1 ∧ Config.scratchBytes < scaleAddr da + 32 then some (mmaFaultAt .outOfTable (scaleAddr da)) else none) := by
  intro da db oddB oddS far
  have checks := s.mmaFault_eq a b hp
  refine ⟨fun h => ?_, fun h1 h => ?_, fun h1 h2 h => ?_, fun h1 h2 h3 h => ?_, fun h1 h2 h3 h4 m hm hfirst => ?_, fun h1 h2 h3 h4 hno => ?_⟩
  · rw [checks, if_pos h]
  · rw [checks, if_neg h1, if_pos h]
  · rw [checks, if_neg h1, if_neg h2, if_pos h]
  · rw [checks, if_neg h1, if_neg h2, if_neg h3, if_pos h]
  · have found : (List.range 32).find? (fun m => decide (mmaFar da p m)) = some m := by
      refine List.find?_range_eq_some.mpr ⟨decide_eq_true hm.2, List.mem_range.mpr hm.1, fun j hj => ?_⟩
      rw [Bool.not_eq_true', decide_eq_false_iff_not]
      exact fun hj' => hfirst j hj ⟨Nat.lt_trans hj hm.1, hj'⟩
    rw [checks, if_neg h1, if_neg h2, if_neg h3, if_neg h4, found]
  · have near : (List.range 32).find? (fun m => decide (mmaFar da p m)) = none := by
      refine List.find?_range_eq_none.mpr fun m hm => ?_
      rw [Bool.not_eq_true', decide_eq_false_iff_not]
      exact fun h => hno m ⟨hm, h⟩
    rw [checks, if_neg h1, if_neg h2, if_neg h3, if_neg h4, near]

/-- What passes the checks has the form of its profile. -/
theorem State.mma_formed (hp : p ∈ mmaProfiles) (h : s.mmaFault a b p = none) :
    stGeom (s.core.r.readSt b) = if isResidue p then 2 else 0 := by
  by_contra hne
  rw [(s.mmaFault_spec a b hp).1 (.inr (.inr (.inr hne)))] at h
  exact absurd h (by simp)

end

end Sys2Proof.Machine
end

section
/-! SUPPORT. The block that MMA and MMAZ issue (15 R266 to R277). -/

namespace Sys2Proof.Machine

/-! ## B rows -/

/-- Elements of whole bytes in a row of the weight buffer (15 R269). -/
theorem rowElem_wbytes {fmt k : Nat} (hw : fmtBits fmt = 8 * k) (h7 : fmt ≠ 7) (h8 : fmt ≠ 8) (w : Memory) (a : Nat) {i : Nat} (hi : i < 32) :
    rowElem fmt (wbytes w a (k * 32)) i = BitVec.ofNat 32 ((List.range k).map fun j => wbyte w (a + k * i + j) * 256 ^ j).sum := by
  have h : ¬(fmt = 7 ∨ fmt = 8) := by simp [h7, h8]
  rw [rowElem, if_neg h, hw, wbytes_eq_elemsNat, elemsNat_wide 8 _ hi, elemsNat_bytes_eq_sum fun j => wbyte_lt w _]
  simp only [Nat.add_assoc]

/-! ## Poison -/

theorem Core.wbufSeen_eq {c : Core} (h : c.poison = []) : c.wbufSeen = c.wbuf := by
  rw [Core.wbufSeen, h]
  rfl

theorem Core.wbufPoisoned_eq {c : Core} (h : c.poison = []) (a n : Nat) : c.wbufPoisoned a n = false := by
  rw [Core.wbufPoisoned, h]
  rfl

/-! ## The block -/

section
variable (s : State) (a b : BitVec 4) (t : BitVec 1) (p : BitVec 6) (y hx : BitVec 1) (z : Bool)

/-- The granules that a block of A reads (15 R268). -/
def mmaGranules (d : BitVec 512) (p : BitVec 6) : List Nat :=
  distinct ((((List.range 32).map (rowAddr (stAddr d) (stStride d 0))).map fun x => granulesFrom x (profileRow p)).flatten
    ++ (match (if stGeom d = 1 then some (scaleAddr d) else none) with
        | some x => granulesFrom x 32
        | none => []))

/-- The delay of a block (15 R268). -/
def State.mmaDelay (s : State) (d : BitVec 512) (p : BitVec 6) : Nat :=
  (s.core.enginePhase (mmaGranules d p)).1 - (s.core.cyc + 4)
    + ((s.core.enginePhase (mmaGranules d p)).2.1 - (if p = 12 then 4 else 2))

variable {p}

/-- The block's A side, its place and its times (15 R266, R268, R274). -/
theorem State.newBlock_spec (hp : p ∈ mmaProfiles) :
    let da := s.core.r.readSt a
    let k := (s.newBlock a b t p z).1
    let ph := s.core.enginePhase (mmaGranules da p)
    let dl := s.mmaDelay da p
    k.tile = t ∧ k.z = z ∧ k.prof = p ∧ k.rows = (List.range 32).map (rowAddr (stAddr da) (stStride da 0))
    ∧ k.scaleAt = (if stGeom da = 1 then some (scaleAddr da) else none)
    ∧ k.readAt = ph.1 - 4 ∧ k.allocAt = s.core.cyc + 3 + dl ∧ k.portAt = s.core.cyc + 7 + dl
    ∧ k.landAt = s.core.cyc + (profileTiming p).2 + dl
    ∧ (s.newBlock a b t p z).2.1 = dl ∧ (s.newBlock a b t p z).2.2.1 = ph.2.2 := by
  unfold State.newBlock State.mmaDelay
  rw [profileStreams_eq hp]
  dsimp only
  rw [rowBytes_profile hp, profileDemand_eq hp]
  exact ⟨rfl, rfl, rfl, rfl, rfl, rfl, rfl, rfl, rfl, rfl, rfl⟩

/-- The blocks of a weight-compressed stream B (15 R269). -/
def State.mmaWcbs (s : State) (b : BitVec 4) (p : BitVec 6) : List Wcb :=
  readWcbs s.core.wbufSeen (p != 0) (stBase (s.core.r.readSt b)) 32

/-- The B side of a residue profile (15 R269). -/
theorem State.newBlock_compressed (hg : stGeom (s.core.r.readSt b) = 2) :
    let k := (s.newBlock a b t p z).1
    let ws := s.mmaWcbs b p
    k.b = ws.map (·.col) ∧ k.eb = ws.map (·.eb) ∧ k.bad = ws.map (·.bad)
    ∧ (k.flg = if ∃ x ∈ ws, x.bad = true then wcbeFlag else 0)
    ∧ (s.newBlock a b t p z).2.2.2 = (ws.map (·.size)).sum := by
  intro k ws
  have width : decide (p.toNat ≠ 0) = (p != 0) := Bool.eq_iff_iff.mpr (by simp [← BitVec.toNat_inj])
  have hws : readWcbs s.core.wbufSeen (decide (p.toNat ≠ 0)) (stBase (s.core.r.readSt b)) 32 = ws := by rw [width]; rfl
  simp only [k, State.newBlock, if_pos hg, hws, true_and]
  refine ⟨?_, (List.sum_eq_foldl).symm⟩
  rw [flagIf]
  exact if_congr List.any_eq_true rfl rfl

/-- The B side of a float profile (15 R269). -/
theorem State.newBlock_plain (hp : p ∈ mmaProfiles) (hr : ¬isResidue p) (hg : stGeom (s.core.r.readSt b) ≠ 2) :
    let db := s.core.r.readSt b
    let k := (s.newBlock a b t p z).1
    k.eb = [] ∧ k.bad = [] ∧ k.flg = 0 ∧ k.b.length = 32 ∧ ∀ n i, n < 32 → i < 32 → nth 0 (nth [] k.b n) i
      = BitVec.ofNat 32 ((List.range (profileRow p / 32)).map fun j =>
          wbyte s.core.wbufSeen (rowAddr (stAddr db) (stStride db 0) n + profileRow p / 32 * i + j) * 256 ^ j).sum := by
  intro db k
  obtain ⟨hw, hrow, h7, h8⟩ := profileFloat hp hr
  have hb : k.b = (List.range 32).map fun n =>
      rowElems (profileFmtA p) (wbytes s.core.wbufSeen (rowAddr (stAddr db) (stStride db 0) n) (profileRow p)) := by
    simp only [k, State.newBlock, if_neg hg, profileStreams_eq hp, rowBytes_profile hp]
    rfl
  have hk : k.eb = [] ∧ k.bad = [] ∧ k.flg = 0 := by
    simp only [k, State.newBlock, if_neg hg]
    exact ⟨rfl, rfl, rfl⟩
  obtain ⟨heb, hbad, hflg⟩ := hk
  refine ⟨heb, hbad, hflg, by rw [hb]; simp, fun n i hn hi => ?_⟩
  rw [hb, nth_map_range [] _ hn, rowElems, nth_map_range 0 _ hi, ← rowElem_wbytes hw h7 h8 _ _ hi, ← hrow]

/-- Without poison nothing is wrong with the bytes of B (21 R382). -/
theorem State.newBlock_late (h : s.core.poison = []) : (s.newBlock a b t p z).1.late = none := by
  have clean : ∀ x n, s.core.wbufPoisoned x n = false := fun x n => Core.wbufPoisoned_eq h x n
  have rows : ((List.range 32).any fun _ => false) = false := rfl
  simp only [State.newBlock, clean, rows, ite_self, Bool.false_eq_true, if_false]

/-! ## Its issue -/

theorem OnlySends.trans {s t u : State} (h : OnlySends s t) (h' : OnlySends t u) : OnlySends s u :=
  Eq.trans h' (congrArg (fun x : State => { x with core := { x.core with
    land := u.core.land, seqNo := u.core.seqNo, undo := u.core.undo, known := u.core.known } }) h)

theorem OnlySends.refl (s : State) : OnlySends s s := rfl

theorem State.pushStream_sends (k : Nat) (n : BitVec 4) (x m : Line) : OnlySends s (s.pushStream k n x m) := rfl

/-- An advance of the streams puts results on their way, and does nothing else. -/
theorem State.advanceStreams_sends (n : Nat) : OnlySends s (s.advanceStreams a b y hx n) := by
  have first : OnlySends s (if hx = 0 then s.pushStream 5 a (stAdvanced (s.core.r.readSt a) 0 32) idxSel else s) := by
    split
    · exact s.pushStream_sends 5 a _ _
    · exact .refl s
  unfold State.advanceStreams
  dsimp only
  split
  · exact first
  · split
    · exact first.trans (State.pushStream_sends _ 5 b _ _)
    · split
      · exact first
      · exact first.trans (State.pushStream_sends _ 5 b _ _)

end

end Sys2Proof.Machine
end

section
/-! SUPPORT. The issue of MMA and MMAZ, and O35 (15 R266 to R277). -/

namespace Sys2Proof.Machine

/-! ## Results on their way -/

/-- Two states with the same results on their way. -/
def SameLandings (s t : State) : Prop := s.core.land = t.core.land ∧ s.core.seqNo = t.core.seqNo

theorem SameLandings.push {s t : State} (h : SameLandings s t) (l : Landing) : SameLandings (s.push l) (t.push l) := by
  obtain ⟨hland, hseq⟩ := h
  have land : ∀ u : State, (u.push l).core.land = insertBy Landing.le { (u.stamp l).1 with seq := u.core.seqNo } u.core.land := fun _ => rfl
  refine ⟨?_, congrArg (· + 1) hseq⟩
  rw [land, land, hland, hseq]
  rfl

/-- The advance of a stream as a result (15 R270). -/
def streamMove (cyc : Nat) (st : BitVec 4) (val sel : Line) : Landing :=
  Landing.mk (cyc + 1) 0 5 (some .st) (BitVec.ofNat 10 st.toNat) val sel 0 .none 0 0 none

theorem SameLandings.pushStream {s t : State} (h : SameLandings s t) {cyc : Nat} (hc : s.core.cyc = cyc) (st : BitVec 4) (val sel : Line) :
    SameLandings (s.pushStream 5 st val sel) (t.push (streamMove cyc st val sel)) := by
  subst hc
  exact h.push _

section
variable {s t : State} (a b : BitVec 4) (y hx : BitVec 1)

/-- The advances of the streams of a block (15 R270). -/
theorem State.advanceStreams_land (h : SameLandings s t) {r : Regs} (hr : s.core.r = r) {cyc : Nat} (hc : s.core.cyc = cyc) (n : Nat) :
    let da := r.readSt a
    let db := r.readSt b
    let moves := streamMove cyc
    (s.advanceStreams a b y hx n).core.land = (let s1 := if hx = 0 then t.push (moves a (stAdvanced da 0 32) idxSel) else t
      if y = 1 then s1
      else if stGeom db = 2 then s1.push (moves b (baseAdvanced db n) baseSel)
      else if a = b ∧ hx = 0 then s1 else s1.push (moves b (stAdvanced db 0 32) idxSel)).core.land := by
  subst hr hc
  have first : SameLandings (if hx = 0 then s.pushStream 5 a (stAdvanced (s.core.r.readSt a) 0 32) idxSel else s)
      (if hx = 0 then t.push (streamMove s.core.cyc a (stAdvanced (s.core.r.readSt a) 0 32) idxSel) else t)
      ∧ (if hx = 0 then s.pushStream 5 a (stAdvanced (s.core.r.readSt a) 0 32) idxSel else s).core.cyc = s.core.cyc := by
    split
    · exact ⟨h.pushStream rfl a _ _, rfl⟩
    · exact ⟨h, rfl⟩
  obtain ⟨hsame, hcyc⟩ := first
  unfold State.advanceStreams
  dsimp only
  split
  · exact hsame.1
  · split
    · exact (hsame.pushStream hcyc b _ _).1
    · split
      · exact hsame.1
      · exact (hsame.pushStream hcyc b _ _).1

end

/-! ## The issue -/

section
variable (s : State) (a b : BitVec 4) (t : BitVec 1) (p : BitVec 6) (y hx : BitVec 1) (z : Bool)

/-- A block in flight, its streams not advanced yet. -/
def State.blockTaken : State :=
  let r := s.newBlock a b t p z
  let free := s.core.cyc + (profileTiming p).1 + r.2.1
  { s with core := { r.2.2.1 with
    mx := { r.2.2.1.mx with
      blocks := r.2.2.1.mx.blocks ++ [r.1]
      resFree := if isFloat p then r.2.2.1.mx.resFree else free
      fltFree := if isFloat p then free else r.2.2.1.mx.fltFree }
    seqNo := r.2.2.1.seqNo + 1 } }

theorem State.issueBlock_eq : s.issueBlock a b t p y hx z =
    (s.blockTaken a b t p z).advanceStreams a b y hx (s.newBlock a b t p z).2.2.2 := rfl

variable {p}

/-- The fetch of an engine takes banks, and nothing else (15 R268). -/
theorem Core.enginePhase_core (c : Core) (gs : List Nat) :
    (c.enginePhase gs).2.2 = { c with ldFree := (c.enginePhase gs).2.2.ldFree } := rfl

theorem State.blockTaken_eq (hp : p ∈ mmaProfiles) :
    let ph := s.core.enginePhase (mmaGranules (s.core.r.readSt a) p)
    let free := s.core.cyc + (profileTiming p).1 + s.mmaDelay (s.core.r.readSt a) p
    s.blockTaken a b t p z = { s with core := { s.core with
      ldFree := ph.2.2.ldFree
      mx := { s.core.mx with
        blocks := s.core.mx.blocks ++ [(s.newBlock a b t p z).1]
        resFree := if 8 ≤ p.toNat then s.core.mx.resFree else free
        fltFree := if 8 ≤ p.toNat then free else s.core.mx.fltFree }
      seqNo := s.core.seqNo + 1 } } := by
  intro ph free
  obtain ⟨-, -, -, -, -, -, -, -, -, hdl, hcore⟩ := s.newBlock_spec a b t z hp
  unfold State.blockTaken
  dsimp only
  rw [hdl, hcore, Core.enginePhase_core]
  simp only [isFloat, decide_eq_true_eq]
  rfl

/-- What the issue of a block changes (15 R266, R268, R275). -/
theorem State.issueBlock_spec (hp : p ∈ mmaProfiles) :
    let s' := s.issueBlock a b t p y hx z
    let da := s.core.r.readSt a
    KeepsRegisters s s' ∧ KeepsMemory s s' ∧ KeepsEngines s s' ∧ s'.core.mx.writes = s.core.mx.writes
    ∧ s'.core.mx.blocks = s.core.mx.blocks ++ [(s.newBlock a b t p z).1]
    ∧ s'.core.ldFree = (s.core.enginePhase (mmaGranules da p)).2.2.ldFree
    ∧ (if 8 ≤ p.toNat then s'.core.mx.fltFree else s'.core.mx.resFree) = s.core.cyc + (profileTiming p).1 + s.mmaDelay da p := by
  intro s' da
  obtain ⟨land, seqNo, undo, known, hs'⟩ : ∃ land seqNo undo known, s' = { s.blockTaken a b t p z with core :=
      { (s.blockTaken a b t p z).core with land := land, seqNo := seqNo, undo := undo, known := known } } :=
    ⟨_, _, _, _, State.advanceStreams_sends _ a b y hx _⟩
  rw [hs', s.blockTaken_eq a b t z hp]
  refine ⟨⟨rfl, rfl, rfl, rfl, rfl, rfl⟩, ⟨rfl, rfl, rfl, rfl, rfl, rfl⟩, ⟨rfl, rfl, rfl, rfl, rfl, rfl⟩, rfl, rfl, rfl, ?_⟩
  dsimp only
  split <;> rfl

/-- An engine's fetch begins four cycles after its issue or later (15 R268). -/
theorem Core.enginePhase_ge (c : Core) (gs : List Nat) : c.cyc + 4 ≤ (c.enginePhase gs).1 := le_phaseStart c.ldFree gs _

/-- The advances of a block's streams, over the state before its issue (15 R270). -/
theorem State.issueBlock_land (hp : p ∈ mmaProfiles) :
    let da := s.core.r.readSt a
    let db := s.core.r.readSt b
    let moves := streamMove s.core.cyc
    let cursor := baseAdvanced db ((s.mmaWcbs b p).map (·.size)).sum
    (s.issueBlock a b t p y hx z).core.land = (let s0 : State := { s with core := { s.core with seqNo := s.core.seqNo + 1 } }
      let s1 := if hx = 0 then s0.push (moves a (stAdvanced da 0 32) idxSel) else s0
      if y = 1 then s1
      else if stGeom db = 2 then s1.push (moves b cursor baseSel)
      else if a = b ∧ hx = 0 then s1 else s1.push (moves b (stAdvanced db 0 32) idxSel)).core.land := by
  intro da db moves cursor
  have same : SameLandings (s.blockTaken a b t p z) { s with core := { s.core with seqNo := s.core.seqNo + 1 } } := by
    rw [s.blockTaken_eq a b t z hp]
    exact ⟨rfl, rfl⟩
  have hr : (s.blockTaken a b t p z).core.r = s.core.r := by rw [s.blockTaken_eq a b t z hp]
  have hc : (s.blockTaken a b t p z).core.cyc = s.core.cyc := by rw [s.blockTaken_eq a b t z hp]
  rw [State.issueBlock_eq]
  have land := State.advanceStreams_land a b y hx same hr hc (s.newBlock a b t p z).2.2.2
  by_cases hg : stGeom (s.core.r.readSt b) = 2
  · obtain ⟨-, -, -, -, hused⟩ := s.newBlock_compressed a b t z hg
    rw [hused] at land ⊢
    exact land
  · simp only [db, if_neg hg] at land ⊢
    exact land

/-- The low 48 bits of an advanced BASE (15 R270). -/
theorem bitsAt_baseAdvanced (d : BitVec 512) (n : Nat) :
    (bitsAt (baseAdvanced d n) 0 48 : BitVec 48) = BitVec.ofNat 48 (stBase d / 2 ^ 17 * 2 ^ 17 + (stBase d + n) % 2 ^ 17) := by
  refine BitVec.eq_of_getLsbD_eq fun i hi => ?_
  have wide : i < 1024 := Nat.lt_trans hi (by decide)
  rw [bitsAt_getLsbD, Nat.zero_add, baseAdvanced, BitVec.getLsbD_ofNat, BitVec.getLsbD_ofNat, decide_eq_true hi, decide_eq_true wide,
    Bool.true_and]
  rfl

end

/-! ## The instructions -/

section
variable {s : State} {g a b : BitVec 4} {t : BitVec 1} {p : BitVec 6} {y hx : BitVec 1}

theorem exec_mma : exec (.mma g a b t p y hx) s = execMma g a b t p y hx s := rfl
theorem exec_mmaz : exec (.mmaz g a b t p y hx) s = execMmaz g a b t p y hx s := rfl

/-- MMA waits for its data path, then its checks decide (15 R270, R275, R277). -/
theorem execMma_spec (hg : s.guardOn g = true) :
    (s.core.cyc < s.core.mx.pathFree p → execMma g a b t p y hx s = .next (s.hold .busyBit))
    ∧ (s.core.mx.pathFree p ≤ s.core.cyc →
      (s.mmaFault a b p = none → execMma g a b t p y hx s = .next (s.issueBlock a b t p y hx false))
      ∧ ∀ i, s.mmaFault a b p = some i → execMma g a b t p y hx s = .next (s.takePrecise i)) := by
  rw [execMma, guarded, if_pos hg]
  refine ⟨fun h => if_pos h, fun h => ⟨fun hn => ?_, fun i hi => ?_⟩⟩
  · rw [if_neg (Nat.not_lt.mpr h), hn]
  · rw [if_neg (Nat.not_lt.mpr h), hi]

/-- MMAZ waits for its tile besides (15 R272, R276). -/
theorem execMmaz_spec (hg : s.guardOn g = true) :
    (s.core.cyc < s.core.mx.pathFree p ∨ s.core.mx.busy t = true → execMmaz g a b t p y hx s = .next (s.hold .busyBit))
    ∧ (s.core.mx.pathFree p ≤ s.core.cyc → s.core.mx.busy t = false →
      (s.mmaFault a b p = none → execMmaz g a b t p y hx s = .next (s.issueBlock a b t p y hx true))
      ∧ ∀ i, s.mmaFault a b p = some i → execMmaz g a b t p y hx s = .next (s.takePrecise i)) := by
  have waits : (decide (s.core.cyc < s.core.mx.pathFree p) || s.core.mx.busy t) = true
      ↔ s.core.cyc < s.core.mx.pathFree p ∨ s.core.mx.busy t = true := by rw [Bool.or_eq_true, decide_eq_true_eq]
  rw [execMmaz, guarded, if_pos hg]
  refine ⟨fun h => if_pos (waits.mpr h), fun h hb => ?_⟩
  have goes : ¬(decide (s.core.cyc < s.core.mx.pathFree p) || s.core.mx.busy t) = true := by
    rw [waits, hb]
    simp [h]
  refine ⟨fun hn => ?_, fun i hi => ?_⟩
  · rw [if_neg goes, hn]
  · rw [if_neg goes, hi]

theorem Matrix.pathFree_eq (m : Matrix) (p : BitVec 6) : m.pathFree p = if 8 ≤ p.toNat then m.fltFree else m.resFree := by
  rw [Matrix.pathFree, isFloat]
  simp only [decide_eq_true_eq]

end

/-! ## The obligation -/

/-- Settles O35: the weight-compressed blocks, the fetch of A, the checks of R270, and the issue of a block that passes them. -/
theorem matrixIssue : Obligations.MatrixIssue := by
  refine ⟨readWcb_spec, fun w q4 cur k => readWcbs_spec w q4 k cur, fun s b h hp => State.fetchBlock_spec h hp, ?_⟩
  intro g a b t p y hx s hg busy da db free fmtA fmtB residue bytes moves done hp
  have hfree : s.core.mx.pathFree p = free := s.core.mx.pathFree_eq p
  have issued : s.mmaFault a b p = none → ∀ z, done z (.next (s.issueBlock a b t p y hx z)) := by
    intro hpass z
    have hgeom := s.mma_formed a b hp hpass
    obtain ⟨htile, hz, hprof, hrows, hscale, hread, halloc, hport, hland, -, -⟩ := s.newBlock_spec a b t z hp
    obtain ⟨hregs, hmem, hengines, hwrites, hblocks, hld, hpath⟩ := s.issueBlock_spec a b t y hx z hp
    rw [profileTiming_eq hp] at hland hpath
    refine ⟨_, _, rfl, hblocks, hregs, hmem, hengines, hwrites, htile, hz, hprof,
      fun h => ⟨Core.wbufSeen_eq h, s.newBlock_late a b t z h⟩, fun hr => ?_, fun hr => ?_, hrows, hscale, ?_, ?_⟩
    · obtain ⟨hb, heb, hbad, hflg, -⟩ := s.newBlock_compressed a b t z (hgeom.trans (if_pos hr))
      exact ⟨hb, heb, hbad, hflg⟩
    · exact s.newBlock_plain a b t z hp hr (by rw [hgeom, if_neg hr]; decide)
    · intro gs ph dl
      have hgs : gs = mmaGranules da p := by
        simp only [gs, hrows, hscale]
        rfl
      have hph : ph = s.core.enginePhase (mmaGranules da p) := congrArg s.core.enginePhase hgs
      have hdl : dl = s.mmaDelay da p := by
        simp only [dl, hph]
        rfl
      rw [hph, hdl]
      exact ⟨by rw [hread]; exact Nat.sub_add_cancel (Nat.le_trans (Nat.le_add_left 4 _) (s.core.enginePhase_ge _)), hld, halloc, hport,
        hland, hpath⟩
    · exact ⟨_, bitsAt_baseAdvanced db _, s.issueBlock_land a b t y hx z hp⟩
  simp only [exec_mma, exec_mmaz]
  obtain ⟨mmaWaits, mmaGoes⟩ := execMma_spec (a := a) (b := b) (t := t) (p := p) (y := y) (hx := hx) hg
  obtain ⟨mmazWaits, mmazGoes⟩ := execMmaz_spec (a := a) (b := b) (t := t) (p := p) (y := y) (hx := hx) hg
  rw [hfree] at mmaWaits mmaGoes mmazWaits mmazGoes
  refine ⟨fun h => ⟨mmaWaits h, mmazWaits (.inl h)⟩, fun h => mmazWaits (.inr h),
    fun h => ⟨fun hn => ?_, (mmaGoes h).2, fun hb => ⟨fun hn => ?_, (mmazGoes h hb).2⟩⟩, s.mmaFault_spec a b hp⟩
  · rw [(mmaGoes h).1 hn]
    exact issued hn false
  · rw [(mmazGoes h hb).1 hn]
    exact issued hn true

end Sys2Proof.Machine
end

section
/-! SUPPORT. Numbers written to memory and read back (00 R3, 05 R88), and O6. -/

namespace Sys2Proof.Machine

/-- A number is written as its cells are. -/
theorem Memory.writeCells_cellsOf : ∀ (n : Nat) (m : Memory) (a x : Nat), m.writeCells (cellsOf a n x) = m.writeNat a n x
  | 0, _, _, _ => rfl
  | n + 1, m, a, x => Memory.writeCells_cellsOf n (m.setByte a (BitVec.ofNat 8 x)) (a + 1) (x / 256)

/-- A byte after a number is written. -/
theorem Memory.byte_writeNat {m : Memory} (h : m.wf = true) (a n x b : Nat) :
    (m.writeNat a n x).byte b = if a ≤ b ∧ b < a + n then BitVec.ofNat 8 (x / 256 ^ (b - a)) else m.byte b := by
  rw [← Memory.writeCells_cellsOf, Memory.byte_writeCells_cellsOf n a x b h]

/-- Byte i of the range. -/
theorem Memory.byte_writeNat_in {m : Memory} (h : m.wf = true) (a x : Nat) {n i : Nat} (hi : i < n) :
    (m.writeNat a n x).byte (a + i) = BitVec.ofNat 8 (x / 256 ^ i) := by
  rw [Memory.byte_writeNat h, if_pos ⟨Nat.le_add_right a i, Nat.add_lt_add_left hi a⟩, Nat.add_sub_cancel_left]

/-- A byte outside the range. -/
theorem Memory.byte_writeNat_out {m : Memory} (h : m.wf = true) {a n x b : Nat} (hb : b < a ∨ a + n ≤ b) :
    (m.writeNat a n x).byte b = m.byte b := by
  rw [Memory.byte_writeNat h, if_neg (by omega)]

/-- The digits of a number to the base 256 make the number. -/
theorem elemsNat_digits (x : Nat) : ∀ n, elemsNat 8 (fun i => (BitVec.ofNat 8 (x / 256 ^ i)).toNat) n = x % 256 ^ n
  | 0 => by simp [elemsNat, Nat.mod_one]
  | n + 1 => by
    rw [elemsNat, elemsNat_digits x n, BitVec.toNat_ofNat, Nat.mod_mod, Nat.pow_mul, show 2 ^ 8 = 256 from rfl, Nat.pow_succ,
      Nat.mod_mul, Nat.mul_comm (256 ^ n)]

theorem Memory.readNat_writeNat {m : Memory} (h : m.wf = true) (a n x : Nat) : (m.writeNat a n x).readNat a n = x % 256 ^ n := by
  rw [Memory.readNat_eq_elemsNat, ← elemsNat_digits]
  exact elemsNat_congr fun i hi => by rw [Memory.byte_writeNat_in h a x hi]

/-- Settles O6: a write replaces entries of a table in canonical form, and the bytes of a number are its digits. -/
theorem memoryReadsWhatWasWritten : Obligations.MemoryReadsWhatWasWritten :=
  ⟨fun _ a x h => ⟨Memory.setByte_wf h a x, fun b => Memory.byte_setByte h a b x⟩,
   fun _ a n x h => ⟨Memory.writeNat_wf n a x h, Memory.readNat_writeNat h a n x, fun _ hi => Memory.byte_writeNat_in h a x hi,
     fun _ hb => Memory.byte_writeNat_out h hb⟩⟩

end Sys2Proof.Machine
end

section
/-! SUPPORT. The image from before the writes of higher ports (07 R124) is a memory that no canonical form is asked of, and a step can make it the
scratchpad. -/

namespace Sys2Proof.Machine

/-- A write of the lowest port that brings no bytes and is due at once. -/
def strayWrite : EngWrite :=
  { due := 0, port := 0, place := .away, data := 0, cmd := none, wm := none, wms := none, bad := none, atm := none, ents := [] }

/-- A machine after reset, its region without pulses, in which higher ports have written in the present moment: the image from before their
writes lists a byte that is zero.  A write of a low port is due, and the next event changes nothing by itself. -/
def State.beforeLowWrite : State :=
  { State.reset with
    inputs := [.externalTrigger (.fault false none)]
    region := { Region.reset with st := .frozen }
    core := { Core.reset with preAt := 1, pre := [(0, 0)], engW := [strayWrite] } }

/-- The write takes the scratchpad back to that image (07 R124). -/
theorem step_beforeLowWrite : ∃ t, step State.beforeLowWrite = .next t ∧ t.core.scratch = [(0, 0)] :=
  ⟨_, rfl, rfl⟩

/-- Refutes O60: `State.memoriesWf` asks nothing of the image that `Core.pre` keeps for writes that come late, and a write of a low port makes
that image the scratchpad again. -/
theorem not_stepKeepsMemories : ¬ Obligations.StepKeepsMemories := by
  intro h
  obtain ⟨t, ht, hscratch⟩ := step_beforeLowWrite
  have hwf : t.memoriesWf = true := h State.beforeLowWrite t rfl ht
  rw [State.memoriesWf, hscratch] at hwf
  exact absurd hwf (by simp [Memory.wf, Tab.okAbove])

end Sys2Proof.Machine
end

section
/-! SUPPORT. The checks of an access of an address unit and the faults that they raise, and O20 (05 R97 to R100, 12 R214, R215, 21 R376). -/

namespace Sys2Proof.Machine

/-! ## Translation -/

theorem Core.translate_local (c : Core) {v : Nat} (h : v < Config.scratchBytes) : c.translate v = .pad v := if_pos h

theorem Core.translate_above (c : Core) {v : Nat} (h : 2 ^ 48 ≤ v) : c.translate v = .none := by
  have hpad : ¬v < Config.scratchBytes := Nat.not_lt.mpr (Nat.le_trans (by decide) h)
  rw [Core.translate, if_neg hpad, if_neg (Nat.not_lt.mpr h)]

/-! ## The checks -/

section
variable {s : State} {k : Nat} {va : Word} {n al : Nat} {d : Doing}

theorem State.checkAccess_misaligned (h : va.toNat % al ≠ 0) :
    s.checkAccess k va n al d = .bad (accessFault .misalignment k d 0 va.toNat) := if_pos h

variable (ha : va.toNat % al = 0)
include ha

theorem State.checkAccess_pad {off : Nat} (h : s.core.translate va.toNat = .pad off) :
    s.checkAccess k va n al d
      = if off + n ≤ Config.scratchBytes then .pad off else .bad (accessFault .outOfTable k d 0 va.toNat) := by
  simp [State.checkAccess, ha, h]

theorem State.checkAccess_none (h : s.core.translate va.toNat = .none) :
    s.checkAccess k va n al d = .bad (accessFault .outOfTable k d 0 va.toNat) := by
  simp [State.checkAccess, ha, h]

/-- An entry that leads past the quire window leads nowhere an address unit reaches (05 R97). -/
theorem State.checkAccess_outside {e : BitVec 128} {ent pa : Nat} (h : s.core.translate va.toNat = .phys ent e pa)
    (hq : quireOff pa = none) : s.checkAccess k va n al d = .bad (accessFault .outOfTable k d ent va.toNat) := by
  simp [State.checkAccess, ha, h, hq]

/-- Through an entry into the quire window, permission comes before residency (05 R99, R100, 09 R159). -/
theorem State.checkAccess_quire {e : BitVec 128} {ent pa off : Nat} (h : s.core.translate va.toNat = .phys ent e pa)
    (hq : quireOff pa = some off) : s.checkAccess k va n al d
      = if d ≠ .read ∨ !permits e d then .bad (accessFault .permission k d ent va.toNat)
        else if !stateAllows e d then .bad (accessFault .residency k d ent va.toNat)
        else .quire ent off (isDiscard e) (!within s.part.quireShare off n) := by
  simp [State.checkAccess, ha, h, hq]

end

/-- The state check of a load: neither RESIDENT nor DISCARD (05 R100). -/
theorem stateAllows_read_eq_false {e : BitVec 128} (h1 : bitsAt e 3 2 ≠ 1) (h2 : bitsAt e 3 2 ≠ 2) : stateAllows e .read = false := by
  have key : ∀ x : BitVec 2, x ≠ 1 → x ≠ 2 → ((x.toNat == 1) || (x.toNat == 2 && Doing.read == Doing.read)) = false := by decide
  exact key _ h1 h2

/-! ## Loads and stores -/

section
variable (u : BitVec 1) (g : BitVec 4) (n : BitVec 5) (m : BitVec 1) (s : State)

theorem exec_ldl (sf : BitVec 10) (w : BitVec 2) (t : BitVec 1) (h : BitVec 2) : exec (.ldl u g sf n m w t h) s
    = loadWith u g n m (4 * (ldlForm w h).2) (4 * (ldlForm w h).2) (fun _ a => byteRun (4 * (ldlForm w h).1) a (4 * (ldlForm w h).2)) .line
        (fun _ => loadLanding u (lineFile t) sf (laneSel fun i => decide ((ldlForm w h).1 ≤ i ∧ i < (ldlForm w h).1 + (ldlForm w h).2))
          (laneSel fun i => decide ((ldlForm w h).1 ≤ i ∧ i < (ldlForm w h).1 + (ldlForm w h).2))) s := rfl

theorem exec_stl (sf : BitVec 10) (w : BitVec 2) (t : BitVec 1) (h : BitVec 2) : exec (.stl u g sf n m w t h) s
    = storeWith u g n m (4 * (ldlForm w h).2) (4 * (ldlForm w h).2)
        (fun s a => cellsOf a (4 * (ldlForm w h).2) ((s.srcLine t sf).toNat / 2 ^ (32 * (ldlForm w h).1))) s := rfl

theorem exec_lds (d : BitVec 5) (k : BitVec 4) : exec (.lds u g d n m k) s
    = loadWith u g n m (scalarKind k).1 (scalarKind k).1 (fun _ a => byteRun 0 a (scalarKind k).1) (.scalar (scalarKind k).1 (scalarKind k).2)
        (fun _ => loadLanding u .a (BitVec.ofNat 10 d.toNat) (BitVec.allOnes 1024) (BitVec.allOnes 1024)) s := rfl

theorem exec_sts (sf : BitVec 5) (k : BitVec 4) : exec (.sts u g sf n m k) s
    = storeWith u g n m (scalarKind k).1 (scalarKind k).1 (fun s a => cellsOf a (scalarKind k).1 (s.core.r.readA sf).toNat) s := rfl

end

/-! ## Loads and stores that fault -/

section
variable {u : BitVec 1} {g : BitVec 4} {n : BitVec 5} {m : BitVec 1} {size align : Nat} {s : State} {nb : Option Word} {i : FaultInfo}
  (hg : s.guardOn g = true) (hnb : s.newBase n m = some nb)
include hg hnb

theorem loadWith_bad (bs : State → Nat → List (Nat × Nat)) (f : LoadForm) (l : State → Landing)
    (h : s.checkAccess (addrSlot u) (s.core.r.readA n) size align .read = .bad i) :
    loadWith u g n m size align bs f l s = .next (s.takePrecise i) := by
  simp only [loadWith, guarded_of_true hg, hnb, h]

theorem storeWith_bad (cells : State → Nat → List Host.Cell) (hb : s.blocked (.store []) = false)
    (h : s.checkAccess (addrSlot u) (s.core.r.readA n) size align .write = .bad i) :
    storeWith u g n m size align cells s = .next (s.takePrecise i) := by
  simp [storeWith, guarded_of_true hg, hnb, hb, h]

end

/-- Settles O20: the checks are made in the order of R214, and a load or store whose check fails faults before it reads or stores. -/
theorem accessFaults : Obligations.AccessFaults := by
  intro s k va n al d _ flt
  have hflt : ∀ x e, Checked.bad (accessFault x k d e va.toNat) = flt x e := fun x e => by cases d <;> rfl
  refine ⟨fun h => (State.checkAccess_misaligned h).trans (hflt _ _), fun ha => ⟨fun off h => ?_,
    fun h => (State.checkAccess_none ha h).trans (hflt _ _), fun e ent pa hp => ⟨fun hq => (State.checkAccess_outside ha hp hq).trans (hflt _ _),
    fun off hq => ⟨fun h => ?_, fun hd hr h1 h2 => ?_⟩⟩⟩, fun _ => s.core.translate_local, fun _ => s.core.translate_above,
    fun u g nn m nb i hg hnb => ⟨fun dd h => ?_, fun sf t h' h => ?_, fun hb sf h => ?_, fun hb sf t h' h => ?_⟩⟩
  · rw [State.checkAccess_pad ha h, hflt]
  · have denied : d ≠ .read ∨ (!permits e d) = true := by
      by_cases hd : d = .read
      · exact .inr (by rw [hd, permits, h.resolve_left (absurd hd), Bool.not_false])
      · exact .inl hd
    rw [State.checkAccess_quire ha hp hq, if_pos denied, hflt]
  · subst hd
    rw [State.checkAccess_quire ha hp hq, if_neg (by simp [permits, hr]), stateAllows_read_eq_false h1 h2, if_pos (by rfl), hflt]
  · rw [exec_lds]
    exact loadWith_bad hg hnb _ _ _ h
  · rw [exec_ldl]
    exact loadWith_bad hg hnb _ _ _ h
  · rw [exec_sts]
    exact storeWith_bad hg hnb _ hb h
  · rw [exec_stl]
    exact storeWith_bad hg hnb _ hb h

end Sys2Proof.Machine
end

section
/-! SUPPORT. The value of a load from its bytes (07 R125, 12 R217 to R220): the number that they make, and what lands when the load reads. -/

namespace Sys2Proof.Machine

/-! ## Bytes at their places -/

/-- The value at a place, 0 where no byte goes. -/
def placedByte (f : Nat → Byte) : List (Nat × Nat) → Nat → Nat
  | [], _ => 0
  | (p, a) :: t, q => if p = q then (f a).toNat else placedByte f t q

theorem placedByte_unused {f : Nat → Byte} : ∀ {l : List (Nat × Nat)} {p : Nat}, (∀ b ∈ l, b.1 ≠ p) → placedByte f l p = 0
  | [], _, _ => rfl
  | (q, a) :: t, p, h => by
    rw [placedByte, if_neg (h (q, a) List.mem_cons_self), placedByte_unused fun b hb => h b (List.mem_cons_of_mem _ hb)]

theorem placedByte_used {f : Nat → Byte} : ∀ {l : List (Nat × Nat)} {b : Nat × Nat}, (l.map (·.1)).Nodup → b ∈ l →
    placedByte f l b.1 = (f b.2).toNat
  | (q, a) :: t, b, hn, hb => by
    obtain ⟨hq, ht⟩ := List.nodup_cons.mp hn
    rcases List.mem_cons.mp hb with rfl | hb
    · rw [placedByte, if_pos rfl]
    · have hne : q ≠ b.1 := fun h => hq (List.mem_map.mpr ⟨b, hb, h.symm⟩)
      rw [placedByte, if_neg hne, placedByte_used ht hb]

/-- One more element, where there was none. -/
theorem elemsNat_place {g : Nat → Nat} {p x : Nat} (hx : x < 2 ^ 8) (hg : g p = 0) :
    ∀ n, elemsNat 8 (fun q => if p = q then x else g q) n = (if p < n then x * 2 ^ (8 * p) else 0) + elemsNat 8 g n
  | 0 => by simp [elemsNat]
  | n + 1 => by
    rw [elemsNat, elemsNat_place hx hg n, elemsNat]
    rcases Nat.lt_trichotomy p n with h | rfl | h
    · rw [if_pos h, if_neg (Nat.ne_of_lt h), if_pos (Nat.lt_succ_of_lt h), Nat.add_assoc]
    · rw [if_neg (Nat.lt_irrefl p), if_pos rfl, if_pos (Nat.lt_succ_self p), hg, Nat.mod_eq_of_lt hx]
      omega
    · rw [if_neg (by omega), if_neg (by omega), if_neg (by omega), Nat.add_assoc]

/-- The number of a load's bytes, element by element. -/
theorem loadNat_eq_elemsNat (f : Nat → Byte) {n : Nat} : ∀ {l : List (Nat × Nat)}, (l.map (·.1)).Nodup → (∀ b ∈ l, b.1 < n) →
    loadNat f l = elemsNat 8 (placedByte f l) n
  | [], _, _ => (elemsNat_zero 8 n).symm
  | (p, a) :: t, hn, hlt => by
    obtain ⟨hp, ht⟩ := List.nodup_cons.mp hn
    have unused : placedByte f t p = 0 := placedByte_unused fun b hb h => hp (List.mem_map.mpr ⟨b, hb, h⟩)
    have hfun : placedByte f ((p, a) :: t) = fun q => if p = q then (f a).toNat else placedByte f t q := rfl
    rw [loadNat, loadNat_eq_elemsNat f ht fun b hb => hlt b (List.mem_cons_of_mem _ hb), hfun, elemsNat_place (f a).isLt unused,
      if_pos (hlt (p, a) List.mem_cons_self)]

theorem loadNat_append (f : Nat → Byte) : ∀ l m, loadNat f (l ++ m) = loadNat f l + loadNat f m
  | [], m => (Nat.zero_add _).symm
  | (p, a) :: t, m => by rw [List.cons_append, loadNat, loadNat, loadNat_append f t m, Nat.add_assoc]

/-- The number of bytes that lie in order from an address up. -/
theorem loadNat_run (f : Nat → Byte) (a : Nat) :
    ∀ n, loadNat f ((List.range n).map fun i => (i, a + i)) = elemsNat 8 (fun i => (f (a + i)).toNat) n
  | 0 => rfl
  | n + 1 => by
    rw [List.range_succ, List.map_append, loadNat_append, loadNat_run f a n, elemsNat, Nat.mod_eq_of_lt (f (a + n)).isLt]
    rfl

/-! ## What a load lands -/

/-- A load that reads changes no register and no memory. -/
theorem State.readLoad_keeps (s : State) (l : Load) : KeepsRegisters s (s.readLoad l) ∧ KeepsMemory s (s.readLoad l) := by
  unfold State.readLoad
  dsimp only
  split
  · exact ⟨⟨rfl, rfl, rfl, rfl, rfl, rfl⟩, ⟨rfl, rfl, rfl, rfl, rfl, rfl⟩⟩
  · split <;> exact ⟨⟨rfl, rfl, rfl, rfl, rfl, rfl⟩, ⟨rfl, rfl, rfl, rfl, rfl, rfl⟩⟩

/-- A load that is not MLDW's lands its value at once, and with it the fault of a poisoned granule (21 R382). -/
theorem State.readLoad_mem {s : State} {l : Load} {v : Line} (hm : l.markRem = none) (hw : ∀ off, l.form ≠ .wbuf off)
    (hv : l.form.fill (loadNat (s.loadByte l) l.bytes) l.land = { l.land with val := v, lval := v }) :
    ({ l.land with val := v, lval := v, bad := if s.loadPoisoned l then some l.poisonInfo else l.land.bad } : Landing)
      ∈ (s.readLoad l).core.land := by
  unfold State.readLoad
  dsimp only
  split
  · next off h => exact absurd h (hw off)
  · rw [hm, hv]
    exact mem_insertBy.mpr (.inl rfl)

/-! ## The forms of a load -/

/-- A scalar without its sign (12 R218). -/
theorem LoadForm.fill_zeroExtended {k x : Nat} (l : Landing) : (LoadForm.scalar k false).fill x l
    = { l with val := (BitVec.ofNat (8 * k) x).zeroExtend 1024, lval := (BitVec.ofNat (8 * k) x).zeroExtend 1024 } := by
  have hv : BitVec.ofNat 1024 (x % 2 ^ (8 * k)) = (BitVec.ofNat (8 * k) x).zeroExtend 1024 :=
    BitVec.eq_of_toNat_eq (by rw [BitVec.toNat_ofNat, BitVec.zeroExtend, BitVec.toNat_setWidth, BitVec.toNat_ofNat])
  rw [← hv]
  rfl

/-- A scalar with its sign (12 R218). -/
theorem LoadForm.fill_signExtended {k x : Nat} (l : Landing) : (LoadForm.scalar k true).fill x l
    = { l with val := ((BitVec.ofNat (8 * k) x).signExtend 64).zeroExtend 1024
               lval := ((BitVec.ofNat (8 * k) x).signExtend 64).zeroExtend 1024 } := by
  rw [BitVec.zeroExtend, ← BitVec.ofNat_toNat 1024]
  rfl

/-- One element in all places (12 R220). -/
theorem LoadForm.fill_bcast (k x : Nat) (l : Landing) : (LoadForm.bcast k).fill x l
    = { l with val := ofElems (8 * k) (128 / k) fun _ => x, lval := ofElems (8 * k) (128 / k) fun _ => x } := rfl

theorem elem_ofElems_const {k i : Nat} (x : Nat) (hi : i < 128 / k) :
    elem (ofElems (8 * k) (128 / k) fun _ => x) (8 * k) i = BitVec.ofNat (8 * k) x := by
  have hk : 8 * k * (128 / k) ≤ 1024 := by
    rw [Nat.mul_assoc]
    exact Nat.mul_le_mul_left 8 (Nat.mul_div_le 128 k)
  exact elem_ofNat_elemsNat _ hi hk

end Sys2Proof.Machine
end

section
/-! SUPPORT. Loads of the quire window, and O16 (09 R161, R170, 05 R100 to R103, 12 R217 to R220, R227, 21 R382, R383). -/

namespace Sys2Proof.Machine

/-! ## What the check finds -/

/-- An access that the check lets into the quire window is a read through an entry that permits it, RESIDENT or DISCARD (05 R99 to R101). -/
theorem State.checkAccess_eq_quire {s : State} {k ent off n al : Nat} {va : Word} {zeros viol : Bool}
    (h : s.checkAccess k va n al .read = .quire ent off zeros viol) :
    ∃ e pa, s.core.translate va.toNat = .phys ent e pa ∧ quireOff pa = some off ∧ bitAt e 0 = true
      ∧ zeros = decide (bitsAt e 3 2 = 2) ∧ (zeros = true ∨ bitsAt e 3 2 = 1)
      ∧ (viol = false ↔ ∃ r ∈ s.part.quireShare, r.1 ≤ off ∧ off + n ≤ r.1 + r.2) := by
  have ha : va.toNat % al = 0 := by
    by_contra ha
    rw [State.checkAccess_misaligned ha] at h
    exact Checked.noConfusion h
  cases ht : s.core.translate va.toNat with
  | pad o =>
    rw [State.checkAccess_pad ha ht] at h
    split at h <;> exact Checked.noConfusion h
  | none =>
    rw [State.checkAccess_none ha ht] at h
    exact Checked.noConfusion h
  | phys ent' e pa =>
    cases hq : quireOff pa with
    | none =>
      rw [State.checkAccess_outside ha ht hq] at h
      exact Checked.noConfusion h
    | some o =>
      rw [State.checkAccess_quire ha ht hq] at h
      split at h
      · exact Checked.noConfusion h
      · next hp =>
        split at h
        · exact Checked.noConfusion h
        · next hs =>
          cases h
          have state : ∀ x : BitVec 2, (x.toNat == 1 || (x.toNat == 2 && Doing.read == Doing.read)) = true →
              (x.toNat == 2) = decide (x = 2) ∧ ((x.toNat == 2) = true ∨ x = 1) := by decide
          have hallows : stateAllows e .read = true := by simpa only [Bool.not_eq_true', Bool.not_eq_false] using hs
          have hstate := state (bitsAt e 3 2) hallows
          refine ⟨e, pa, rfl, hq, ?_, hstate.1, hstate.2, ?_⟩
          · simpa [permits] using hp
          · simp [within]

/-! ## Issue -/

theorem State.push_onlySends (s : State) (l : Landing) : OnlySends s (s.push l) := rfl

/-- A base that goes on sends a result alone (12 R216). -/
theorem State.bumpBase_onlySends (s : State) (k : Nat) (n : BitVec 5) (nb : Option Word) : OnlySends s (s.bumpBase k n nb) := by
  cases nb with
  | none => rfl
  | some x =>
    show OnlySends s (if n = 0 then s else _)
    split
    · rfl
    · exact s.push_onlySends _

/-- A load of the quire window issues beside what its base or its stream sends. -/
theorem State.issueLoad_readsQuire {s s' : State} (hs : OnlySends s s') (u : BitVec 1) (ent off : Nat) (zeros viol : Bool)
    (bytes : Nat → List (Nat × Nat)) (form : LoadForm) (file : RegFile) (dst : BitVec 10) (sel : Line) :
    ReadsQuire s (.next (s'.issueLoad (addrSlot u) (.quire ent off zeros viol) bytes form (loadLanding u file dst sel sel))) u
      s'.core.land (bytes off) ent zeros viol form file dst sel := by
  rw [OnlySends] at hs
  generalize s'.core.land = land, s'.core.seqNo = q, s'.core.undo = w, s'.core.known = known at hs
  subst hs
  have faulty_iff : (viol || ((bytes off).any (fun b => s.core.poison.contains (poisonGran true b.2)) && !zeros)) = true
      ↔ viol = true ∨ (zeros = false ∧ ∃ b ∈ bytes off, poisonGran true b.2 ∈ s.core.poison) := by
    simp [and_comm]
  have record : ∀ i : FaultInfo, i.kind = .violation → i.vkind = 1 → ((if viol = true then some i else none) = none ↔ viol = false)
      ∧ ∀ j, (if viol = true then some i else none) = some j → j.kind = .violation ∧ j.vkind = 1 := by
    rintro i hk hv
    cases viol
    · exact ⟨by simp, fun j hj => by cases hj⟩
    · exact ⟨by simp, fun j hj => by cases hj; exact ⟨hk, hv⟩⟩
  dsimp only [State.issueLoad]
  generalize (viol || ((bytes off).any (fun b => s.core.poison.contains (poisonGran true b.2)) && !zeros)) = faulty at faulty_iff
  cases faulty
  · exact ⟨_, _, rfl, ⟨rfl, rfl, ⟨rfl, rfl, rfl, rfl, rfl, rfl⟩, ⟨rfl, rfl, rfl, rfl, rfl, rfl⟩⟩, rfl,
      fun hb => Bool.noConfusion (faulty_iff.mpr hb), fun _ => rfl, rfl, rfl, rfl, rfl, rfl, rfl, rfl, rfl, rfl, rfl, rfl, rfl, rfl, rfl, rfl,
      record _ rfl rfl⟩
  · exact ⟨_, _, rfl, ⟨rfl, rfl, ⟨rfl, rfl, rfl, rfl, rfl, rfl⟩, ⟨rfl, rfl, rfl, rfl, rfl, rfl⟩⟩, rfl, fun _ => rfl,
      fun hn => absurd (faulty_iff.mp rfl) hn, rfl, rfl, rfl, rfl, rfl, rfl, rfl, rfl, rfl, rfl, rfl, rfl, rfl, rfl, rfl, record _ rfl rfl⟩

/-! ## The instructions -/

section
variable {u : BitVec 1} {g : BitVec 4} {n : BitVec 5} {m : BitVec 1} {s : State} {nb : Option Word} {ent off : Nat} {zeros viol : Bool}
  (hg : s.guardOn g = true)
include hg

/-- A load that the check lets into the quire window, but for a mirror that reloads. -/
theorem loadWith_quire (hnb : s.newBase n m = some nb) {size : Nat} {bytes : Nat → List (Nat × Nat)} {form : LoadForm} {file : RegFile}
    {dst : BitVec 10} {sel : Line} (h : s.checkAccess (addrSlot u) (s.core.r.readA n) size size .read = .quire ent off zeros viol) :
    let o := loadWith u g n m size size (fun _ => bytes) form (fun _ => loadLanding u file dst sel sel) s
    (s.reloads = false → LoadsQuire s o u n nb (bytes off) ent zeros viol form file dst sel)
      ∧ (s.reloads = true → o = .next (s.hold .mirrorReload)) := by
  intro o
  have ho : o = if s.reloads = true then .next (s.hold .mirrorReload)
      else .next ((s.bumpBase (addrSlot u) n nb).issueLoad (addrSlot u) (.quire ent off zeros viol) bytes form
        (loadLanding u file dst sel sel)) := by
    simp only [o, loadWith, guarded_of_true hg, hnb, h]
    rfl
  refine ⟨fun hr => ?_, fun hr => ho.trans (if_pos hr)⟩
  rw [ho, if_neg (by simp [hr])]
  exact State.issueLoad_readsQuire (s.bumpBase_onlySends _ n nb) u ent off zeros viol bytes form file dst sel

/-- LDT that the check lets into the quire window. -/
theorem execLdt_quire {sp : BitVec 10} {st : BitVec 4} {k : BitVec 1}
    (h : s.checkAccess (addrSlot u) (BitVec.ofNat 64 (stAddr (s.core.r.readSt st))) 128 128 .read = .quire ent off zeros viol) :
    let moved := streamMoved s u st (lineSteps (s.core.r.readSt st))
    (s.reloads = false → ReadsQuire s (execLdt u g sp st k s) u (s.push moved).core.land (byteRun 0 off 128) ent zeros viol .line
        (lineFile k) sp (BitVec.allOnes 1024))
      ∧ (s.reloads = true → execLdt u g sp st k s = .next (s.hold .mirrorReload)) := by
  intro moved
  have ho : execLdt u g sp st k s = if s.reloads = true then .next (s.hold .mirrorReload)
      else .next ((s.push moved).issueLoad (addrSlot u) (.quire ent off zeros viol) (fun a => byteRun 0 a 128) .line
        (loadLanding u (lineFile k) sp (BitVec.allOnes 1024) (BitVec.allOnes 1024))) := by
    simp only [execLdt, guarded_of_true hg, h]
    rfl
  refine ⟨fun hr => ?_, fun hr => ho.trans (if_pos hr)⟩
  rw [ho, if_neg (by simp [hr])]
  exact State.issueLoad_readsQuire (s.push_onlySends moved) u ent off zeros viol _ _ _ _ _

end

theorem exec_ldb (u : BitVec 1) (g : BitVec 4) (sf : BitVec 10) (n : BitVec 5) (m : BitVec 1) (w : BitVec 2) (t f : BitVec 1) (e : BitVec 2)
    (s : State) : exec (.ldb u g sf n m w t f e) s
    = loadWith u g n m (ldbBytes e) (ldbBytes e) (fun _ a => byteRun 0 a (ldbBytes e)) (.bcast (ldbBytes e))
        (fun _ => loadLanding u (lineFile t) sf (laneSel fun i => decide ((ldbForm w f).1 ≤ i ∧ i < (ldbForm w f).1 + (ldbForm w f).2))
          (laneSel fun i => decide ((ldbForm w f).1 ≤ i ∧ i < (ldbForm w f).1 + (ldbForm w f).2))) s := rfl

theorem exec_ldt (u : BitVec 1) (g : BitVec 4) (sf : BitVec 10) (st : BitVec 4) (k : BitVec 1) (s : State) :
    exec (.ldt u g sf st k) s = execLdt u g sf st k s := rfl

/-! ## Forms and kinds -/

theorem ldlForm_eq : ∀ {w : BitVec 2} (h : BitVec 2), w ≠ 3 → ldlForm w h
    = (if w = 0 then 0 else if w = 1 then 16 * (h.toNat % 2) else 8 * h.toNat, if w = 0 then 32 else if w = 1 then 16 else 8) := by
  decide

theorem ldbForm_eq : ∀ (w : BitVec 2) (f : BitVec 1), ldbForm w f
    = (if w = 0 then 0 else if w = 1 then 16 * f.toNat else if w = 2 then 8 * f.toNat else 16 + 8 * f.toNat,
       if w = 0 then 32 else if w = 1 then 16 else 8) := by
  decide

theorem ldbBytes_eq : ∀ e : BitVec 2, ldbBytes e = if e = 0 then 4 else if e = 1 then 2 else if e = 2 then 1 else 8 := by
  decide

theorem scalarKind_eq : ∀ k : BitVec 4, k ∈ [0, 1, 2, 3, 8, 9, 10] → scalarKind k
    = (if k.toNat % 8 = 0 then 1 else if k.toNat % 8 = 1 then 2 else if k.toNat % 8 = 2 then 4 else 8, decide (k.toNat < 8)) := by
  decide

theorem byteRun_zero (a n : Nat) : byteRun 0 a n = (List.range n).map fun i => (i, a + i) := by
  simp [byteRun]

/-! ## What lands -/

/-- A byte of the poison pattern (21 R382). -/
theorem poisonByte_eq (a : Nat) : poisonByte a = elem (0x7FC00000 : Lane32) 8 (a % 4) := by
  have key : ∀ i, i < 4 → (match i with
      | 2 => (0xC0 : Byte)
      | 3 => 0x7F
      | _ => 0) = elem (0x7FC00000 : Lane32) 8 i := by decide
  exact key (a % 4) (Nat.mod_lt a (by decide))

/-- What a load of the quire window reads at an offset (05 R100, 21 R382, R383). -/
theorem State.loadByte_quire {s : State} {l : Load} (h : l.quire = true) (a : Nat) : s.loadByte l a
    = if l.poison = true ∨ (l.zeros = false ∧ poisonGran true a ∈ s.core.poison) then elem (0x7FC00000 : Lane32) 8 (a % 4)
      else if l.zeros then 0 else Memory.byte s.mirror a := by
  rw [State.loadByte, h, ← poisonByte_eq]
  cases l.poison <;> cases l.zeros <;> simp

theorem State.loadPoisoned_quire {s : State} {l : Load} (h : l.quire = true) : s.loadPoisoned l = true
    ↔ l.poison = false ∧ l.zeros = false ∧ ∃ b ∈ l.bytes, poisonGran true b.2 ∈ s.core.poison := by
  rw [State.loadPoisoned, h]
  cases l.poison <;> cases l.zeros <;> simp

/-- Above a word there are zeros. -/
theorem elem_above {n w i : Nat} (x : BitVec n) (h : n ≤ w * i) : elem x w i = 0 := by
  rw [elem, Nat.div_eq_of_lt (Nat.lt_of_lt_of_le x.isLt (Nat.pow_le_pow_right (by decide) h))]
  rfl

/-- A value of a load of the quire window lands, with the fault of a poisoned granule or with that of its check. -/
theorem State.readLoad_lands {s : State} {l : Load} {v : Line} (hq : l.quire = true) (hm : l.markRem = none)
    (hw : ∀ off, l.form ≠ .wbuf off)
    (hv : l.form.fill (loadNat (s.loadByte l) l.bytes) l.land = { l.land with val := v, lval := v }) :
    let spoilt := l.poison = false ∧ l.zeros = false ∧ ∃ b ∈ l.bytes, poisonGran true b.2 ∈ s.core.poison
    ∃ r ∈ (s.readLoad l).core.land, r = { l.land with val := v, lval := v, bad := r.bad } ∧ (¬spoilt → r.bad = l.land.bad)
      ∧ (spoilt → ∃ i, r.bad = some i ∧ i.kind = .uncorrectableData ∧ i.resumes = false ∧ i.slot = l.land.slot ∧ i.word = l.word) := by
  intro spoilt
  have hsp : s.loadPoisoned l = true ↔ spoilt := State.loadPoisoned_quire hq
  exact ⟨_, State.readLoad_mem hm hw hv, rfl, fun h => if_neg (mt hsp.mp h), fun h => ⟨_, if_pos (hsp.mpr h), rfl, rfl, rfl, rfl⟩⟩

/-- Settles O16: the check, the issue and the reading of a load of the quire window, form by form. -/
theorem loadsOfTheQuireWindow : Obligations.LoadsOfTheQuireWindow := by
  intro u g n m s nb ent off zeros viol hg hnb
  refine ⟨fun sf w t h hw => ?_, fun d k => ?_, fun sf w t f e => ?_, fun sf st k => ?_, fun va len => State.checkAccess_eq_quire,
    fun l hq hm => ?_⟩
  · intro first count hck
    have hform : ldlForm w h = (first, count) := ldlForm_eq h hw
    rw [exec_ldl, hform]
    exact loadWith_quire hg hnb hck
  · intro size hk hck
    have hkind : scalarKind k = (size, decide (k.toNat < 8)) := scalarKind_eq k hk
    rw [exec_lds, hkind, ← byteRun_zero]
    exact loadWith_quire hg hnb hck
  · intro first count size hck
    have hform : ldbForm w f = (first, count) := ldbForm_eq w f
    have hsize : ldbBytes e = size := ldbBytes_eq e
    rw [exec_ldb, hform, hsize, ← byteRun_zero]
    exact loadWith_quire hg hnb hck
  · intro d hck
    rw [exec_ldt, ← byteRun_zero]
    exact execLdt_quire hg hck
  · intro t' spoilt got lands
    have byte (a : Nat) : s.loadByte l a = got a := State.loadByte_quire hq a
    refine ⟨(s.readLoad_keeps l).1, (s.readLoad_keeps l).2, fun hf hn hlt => ?_, fun a k hk hbs => ?_⟩
    · have hx : loadNat (s.loadByte l) l.bytes = elemsNat 8 (placedByte (s.loadByte l) l.bytes) 128 := loadNat_eq_elemsNat _ hn hlt
      refine ⟨BitVec.ofNat 1024 (loadNat (s.loadByte l) l.bytes), State.readLoad_lands hq hm (by simp [hf]) (by rw [hf]; rfl), ?_, ?_⟩
      · intro b hb
        rw [hx, elem_ofNat_elemsNat _ (hlt b hb) (by decide), placedByte_used hn hb, BitVec.ofNat_toNat, BitVec.setWidth_eq, byte]
      · intro p hp
        rcases Nat.lt_or_ge p 128 with h | h
        · rw [hx, elem_ofNat_elemsNat _ h (by decide), placedByte_unused hp]
          rfl
        · exact elem_above _ (by omega)
    · have hx : loadNat (s.loadByte l) l.bytes = elemsNat 8 (fun i => (s.loadByte l (a + i)).toNat) k := by rw [hbs, loadNat_run]
      refine ⟨BitVec.ofNat (8 * k) (loadNat (s.loadByte l) l.bytes), fun i hi => ?_, fun hf => ?_, fun hf => ?_, fun hf => ?_⟩
      · rw [hx, elem_ofNat_elemsNat _ hi (Nat.le_refl _), BitVec.ofNat_toNat, BitVec.setWidth_eq, byte]
      · exact State.readLoad_lands hq hm (by simp [hf]) (by rw [hf, LoadForm.fill_zeroExtended])
      · exact State.readLoad_lands hq hm (by simp [hf]) (by rw [hf, LoadForm.fill_signExtended])
      · exact ⟨_, State.readLoad_lands hq hm (by simp [hf]) (by rw [hf, LoadForm.fill_bcast]), fun i => elem_ofElems_const _⟩

end Sys2Proof.Machine
end

section
/-! SUPPORT. Fields of a register: what its bits are after one of them is replaced (22 R391). -/

namespace Sys2Proof.Machine

theorem setBits_toNat {x : Word} {lo n v : Nat} (h : lo + n ≤ 64) :
    (setBits x lo n v).toNat = 2 ^ lo * (2 ^ n * (x.toNat / 2 ^ (lo + n)) + v % 2 ^ n) + x.toNat % 2 ^ lo := by
  have hsum : x.toNat / 2 ^ (lo + n) * 2 ^ (lo + n) + v % 2 ^ n * 2 ^ lo + x.toNat % 2 ^ lo
      = 2 ^ lo * (2 ^ n * (x.toNat / 2 ^ (lo + n)) + v % 2 ^ n) + x.toNat % 2 ^ lo := by
    rw [Nat.pow_add]; ring
  have hhigh : x.toNat / 2 ^ (lo + n) < 2 ^ (64 - (lo + n)) := by
    rw [Nat.div_lt_iff_lt_mul (Nat.two_pow_pos _), ← Nat.pow_add, show 64 - (lo + n) + (lo + n) = 64 by omega]
    exact x.isLt
  have hmid : 2 ^ n * (x.toNat / 2 ^ (lo + n)) + v % 2 ^ n < 2 ^ (64 - lo) := by
    have hpow : 2 ^ (64 - lo) = 2 ^ n * 2 ^ (64 - (lo + n)) := by
      rw [← Nat.pow_add]
      congr 1
      omega
    have hv : v % 2 ^ n < 2 ^ n := Nat.mod_lt _ (Nat.two_pow_pos n)
    rw [hpow]
    nlinarith [Nat.mul_le_mul_left (2 ^ n) (Nat.succ_le_of_lt hhigh)]
  have hlt : 2 ^ lo * (2 ^ n * (x.toNat / 2 ^ (lo + n)) + v % 2 ^ n) + x.toNat % 2 ^ lo < 2 ^ 64 := by
    have hpow : 2 ^ 64 = 2 ^ lo * 2 ^ (64 - lo) := by
      rw [← Nat.pow_add]
      congr 1
      omega
    have hlow : x.toNat % 2 ^ lo < 2 ^ lo := Nat.mod_lt _ (Nat.two_pow_pos lo)
    rw [hpow]
    nlinarith [Nat.mul_le_mul_left (2 ^ lo) (Nat.succ_le_of_lt hmid)]
  rw [setBits, BitVec.toNat_ofNat, hsum, Nat.mod_eq_of_lt hlt]

/-- A bit of a register after a field is replaced. -/
theorem bitAt_setBits {x : Word} {lo n v : Nat} (h : lo + n ≤ 64) (b : Nat) :
    bitAt (setBits x lo n v) b = if lo ≤ b ∧ b < lo + n then v.testBit (b - lo) else bitAt x b := by
  rw [bitAt_eq_testBit, bitAt_eq_testBit, setBits_toNat h, Nat.testBit_two_pow_mul_add _ (Nat.mod_lt _ (Nat.two_pow_pos lo))]
  by_cases hlo : b < lo
  · rw [if_pos hlo, if_neg (by omega), Nat.testBit_mod_two_pow, decide_eq_true hlo, Bool.true_and]
  · rw [if_neg hlo, Nat.testBit_two_pow_mul_add _ (Nat.mod_lt _ (Nat.two_pow_pos n))]
    by_cases hn : b - lo < n
    · rw [if_pos hn, if_pos (by omega), Nat.testBit_mod_two_pow, decide_eq_true hn, Bool.true_and]
    · rw [if_neg hn, if_neg (by omega), Nat.testBit_div_two_pow]
      congr 1
      omega

/-- A bit outside the field. -/
theorem bitAt_setBits_out {x : Word} {lo n v b : Nat} (h : lo + n ≤ 64) (hb : b < lo ∨ lo + n ≤ b) :
    bitAt (setBits x lo n v) b = bitAt x b := by
  rw [bitAt_setBits h, if_neg (by omega)]

/-- A field that lies apart from the one that is replaced. -/
theorem bitsAt_setBits_out {x : Word} {lo n v lo' n' : Nat} (h : lo + n ≤ 64) (ha : lo' + n' ≤ lo ∨ lo + n ≤ lo') :
    bitsAt (setBits x lo n v) lo' n' = bitsAt x lo' n' := by
  refine BitVec.eq_of_getLsbD_eq fun i hi => ?_
  rw [bitsAt_getLsbD, bitsAt_getLsbD, ← bitAt_eq_getLsbD, ← bitAt_eq_getLsbD, bitAt_setBits_out h (by omega)]

/-- The field that is replaced. -/
theorem bitsAt_setBits {x : Word} {lo n v : Nat} (h : lo + n ≤ 64) : bitsAt (setBits x lo n v) lo n = BitVec.ofNat n v := by
  refine BitVec.eq_of_getLsbD_eq fun i hi => ?_
  rw [bitsAt_getLsbD, ← bitAt_eq_getLsbD, bitAt_setBits h, if_pos (by omega), BitVec.getLsbD_ofNat, Nat.add_sub_cancel_left]

end Sys2Proof.Machine
end

section
/-! SUPPORT. What an event of the region changes, and its samples: boundaries, edges, budgets and lock (20 R355 to R361, R364). -/

namespace Sys2Proof.Machine

/-! ## The region alone -/

/-- The region becomes another, and beside it only the estimators of crossing ports, the number of the next free value and what the module
keeps of its own change. -/
def ChangesRegion (s t : State) (u : Region) : Prop :=
  ∃ xp fresh dev, t = { s with core := { s.core with xp := xp }, region := u, fresh := fresh, dev := dev }

/-- What no event of the region changes. -/
def KeepsCore (s t : State) : Prop :=
  t.core.r = s.core.r ∧ t.core.lat = s.core.lat ∧ t.core.seq = s.core.seq ∧ t.core.cyc = s.core.cyc ∧ t.core.land = s.core.land
    ∧ KeepsMemory s t

theorem ChangesRegion.self (s : State) : ChangesRegion s s s.region := ⟨_, _, _, rfl⟩

theorem ChangesRegion.set (s : State) (u : Region) : ChangesRegion s { s with region := u } u := ⟨_, _, _, rfl⟩

theorem ChangesRegion.trans {s t v : State} {u w : Region} (h : ChangesRegion s t u) (h' : ChangesRegion t v w) : ChangesRegion s v w := by
  obtain ⟨_, _, _, rfl⟩ := h
  obtain ⟨_, _, _, rfl⟩ := h'
  exact ⟨_, _, _, rfl⟩

theorem ChangesRegion.region {s t : State} {u : Region} (h : ChangesRegion s t u) : t.region = u := by
  obtain ⟨_, _, _, rfl⟩ := h
  rfl

theorem ChangesRegion.web {s t : State} {u : Region} (h : ChangesRegion s t u) : t.web = s.web := by
  obtain ⟨_, _, _, rfl⟩ := h
  rfl

theorem ChangesRegion.keeps {s t : State} {u : Region} (h : ChangesRegion s t u) : KeepsCore s t := by
  obtain ⟨_, _, _, rfl⟩ := h
  exact ⟨rfl, rfl, rfl, rfl, rfl, rfl, rfl, rfl, rfl, rfl, rfl⟩

/-- What an event of the region answers: a state whose core is kept, and whose region is as said. -/
def RegionOnly (s : State) (o : Out) (f : Region → Prop) : Prop :=
  ∃ t : State, o = .next t ∧ KeepsCore s t ∧ f t.region

theorem ChangesRegion.only {s t : State} {u : Region} {o : Out} {f : Region → Prop} (h : ChangesRegion s t u) (ho : o = .next t) (hf : f u) :
    RegionOnly s o f :=
  ⟨t, ho, h.keeps, h.region ▸ hf⟩

/-! ## Estimators -/

theorem State.estimate_changes (s : State) (n : Nat) : ChangesRegion s (s.estimate n) s.region := by
  unfold State.estimate
  split
  · exact .self s
  · split
    · exact .self s
    · dsimp only
      split <;> exact ⟨_, _, _, rfl⟩

theorem State.estimators_changes (s : State) : ChangesRegion s s.estimators s.region :=
  foldl_keeps (P := fun t => ChangesRegion s t s.region) (fun t n h => h.trans (h.region ▸ t.estimate_changes n)) (List.range 4) (.self s)

theorem State.restartMeasure_changes (s : State) : ChangesRegion s s.restartMeasure s.region := ⟨_, _, _, rfl⟩

/-! ## Counts -/

theorem count16_zero (x : BitVec 16) : count16 x 0 = x := by
  rw [count16, Nat.add_zero, show Nat.min x.toNat 0xFFFF = x.toNat from Nat.min_eq_left (Nat.le_of_lt_succ x.isLt), BitVec.ofNat_toNat,
    BitVec.setWidth_eq]

theorem count16_b2n (x : BitVec 16) (b : Bool) : count16 x (b2n b) = if b = true then count16 x 1 else x := by
  cases b
  · exact count16_zero x
  · rfl

/-- Counting adds to the four counts, and keeps account of the moment (20 R364). -/
theorem Region.count_eq (r : Region) (web p m d o : Nat) : ∃ a n, r.count web p m d o
    = { r with phev := count16 r.phev p, miss := count16 r.miss m, drop := count16 r.drop d, ovr := count16 r.ovr o, newAt := a, new := n } := by
  unfold Region.count
  dsimp only
  split
  · next h =>
    obtain ⟨rfl, rfl, rfl, rfl⟩ : p = 0 ∧ m = 0 ∧ d = 0 ∧ o = 0 := by omega
    simp only [count16_zero]
    exact ⟨_, _, rfl⟩
  · exact ⟨_, _, rfl⟩

/-! ## Boundaries -/

/-- A sample begins: its number, its budget, and nothing counted yet (20 R355). -/
def Region.Begins (r u : Region) : Prop :=
  u.smpc = (if r.fresh then 0 else r.smpc + 1) ∧ u.bud = (u.smpc + 1) * r.num / r.den - u.smpc * r.num / r.den
    ∧ u.cis = 0 ∧ u.gated = decide (u.bud = 0) ∧ u.fresh = false ∧ u.pending = false ∧ u.ovr = r.ovr

/-- The region at a sample boundary. -/
def Region.nextBoundary (r : Region) : Region :=
  { r with smpc := r.nextSample, bud := r.budget r.nextSample, cis := 0, frac := 0, gated := r.budget r.nextSample == 0, fresh := false
           pending := false }

theorem State.boundary_changes (s : State) : ChangesRegion s s.boundary s.region.nextBoundary := by
  unfold State.boundary
  dsimp only
  split
  · exact .set s _
  · exact (ChangesRegion.set s s.region.nextBoundary).trans (State.estimators_changes _)

/-- A boundary begins the next sample, of a region that has the same sample, ratio and overruns. -/
theorem Region.nextBoundary_begins {r u : Region} (hf : u.fresh = r.fresh) (hs : u.smpc = r.smpc) (hr : u.rclk = r.rclk) (ho : u.ovr = r.ovr) :
    r.Begins u.nextBoundary := by
  have hn : r.num = u.num := by rw [Region.num, Region.num, hr]
  have hd : r.den = u.den := by rw [Region.den, Region.den, hr]
  rw [Region.Begins, ← hf, ← hs, hn, hd]
  exact ⟨rfl, rfl, rfl, rfl, rfl, rfl, ho⟩

theorem State.inStep_changes (s : State) : ∃ b, ChangesRegion s s.inStep { s.region with lag := b } := by
  unfold State.inStep
  split
  · exact ⟨false, .set s _⟩
  · exact ⟨s.region.lag, .self s⟩

/-- A boundary from which the pulses may keep step with the web. -/
theorem State.boundary_inStep_changes (s : State) (u : Region) :
    ∃ b, ChangesRegion s (State.boundary (State.inStep { s with region := u })) (Region.nextBoundary { u with lag := b }) := by
  obtain ⟨b, h⟩ := State.inStep_changes { s with region := u }
  exact ⟨b, ((ChangesRegion.set s u).trans h).trans (h.region ▸ State.boundary_changes _)⟩

/-! ## Edges -/

theorem State.trackOrLimit_changes (s : State) : ∃ st, ChangesRegion s s.trackOrLimit { s.region with st := st }
    ∧ (st = .track ∨ st = .limit) ∧ (s.onWebRef = true → st = .track) := by
  unfold State.trackOrLimit
  split
  · exact ⟨.track, .set s _, .inl rfl, fun _ => rfl⟩
  · next h =>
    refine ⟨_, ⟨_, _, _, rfl⟩, ?_, fun hw => absurd hw h⟩
    split
    · exact .inl rfl
    · exact .inr rfl

/-- The edge at which an acquisition or a relock ends begins a sample and counts the edges that were missed (20 R358, R360). -/
theorem State.lockedEdge_changes (s : State) (n : Nat) : ∃ u, ChangesRegion s (s.lockedEdge n) u ∧ s.region.Begins u ∧ u.st = .track
    ∧ u.base = s.web ∧ (s.region.fresh = false → u.miss = count16 s.region.miss (n - 1)) := by
  unfold State.lockedEdge
  dsimp only
  split
  · next hf =>
    obtain ⟨b, h⟩ := s.boundary_inStep_changes { s.region with
      st := .track, locked := false, base := s.web, lockSrc := bitsAt s.region.rclk 59 4 }
    exact ⟨_, h, Region.nextBoundary_begins rfl rfl rfl rfl, rfl, rfl, fun hn => absurd (hf.symm.trans hn) (by decide)⟩
  · obtain ⟨a, v, hc⟩ := s.region.count_eq s.moment 0 (n - 1) 0 0
    rw [hc]
    obtain ⟨b, h⟩ := s.boundary_inStep_changes _
    exact ⟨_, h, Region.nextBoundary_begins rfl rfl rfl (count16_zero _), rfl, rfl, fun _ => rfl⟩

/-- An edge after the end of a budget: the boundary (20 R357, R361). -/
theorem State.trackedEdge_gated {s : State} (hg : s.region.gated = true) (far : Bool) (n : Nat) :
    let r := s.region
    ∃ u, ChangesRegion s (s.trackedEdge far n) u ∧ r.Begins u ∧ u.st = r.st ∧ u.drop = r.drop
      ∧ u.miss = (if r.fresh = false ∧ 2 ≤ n then count16 r.miss (n - 1) else r.miss)
      ∧ u.phev = (if r.fresh = false ∧ n < 2 ∧ far = true ∧ s.web ≤ r.ended + r.pulse then count16 r.phev 1 else r.phev) := by
  intro r
  have hstep : s.oneStep = decide (s.web ≤ r.ended + r.pulse) := if_pos hg
  unfold State.trackedEdge
  dsimp only
  rw [if_pos hg]
  by_cases hf : s.region.fresh = true
  · rw [if_pos hf]
    obtain ⟨b, h⟩ := s.boundary_inStep_changes s.region
    have hr : ¬r.fresh = false := by simp [r, hf]
    exact ⟨_, h, Region.nextBoundary_begins rfl rfl rfl rfl, rfl, rfl, (if_neg fun h => hr h.1).symm, (if_neg fun h => hr h.1).symm⟩
  · have hr : r.fresh = false := Bool.eq_false_of_not_eq_true hf
    rw [if_neg hf]
    by_cases hn : 2 ≤ n
    · obtain ⟨a, v, hc⟩ := s.region.count_eq s.moment 0 (n - 1) 0 0
      rw [if_pos hn, hc]
      obtain ⟨b, h⟩ := s.boundary_inStep_changes _
      exact ⟨_, h, Region.nextBoundary_begins rfl rfl rfl (count16_zero _), rfl, count16_zero _, (if_pos ⟨hr, hn⟩).symm,
        (count16_zero _).trans (if_neg (by omega)).symm⟩
    · obtain ⟨a, v, hc⟩ := s.region.count_eq s.moment (b2n (far && s.oneStep)) 0 0 0
      rw [if_neg hn, hc]
      obtain ⟨b, h⟩ := s.boundary_inStep_changes _
      refine ⟨_, h, Region.nextBoundary_begins rfl rfl rfl (count16_zero _), rfl, count16_zero _,
        (count16_zero _).trans (if_neg fun h => hn h.2).symm, (count16_b2n _ _).trans (if_congr ?_ rfl rfl)⟩
      rw [hstep, Bool.and_eq_true, decide_eq_true_eq]
      exact ⟨fun h => ⟨hr, Nat.lt_of_not_le hn, h⟩, fun h => h.2.2⟩

/-- An edge before the end of a budget is pending; where one is pending already, its sample drops (20 R357, R361). -/
theorem State.trackedEdge_open {s : State} (hg : s.region.gated = false) (far : Bool) (n : Nat) :
    let r := s.region
    ∃ u, ChangesRegion s (s.trackedEdge far n) u ∧ u.pending = true ∧ u.st = r.st ∧ u.gated = false ∧ u.smpc = r.smpc ∧ u.cis = r.cis
      ∧ u.bud = r.bud ∧ u.miss = r.miss ∧ u.drop = (if r.pending then count16 r.drop 1 else r.drop)
      ∧ u.phev = (if r.pending = false ∧ far = true ∧ r.bud ≤ r.cis + 1 then count16 r.phev 1 else r.phev) := by
  intro r
  have hstep : s.oneStep = decide (r.bud ≤ r.cis + 1) := if_neg (by simp [hg])
  unfold State.trackedEdge
  dsimp only
  rw [if_neg (by simp [hg])]
  by_cases hp : s.region.pending = true
  · obtain ⟨a, v, hc⟩ := s.region.count_eq s.moment 0 0 1 0
    have hr : ¬r.pending = false := by simp [r, hp]
    rw [if_pos hp, hc]
    exact ⟨_, (ChangesRegion.set s _).trans (State.restartMeasure_changes _), hp, rfl, hg, rfl, rfl, rfl, count16_zero _, (if_pos hp).symm,
      (count16_zero _).trans (if_neg fun h => hr h.1).symm⟩
  · obtain ⟨a, v, hc⟩ := s.region.count_eq s.moment (b2n (far && s.oneStep)) 0 0 0
    have hr : r.pending = false := Bool.eq_false_of_not_eq_true hp
    rw [if_neg hp, hc]
    refine ⟨_, .set s _, rfl, rfl, hg, rfl, rfl, rfl, count16_zero _, (count16_zero _).trans (if_neg hp).symm,
      (count16_b2n _ _).trans (if_congr ?_ rfl rfl)⟩
    rw [hstep, Bool.and_eq_true, decide_eq_true_eq]
    exact ⟨fun h => ⟨hr, h⟩, fun h => h.2⟩

/-- An edge that a kernel's region outside the fabric timing group tracks, on the reference of the web clock. -/
theorem execSourceEdge_tracked {s : State} (hst : s.region.st = .track ∨ s.region.st = .limit) (ho : s.occupied = true)
    (hf : s.inFabric = false) (hw : s.onWebRef = true) (far : Bool) (n : Nat) :
    ∃ t, execSourceEdge far n s = .next (t.trackedEdge far n) ∧ ChangesRegion s t { s.region with st := .track } := by
  obtain ⟨st, h, _, htrack⟩ := s.trackOrLimit_changes
  rw [htrack hw] at h
  have cond : ¬((s.inFabric = true ∧ (!s.region.gated) = true) ∨ (!s.occupied) = true) := by simp [hf, ho]
  refine ⟨s.trackOrLimit, ?_, h⟩
  rcases hst with hst | hst <;> simp only [execSourceEdge, hst, if_neg cond]

end Sys2Proof.Machine
end

section
/-! SUPPORT. The synthesiser, the throttle and the voltage of the region, event by event (20 R357 to R360, R372, R374, 22 R391 to R394). -/

namespace Sys2Proof.Machine

/-! ## Edges in the other states of the synthesiser -/

/-- Without a kernel an edge only shows where the source stands. -/
theorem execSourceEdge_idle {s : State} (hst : s.region.st = .track ∨ s.region.st = .limit) (ho : s.occupied = false) (far : Bool) (n : Nat) :
    execSourceEdge far n s = .next s.trackOrLimit := by
  rcases hst with hst | hst <;> simp [execSourceEdge, hst, ho]

theorem execSourceEdge_hold {s : State} (hst : s.region.st = .hold) (far : Bool) (n : Nat) :
    ∃ t u, execSourceEdge far n s = .next t ∧ ChangesRegion s t u ∧ u.st = .track ∧ u.pending = true ∧ u.phev = count16 s.region.phev 1
      ∧ u.drop = (if s.region.pending then count16 s.region.drop 1 else s.region.drop) ∧ u.smpc = s.region.smpc := by
  obtain ⟨a, v, hc⟩ := s.region.count_eq s.moment 1 0 (b2n s.region.pending) 0
  have hdrop := count16_b2n s.region.drop s.region.pending
  simp only [execSourceEdge, hst, hc]
  split
  · next hp => exact ⟨_, _, rfl, (ChangesRegion.set s _).trans (State.restartMeasure_changes _), rfl, rfl, rfl, hdrop.trans (if_pos hp), rfl⟩
  · next hp => exact ⟨_, _, rfl, .set s _, rfl, rfl, rfl, hdrop.trans (if_neg hp), rfl⟩

/-! ## Budgets -/

theorem execBudgetEnd_early {s : State} (h : s.region.cis < s.region.bud ∨ s.region.gated = true) : execBudgetEnd s = .fault .notDue := by
  simp [execBudgetEnd, h]

section
variable {s : State} (hb : s.region.bud ≤ s.region.cis) (hg : s.region.gated = false)
include hb hg

theorem execBudgetEnd_due : execBudgetEnd s = if s.region.pending then .next s.boundary
    else if s.region.st = .hold then .next (State.restartMeasure { s with region := { s.region with st := .frozen, gated := true, ended := s.web + 1 } })
    else if s.inFabric then .next s.boundary else .next { s with region := { s.region with gated := true, ended := s.web + 1 } } := by
  have cond : ¬(s.region.cis < s.region.bud ∨ s.region.gated = true) := by simp [hb, hg]
  exact if_neg cond

theorem execBudgetEnd_boundary (h : s.region.pending = true ∨ (s.region.st ≠ .hold ∧ s.inFabric = true)) :
    execBudgetEnd s = .next s.boundary := by
  rw [execBudgetEnd_due hb hg]
  by_cases hp : s.region.pending = true
  · rw [if_pos hp]
  · obtain ⟨hst, hf⟩ := h.resolve_left hp
    rw [if_neg hp, if_neg hst, if_pos hf]

end

/-! ## EN -/

theorem execStartAcquisition_off {s : State} (ho : s.occupied = false) (hst : s.region.st = .off) : execStartAcquisition s
    = .next { s with region := { s.region with rclk := setBits s.region.rclk 63 1 1, st := .acq, locked := false, gated := true, fresh := true } } := by
  simp [execStartAcquisition, ho, hst]

/-- EN alone changes. -/
theorem bitAt_setBits_enable (x : Word) (v b : Nat) : bitAt (setBits x 63 1 v) b = if b = 63 then v.testBit 0 else bitAt x b := by
  rw [bitAt_setBits (by decide)]
  by_cases h : b = 63
  · rw [if_pos (by omega), if_pos h, h]
  · rw [if_neg (by omega), if_neg h]

/-! ## Throttling -/

/-- DIV, ALM and the bits of RVREG apart from them, after a throttle follows its causes (22 R391). -/
theorem Region.throttled_spec (r : Region) : r.throttled.fast = r.fast ∧ r.throttled.alm = r.alm
    ∧ r.throttled.div = (if r.ownDiv = 1 ∨ r.peer = 1 then 1 else if r.ownDiv = 2 ∨ r.peer = 2 then 2 else 0)
    ∧ ∀ b, 2 ≤ b → bitAt r.throttled.rv b = bitAt r.rv b := by
  refine ⟨rfl, bitsAt_setBits_out (by decide) (by decide), ?_, fun b hb => bitAt_setBits_out (by decide) (.inr hb)⟩
  show bitsAt (setBits r.rv 0 2 _) 0 2 = _
  rw [bitsAt_setBits (by decide), apply_ite (BitVec.ofNat 2), apply_ite (BitVec.ofNat 2)]
  rfl

/-- The same after the alarms are set. -/
theorem Region.setAlm_spec (r : Region) (a : BitVec 4) : (r.setAlm a).fast = r.fast ∧ (r.setAlm a).alm = a
    ∧ (r.setAlm a).div = (if r.fast = true ∨ r.peer = 1 then 1 else if bitAt a 2 = true ∨ r.peer = 2 then 2 else 0)
    ∧ ∀ b, (2 ≤ b ∧ b < 16) ∨ 20 ≤ b → bitAt (r.setAlm a).rv b = bitAt r.rv b := by
  have halm : Region.alm { r with rv := setBits r.rv 16 4 a.toNat } = a := by
    rw [Region.alm, bitsAt_setBits (by decide), BitVec.ofNat_toNat, BitVec.setWidth_eq]
  obtain ⟨hfast, halms, hdiv, hbits⟩ := Region.throttled_spec { r with rv := setBits r.rv 16 4 a.toNat }
  refine ⟨hfast, halms.trans halm, hdiv.trans ?_, fun b hb => (hbits b (by omega)).trans (bitAt_setBits_out (by decide) (by omega))⟩
  rw [Region.ownDiv, halm]
  cases r.fast <;> cases bitAt a 2 <;> simp

theorem State.pace_changes (s : State) : ChangesRegion s s.pace s.region := by
  unfold State.pace
  split
  · exact ⟨_, _, _, rfl⟩
  · exact .self s

/-- A throttle that changes is told to the peers (20 R374). -/
theorem ChangesRegion.paced (s : State) (u : Region) : ChangesRegion s (State.pace { s with region := u }) u :=
  (ChangesRegion.set s u).trans (State.pace_changes _)

/-! ## Voltage -/

/-- VOUT moves within its field, and no other field of RVREG does (22 R392). -/
theorem Region.trim_spec (r : Region) (up : Bool) (mv : Nat) :
    let v := (bitsAt r.rv 32 16).toNat
    (bitsAt (r.trim up mv).rv 32 16).toNat = (if up then min (v + mv) 0xFFFF else v - mv)
      ∧ ∀ b, b < 32 ∨ 48 ≤ b → bitAt (r.trim up mv).rv b = bitAt r.rv b := by
  intro v
  have hv : v < 2 ^ 16 := (bitsAt r.rv 32 16).isLt
  refine ⟨?_, fun b hb => bitAt_setBits_out (by decide) hb⟩
  have hlt : (if up then Nat.min (v + mv) 0xFFFF else v - mv) < 2 ^ 16 := by
    split
    · exact Nat.lt_of_le_of_lt (Nat.min_le_right _ _) (by decide)
    · omega
  show (bitsAt (setBits r.rv 32 16 _) 32 16).toNat = _
  rw [bitsAt_setBits (by decide), BitVec.toNat_ofNat, Nat.mod_eq_of_lt hlt]

end Sys2Proof.Machine
end

section
/-! SUPPORT. Errors of SRAM and of data on their way (21 R382, 05 R89, R108, 06 R110). -/

namespace Sys2Proof.Machine

/-! ## Poisoned granules -/

/-- A granule joins a list of poisoned ones. -/
theorem mem_poisoned (l : List Nat) (g x : Nat) : x ∈ (if l.contains g then l else g :: l) ↔ x ∈ l ∨ x = g := by
  by_cases h : l.contains g = true
  · rw [if_pos h]
    have hg : g ∈ l := List.contains_iff_mem.mp h
    exact ⟨.inl, fun hx => hx.elim id fun e => e ▸ hg⟩
  · rw [if_neg h, List.mem_cons, or_comm]

theorem Device.countErr_same (d : Device) {n : Nat} (h : n < 7) : (d.countErr n).err[n] = d.err[n] + 1 := by
  simp [Device.countErr, h]

theorem Device.countErr_other (d : Device) {n m : Nat} (hm : m < 7) (h : n ≠ m) : (d.countErr n).err[m] = d.err[m] := by
  simp [Device.countErr, h]

theorem State.poisonStored_spec (s : State) (base limit g : Nat) : (limit ≤ g → s.poisonStored base limit g = .fault .notDue)
    ∧ (g < limit → ∃ t, s.poisonStored base limit g = .next t ∧ KeepsCore s t ∧ t.dev.err[1] = s.dev.err[1] + 1
      ∧ ∀ x, x ∈ t.core.poison ↔ x ∈ s.core.poison ∨ x = base + g) := by
  refine ⟨fun h => if_pos h, fun h => ⟨_, if_neg (Nat.not_le.mpr h), ⟨rfl, rfl, rfl, rfl, rfl, rfl, rfl, rfl, rfl, rfl, rfl⟩,
    s.dev.countErr_same (by decide), fun x => mem_poisoned _ _ x⟩⟩

/-! ## The resource map -/

/-- What the runtime finds of a quadrant, beside its membership (06 R110). -/
theorem quadrant_word (w : BitVec 52) (b : Bool) : let x : Word := BitVec.ofNat 64 (w.toNat + b2n b * 2 ^ 52)
    bitsAt x 0 52 = w ∧ bitAt x 52 = b := by
  intro x
  have hw : w.toNat < 2 ^ 52 := w.isLt
  have hb : b2n b ≤ 1 := by cases b <;> decide
  have hx : x.toNat = w.toNat + b2n b * 2 ^ 52 := (BitVec.toNat_ofNat _ 64).trans (Nat.mod_eq_of_lt (by omega))
  refine ⟨BitVec.eq_of_toNat_eq ?_, ?_⟩
  · rw [bitsAt, BitVec.toNat_ofNat, hx]
    omega
  · rw [bitAt, hx, Nat.add_mul_div_right _ _ (by decide), Nat.div_eq_of_lt hw]
    cases b <;> rfl

/-! ## Data on their way -/

theorem elem_poison512 {k : Nat} (h : k < 16) : elem poison512 32 k = 0x7FC00000 :=
  elem_ofNat_elemsNat _ h (by decide)

/-- An engine write that errs brings the poison pattern, and its command takes the fault, from which the runtime resumes the core. -/
theorem State.spoil_bad {s : State} {w : EngWrite} (hb : w.bad = none) {id n : Nat} {k : Cmd} (hc : w.cmd = some (id, n))
    (hk : s.core.cmd id = some k) :
    (s.spoil w).bad.map (fun f => (f.kind, f.resumes, f.word)) = some (.uncorrectableData, true, k.word) := by
  simp [State.spoil, hb, hc, hk, poisonFault, accessFault, FaultInfo.plain]

theorem execUncorrectableError_transit {s : State} {i at_ : Nat} {w : EngWrite} (h : s.arriving[i]? = some (at_, w)) (hp : w.place ≠ .away)
    (ha : w.atm = none) (hw : w.wms = none) (tsv : Bool) : execUncorrectableError (.transit i tsv) s
      = .next { s with arriving := s.arriving.set i (at_, s.spoil w)
                       dev := if tsv then s.dev.countErr 6 else if w.port = 0 then s.dev.countErr 3 else s.dev } := by
  simp [execUncorrectableError, h, hp, ha, hw]

/-- The counters of TSV transfers and of HBM beats (05 R89). -/
theorem transit_counters (d : Device) (tsv : Bool) (port : Nat) :
    let d' := if tsv then d.countErr 6 else if port = 0 then d.countErr 3 else d
    d'.err[6] = d.err[6] + (if tsv then 1 else 0) ∧ d'.err[3] = d.err[3] + (if tsv = false ∧ port = 0 then 1 else 0) := by
  cases tsv
  · by_cases hp : port = 0
    · simp [hp, d.countErr_same (n := 3) (by decide), d.countErr_other (n := 3) (m := 6) (by decide) (by decide)]
    · simp [hp]
  · simp [d.countErr_same (n := 6) (by decide), d.countErr_other (n := 6) (m := 3) (by decide) (by decide)]

end Sys2Proof.Machine
end

section
/-! SUPPORT. The region's events, and O56 (20 R355 to R361, R372, 21 R382, 22 R391 to R393). -/

namespace Sys2Proof.Machine

/-! ## Edges -/

theorem execSourceEdge_lock {s : State} (hl : s.region.locked = true) (far : Bool) (n : Nat) :
    (s.region.st = .acq → RegionOnly s (execSourceEdge far n s) fun u => s.region.Begins u ∧ u.st = .track ∧ u.base = s.web)
    ∧ (s.region.st = .relock → RegionOnly s (execSourceEdge far n s) fun u => s.region.Begins u ∧ u.st = .track ∧ u.base = s.web
        ∧ (s.region.fresh = false → u.miss = count16 s.region.miss (n - 1))) := by
  refine ⟨fun hst => ?_, fun hst => ?_⟩
  · obtain ⟨u, h, hb, ht, hw, _⟩ := s.lockedEdge_changes 1
    exact h.only (by simp [execSourceEdge, hst, hl]) ⟨hb, ht, hw⟩
  · obtain ⟨u, h, hspec⟩ := s.lockedEdge_changes n
    exact (h.trans (h.region ▸ State.restartMeasure_changes _)).only (by simp [execSourceEdge, hst, hl]) hspec

theorem execSourceEdge_track {s : State} (hst : s.region.st = .track ∨ s.region.st = .limit) (ho : s.occupied = true)
    (hf : s.inFabric = false) (hw : s.onWebRef = true) (far : Bool) (n : Nat) :
    let r := s.region
    (r.gated = true → RegionOnly s (execSourceEdge far n s) fun u => r.Begins u ∧ u.st = .track ∧ u.drop = r.drop
      ∧ u.miss = (if r.fresh = false ∧ 2 ≤ n then count16 r.miss (n - 1) else r.miss)
      ∧ u.phev = (if r.fresh = false ∧ n < 2 ∧ far = true ∧ s.web ≤ r.ended + r.pulse then count16 r.phev 1 else r.phev))
    ∧ (r.gated = false → RegionOnly s (execSourceEdge far n s) fun u => u.pending = true ∧ u.st = .track ∧ u.gated = false
      ∧ u.smpc = r.smpc ∧ u.cis = r.cis ∧ u.bud = r.bud ∧ u.miss = r.miss ∧ u.drop = (if r.pending then count16 r.drop 1 else r.drop)
      ∧ u.phev = (if r.pending = false ∧ far = true ∧ r.bud ≤ r.cis + 1 then count16 r.phev 1 else r.phev)) := by
  intro r
  obtain ⟨t, he, ht⟩ := execSourceEdge_tracked hst ho hf hw far n
  have hr := ht.region
  refine ⟨fun hg => ?_, fun hg => ?_⟩
  · obtain ⟨u, h, hspec⟩ := State.trackedEdge_gated (s := t) (by rw [hr]; exact hg) far n
    rw [hr, ht.web] at hspec
    exact (ht.trans h).only he hspec
  · obtain ⟨u, h, hspec⟩ := State.trackedEdge_open (s := t) (by rw [hr]; exact hg) far n
    rw [hr] at hspec
    exact (ht.trans h).only he hspec

/-! ## The other clauses, event by event -/

/-- Fields of RVREG outside some bits stay. -/
def Region.KeepsRv (r u : Region) (p : Nat → Bool) : Prop :=
  ∀ b, b < 64 → p b = false → bitAt u.rv b = bitAt r.rv b

theorem Region.setAlm_keepsRv (r : Region) (a : BitVec 4) : r.KeepsRv (r.setAlm a) fun b => b < 2 || (16 ≤ b && b < 20) := by
  intro b _ hb
  simp only [Bool.or_eq_false_iff, Bool.and_eq_false_iff, decide_eq_false_iff_not] at hb
  exact (r.setAlm_spec a).2.2.2 b (by omega)

theorem Region.throttled_keepsRv (r : Region) : r.KeepsRv r.throttled fun b => b < 2 := by
  intro b _ hb
  exact r.throttled_spec.2.2.2 b (Nat.le_of_not_lt (of_decide_eq_false hb))

theorem execFastThrottle_spec (s : State) (a : BitVec 4) : let b := a &&& 0b1011
    let off := (b = 0 ∧ s.region.fast = false) ∨ (bitAt a 3 = true ∧ s.dev.mcap = 0)
    (off → execFastThrottle a s = .fault .notDue)
    ∧ (¬off → RegionOnly s (execFastThrottle a s) fun u => u.fast = true ∧ u.div = 1 ∧ u.alm = (s.region.alm &&& 0b0100) ||| b
      ∧ s.region.KeepsRv u fun b => b < 2 || (16 ≤ b && b < 20)) := by
  intro b off
  have hbit : bitAt b 3 = bitAt a 3 := by
    rw [bitAt_eq_getLsbD, bitAt_eq_getLsbD, BitVec.getLsbD_and]
    exact Bool.and_true _
  have hoff : (b = 0 ∧ (!s.region.fast) = true) ∨ (bitAt b 3 = true ∧ s.dev.mcap = 0) ↔ off := by
    rw [hbit, Bool.not_eq_true']
  refine ⟨fun h => if_pos (hoff.mpr h), fun h => ?_⟩
  obtain ⟨hf, ha, hd, _⟩ := Region.setAlm_spec { s.region with fast := true } (s.region.alm &&& 0b0100 ||| b)
  exact (ChangesRegion.paced s _).only (if_neg fun x => h (hoff.mp x)) ⟨hf, hd, ha, Region.setAlm_keepsRv _ _⟩

theorem execThrottleRelease_spec (s : State) : let r := s.region
    (r.fast = false ∨ r.alm &&& 0b1011 ≠ 0 → execThrottleRelease s = .fault .notDue)
    ∧ (r.fast = true → r.alm &&& 0b1011 = 0 → RegionOnly s (execThrottleRelease s) fun u => u.fast = false ∧ u.alm = r.alm
      ∧ u.div = (if r.peer = 1 then 1 else if bitAt r.alm 2 = true ∨ r.peer = 2 then 2 else 0) ∧ r.KeepsRv u fun b => b < 2) := by
  intro r
  refine ⟨fun h => if_pos (by simpa [r] using h), fun hf ha => ?_⟩
  obtain ⟨hfast, halm, hdiv, _⟩ := Region.throttled_spec { r with fast := false }
  refine (ChangesRegion.paced s _).only (if_neg (by simp_all [r])) ⟨hfast, halm, hdiv.trans ?_, Region.throttled_keepsRv _⟩
  have hown : Region.ownDiv { r with fast := false } = if bitAt r.alm 2 then 2 else 0 := rfl
  rw [hown]
  cases bitAt r.alm 2 <;> simp

theorem execCapThrottling_spec (s : State) : let r := s.region
    (s.part.capw = 0 → execCapThrottling true s = .fault .notDue)
    ∧ (s.part.capw ≠ 0 → RegionOnly s (execCapThrottling true s) fun u => u.alm = r.alm ||| 0b0100
      ∧ u.div = (if r.fast = true ∨ r.peer = 1 then 1 else 2) ∧ r.KeepsRv u fun b => b < 2 || (16 ≤ b && b < 20))
    ∧ RegionOnly s (execCapThrottling false s) fun u => u.alm = r.alm &&& 0b1011
      ∧ u.div = (if r.fast = true ∨ r.peer = 1 then 1 else if r.peer = 2 then 2 else 0)
      ∧ r.KeepsRv u fun b => b < 2 || (16 ≤ b && b < 20) := by
  intro r
  refine ⟨fun h => if_pos ⟨rfl, h⟩, fun h => ?_, ?_⟩
  · obtain ⟨_, halm, hdiv, _⟩ := r.setAlm_spec (r.alm ||| 0b0100)
    have hcap : bitAt (r.alm ||| 0b0100) 2 = true := by
      rw [bitAt_eq_getLsbD, BitVec.getLsbD_or]
      exact Bool.or_true _
    rw [hcap] at hdiv
    exact (ChangesRegion.paced s _).only (if_neg fun x => h x.2) ⟨halm, by simpa using hdiv, r.setAlm_keepsRv _⟩
  · obtain ⟨_, halm, hdiv, _⟩ := r.setAlm_spec (r.alm &&& 0b1011)
    have hcap : bitAt (r.alm &&& 0b1011) 2 = false := by
      rw [bitAt_eq_getLsbD, BitVec.getLsbD_and]
      exact Bool.and_false _
    rw [hcap] at hdiv
    exact (ChangesRegion.paced s _).only rfl ⟨halm, by simpa using hdiv, r.setAlm_keepsRv _⟩

theorem execEdgesAbsent_spec (s : State) : let r := s.region
    (r.st = .track ∨ r.st = .limit → RegionOnly s (execEdgesAbsent s) fun u => u = { r with st := if r.gated then .frozen else .hold })
    ∧ (r.st = .relock → RegionOnly s (execEdgesAbsent s) fun u => u = { r with st := .frozen, locked := false })
    ∧ (r.st = .off ∨ r.st = .acq ∨ r.st = .hold ∨ r.st = .frozen → execEdgesAbsent s = .fault .notDue) := by
  intro r
  refine ⟨fun h => ?_, fun h => ?_, fun h => ?_⟩
  · by_cases hg : s.region.gated = true
    · refine ((ChangesRegion.set s { r with st := .frozen }).trans (State.restartMeasure_changes _)).only ?_ (by simp [r, hg])
      rcases h with h | h <;> simp [execEdgesAbsent, show s.region.st = _ from h, hg, r]
    · refine (ChangesRegion.set s { r with st := .hold }).only ?_ (by simp [r, hg])
      rcases h with h | h <;> simp [execEdgesAbsent, show s.region.st = _ from h, hg, r]
  · exact (ChangesRegion.set s _).only (by simp only [execEdgesAbsent, show s.region.st = _ from h, r]) rfl
  · rcases h with h | h | h | h <;> simp only [execEdgesAbsent, show s.region.st = _ from h]

theorem execBudgetEnd_spec {s : State} (hb : s.region.bud ≤ s.region.cis) (hg : s.region.gated = false) : let r := s.region
    (r.pending = true ∨ (r.st ≠ .hold ∧ s.inFabric = true) → RegionOnly s (execBudgetEnd s) r.Begins)
    ∧ (r.pending = false → r.st = .hold → RegionOnly s (execBudgetEnd s) fun u => u = { r with st := .frozen, gated := true, ended := s.web + 1 })
    ∧ (r.pending = false → r.st ≠ .hold → s.inFabric = false →
      execBudgetEnd s = .next { s with region := { r with gated := true, ended := s.web + 1 } }) := by
  intro r
  have due := execBudgetEnd_due hb hg
  refine ⟨fun h => ?_, fun hp hst => ?_, fun hp hst hf => ?_⟩
  · exact s.boundary_changes.only (execBudgetEnd_boundary hb hg h) (Region.nextBoundary_begins rfl rfl rfl rfl)
  · exact ((ChangesRegion.set s _).trans (State.restartMeasure_changes _)).only
      (due.trans ((if_neg (by simp [show s.region.pending = false from hp])).trans (if_pos hst))) rfl
  · rw [due, if_neg (by simp [show s.region.pending = false from hp]), if_neg hst, if_neg (by simp [hf])]

/-- An error in another SRAM is the late fault of the slot that reads it. -/
theorem execUncorrectableError_other (s : State) (slot : BitVec 3) : ∃ (t : State) (i : FaultInfo),
    execUncorrectableError (.other slot) s = .next t ∧ KeepsCore s t
      ∧ t.core.lateDue = s.core.lateDue ++ [(s.core.cyc, i)] ∧ i.kind = .uncorrectableData ∧ i.slot = slot.toNat ∧ i.resumes = false
      ∧ t.dev.err[1] = s.dev.err[1] + 1 :=
  ⟨_, _, rfl, ⟨rfl, rfl, rfl, rfl, rfl, rfl, rfl, rfl, rfl, rfl, rfl⟩, rfl, rfl, rfl, rfl, s.dev.countErr_same (by decide)⟩

theorem execUncorrectableError_base (s : State) (g : Nat) : (0x10000 ≤ g → execUncorrectableError (.base g) s = .fault .notDue)
    ∧ (g < 0x10000 → ∃ t : State, execUncorrectableError (.base g) s = .next t ∧ t.core = s.core ∧ t.region = s.region ∧ KeepsMemory s t
      ∧ t.dev.err[1] = s.dev.err[1] + 1 ∧ ∀ x, x ∈ t.dev.basePoison ↔ x ∈ s.dev.basePoison ∨ x = 2 ^ 20 + g) := by
  have hsize : Config.quireBytes / 32 = 0x10000 := by decide
  refine ⟨fun h => if_pos (hsize ▸ h), fun h => ⟨_, if_neg (hsize ▸ Nat.not_le.mpr h), rfl, rfl, ⟨rfl, rfl, rfl, rfl, rfl, rfl⟩,
    s.dev.countErr_same (by decide), fun x => mem_poisoned _ _ x⟩⟩

theorem execUncorrectableError_quadrant (s : State) (q : BitVec 7) (w : BitVec 52) :
    (96 ≤ q.toNat → execUncorrectableError (.quadrant q w) s = .fault .notDue)
    ∧ (q.toNat < 96 → Tab.okAbove (0 : Word) 0 s.dev.rmap = true → ∃ t : State, execUncorrectableError (.quadrant q w) s = .next t
      ∧ t.core = s.core ∧ t.region = s.region ∧ KeepsMemory s t
      ∧ (let x := Tab.get 0 t.dev.rmap q.toNat
         bitsAt x 0 52 = w ∧ bitAt x 52 = bitAt (Tab.get 0 s.dev.rmap q.toNat) 52)
      ∧ ∀ k : Nat, k ≠ q.toNat → Tab.get 0 t.dev.rmap k = Tab.get 0 s.dev.rmap k) := by
  refine ⟨fun h => if_pos h, fun h hok => ⟨_, if_neg (Nat.not_le.mpr h), rfl, rfl, ⟨rfl, rfl, rfl, rfl, rfl, rfl⟩, ?_, fun k hk => ?_⟩⟩
  · dsimp only
    rw [Tab.get_put hok, if_pos rfl]
    exact quadrant_word w _
  · exact (Tab.get_put hok).trans (if_neg hk)

/-- Data on their way that err arrive as the poison pattern. -/
theorem execUncorrectableError_transit_spec {s : State} {i at_ : Nat} {w : EngWrite} (h : s.arriving[i]? = some (at_, w)) (hp : w.place ≠ .away)
    (ha : w.atm = none) (hw : w.wms = none) (tsv : Bool) :
    ∃ (t : State) (x : EngWrite), execUncorrectableError (.transit i tsv) s = .next t ∧ KeepsCore s t ∧ t.arriving = s.arriving.set i (at_, x)
      ∧ x.place = (match w.place with
        | .remote fl => .remote { fl with data := x.data }
        | p => p)
      ∧ x.cmd = w.cmd ∧ (∀ k, k < 16 → elem x.data 32 k = 0x7FC00000)
      ∧ (w.bad = none → ∀ id n k, w.cmd = some (id, n) → s.core.cmd id = some k →
        x.bad.map (fun f => (f.kind, f.resumes, f.word)) = some (.uncorrectableData, true, k.word))
      ∧ t.dev.err[6] = s.dev.err[6] + (if tsv then 1 else 0) ∧ t.dev.err[3] = s.dev.err[3] + (if tsv = false ∧ w.port = 0 then 1 else 0) :=
  ⟨_, s.spoil w, execUncorrectableError_transit h hp ha hw tsv, ⟨rfl, rfl, rfl, rfl, rfl, rfl, rfl, rfl, rfl, rfl, rfl⟩, rfl, rfl, rfl,
    fun _ hk => elem_poison512 hk, fun hb _ _ _ hc hk => State.spoil_bad hb hc hk, transit_counters s.dev tsv w.port⟩

/-- Canaries and replicas move VOUT. -/
theorem trim_only {s : State} {o : Out} {up : Bool} {mv : Nat} (h : o = .next { s with region := s.region.trim up mv }) :
    RegionOnly s o fun u => (bitsAt u.rv 32 16).toNat
        = (if up then min ((bitsAt s.region.rv 32 16).toNat + mv) 0xFFFF else (bitsAt s.region.rv 32 16).toNat - mv)
      ∧ s.region.KeepsRv u fun b => 32 ≤ b && b < 48 := by
  obtain ⟨hv, hbits⟩ := s.region.trim_spec up mv
  refine (ChangesRegion.set s _).only h ⟨hv, fun b _ hb => hbits b ?_⟩
  simp only [Bool.and_eq_false_iff, decide_eq_false_iff_not] at hb
  omega

/-- A heat level waits for slot 0, and is the stack's there. -/
theorem execHeatLevelChange_spec (s : State) (k : BitVec 4) (l : BitVec 2) : (12 ≤ k.toNat → execHeatLevelChange k l s = .fault .notDue)
    ∧ (k.toNat < 12 → ∃ t : State, execHeatLevelChange k l s = .next t ∧ t.core = s.core ∧ t.region = s.region ∧ t.dev.htl = s.dev.htl
      ∧ (t.heatLevels.dev.htl[k.toNat]?) = some l
      ∧ (s.dev.htlNext = [] → ∀ j : Nat, j < 12 → j ≠ k.toNat → t.heatLevels.dev.htl[j]? = s.dev.htl[j]?)) := by
  refine ⟨fun h => if_pos h, fun h => ⟨_, if_neg (Nat.not_le.mpr h), rfl, rfl, rfl, ?_, fun hnone j hj hjk => ?_⟩⟩
  · simp [State.heatLevels, h]
  · simp [State.heatLevels, hnone, Ne.symm hjk]

theorem execSourceEdge_spec (s : State) (far : Bool) (n : Nat) : let r := s.region
    (r.st = .track ∨ r.st = .limit → s.occupied = false → RegionOnly s (execSourceEdge far n s) fun u => u = { r with st := u.st }
      ∧ (u.st = .track ∨ u.st = .limit) ∧ (s.onWebRef = true → u.st = .track))
    ∧ (r.st = .hold → RegionOnly s (execSourceEdge far n s) fun u => u.st = .track ∧ u.pending = true ∧ u.phev = count16 r.phev 1
      ∧ u.drop = (if r.pending then count16 r.drop 1 else r.drop) ∧ u.smpc = r.smpc)
    ∧ (r.st = .frozen → RegionOnly s (execSourceEdge far n s) fun u => u = { r with st := .relock, locked := false })
    ∧ (r.st = .off ∨ ((r.st = .acq ∨ r.st = .relock) ∧ r.locked = false) → execSourceEdge far n s = .next s) := by
  intro r
  refine ⟨fun hst ho => ?_, fun hst => ?_, fun hst => ?_, fun h => ?_⟩
  · obtain ⟨st, h, hspec⟩ := s.trackOrLimit_changes
    exact h.only (execSourceEdge_idle hst ho far n) ⟨rfl, hspec⟩
  · obtain ⟨t, u, he, h, hspec⟩ := execSourceEdge_hold hst far n
    exact h.only he hspec
  · exact (ChangesRegion.set s _).only (by simp only [execSourceEdge, show s.region.st = .frozen from hst, r]) rfl
  · rcases h with h | ⟨h | h, hl⟩
    · simp only [execSourceEdge, show s.region.st = _ from h]
    · simp [execSourceEdge, show s.region.st = _ from h, show s.region.locked = _ from hl]
    · simp [execSourceEdge, show s.region.st = _ from h, show s.region.locked = _ from hl]

/-- EN is written, with no kernel resident. -/
theorem enable_spec {s : State} (ho : s.occupied = false) : let r := s.region
    (r.st = .off → RegionOnly s (execStartAcquisition s) fun u => u.st = .acq ∧ bitAt u.rclk 63 = true
      ∧ (∀ b, b < 63 → bitAt u.rclk b = bitAt r.rclk b) ∧ u.locked = false ∧ u.gated = true)
    ∧ RegionOnly s (execSynthesiserStop s) fun u => u.st = .off ∧ bitAt u.rclk 63 = false
      ∧ (∀ b, b < 63 → bitAt u.rclk b = bitAt r.rclk b) ∧ u.gated = true := by
  intro r
  have enable (v : Nat) : bitAt (setBits r.rclk 63 1 v) 63 = v.testBit 0 := (bitAt_setBits_enable _ _ _).trans (if_pos rfl)
  have rest (v b : Nat) (hb : b < 63) : bitAt (setBits r.rclk 63 1 v) b = bitAt r.rclk b :=
    (bitAt_setBits_enable _ _ _).trans (if_neg (Nat.ne_of_lt hb))
  exact ⟨fun hst => (ChangesRegion.set s _).only (execStartAcquisition_off ho hst) ⟨rfl, enable 1, rest 1, rfl, rfl⟩,
    (ChangesRegion.set s _).only (if_neg (by simp [ho])) ⟨rfl, enable 0, rest 0, rfl⟩⟩

/-- Canaries and replicas, each where the other does not hold the margin (22 R392). -/
theorem voltage_spec (s : State) : let v := (bitsAt s.region.rv 32 16).toNat
    let vout := fun (o : Out) (n : Nat) => RegionOnly s o fun u => (bitsAt u.rv 32 16).toNat = n ∧ s.region.KeepsRv u fun b => 32 ≤ b && b < 48
    (bitAt s.region.rv 63 = true → execCanaryFailure s = .fault .notDue ∧ execVoutStepDown s = .fault .notDue)
    ∧ (bitAt s.region.rv 63 = false → vout (execCanaryFailure s) (min (v + 5) 0xFFFF) ∧ vout (execVoutStepDown s) (v - 5))
    ∧ ∀ (up : Bool) (mv : BitVec 3), (bitAt s.region.rv 63 = false ∨ 5 < mv.toNat → execReplicaTrim up mv s = .fault .notDue)
      ∧ (bitAt s.region.rv 63 = true → mv.toNat ≤ 5 → vout (execReplicaTrim up mv s)
        (if up then min (v + mv.toNat) 0xFFFF else v - mv.toNat)) := by
  intro v vout
  refine ⟨fun h => ⟨if_pos h, if_pos h⟩, fun h => ?_, fun up mv => ⟨fun h => if_pos (by simpa using h), fun h hmv => ?_⟩⟩
  · have hn : ¬bitAt s.region.rv 63 = true := by simp [h]
    exact ⟨trim_only (up := true) (if_neg hn), trim_only (up := false) (if_neg hn)⟩
  · exact trim_only (if_neg (by simp [h, hmv]))

theorem poisonStored_of_mem (s : State) (g base limit : Nat) (at_ : ErrorAt) (h : (at_, base, limit) ∈
    [(ErrorAt.pad g, 0, 0x6000), (.quire g, 2 ^ 20, 0x10000), (.wbuf g, 2 ^ 21, 0x1000), (.istore g, 2 ^ 22, 2048)]) :
    execUncorrectableError at_ s = s.poisonStored base limit g := by
  simp only [List.mem_cons, Prod.mk.injEq, List.not_mem_nil, or_false] at h
  rcases h with ⟨rfl, rfl, rfl⟩ | ⟨rfl, rfl, rfl⟩ | ⟨rfl, rfl, rfl⟩ | ⟨rfl, rfl, rfl⟩ <;> rfl

/-- Settles O56: each event changes the region as its rule says, and the core in nothing but what R382 names. -/
theorem regionEvents : Obligations.RegionEvents := by
  intro s r no keeps only plus begins rvBut
  refine ⟨fun far n => ?_, execBudgetEnd_early, execBudgetEnd_spec, (execEdgesAbsent_spec s).1, (execEdgesAbsent_spec s).2.1,
    (execEdgesAbsent_spec s).2.2, fun h => if_pos h, fun ha hr => if_neg (not_or.mpr ⟨ha, hr⟩), fun ho => ⟨if_pos (.inl ho), if_pos ho⟩,
    fun ho => (enable_spec ho).1, fun ho => (enable_spec ho).2, execFastThrottle_spec s, (execThrottleRelease_spec s).1,
    (execThrottleRelease_spec s).2, (execCapThrottling_spec s).1, (execCapThrottling_spec s).2.1, (execCapThrottling_spec s).2.2, ?_, ?_,
    fun g base limit at_ h => ?_, execUncorrectableError_base s, execUncorrectableError_other s, execUncorrectableError_quadrant s,
    fun i tsv at_ w h hp ha hw => execUncorrectableError_transit_spec h hp ha hw tsv, voltage_spec s, execHeatLevelChange_spec s⟩
  · obtain ⟨idle, hold, frozen, still⟩ := execSourceEdge_spec s far n
    exact ⟨fun hst => still (.inl hst), fun hst hl => still (.inr ⟨.inl hst, hl⟩), fun hst hl => (execSourceEdge_lock hl far n).1 hst,
      fun hst ho hf hw => execSourceEdge_track hst ho hf hw far n, idle, hold, frozen, fun hst hl => still (.inr ⟨.inr hst, hl⟩),
      fun hst hl => (execSourceEdge_lock hl far n).2 hst⟩
  · exact ⟨_, rfl, rfl, rfl, s.dev.countErr_same (by decide), ⟨rfl, rfl, rfl, rfl, rfl, rfl⟩⟩
  · exact ⟨_, _, rfl, rfl, rfl, rfl, rfl, rfl, s.dev.countErr_same (by decide), s.dev.countErr_same (by decide),
      ⟨rfl, rfl, rfl, rfl, rfl, rfl⟩, ⟨rfl, rfl, rfl, rfl, rfl, rfl⟩⟩
  · show (_ → execUncorrectableError at_ s = _) ∧ (_ → ∃ t, execUncorrectableError at_ s = _ ∧ _)
    rw [poisonStored_of_mem s g base limit at_ h]
    exact s.poisonStored_spec base limit g

end Sys2Proof.Machine
end

section
/-! SUPPORT. The commands of the copy engine: their list, what an event of the engine leaves as it was, and how a command stops and
starts (07 R130, R137, R140). -/

namespace Sys2Proof.Machine

/-! ## What the engine leaves as it was -/

/-- No register and no byte of memory changes. -/
def Untouched (s t : State) : Prop := KeepsRegisters s t ∧ KeepsMemory s t

theorem Untouched.self (s : State) : Untouched s s := ⟨⟨rfl, rfl, rfl, rfl, rfl, rfl⟩, rfl, rfl, rfl, rfl, rfl, rfl⟩

theorem KeepsRegisters.trans {s t u : State} (h : KeepsRegisters s t) (h' : KeepsRegisters t u) : KeepsRegisters s u := by
  obtain ⟨h1, h2, h3, h4, h5, h6⟩ := h
  obtain ⟨k1, k2, k3, k4, k5, k6⟩ := h'
  exact ⟨k1.trans h1, k2.trans h2, k3.trans h3, k4.trans h4, k5.trans h5, k6.trans h6⟩

theorem KeepsMemory.trans {s t u : State} (h : KeepsMemory s t) (h' : KeepsMemory t u) : KeepsMemory s u := by
  obtain ⟨h1, h2, h3, h4, h5, h6⟩ := h
  obtain ⟨k1, k2, k3, k4, k5, k6⟩ := h'
  exact ⟨k1.trans h1, k2.trans h2, k3.trans h3, k4.trans h4, k5.trans h5, k6.trans h6⟩

theorem Untouched.trans {s t u : State} (h : Untouched s t) (h' : Untouched t u) : Untouched s u :=
  ⟨h.1.trans h'.1, h.2.trans h'.2⟩

/-! ## The list of commands -/

theorem Core.cmd_id {c : Core} {id : Nat} {k : Cmd} (h : c.cmd id = some k) : k.id = id := by
  simpa using List.find?_some h

/-- A change of a command that keeps its id. -/
theorem Core.cmd_setCmd {c : Core} {id : Nat} {f : Cmd → Cmd} (hf : ∀ x, (f x).id = x.id := by intro _; rfl) :
    (c.setCmd id f).cmd id = (c.cmd id).map f := by
  have hid : (fun k : Cmd => k.id == id) ∘ (fun k => if k.id = id then f k else k) = fun k => k.id == id := by
    funext k
    by_cases h : k.id = id <;> simp [h, hf]
  have hcmds : (c.setCmd id f).cmds = c.cmds.map fun k => if k.id = id then f k else k := rfl
  rw [Core.cmd, Core.cmd, hcmds, List.find?_map, hid]
  cases h : c.cmds.find? fun k => k.id == id with
  | none => rfl
  | some k => simp [show k.id = id from Core.cmd_id h]

/-- The command itself after a change. -/
theorem Core.cmd_setCmd_some {c : Core} {id : Nat} {k : Cmd} {f : Cmd → Cmd} (h : c.cmd id = some k) (hf : ∀ x, (f x).id = x.id := by intro _; rfl) :
    (c.setCmd id f).cmd id = some (f k) := by
  rw [Core.cmd_setCmd hf, h]
  rfl

theorem Core.setCmd_setCmd {c : Core} {id : Nat} {f g : Cmd → Cmd} (hf : ∀ x, (f x).id = x.id := by intro _; rfl) :
    (c.setCmd id f).setCmd id g = c.setCmd id (g ∘ f) := by
  simp only [Core.setCmd, List.map_map]
  congr 1
  refine List.map_congr_left fun k _ => ?_
  by_cases h : k.id = id <;> simp [h, hf]

/-! ## Accesses that are counted -/

/-- What only changes the translation table. -/
def OnlyXlat (c d : Core) : Prop := ∃ x, d = { c with xlat := x }

theorem OnlyXlat.trans {c d e : Core} (h : OnlyXlat c d) (h' : OnlyXlat d e) : OnlyXlat c e := by
  obtain ⟨_, rfl⟩ := h
  obtain ⟨x, rfl⟩ := h'
  exact ⟨x, rfl⟩

theorem Core.pendAll_eq (c : Core) (es : List (Nat × Bool)) : OnlyXlat c (c.pendAll es) :=
  foldl_keeps (P := OnlyXlat c) (fun d _ h => OnlyXlat.trans h (d.pend_eq _ _)) es ⟨c.xlat, rfl⟩

theorem Core.performAll_eq (c : Core) (es : List (Nat × Bool)) : OnlyXlat c (c.performAll es) :=
  foldl_keeps (P := OnlyXlat c) (fun d _ h => OnlyXlat.trans h (OnlyXlat.trans ⟨_, rfl⟩ ((d.touch _ _).pend_eq _ _))) es ⟨c.xlat, rfl⟩

/-! ## A command stops -/

/-- What the engine has under way for a command is given up; the accesses leave PND. -/
theorem Core.dropCmds_eq (c : Core) (gone : Nat → Bool) : ∃ inb sh fq sq x, c.dropCmds gone =
    { c with engW := c.engW.filter fun w => !(w.cmd.map fun y => gone y.1).getD false
             inbound := inb, slotsHeld := sh, feltQ := fq, sendQ := sq, xlat := x } := by
  unfold Core.dropCmds
  dsimp only
  exact ⟨_, _, _, _, Core.forget_eq _ _⟩

theorem State.stopCmd_eq (s : State) (k : Cmd) (i : FaultInfo) : ∃ inb sh fq sq x, s.stopCmd k i = { s with core :=
    { s.core.setCmd k.id fun y => { y with stopped := true, finish := none } with
        engW := s.core.engW.filter fun w => !(w.cmd.map fun y => y.1 == k.id).getD false
        inbound := inb, slotsHeld := sh, feltQ := fq, sendQ := sq, xlat := x
        lateDue := s.core.lateDue ++ [(s.core.cyc, { i with slot := 7, word := k.word })] } } := by
  unfold State.stopCmd
  dsimp only
  obtain ⟨inb, sh, fq, sq, x, h⟩ := (s.core.setCmd k.id fun y => { y with stopped := true, finish := none }).dropCmds_eq (· == k.id)
  rw [h]
  exact ⟨inb, sh, fq, sq, x, rfl⟩

/-- A late fault of a command is taken in its cycle, and the command moves no more beats (07 R140). -/
theorem State.stopCmd_spec (s : State) {k : Cmd} (hk : s.core.cmd k.id = some k) (i : FaultInfo) : let t := s.stopCmd k i
    t.core.lateDue = s.core.lateDue ++ [(s.core.cyc, { i with slot := 7, word := k.word })] ∧ KeepsRegisters s t ∧ KeepsMemory s t
    ∧ (t.core.cmd k.id).map (·.stopped) = some true ∧ ∀ w ∈ t.core.engW, w ∈ s.core.engW ∧ w.cmd.map (·.1) ≠ some k.id := by
  obtain ⟨inb, sh, fq, sq, x, h⟩ := s.stopCmd_eq k i
  rw [h]
  refine ⟨rfl, (Untouched.self s).1, (Untouched.self s).2, ?_, fun w hw => ?_⟩
  · exact congrArg (Option.map _) (Core.cmd_setCmd_some hk)
  · obtain ⟨hmem, hkeep⟩ := List.mem_filter.mp hw
    refine ⟨hmem, fun hid => ?_⟩
    obtain ⟨y, hy, hyid⟩ := Option.map_eq_some_iff.mp hid
    simp [hy, hyid] at hkeep

/-! ## A command is checked -/

/-- A plan changes the kind and the local place of the command alone, and the end of the local pipeline. -/
theorem Core.planCmd_eq (c : Core) (k : Cmd) (base : Nat) : ∃ (kind : Row) (b l : Option Nat) (e : Nat), c.planCmd k base = { c.setCmd k.id fun x =>
    { x with kind := kind, localBase := b.getD x.localBase, localLast := l.getD x.localLast } with localEnd := e } := by
  unfold Core.planCmd
  dsimp only
  split
  · exact ⟨_, none, none, _, rfl⟩
  · rw [Core.setCmd_setCmd]
    exact ⟨_, some _, some _, _, rfl⟩

theorem Core.planCmd_cmd {c : Core} {k x : Cmd} (h : c.cmd k.id = some x) (base : Nat) : ∃ (kind : Row) (b l : Nat), (c.planCmd k base).cmd k.id =
    some { x with kind := kind, localBase := b, localLast := l } := by
  obtain ⟨kind, b, l, e, hp⟩ := c.planCmd_eq k base
  rw [hp]
  exact ⟨_, _, _, Core.cmd_setCmd_some h⟩

theorem State.planCmd_untouched (s : State) (c : Core) (k : Cmd) (base : Nat) :
    Untouched { s with core := c } { s with core := c.planCmd k base } ∧ (c.planCmd k base).engW = c.engW := by
  obtain ⟨kind, b, l, e, hp⟩ := c.planCmd_eq k base
  rw [hp]
  exact ⟨⟨⟨rfl, rfl, rfl, rfl, rfl, rfl⟩, rfl, rfl, rfl, rfl, rfl, rfl⟩, rfl⟩

theorem State.setCmd_untouched (s : State) (id : Nat) (f : Cmd → Cmd) : Untouched s { s with core := s.core.setCmd id f } :=
  ⟨⟨rfl, rfl, rfl, rfl, rfl, rfl⟩, rfl, rfl, rfl, rfl, rfl, rfl⟩

theorem Core.padPoisoned_iff (c : Core) (off n : Nat) : c.padPoisoned off n = true ↔ ∃ g ∈ granulesFrom off n, g ∈ c.poison := by
  simp [Core.padPoisoned]

section
variable {s : State} {k : Cmd} (hk : s.core.cmd k.id = some k) (hs : k.stopped = false) (hc : k.checked = false)
include hk hs hc

theorem execCopyCommandStart_early (hr : k.raw = none) (h : s.core.cyc < k.start) : execCopyCommandStart k.id s = .fault .notDue := by
  simp [execCopyCommandStart, hk, hs, hc, hr, h]

theorem execCopyCommandStart_reads (hr : k.raw = none) (ho : k.ovl = false) (h : k.start ≤ s.core.cyc)
    (hp : ¬∃ g ∈ granulesFrom k.desc 128, g ∈ s.core.poison) : execCopyCommandStart k.id s = .next { s with core := s.core.setCmd k.id fun x =>
      { x with raw := some (BitVec.ofNat 1024 (Memory.readNat s.core.scratch k.desc 128)) } } := by
  rw [← Core.padPoisoned_iff, Bool.not_eq_true] at hp
  simp [execCopyCommandStart, hk, hs, hc, hr, ho, hp, Nat.not_lt.mpr h]

theorem execCopyCommandStart_spoilt (hr : k.raw = none) (h : k.start ≤ s.core.cyc) (hp : ∃ g ∈ granulesFrom k.desc 128, g ∈ s.core.poison) :
    execCopyCommandStart k.id s = .next (s.stopCmd k (poisonFault .read k.desc)) := by
  rw [← Core.padPoisoned_iff] at hp
  simp [execCopyCommandStart, hk, hs, hc, hr, hp, Nat.not_lt.mpr h]

theorem execCopyCommandStart_fails (hr : k.raw.isSome = true) (h : k.start < s.core.cyc) {i : FaultInfo}
    (hf : (if k.ovl then k.ovlFault else s.cpyFault k) = some i) : execCopyCommandStart k.id s = .next (s.stopCmd k i) := by
  obtain ⟨r, hr⟩ := Option.isSome_iff_exists.mp hr
  simp only [execCopyCommandStart, hk, hs, hc, hr, hf, Bool.false_eq_true, if_false, if_neg (Nat.not_lt.mpr (Nat.succ_le_of_lt h))]

theorem execCopyCommandStart_passes (hr : k.raw.isSome = true) (h : k.start < s.core.cyc) (hn : (if k.ovl then k.ovlFault else s.cpyFault k) = none) :
    ∃ t : State, execCopyCommandStart k.id s = .next t ∧ KeepsRegisters s t ∧ KeepsMemory s t ∧ t.core.engW = s.core.engW
      ∧ (t.core.cmd k.id).map (fun x => (x.checked, x.stopped, x.beats, x.done)) = some (true, false, k.beatCount, k.done) := by
  obtain ⟨r, hr⟩ := Option.isSome_iff_exists.mp hr
  have hcmd := Core.cmd_setCmd_some (f := fun x => { x with checked := true, beats := x.beatCount }) hk
  simp only [execCopyCommandStart, hk, hs, hc, hr, hn, Bool.false_eq_true, if_false, if_neg (Nat.not_lt.mpr (Nat.succ_le_of_lt h))]
  refine ⟨_, rfl, ?_⟩
  have hkeep := s.setCmd_untouched k.id fun x => { x with checked := true, beats := x.beatCount }
  cases hb : k.base with
  | none =>
    refine ⟨hkeep.1, hkeep.2, rfl, ?_⟩
    dsimp only
    rw [hcmd, ← hs]
    rfl
  | some b =>
    obtain ⟨hplan, hw⟩ := s.planCmd_untouched (s.core.setCmd k.id fun x => { x with checked := true, beats := x.beatCount }) k b
    obtain ⟨_, _, _, hcmd'⟩ := Core.planCmd_cmd hcmd b
    refine ⟨(hkeep.trans hplan).1, (hkeep.trans hplan).2, hw, ?_⟩
    dsimp only
    rw [hcmd', ← hs]
    rfl

end

end Sys2Proof.Machine
end

section
/-! SUPPORT. The checks of a descriptor at S+1, and the digits of a beat's number (07 R128, R137, 08 R149). -/

namespace Sys2Proof.Machine

/-! ## Lists of checks -/

theorem firstSome_eq_none {α : Type} : ∀ {l : List (Option α)}, firstSome l = none ↔ ∀ x ∈ l, x = none
  | [] => by simp [firstSome]
  | some x :: t => by simp [firstSome]
  | none :: t => by simp [firstSome, firstSome_eq_none (l := t)]

theorem mem_of_firstSome {α : Type} {x : α} : ∀ {l : List (Option α)}, firstSome l = some x → some x ∈ l
  | [], h => by simp [firstSome] at h
  | some y :: t, h => by simp_all [firstSome]
  | none :: t, h => List.mem_cons_of_mem _ (mem_of_firstSome (l := t) h)

theorem faultIf_eq_none {b : Bool} : faultIf b = none ↔ b = false := by
  cases b <;> simp [faultIf]

theorem faultIf_eq_some {b : Bool} {i : FaultInfo} (h : faultIf b = some i) : i = FaultInfo.plain .copyCommand 7 := by
  cases b
  · simp [faultIf] at h
  · exact (Option.some.inj h).symm

/-! ## Sums over the dimensions -/

theorem Cmd.count_pos (k : Cmd) (d : Nat) : 0 < k.count d := by
  unfold Cmd.count
  split <;> exact Nat.succ_pos _

theorem Cmd.index_lt (k : Cmd) (n d : Nat) : k.index n d < k.count d := Nat.mod_lt _ (k.count_pos d)

/-- The product of the counts of the dimensions below one. -/
def Cmd.below (k : Cmd) (d : Nat) : Nat := ((List.range d).map k.count).prod

theorem Cmd.below_succ (k : Cmd) (d : Nat) : k.below (d + 1) = k.below d * k.count d := by
  rw [Cmd.below, List.range_succ, List.map_append, List.prod_append]
  simp [Cmd.below]

theorem Cmd.index_eq (k : Cmd) (n d : Nat) : k.index n d = n / k.below d % k.count d := by
  rw [Cmd.index, ← List.prod_eq_foldl]
  rfl

/-- The digits below a dimension make the number modulo the beats below it. -/
theorem Cmd.sum_index (k : Cmd) (n : Nat) : ∀ m, ((List.range m).map fun d => k.index n d * k.below d).sum = n % k.below m
  | 0 => by simp [Cmd.below, Nat.mod_one]
  | m + 1 => by
    rw [List.range_succ, List.map_append, List.sum_append, Cmd.sum_index k n m, Cmd.below_succ, Nat.mod_mul, ← Cmd.index_eq]
    simp [Nat.mul_comm]

theorem Cmd.beatCount_eq {k : Cmd} (ho : k.ovl = false) : k.beatCount = k.below 6 := by
  simp [Cmd.beatCount, ho, Cmd.below, List.range_succ, Nat.mul_assoc]

/-- The number of a beat has its indices as mixed-radix digits (07 R128). -/
theorem Cmd.eq_sum_index {k : Cmd} (ho : k.ovl = false) {n : Nat} (h : n < k.beatCount) :
    n = ((List.range 6).map fun d => k.index n d * ((List.range d).map k.count).prod).sum := by
  rw [Cmd.beatCount_eq ho] at h
  exact ((k.sum_index n 6).trans (Nat.mod_eq_of_lt h)).symm

/-! ## The extent of a destination -/

theorem stride_bounds (x : Int) {i c : Nat} (h : i < c) : (if x * ((c : Int) - 1) < 0 then x * ((c : Int) - 1) else 0) ≤ i * x
    ∧ (i : Int) * x ≤ if x * ((c : Int) - 1) < 0 then 0 else x * ((c : Int) - 1) := by
  have hi : (i : Int) ≤ c - 1 := by omega
  have hc : (0 : Int) ≤ c - 1 := by omega
  rcases le_total 0 x with hx | hx
  · have hle : (i : Int) * x ≤ x * (c - 1) := by nlinarith
    rw [if_neg (by nlinarith), if_neg (by nlinarith)]
    exact ⟨by positivity, hle⟩
  · have hle : x * (c - 1) ≤ (i : Int) * x := by nlinarith
    have h0 : (i : Int) * x ≤ 0 := by nlinarith
    split
    · exact ⟨hle, h0⟩
    · exact ⟨by omega, by omega⟩

/-- Every beat lies in the extent (07 R137). -/
theorem Cmd.extent_bounds (k : Cmd) (n : Nat) :
    let at_ : Int := (k.dst + 64 * k.index n 0 : Nat) + ((List.range 5).map fun d => (k.index n (d + 1) : Int) * k.dstStride (d + 1)).sum
    k.extent.1 ≤ at_ ∧ at_ + 64 ≤ k.extent.2 := by
  intro at_
  have low := List.sum_le_sum (l := List.range 5) fun d _ => (stride_bounds (k.dstStride (d + 1)) (k.index_lt n (d + 1))).1
  have high := List.sum_le_sum (l := List.range 5) fun d _ => (stride_bounds (k.dstStride (d + 1)) (k.index_lt n (d + 1))).2
  have h0 := k.index_lt n 0
  simp only [Cmd.extent, ← List.sum_eq_foldl, at_]
  constructor <;> omega

/-! ## The check of an overlay descriptor -/

theorem Cmd.ovlFault_kind {k : Cmd} {i : FaultInfo} (h : k.ovlFault = some i) : i = FaultInfo.plain .copyCommand 7 := by
  unfold Cmd.ovlFault at h
  dsimp only at h
  split at h
  · exact (Option.some.inj h).symm
  · exact absurd h (by simp)

theorem Cmd.ovlFault_eq_none (k : Cmd) : k.ovlFault = none ↔ k.dw 0 / 2 ^ 48 % 2 ^ 16 = 0 ∧ k.dw 1 / 2 ^ 48 % 2 ^ 16 = 0 ∧ k.dw 2 / 2 ^ 48 % 2 ^ 15 = 0
    ∧ k.dw 3 / 2 ^ 32 % 2 ^ 32 = 0 ∧ (∀ i, i < 12 → k.dw (i + 4) = 0) ∧ k.dstb ≤ 1023 ∧ 1 ≤ k.len ∧ k.len ≤ 65535 ∧ k.rbase % 64 = 0
    ∧ k.rsize % 64 = 0 ∧ 64 ≤ k.rsize ∧ k.rsize ≤ 2 ^ 31 ∧ (k.ring = true → k.rbase ≤ k.src ∧ k.src < k.rbase + k.rsize) := by
  unfold Cmd.ovlFault
  dsimp only
  rw [ite_eq_right_iff]
  simp only [Bool.or_eq_true, Bool.and_eq_true, bne_iff_ne, List.any_eq_true, List.mem_range, decide_eq_true_eq, reduceCtorEq, imp_false, not_or,
    natBits, ne_eq, not_not, not_exists, not_and, not_lt, not_le, and_assoc]

/-! ## The check of a copy descriptor -/

theorem Core.sideFault_eq_none (c : Core) (va : Nat) (d : Doing) : c.sideFault va d = none ↔ c.side va ≠ .reserved ∧ c.side va ≠ .none := by
  unfold Core.sideFault Core.side sideOf
  cases c.translate va with
  | pad _ => simp
  | none => simp
  | phys k e pa =>
    dsimp only
    split
    · simp [*]
    · simp_all
      split <;> simp_all

theorem Core.sideFault_kind {c : Core} {va : Nat} {d : Doing} {i : FaultInfo} (h : c.sideFault va d = some i) : i.kind = .outOfTable := by
  unfold Core.sideFault at h
  split at h
  · exact absurd h (by simp)
  · exact (Option.some.inj h) ▸ rfl
  · split at h
    · exact (Option.some.inj h) ▸ rfl
    · exact absurd h (by simp)

theorem Cmd.index_zero (k : Cmd) (d : Nat) : k.index 0 d = 0 := by
  rw [Cmd.index, Nat.zero_div, Nat.zero_mod]

theorem Cmd.offset_zero (k : Cmd) (f : Nat → Int) : k.offset f 0 = 0 := by
  simp [Cmd.offset, Cmd.index_zero, List.range_succ]

/-- Beat 0 is at the address that the descriptor names. -/
theorem Cmd.beatSrc_zero {k : Cmd} (ho : k.ovl = false) : k.beatSrc 0 = k.src := by
  have h : k.src < 2 ^ 48 := Nat.mod_lt _ (by decide)
  simp only [Cmd.beatSrc, ho, Bool.false_eq_true, if_false, Cmd.index_zero, Cmd.offset_zero]
  omega

theorem Cmd.beatDst_zero (k : Cmd) : k.beatDst 0 = k.dst := by
  have h : k.dst < 2 ^ 48 := Nat.mod_lt _ (by decide)
  simp only [Cmd.beatDst, Cmd.index_zero, Cmd.offset_zero]
  omega

theorem Core.sides_zero {c : Core} {k : Cmd} (ho : k.ovl = false) :
    c.sides k 0 = (c.side k.src, if k.dKind = 0 then c.side k.dst else .pad) := by
  rw [Core.sides, Cmd.beatSrc_zero ho, Cmd.beatDst_zero, ho]
  by_cases h : k.dKind = 0 <;> simp [h]

theorem State.ownsAnyFelt_iff (s : State) : s.ownsAnyFelt = true ↔ ∃ j, j < 64 ∧ s.ownsFelt j = true := by
  simp [State.ownsAnyFelt]

theorem Core.quireWm_isSome (c : Core) (k : Cmd) : (c.quireWm k).isSome = true ↔ k.hasWm = true ∧ ∃ off, c.wordPlace k.wm.toNat = some (true, off) := by
  unfold Core.quireWm
  by_cases h : k.hasWm = true
  · simp only [h, Bool.not_true, Bool.false_eq_true, if_false, true_and]
    split <;> simp_all
  · simp [h]

/-- A named watermark is in a window, in the quire window only where a condition holds. -/
theorem Core.wordPlace_named {c : Core} {k : Cmd} (p : Prop) :
    (k.hasWm = true → (c.wordPlace k.wm.toNat).isNone = false) ∧ ((c.quireWm k).isSome = false ∨ p)
      ↔ (k.hasWm = true → ∃ q off, c.wordPlace k.wm.toNat = some (q, off) ∧ (q = true → p)) := by
  have hq := c.quireWm_isSome k
  by_cases hw : k.hasWm = true
  · rcases hp : c.wordPlace k.wm.toNat with _ | ⟨q, off⟩
    · simp [hw]
    · cases q <;> simp_all
  · simp_all

/-- The kinds of fault that the check of a copy descriptor finds. -/
theorem State.cpyFault_kind {s : State} {k : Cmd} {i : FaultInfo} (h : s.cpyFault k = some i) : i = FaultInfo.plain .copyCommand 7 ∨ i.kind = .outOfTable
    ∨ (k.dKind = 1 ∧ s.capOutside (Tab.get 0 s.core.caps (natBits (k.dw 0) 56 8)) = true ∧ i.kind = .violation ∧ i.vkind = 3) := by
  have hmem := mem_of_firstSome h
  simp only [List.mem_cons, List.not_mem_nil, or_false] at hmem
  have plain {b : Bool} (hb : some i = faultIf b) := faultIf_eq_some hb.symm
  rcases hmem with h | h | h | h | h | h | h | h | h | h | h | h
  · exact .inl (plain h)
  · exact .inr (.inl (Core.sideFault_kind h.symm))
  · split at h
    · exact .inr (.inl (Core.sideFault_kind h.symm))
    · exact absurd h (by simp)
  · exact .inl (plain h)
  · exact .inl (plain h)
  · exact .inl (plain h)
  · split at h
    · next hc => exact .inr (.inr ⟨hc.1, hc.2, (Option.some.inj h) ▸ rfl, (Option.some.inj h) ▸ rfl⟩)
    · exact absurd h (by simp)
  · exact .inl (plain h)
  · exact .inl (plain h)
  · exact .inl (plain h)
  · split at h
    · exact .inr (.inl ((Option.some.inj h) ▸ rfl))
    · exact absurd h (by simp)
  · exact .inl (plain h)

/-- The fields, the multiples of 64 and the number of beats of a copy descriptor. -/
def Cmd.WellFormed (k : Cmd) : Prop :=
  (k.dKind ≤ 2 ∧ k.dw 0 / 2 ^ 48 % 16 = 0 ∧ k.dw 1 / 2 ^ 48 % 2 ^ 16 = 0 ∧ k.dw 3 / 2 ^ 32 % 2 ^ 32 = 0 ∧ ∀ i, i < 7 → k.dw (i + 9) = 0)
    ∧ (k.src % 64 = 0 ∧ k.dst % 64 = 0 ∧ ∀ d, 1 ≤ d → d ≤ 5 → k.srcStride d % 64 = 0 ∧ k.dstStride d % 64 = 0) ∧ k.beatCount ≤ 2 ^ 32

theorem Cmd.wellFormed_iff (k : Cmd) : (decide (2 < k.dKind) || natBits (k.dw 0) 48 4 != 0 || natBits (k.dw 1) 48 16 != 0 || natBits (k.dw 3) 32 32 != 0
      || (List.range 7).any (fun i => k.dw (i + 9) != 0)
      || decide ((k.src : Int) % 64 ≠ 0) || decide ((k.dst : Int) % 64 ≠ 0)
      || (List.range 5).any (fun d => decide (k.srcStride (d + 1) % 64 ≠ 0) || decide (k.dstStride (d + 1) % 64 ≠ 0))
      || decide (2 ^ 32 < k.beatCount)) = false ↔ k.WellFormed := by
  have dims : (∀ d, d < 5 → k.srcStride (d + 1) % 64 = 0 ∧ k.dstStride (d + 1) % 64 = 0)
      ↔ ∀ d, 1 ≤ d → d ≤ 5 → k.srcStride d % 64 = 0 ∧ k.dstStride d % 64 = 0 := by
    refine ⟨fun h d h1 h5 => ?_, fun h d hd => h (d + 1) (by omega) (by omega)⟩
    obtain ⟨e, rfl⟩ := Nat.exists_eq_add_of_le' h1
    exact h e (by omega)
  have cast (x : Nat) : (x : Int) % 64 = 0 ↔ x % 64 = 0 := by omega
  rw [Cmd.WellFormed, ← dims]
  simp only [Bool.or_eq_false_iff, decide_eq_false_iff_not, bne_eq_false_iff_eq, List.any_eq_false, List.mem_range, natBits, not_lt, not_not,
    Bool.or_eq_true, decide_eq_true_eq, bne_iff_ne, ne_eq, not_or, cast, and_assoc, show (2 : Nat) ^ 4 = 16 from rfl]

/-- The conditions of a copy command (07 R137), which its check at S+1 finds to hold. -/
theorem State.cpyFault_eq_none (s : State) {k : Cmd} (ho : k.ovl = false) :
    let cap := Tab.get 0 s.core.caps (natBits (k.dw 0) 56 8)
    let src := s.core.side k.src
    let dst := s.core.side k.dst
    let reached := fun (x : Side) => x ≠ .reserved ∧ x ≠ .none
    let inside := fun (n : Nat) => 0 ≤ k.extent.1 ∧ k.extent.2 ≤ n
    s.cpyFault k = none ↔ k.WellFormed
      ∧ reached src ∧ (k.dKind = 0 → reached dst ∧ (src = .pad ∨ dst = .pad) ∧ (dst = .quire → ∃ j, j < 64 ∧ s.ownsFelt j = true))
      ∧ (k.dKind ≠ 0 → src = .pad)
      ∧ (k.dKind = 1 → s.capOutside cap = false ∧ bitAt cap 63 = true ∧ bitsAt cap 60 3 = 0 ∧ bitAt cap 59 = true ∧ s.namesCore cap = true
        ∧ inside Config.scratchBytes)
      ∧ (k.dKind = 2 → inside Config.wbufBytes)
      ∧ (k.dKind ≠ 1 → k.hasWm = true → ∃ q off, s.core.wordPlace k.wm.toNat = some (q, off) ∧ (q = true → k.dKind = 0 ∧ dst = .quire)) := by
  intro cap src dst reached inside
  have zero (x : BitVec 3) : x.toNat = 0 ↔ x = 0 := ⟨fun h => BitVec.eq_of_toNat_eq h, fun h => h ▸ rfl⟩
  rw [State.cpyFault, firstSome_eq_none]
  simp only [List.forall_mem_cons, List.not_mem_nil, false_implies, implies_true, and_true]
  rw [faultIf_eq_none, k.wellFormed_iff, Core.sideFault_eq_none, Core.sides_zero ho]
  simp only [faultIf_eq_none, ite_eq_right_iff, Core.sideFault_eq_none, Bool.and_eq_false_iff, Bool.or_eq_false_iff, Bool.not_eq_false',
    decide_eq_false_iff_not, bne_eq_false_iff_eq, beq_eq_false_iff_ne, reduceCtorEq, imp_false, not_and, not_or, zero]
  refine and_congr_right fun _ => and_congr_right fun _ => ?_
  rw [← s.ownsAnyFelt_iff]
  have word := s.core.wordPlace_named (k := k) (k.dKind = 0 ∧ dst = .quire)
  by_cases h0 : k.dKind = 0
  · simp [h0, src, dst, reached] at word ⊢
    rw [← word]
    simp only [imp_iff_not_or, Option.isSome_iff_ne_none, ne_eq, and_assoc]
  · by_cases h1 : k.dKind = 1
    · simp [h1, src, reached, cap, inside, and_assoc]
    · simp [h0, h1, src, reached, inside] at word ⊢
      rw [← word]
      simp only [imp_iff_not_or, Option.isSome_iff_ne_none, ne_eq, or_true]

end Sys2Proof.Machine
end

section
/-! SUPPORT. The beats that read their source in their cycle: local, quire source and staging (07 R131, 21 R382, R383). -/

namespace Sys2Proof.Machine

/-! ## What a beat reads -/

theorem granule_mem (off : Nat) {i n : Nat} (h : i < n) : (off + i) / 32 ∈ granulesFrom off n := by
  simp only [granulesFrom, List.mem_map, List.mem_range]
  exact ⟨(off + i) / 32 - off / 32, by omega, by omega⟩

/-- Bytes with no poisoned granule are read as they are. -/
theorem Core.padData_clean {c : Core} {off : Nat} (h : ∀ g ∈ granulesFrom off 64, g ∉ c.poison) (m : Memory) :
    c.padData m off = BitVec.ofNat 512 (Memory.readNat m off 64) := by
  rw [Core.padData, Memory.readNat_eq_elemsNat]
  refine congrArg _ (elemsNat_congr fun i hi => ?_)
  have hg : c.poison.contains (poisonGran false (off + i)) = false := by
    simpa [poisonGran] using h _ (granule_mem off hi)
  rw [hg, if_neg Bool.false_ne_true]

/-- What a beat reads on its side, and the fault that lands with it: the pattern of a violation, zeros under DISCARD, or the bytes of the
memory (07 R131, 21 R382, R383). -/
def ReadsBeat (s : State) (k : Cmd) (a : Reach) (w : EngWrite) : Prop :=
  (∀ i, a.viol = some i → w.bad = some { i with word := k.word } ∧ ∀ j, j < 16 → elem w.data 32 j = 0x7FC00000)
    ∧ (a.viol = none → a.zeros = true → w.bad = none ∧ w.data = 0)
    ∧ (a.viol = none → a.zeros = false →
      (a.side = .pad → (∀ g ∈ granulesFrom a.addr 64, g ∉ s.core.poison) → w.bad = none
        ∧ w.data = BitVec.ofNat 512 (Memory.readNat s.core.scratch a.addr 64))
      ∧ (a.side = .pad → (∃ g ∈ granulesFrom a.addr 64, g ∈ s.core.poison) →
        ∃ f, w.bad = some f ∧ f.kind = .uncorrectableData ∧ f.resumes = false)
      ∧ (a.side = .quire → s.core.poison = [] → w.bad = none ∧ w.data = BitVec.ofNat 512 (Memory.readNat s.mirror a.addr 64))
      ∧ (a.side = .staging → w.bad = none ∧ w.data = BitVec.ofNat 512 (Memory.readNat s.hbm a.addr 64)))

theorem State.beatData_reads {s : State} {k : Cmd} {a : Reach} {va : Nat} {w : EngWrite} (hx : w.data = (s.beatData a va).1)
    (hb : w.bad = (s.beatData a va).2.map fun i => { i with word := k.word }) : ReadsBeat s k a w := by
  rw [State.beatData] at hx hb
  refine ⟨fun i hi => ?_, fun hv hz => ?_, fun hv hz => ⟨fun hs hp => ?_, fun hs hp => ?_, fun hs hp => ?_, fun hs => ?_⟩⟩
  · rw [hi] at hx hb
    exact ⟨hb, fun j hj => hx ▸ elem_poison512 hj⟩
  · rw [hv, hz] at hx hb
    exact ⟨hb, hx⟩
  · have hclean : s.core.padPoisoned a.addr 64 = false := by
      rw [← Bool.not_eq_true, Core.padPoisoned_iff]
      exact fun ⟨g, hg, hbad⟩ => hp g hg hbad
    rw [hv, hz, hs] at hx hb
    simp only [hclean, Bool.false_eq_true, if_false] at hx hb
    exact ⟨hb, hx.trans (Core.padData_clean hp _)⟩
  · rw [hv, hz, hs] at hb
    simp only [(s.core.padPoisoned_iff a.addr 64).mpr hp, Bool.false_eq_true, if_false, if_true] at hb
    exact ⟨_, hb, rfl, rfl⟩
  · rw [hv, hz, hs, hp] at hx hb
    exact ⟨hb, hx⟩
  · rw [hv, hz, hs] at hx hb
    exact ⟨hb, hx⟩

/-! ## A beat that moves -/

/-- A beat of a command becomes an engine write, and nothing else changes of registers and memory. -/
def BeatMoves (s : State) (k : Cmd) (n : Nat) (a b : Reach) (t : State) (w : EngWrite) : Prop :=
  t.core.engW = s.core.engW ++ [w] ∧ w.cmd = some (k.id, n) ∧ w.place = k.place n b
    ∧ w.wm = s.core.localWm k ∧ w.wms = none ∧ w.atm = none ∧ KeepsRegisters s t ∧ KeepsMemory s t ∧ ReadsBeat s k a w

/-- The core counts slips, saturating (19 R351). -/
def Slips (s t : State) (m : Nat) : Prop := t.core.slip.toNat = min (s.core.slip.toNat + m) 0xFFFFFFFF

theorem slip_sum (x : BitVec 32) (m : Nat) : (BitVec.ofNat 32 (Nat.min (x.toNat + m) 0xFFFFFFFF)).toNat = min (x.toNat + m) 0xFFFFFFFF := by
  rw [BitVec.toNat_ofNat]
  exact Nat.mod_eq_of_lt (Nat.lt_succ_of_le (Nat.min_le_right _ _))

theorem slip_none (x : BitVec 32) : x.toNat = min (x.toNat + 0) 0xFFFFFFFF :=
  (Nat.min_eq_left (Nat.le_of_lt_succ x.isLt)).symm

/-- What the engine keeps of a command before a beat of it moves: a free value, slips, and the command itself. -/
def State.rebooked (s : State) (fresh : Nat) (slip : BitVec 32) (cmds : List Cmd) : State :=
  { s with fresh := fresh, core := { s.core with slip := slip, cmds := cmds } }

section
variable (s : State) (fresh : Nat) (slip : BitVec 32) (cmds : List Cmd)

theorem State.reachBeat_rebooked (k : Cmd) (n : Nat) : (s.rebooked fresh slip cmds).reachBeat k n = s.reachBeat k n := rfl

theorem State.beatData_rebooked (a : Reach) (va : Nat) : (s.rebooked fresh slip cmds).beatData a va = s.beatData a va := rfl

theorem State.transfer_moves {k : Cmd} {n : Nat} {a b : Reach} (h : s.reachBeat k n = .ok (a, b)) (delay : Nat) :
    let t := (s.rebooked fresh slip cmds).transfer k n delay
    ∃ w, BeatMoves s k n a b t w ∧ w.due = s.core.cyc + delay ∧ t.core.slip = slip := by
  intro t
  obtain ⟨x, hx⟩ := (s.rebooked fresh slip cmds).core.pendAll_eq (reachEnts a b)
  simp only [t, State.transfer, State.reachBeat_rebooked, State.beatData_rebooked, h, hx]
  exact ⟨_, ⟨rfl, rfl, rfl, rfl, rfl, rfl, ⟨rfl, rfl, rfl, rfl, rfl, rfl⟩, ⟨rfl, rfl, rfl, rfl, rfl, rfl⟩,
    State.beatData_reads rfl rfl⟩, rfl, rfl⟩

end

theorem State.transfer_fails {s : State} {k : Cmd} {n : Nat} {i : FaultInfo} (h : s.reachBeat k n = .error i) (delay : Nat) :
    s.transfer k n delay = s.stopCmd k i := by
  rw [State.transfer, h]

/-! ## The three rows -/

section
variable {s : State} {k : Cmd} {n : Nat} {a b : Reach}

theorem State.transfer_local (h : s.reachBeat k n = .ok (a, b)) : ∃ w, BeatMoves s k n a b (s.transfer k n 2) w ∧ w.due = s.core.cyc + 2 := by
  obtain ⟨w, hw, hdue, _⟩ := s.transfer_moves s.fresh s.core.slip s.core.cmds h 2
  exact ⟨w, hw, hdue⟩

/-- A beat from the quire window moves like one from the scratchpad. -/
theorem State.quireSource_moves (hr : s.reloads = false) (h : s.reachBeat k n = .ok (a, b)) :
    ∃ w, BeatMoves s k n a b (s.quireSource k n) w ∧ w.due = s.core.cyc + 2 := by
  rw [State.quireSource, hr]
  obtain ⟨w, hw, hdue, _⟩ := s.transfer_moves s.fresh s.core.slip (s.core.setCmd k.id fun k => { k with stalled := false }).cmds h 2
  exact ⟨w, hw, hdue⟩

/-- It stalls while the mirror reloads, which counts one slip. -/
theorem State.quireSource_stalls (hk : s.core.cmd k.id = some k) (hr : s.reloads = true) : let t := s.quireSource k n
    t.core.engW = s.core.engW ∧ Slips s t (if k.stalled then 0 else 1) ∧ (t.core.cmd k.id).map (·.stall) = some (k.stall + 1) := by
  intro t
  simp only [t, State.quireSource, hr, if_true]
  cases k.stalled
  · exact ⟨rfl, slip_sum _ _, congrArg (Option.map _) (Core.cmd_setCmd_some (c := (s.slips 1).core) hk)⟩
  · exact ⟨rfl, slip_none _, congrArg (Option.map _) (Core.cmd_setCmd_some hk)⟩

end

/-- The cycle in which a staging beat is written. -/
def State.stagingDue (s : State) (k : Cmd) : Nat := Nat.max (s.core.cyc + 4 + s.draw.1) (k.stagingEnd + 1)

theorem State.stagingBeat_eq (s : State) (k : Cmd) (n : Nat) : s.stagingBeat k n = (s.rebooked (s.fresh + 1)
    (if s.core.cyc + 4 < s.stagingDue k then (s.slips 1).core.slip else s.core.slip)
    (s.core.setCmd k.id fun x => { x with stagingEnd := s.stagingDue k }).cmds).transfer k n (s.stagingDue k - s.core.cyc) := by
  by_cases h : s.core.cyc + 4 < s.stagingDue k
  · rw [if_pos h, State.stagingBeat]
    exact congrArg (fun s' : State => State.transfer { s' with core := s'.core.setCmd k.id fun x => { x with stagingEnd := s.stagingDue k } } k n
      (s.stagingDue k - s'.core.cyc)) (if_pos h)
  · rw [if_neg h, State.stagingBeat]
    exact congrArg (fun s' : State => State.transfer { s' with core := s'.core.setCmd k.id fun x => { x with stagingEnd := s.stagingDue k } } k n
      (s.stagingDue k - s'.core.cyc)) (if_neg h)

/-- A staging beat performs four cycles after its read or later, after those before it; a delay is a slip. -/
theorem State.stagingBeat_moves {s : State} {k : Cmd} {n : Nat} {a b : Reach} (h : s.reachBeat k n = .ok (a, b)) : let t := s.stagingBeat k n
    ∃ w, BeatMoves s k n a b t w ∧ s.core.cyc + 4 ≤ w.due ∧ k.stagingEnd < w.due ∧ Slips s t (if s.core.cyc + 4 < w.due then 1 else 0) := by
  intro t
  have hlo : s.core.cyc + 4 ≤ s.stagingDue k := Nat.le_trans (Nat.le_add_right _ _) (Nat.le_max_left _ _)
  have hend : k.stagingEnd < s.stagingDue k := Nat.le_max_right _ _
  obtain ⟨w, hw, hdue, hslip⟩ := s.transfer_moves _ _ _ h (s.stagingDue k - s.core.cyc)
  rw [← s.stagingBeat_eq] at hw hslip
  rw [Nat.add_sub_cancel' (by omega)] at hdue
  refine ⟨w, hw, hdue ▸ hlo, hdue ▸ hend, ?_⟩
  rw [Slips, hslip, hdue]
  split
  · exact slip_sum _ 1
  · exact slip_none _

end Sys2Proof.Machine
end

section
/-! SUPPORT. The beats that leave by a queue or in a slot of HBM, and when a beat is due (07 R131, R141, 09 R158, 10 R183). -/

namespace Sys2Proof.Machine

/-! ## Beats into the quire window -/

/-- A beat enters the felt send queue; its packet begins 64 bytes lower at the end of the window (07 R131, 09 R156). -/
theorem State.feltBeat_enters {s : State} {k : Cmd} {n : Nat} {a b : Reach} (h : s.reachBeat k n = .ok (a, b)) : let t := s.feltBeat k n
    ∃ f : FeltItem, t.core.feltQ = s.core.feltQ ++ [f]
      ∧ f.beat = some (k.id, n, a.addr) ∧ f.pk.op = 0 ∧ f.ent = b.ent ∧ KeepsRegisters s t ∧ KeepsMemory s t
      ∧ (if Config.quireBytes ≤ b.addr + 64 then f.pk.mask = 0xFFFF0000 ∧ f.pk.addr = BitVec.ofNat 17 ((b.addr - 64) / 16)
         else f.pk.mask = 0xFFFF ∧ f.pk.addr = BitVec.ofNat 17 (b.addr / 16)) := by
  intro t
  obtain ⟨fr, hcross⟩ := s.cross_eq s.web
  obtain ⟨x, hx⟩ := s.core.pendAll_eq (reachEnts a b)
  simp only [t, State.feltBeat, h, hcross, hx]
  refine ⟨_, rfl, rfl, rfl, rfl, ⟨rfl, rfl, rfl, rfl, rfl, rfl⟩, ⟨rfl, rfl, rfl, rfl, rfl, rfl⟩, ?_⟩
  split
  · next hhigh => simp [hhigh]
  · next hlow => simp [hlow]

theorem State.feltBeat_fails {s : State} {k : Cmd} {n : Nat} {i : FaultInfo} (h : s.reachBeat k n = .error i) : s.feltBeat k n = s.stopCmd k i := by
  rw [State.feltBeat, h]

theorem State.quireBeat_enters {s : State} {k : Cmd} (hw : k.feltWait = []) (hroom : s.core.feltQ.length + s.core.feltGone.length < 8) (n : Nat) :
    s.quireBeat k n = s.feltBeat k n := by
  simp [State.quireBeat, hw, hroom]

/-- Without room in the queue a beat waits, and counts a slip (09 R158). -/
theorem State.quireBeat_waits {s : State} {k : Cmd} (hk : s.core.cmd k.id = some k) (hw : k.feltWait = [])
    (hfull : 8 ≤ s.core.feltQ.length + s.core.feltGone.length) (n : Nat) : let t := s.quireBeat k n
    t.core.feltQ = s.core.feltQ ∧ Slips s t 1 ∧ (t.core.cmd k.id).map (·.feltWait) = some [n] := by
  intro t
  have ht : t = State.slips { s with core := s.core.setCmd k.id fun x => { x with feltWait := [n] } } 1 := by
    simp [t, State.quireBeat, hw, Nat.not_lt.mpr hfull]
  rw [ht]
  exact ⟨rfl, slip_sum _ 1, congrArg (Option.map _) (Core.cmd_setCmd_some hk)⟩

/-! ## Remote beats -/

theorem insertBeat_perm (x : SendItem) : ∀ l, (insertBeat x l).Perm (x :: l)
  | [] => .refl _
  | y :: t => by
    rw [insertBeat]
    split
    · exact .refl _
    · exact ((insertBeat_perm x t).cons y).trans (.swap x y t)

/-- When a remote beat may be sent: in the fabric group two cycles on, else when it has crossed. -/
theorem State.remoteReady (s : State) : ∃ w fr, (if s.inFabric then (s.web + 2, s) else s.cross s.web) = (w, { s with fresh := fr })
    ∧ s.web ≤ w ∧ (s.inFabric = true → w = s.web + 2) := by
  by_cases hf : s.inFabric = true
  · exact ⟨_, s.fresh, if_pos hf, Nat.le_add_right _ _, fun _ => rfl⟩
  · obtain ⟨fr, hcross⟩ := s.cross_eq s.web
    exact ⟨_, fr, (if_neg hf).trans (Prod.ext rfl hcross), (s.cross_bound s.web).1, fun h => absurd h hf⟩

/-- A remote beat joins the send queue (07 R131, 10 R183). -/
theorem State.remoteBeat_joins (s : State) (k : Cmd) (n : Nat) : let t := s.remoteBeat k n
    ∃ x : SendItem, x ∈ t.core.sendQ ∧ t.core.sendQ.length = s.core.sendQ.length + 1
      ∧ (∀ y ∈ s.core.sendQ, y ∈ t.core.sendQ) ∧ x.beat = some (k.id, n) ∧ s.web ≤ x.ready ∧ (s.inFabric = true → x.ready = s.web + 2)
      ∧ x.fl.dst = BitVec.ofNat 7 (bitsAt (Tab.get 0 s.core.caps (k.dw 0 / 2 ^ 56 % 256)) 22 6).toNat
      ∧ x.fl.body = .beat (k.beatDst n) (if k.hasWm = true ∧ n ∉ k.counted then some k.wm.toNat else none)
      ∧ Slips s t (if k.webLate then 1 else 0) ∧ KeepsRegisters s t ∧ KeepsMemory s t := by
  intro t
  have hslip (x : BitVec 32) : (BitVec.ofNat 32 (Nat.min (x.toNat + b2n k.webLate) 0xFFFFFFFF)).toNat
      = min (x.toNat + (if k.webLate then 1 else 0)) 0xFFFFFFFF := slip_sum x _
  have hcap : (BitVec.ofNat 8 (natBits (k.dw 0) 56 8)).toNat = k.dw 0 / 2 ^ 56 % 256 := by
    rw [BitVec.toNat_ofNat]
    exact Nat.mod_mod _ _
  have hwm : (if k.hasWm = true ∧ (!k.counted.contains n) = true then some k.wm.toNat else none)
      = if k.hasWm = true ∧ n ∉ k.counted then some k.wm.toNat else none := by simp
  obtain ⟨w, fr, hready, hge, hfab⟩ := s.remoteReady
  simp only [t, State.remoteBeat, hready, hcap, hwm]
  have hperm (x : SendItem) := insertBeat_perm x s.core.sendQ
  exact ⟨_, (hperm _).mem_iff.mpr (List.mem_cons_self ..), (hperm _).length_eq, fun y hy => (hperm _).mem_iff.mpr (List.mem_cons_of_mem _ hy), rfl,
    hge, hfab, rfl, rfl, hslip _, ⟨rfl, rfl, rfl, rfl, rfl, rfl⟩, ⟨rfl, rfl, rfl, rfl, rfl, rfl⟩⟩

/-! ## Groups of HBM -/

theorem firstSlot_ge {p : Nat → Bool} : ∀ {n start t : Nat}, firstSlot p n start = some t → start ≤ t ∧ t % 9 = start % 9
  | n + 1, start, t, h => by
    rw [firstSlot] at h
    split at h
    · exact (Option.some.inj h) ▸ ⟨Nat.le_refl _, rfl⟩
    · obtain ⟨hle, hmod⟩ := firstSlot_ge h
      have hslot : Config.slotCycles = 9 := rfl
      omega

/-- The slot of a request starts at or after the cycle from which it may (07 R131). -/
theorem State.chooseSlot_ge (s : State) (ch : Nat) (write : Bool) (ent : Option Nat) (lo : Nat) : lo ≤ (s.chooseSlot ch write ent lo).1 := by
  have hstart : lo ≤ (lo + Config.slotCycles - 1) / Config.slotCycles * Config.slotCycles := by
    rw [show Config.slotCycles = 9 from rfl]
    omega
  unfold State.chooseSlot
  dsimp only
  split
  · generalize hp : firstSlot _ _ _ = r
    cases r with
    | none => exact hstart
    | some t => exact Nat.le_trans hstart (firstSlot_ge hp).1
  · exact hstart

theorem State.chooseGroup_fails {s : State} {k : Cmd} {n : Nat} {i : FaultInfo} (h : s.groupReach k (s.core.groupBeats k n) = .error i) :
    s.chooseGroup k n = s.stopCmd k i := by
  rw [State.chooseGroup]
  dsimp only
  rw [h]

/-- Where a group would be without a freeze is found without a change of the core's registers and memory. -/
theorem State.idealOf_spec (s : State) (k : Cmd) (ch : Nat) (write best : Bool) (t : Nat) : let r := s.idealOf k ch write best t
    (∃ fr is, r.2 = { s with fresh := fr, core := { s.core with idealSlots := is } }) ∧ (k.ideal = none → r.1 = none)
    ∧ (∀ p, k.ideal = some p → best = false → r.1 = some (ch, s.idealSlot k ch write p)) := by
  unfold State.idealOf
  cases k.ideal with
  | none => exact ⟨⟨_, _, rfl⟩, fun _ => rfl, fun _ h => by simp at h⟩
  | some p =>
    cases best
    · exact ⟨⟨_, _, rfl⟩, fun h => by simp at h, fun q hq _ => by cases hq; rfl⟩
    · refine ⟨?_, fun h => by simp at h, fun _ _ h => by simp at h⟩
      have hdraw (i : Nat) : ∃ fr, (if i < t then s.drawBelow 2 else (0, s)).2 = { s with fresh := fr } := by
        split
        · exact ⟨_, rfl⟩
        · exact ⟨_, rfl⟩
      obtain ⟨fr, hfr⟩ := hdraw (Nat.max (k.startWeb + 8) p.2)
      exact ⟨fr, s.core.idealSlots, hfr⟩

/-- The channel of a group. -/
def groupChannel (gs : List GroupBeat) : Nat := (match gs with
  | g :: _ => g.pa
  | [] => 0) / Config.channelBytes

/-- The web cycle from which a group of a command may have a slot of a channel. -/
def State.groupLow (s : State) (k : Cmd) (ch : Nat) : Nat := Nat.max (s.groupFrom k) (match k.lastSlot with
  | some (c', st) => if c' = ch then st + 1 else st
  | none => 0)

theorem State.groupLow_ge (s : State) (k : Cmd) (ch : Nat) : s.web ≤ s.groupLow k ch ∧ (s.inFabric = false → k.startWeb + 8 ≤ s.groupLow k ch)
    ∧ ∀ st, k.lastSlot = some (ch, st) → st < s.groupLow k ch := by
  have hfrom : s.groupFrom k ≤ s.groupLow k ch := Nat.le_max_left _ _
  refine ⟨Nat.le_trans ?_ hfrom, fun hf => Nat.le_trans ?_ hfrom, fun st hst => ?_⟩
  · rw [State.groupFrom]
    split
    · exact Nat.le_refl _
    · exact Nat.le_max_right _ _
  · rw [State.groupFrom, hf]
    exact Nat.le_max_left _ _
  · rw [State.groupLow, hst]
    exact Nat.lt_of_lt_of_le (Nat.lt_of_lt_of_eq (Nat.lt_succ_self st) (if_pos rfl).symm) (Nat.le_max_right _ _)

/-- The slot of a group, and whether it is best effort. -/
def State.groupSlot (s : State) (k : Cmd) (read : Bool) (gs : List GroupBeat) : Nat × Bool :=
  s.chooseSlot (groupChannel gs) (!read) ((gs.map (·.ents)).flatten.head?.map (·.1)) (s.groupLow k (groupChannel gs))

/-- A group of a command holds its slot. -/
def State.holdGroup (s : State) (k : Cmd) (n : Nat) (ns : List Nat) (gs : List GroupBeat) (read : Bool) (slot : Nat × Bool)
    (ideal : Option (Nat × Nat)) : State :=
  let c := (s.core.pendAll (gs.map (·.ents)).flatten).setCmd k.id fun k =>
    { k with next := n + ns.length, took := ns ++ k.took, lastSlot := some (groupChannel gs, slot.1), waits := slot.2, ideal := ideal }
  { s with core := { c with slotsHeld := c.slotsHeld ++ [{
      channel := groupChannel gs, start := slot.1, best := slot.2, write := !read, grp := some (k.id, gs), atm := none, seq := 0
      ideal := (ideal.map (·.2)).filter (· < slot.1) }] } }

theorem State.chooseGroup_eq {s : State} {k : Cmd} {n : Nat} {gs : List GroupBeat} (h : s.groupReach k (s.core.groupBeats k n) = .ok gs) :
    let read := (s.core.hbmSide k n).2
    let slot := s.groupSlot k read gs
    let r := s.idealOf k (groupChannel gs) (!read) slot.2 slot.1
    s.chooseGroup k n = r.2.holdGroup k n (s.core.groupBeats k n) gs read slot r.1 := by
  intro read slot r
  rw [State.chooseGroup]
  dsimp only
  rw [h]
  rfl

/-- A group takes the first slot that it may, after the one before it (07 R131, R141). -/
theorem State.chooseGroup_holds {s : State} {k : Cmd} {n : Nat} {gs : List GroupBeat} (h : s.groupReach k (s.core.groupBeats k n) = .ok gs) :
    let t := s.chooseGroup k n
    ∃ x : SlotHold, t.core.slotsHeld = s.core.slotsHeld ++ [x] ∧ x.grp = some (k.id, gs) ∧ x.atm = none
      ∧ (s.inFabric = false → k.startWeb + 8 ≤ x.start) ∧ s.web ≤ x.start ∧ (∀ st, k.lastSlot = some (x.channel, st) → st < x.start)
      ∧ (k.ideal = none → x.ideal = none)
      ∧ (∀ p, k.ideal = some p → x.best = false → let i := s.idealSlot k x.channel x.write p
          x.ideal = if i < x.start then some i else none)
      ∧ KeepsRegisters s t ∧ KeepsMemory s t := by
  intro t
  obtain ⟨hweb, hstart, hlast⟩ := s.groupLow_ge k (groupChannel gs)
  have hge : s.groupLow k (groupChannel gs) ≤ (s.groupSlot k (s.core.hbmSide k n).2 gs).1 := s.chooseSlot_ge _ _ _ _
  have heq : t = _ := State.chooseGroup_eq h
  generalize s.groupSlot k (s.core.hbmSide k n).2 gs = slot at heq hge
  obtain ⟨⟨fr, is, hs2⟩, hnone, hsome⟩ := s.idealOf_spec k (groupChannel gs) (!(s.core.hbmSide k n).2) slot.2 slot.1
  generalize s.idealOf k (groupChannel gs) _ _ _ = r at heq hs2 hnone hsome
  obtain ⟨x, hx⟩ := r.2.core.pendAll_eq (gs.map (·.ents)).flatten
  rw [heq, State.holdGroup, hx, hs2]
  refine ⟨_, rfl, rfl, rfl, fun hf => Nat.le_trans (hstart hf) hge, Nat.le_trans hweb hge, fun st hst => Nat.lt_of_lt_of_le (hlast st hst) hge,
    fun hi => ?_, fun p hp hb => ?_, ⟨rfl, rfl, rfl, rfl, rfl, rfl⟩, ⟨rfl, rfl, rfl, rfl, rfl, rfl⟩⟩
  · rw [hnone hi]
    rfl
  · rw [hsome p hp hb]
    simp [Option.filter]

end Sys2Proof.Machine
end

section
/-! SUPPORT. When a beat is due, its row, its place in the local pipeline, and its write (07 R124, R126, R131). -/

namespace Sys2Proof.Machine

/-! ## The beat that is due -/

/-- A beat is due in the cycle of its row, unless it has been taken (07 R131). -/
theorem State.beatDue_iff {s : State} {k : Cmd} {b : Nat} (hb : k.base = some b) (hsh : k.shifted = false) (n : Nat) (r : Row) :
    s.beatDue k n = some r ↔ (k.stopped = false ∧ k.checked = true ∧ n < k.beats ∧ n ∉ k.took) ∧ s.core.row k n = r ∧ match r with
      | .local_ => s.core.cyc + 2 = k.localBase + n
      | .quireSrc => s.core.cyc = b + 8 + n + k.stall
      | .staging => s.core.cyc = b + 44 + n
      | .quireDst => s.core.cyc = b + 4 + n ∨ n ∈ k.feltWait
      | .remote => s.core.cyc + (if s.inFabric = true then 2 else 0) = b + 4 + n
      | .hbm => s.groupDue k = true ∧ s.core.hbmBeat k = some n := by
  have hlate : s.lateBeat k = none := by simp [State.lateBeat, hsh]
  have hmay : (k.stopped = true ∨ (!k.checked) = true ∨ k.beats ≤ n ∨ k.took.contains n = true)
      ↔ ¬(k.stopped = false ∧ k.checked = true ∧ n < k.beats ∧ n ∉ k.took) := by
    simp only [not_and_or, Bool.not_eq_true', Bool.not_eq_false, Bool.not_eq_true, Nat.not_lt, not_not, List.contains_eq_mem, decide_eq_true_eq]
  rw [State.beatDue, hb]
  dsimp only
  by_cases hm : k.stopped = false ∧ k.checked = true ∧ n < k.beats ∧ n ∉ k.took
  · rw [if_neg (fun h => hmay.mp h hm), hlate]
    simp only [hm, true_and]
    cases hr : s.core.row k n <;> cases r <;> simp [← or_iff_not_imp_left]
  · rw [if_pos (hmay.mpr hm)]
    simp [hm]

/-! ## Rows -/

/-- The row of a beat by the memories of its two sides (07 R131). -/
theorem Core.row_spec (c : Core) (k : Cmd) (n : Nat) :
    let a := c.side (k.beatSrc n)
    let b := if k.ovl = true ∨ k.dKind ≠ 0 then Side.pad else c.side (k.beatDst n)
    (k.ovl = false → k.dKind = 1 → c.row k n = .remote)
    ∧ (k.ovl = true ∨ k.dKind ≠ 1 → (a = .pad → b = .pad → c.row k n = .local_) ∧ (a = .quire → b = .pad → c.row k n = .quireSrc)
      ∧ (a = .pad → b = .quire → c.row k n = .quireDst) ∧ (a = .staging ∧ b = .pad ∨ a = .pad ∧ b = .staging → c.row k n = .staging)
      ∧ (a = .hbm ∧ b = .pad ∨ a = .pad ∧ b = .hbm → c.row k n = .hbm)) := by
  intro a b
  have hsides : c.sides k n = (a, b) := by
    have hcond : ((k.ovl || k.dKind != 0) = true) = (k.ovl = true ∨ k.dKind ≠ 0) := by simp
    simp only [Core.sides, hcond, a, b]
  refine ⟨fun ho hk => by simp [Core.row, Core.rowOf, ho, hk], fun h => ?_⟩
  have hlocal : (!k.ovl && k.dKind == 1) = false := by
    rw [Bool.and_eq_false_iff, Bool.not_eq_false', beq_eq_false_iff_ne]
    exact h
  simp only [Core.row, Core.rowOf, hlocal, hsides, Bool.false_eq_true, if_false]
  refine ⟨fun ha hb => ?_, fun ha hb => ?_, fun ha hb => ?_, fun hab => ?_, fun hab => ?_⟩
  · rw [ha, hb]; rfl
  · rw [ha, hb]; rfl
  · rw [ha, hb]; rfl
  · rcases hab with ⟨ha, hb⟩ | ⟨ha, hb⟩ <;> rw [ha, hb] <;> rfl
  · rcases hab with ⟨ha, hb⟩ | ⟨ha, hb⟩ <;> rw [ha, hb] <;> rfl

/-! ## The local pipeline -/

/-- The last beat of the local row. -/
theorem Core.lastLocal_eq {c : Core} {k : Cmd} {n : Nat} (h : c.row k n = .local_) :
    ∀ {N : Nat}, n < N → (∀ m, n < m → m < N → c.row k m ≠ .local_) →
    c.lastLocal k N = some n
  | N + 1, hN, hrest => by
    rw [Core.lastLocal]
    by_cases hlast : n = N
    · rw [← hlast, if_pos h]
    · rw [if_neg (hrest N (by omega) (by omega))]
      exact Core.lastLocal_eq h (by omega) fun m hm hmN => hrest m hm (by omega)

/-- A command takes its place in the local pipeline behind those before it (07 R131). -/
theorem Core.planCmd_local {c : Core} {k : Cmd} {b n : Nat} (hk : c.cmd k.id = some k) (hn : n < k.beatCount) (hrow : c.rowOf k n = some .local_)
    (hrest : ∀ m, n < m → m < k.beatCount → ∃ r, r ≠ Row.local_ ∧ c.rowOf k m = some r) :
    let p := max (b + 6) (c.localEnd + 1)
    ((c.planCmd k b).cmd k.id).map (·.localBase) = some p ∧ (c.planCmd k b).localEnd = p + n := by
  intro p
  let kind := (c.rowOf k 0).getD .hbm
  have row {m : Nat} {r : Row} (h : c.rowOf k m = some r) : (c.setCmd k.id fun k => { k with kind := kind }).row { k with kind := kind } m = r := by
    show (c.rowOf k m).getD _ = r
    rw [h]
    rfl
  have hlast : (c.setCmd k.id fun k => { k with kind := kind }).lastLocal { k with kind := kind } k.beatCount = some n := by
    refine Core.lastLocal_eq (row hrow) hn fun m hm hmN => ?_
    obtain ⟨r, hr, hrm⟩ := hrest m hm hmN
    exact row hrm ▸ hr
  have hcmd := Core.cmd_setCmd_some (f := fun k => { k with kind := kind }) hk
  simp only [Core.planCmd]
  rw [hlast]
  exact ⟨congrArg (Option.map _) (Core.cmd_setCmd_some hcmd), rfl⟩

/-! ## The write of a beat -/

/-- The books of the engine differ, and nothing that a program can see. -/
def OnlyBooks (c d : Core) : Prop :=
  ∃ xlat cmds acted raises engW inb sh fq sq, d = { c with
    xlat := xlat, cmds := cmds, acted := acted, raises := raises, engW := engW, inbound := inb, slotsHeld := sh, feltQ := fq, sendQ := sq }

theorem OnlyBooks.trans {c d e : Core} (h : OnlyBooks c d) (h' : OnlyBooks d e) : OnlyBooks c e := by
  obtain ⟨_, _, _, _, _, _, _, _, _, rfl⟩ := h
  obtain ⟨_, _, _, _, _, _, _, _, _, rfl⟩ := h'
  exact ⟨_, _, _, _, _, _, _, _, _, rfl⟩

theorem OnlyBooks.self (c : Core) : OnlyBooks c c := ⟨_, _, _, _, _, _, _, _, _, rfl⟩

theorem OnlyXlat.books {c d : Core} (h : OnlyXlat c d) : OnlyBooks c d := by
  obtain ⟨_, rfl⟩ := h
  exact ⟨_, _, _, _, _, _, _, _, _, rfl⟩

theorem Core.beatDone_books (c : Core) (id n : Nat) (wm : Option Nat) : OnlyBooks c (c.beatDone id n wm) := by
  unfold Core.beatDone
  split
  · exact .self c
  · dsimp only
    split
    · split <;> exact ⟨_, _, _, _, _, _, _, _, _, rfl⟩
    · exact ⟨_, _, _, _, _, _, _, _, _, rfl⟩

theorem Core.countWrite_books (c : Core) (w : EngWrite) : OnlyBooks c (c.countWrite w) := by
  unfold Core.countWrite
  split
  · exact c.beatDone_books _ _ _
  · exact ⟨_, _, _, _, _, _, _, _, _, rfl⟩
  · exact .self c

theorem Core.haltCmd_books (c : Core) (w : EngWrite) : OnlyBooks c (c.haltCmd w) := by
  unfold Core.haltCmd
  split
  · next id _ _ _ =>
    obtain ⟨_, _, _, _, _, h⟩ := (c.setCmd id fun k => { k with stopped := true, finish := none }).dropCmds_eq (· == id)
    exact ⟨_, _, _, _, _, _, _, _, _, h⟩
  · exact .self c

theorem OnlyBooks.keeps {s : State} {d : Core} (h : OnlyBooks s.core d) (late : List (Nat × FaultInfo)) :
    let t : State := { s with core := { d with lateDue := late } }
    KeepsRegisters s t ∧ KeepsMemory s t ∧ KeepsEngines s t := by
  obtain ⟨_, _, _, _, _, _, _, _, _, rfl⟩ := h
  exact ⟨⟨rfl, rfl, rfl, rfl, rfl, rfl⟩, ⟨rfl, rfl, rfl, rfl, rfl, rfl⟩, ⟨rfl, rfl, rfl, rfl, rfl, rfl⟩⟩

/-- What counts and stops with a write of the engine touches nothing else (07 R124, R134, R140, 05 R103). -/
theorem State.performWrite_keeps {s : State} {w : EngWrite} (ha : w.atm = none) (hw : w.wms = none) :
    KeepsRegisters (s.placeData w) (s.performWrite w) ∧ KeepsMemory (s.placeData w) (s.performWrite w)
      ∧ KeepsEngines (s.placeData w) (s.performWrite w) := by
  have hcount : OnlyBooks (s.placeData w).core (if w.bad.isSome then (s.placeData w).core.forget (w.ents.map (·.1))
      else (s.placeData w).core.performAll w.ents) := by
    split
    · exact OnlyXlat.books (Core.forget_eq _ _)
    · exact (Core.performAll_eq _ _).books
  have hbooks := (hcount.trans (Core.countWrite_books _ w)).trans (Core.haltCmd_books _ w)
  unfold State.performWrite
  rw [ha, hw]
  exact hbooks.keeps _

/-- A byte of the 64 that a write brings. -/
theorem Memory.byte_writeNat_elem {m : Memory} (h : m.wf = true) (x : BitVec 512) (off : Nat) {i n : Nat} (hi : i < n) :
    (m.writeNat off n x.toNat).byte (off + i) = elem x 8 i :=
  (Memory.byte_writeNat_in h off x.toNat hi).trans (elem_byte x i).symm

theorem State.placeData_pad (s : State) {w : EngWrite} {off : Nat} (hp : w.place = .pad off) : ∃ cells, cells = cellsOf off 64 w.data.toNat
    ∧ s.placeData w = { s with core := s.core.writePad cells } :=
  ⟨_, rfl, by rw [State.placeData, hp]⟩

theorem State.placeData_wbuf (s : State) {w : EngWrite} {off : Nat} (hp : w.place = .wbuf off) : ∃ n, n = 64
    ∧ s.placeData w = { s with core := s.core.writeWbuf off n w.data.toNat } :=
  ⟨_, rfl, by rw [State.placeData, hp]⟩

section
variable {s : State} {w : EngWrite} {off : Nat} (ha : w.atm = none) (hw : w.wms = none)
include ha hw

theorem State.performWrite_pad (h : s.core.scratch.wf = true) (hp : w.place = .pad off) : let t := s.performWrite w
    (∀ i, i < 64 → Memory.byte t.core.scratch (off + i) = elem w.data 8 i)
      ∧ (∀ a, a < off ∨ off + 64 ≤ a → Memory.byte t.core.scratch a = Memory.byte s.core.scratch a)
      ∧ KeepsRegisters s t ∧ KeepsEngines s t ∧ t.hbm = s.hbm ∧ t.quire = s.quire ∧ t.mirror = s.mirror ∧ t.core.wbuf = s.core.wbuf := by
  obtain ⟨cells, hcells, hplace⟩ := s.placeData_pad hp
  obtain ⟨hregs, ⟨hpad, hwbuf, hhbm, hquire, hmirror, _⟩, heng⟩ := s.performWrite_keeps ha hw
  rw [hplace] at hregs hpad hwbuf hhbm hquire hmirror heng
  have hscratch : (s.performWrite w).core.scratch = s.core.scratch.writeCells cells := hpad
  rw [hcells, Memory.writeCells_cellsOf] at hscratch
  exact ⟨fun i hi => (congrArg (Memory.byte · _) hscratch).trans (Memory.byte_writeNat_elem h w.data off hi),
    fun a ha => (congrArg (Memory.byte · a) hscratch).trans (Memory.byte_writeNat_out h ha), hregs, heng, hhbm, hquire, hmirror, hwbuf⟩

theorem State.performWrite_wbuf (h : s.core.wbuf.wf = true) (hp : w.place = .wbuf off) : let t := s.performWrite w
    (∀ i, i < 64 → Memory.byte t.core.wbuf (off + i) = elem w.data 8 i)
      ∧ (∀ a, a < off ∨ off + 64 ≤ a → Memory.byte t.core.wbuf a = Memory.byte s.core.wbuf a) ∧ KeepsRegisters s t
      ∧ t.core.scratch = s.core.scratch := by
  obtain ⟨n, hn, hplace⟩ := s.placeData_wbuf hp
  obtain ⟨hregs, ⟨hpad, hwbuf, _⟩, _⟩ := s.performWrite_keeps ha hw
  rw [hplace] at hregs hpad hwbuf
  have hbuf : (s.performWrite w).core.wbuf = s.core.wbuf.writeNat off n w.data.toNat := hwbuf
  rw [hn] at hbuf
  exact ⟨fun i hi => (congrArg (Memory.byte · _) hbuf).trans (Memory.byte_writeNat_elem h w.data off hi),
    fun a ha => (congrArg (Memory.byte · a) hbuf).trans (Memory.byte_writeNat_out h ha), hregs, hpad⟩

end

end Sys2Proof.Machine
end

section
/-! SUPPORT. The slots of an HBM channel: what a held slot carries, how its group moves, and best effort (05 R91 to R95, 07 R131, R141, R142,
17 R318, 22 R397). -/

namespace Sys2Proof.Machine

/-! ## Best effort: whose turn it is -/

theorem State.turnOn_keeps (s : State) (ch : Nat) : ∃ n, (s.turnOn ch).2 = { s with fresh := n } := by
  unfold State.turnOn
  split
  · exact ⟨s.fresh, rfl⟩
  · exact ⟨s.fresh + 2, rfl⟩

theorem snd_snd_ite {α β γ : Type} {c : Prop} [Decidable c] {x y : α × β × γ} {u : γ} (hx : x.2.2 = u) (hy : y.2.2 = u) :
    (if c then x else y).2.2 = u := by
  split
  · exact hx
  · exact hy

theorem State.takesTurn_keeps (s : State) (t : Turn) : ∃ n, (s.takesTurn t).2.2 = { s with fresh := n } := by
  unfold State.takesTurn
  dsimp only
  generalize (if t.left = 0 ∨ t.most = 0 then [] else _ : List Nat) = before
  split
  · exact ⟨s.fresh + 1, rfl⟩
  · exact ⟨s.fresh + 2, snd_snd_ite rfl rfl⟩

/-- Whether a slot that starts now serves best effort, whether it serves this core, whose turn is next, and the free values drawn. -/
def State.bestOffer (s : State) (ch : Nat) (carried : Bool) : Bool × Bool × Turn × State :=
  let a := s.turnOn ch
  let b := a.2.servesBest ch (a.2.web / Config.slotCycles) carried
  (b.1, if b.1 then b.2.takesTurn a.1 else (false, a.1, b.2))

/-- Free values are drawn, and only a slot that serves best effort, which no refresh slot does, is this core's. -/
theorem State.bestOffer_spec (s : State) (ch : Nat) (carried : Bool) : (∃ n, (s.bestOffer ch carried).2.2.2 = { s with fresh := n })
    ∧ ((s.bestOffer ch carried).1 = false → (s.bestOffer ch carried).2.1 = false) ∧ (s.web / 9 % 32 = 31 → (s.bestOffer ch carried).1 = false) := by
  obtain ⟨n, ha⟩ := s.turnOn_keeps ch
  unfold State.bestOffer
  dsimp only
  rw [ha]
  obtain ⟨m, hb⟩ := State.servesBest_keeps { s with fresh := n } ch (s.web / Config.slotCycles) carried
  dsimp only
  rw [hb]
  refine ⟨?_, fun h => by rw [h]; rfl, fun h => State.refresh_serves_none _ _ h⟩
  split
  · exact State.takesTurn_keeps { s with fresh := m } (s.turnOn ch).1
  · exact ⟨m, rfl⟩

/-! ## A request that stays -/

/-- The hold, perhaps with a note of the slot that it would have had. -/
def Kept (s : State) (h : SlotHold) (t : State) : Prop :=
  ∃ x n turn used, t = { s with fresh := n, core := { s.core with slotsHeld := [{ h with ideal := x }], turn := turn, usedSlots := used } }
    ∧ (x = h.ideal ∨ x = some s.web)

theorem Kept.spec {s t : State} {h : SlotHold} (hk : Kept s h t) : (∃ x, t.core.slotsHeld = [{ h with ideal := x }] ∧ (x = h.ideal ∨ x = some s.web))
    ∧ t.arriving = s.arriving ∧ KeepsRegisters s t ∧ KeepsMemory s t := by
  obtain ⟨x, n, turn, used, rfl, hx⟩ := hk
  exact ⟨⟨x, rfl, hx⟩, rfl, ⟨rfl, rfl, rfl, rfl, rfl, rfl⟩, ⟨rfl, rfl, rfl, rfl, rfl, rfl⟩⟩

/-- The core has had a turn on a channel in this web cycle. -/
def State.hadTurn (s : State) (ch : Nat) : Bool := s.core.turn.any fun t => t.channel == ch && t.web == s.web

/-- A turn on a channel is kept in mind. -/
def State.keepTurn (s : State) (ch : Nat) (t : Turn) : State :=
  { s with core := { s.core with turn := { t with web := s.web } :: s.core.turn.filter fun x => x.channel != ch } }

theorem State.missBest_eq {s : State} {ch : Nat} {h : SlotHold} (hk : s.keptRequest ch = some h) (ht : s.hadTurn ch = false) (carried : Bool) :
    s.missBest ch carried = let o := s.bestOffer ch carried
      let u := o.2.2.2.keepTurn ch (s.turnOn ch).1
      { u with core := { u.core with
          slotsHeld := if o.2.1 then u.core.slotsHeld.map fun x => if x = h then { h with ideal := some u.web } else x else u.core.slotsHeld } } := by
  rw [State.missBest, hk, State.bestOffer]
  dsimp only
  rw [if_neg (by rw [← Bool.not_eq_true] at ht; exact ht)]
  generalize s.turnOn ch = a
  obtain ⟨t, s1⟩ := a
  dsimp only
  generalize s1.servesBest ch (s1.web / Config.slotCycles) carried = b
  obtain ⟨best, s2⟩ := b
  dsimp only
  generalize (if best = true then s2.takesTurn t else (false, t, s2)) = c
  obtain ⟨mine, t', s3⟩ := c
  rfl

theorem State.serveBest_eq {s : State} {ch : Nat} {h : SlotHold} (hr : s.request ch = some h) (ht : s.hadTurn ch = false) (carried : Bool) :
    s.serveBest ch carried = let o := s.bestOffer ch carried
      let u := o.2.2.2
      State.keepTurn (if o.2.1 then State.performHold { u with core := match h.grp with
          | some (id, _) => u.core.setCmd id fun k => { k with
              lastSlot := some (ch, u.web), waits := false, ideal := k.ideal.map fun _ => (ch, h.ideal.getD u.web) }
          | none => u.core } h
        else if o.1 then { u with core := u.core.useUp ch u.web } else u) ch o.2.2.1 := by
  rw [State.serveBest, hr, State.bestOffer]
  dsimp only
  rw [if_neg (by rw [← Bool.not_eq_true] at ht; exact ht)]
  generalize s.turnOn ch = a
  obtain ⟨t, s1⟩ := a
  dsimp only
  generalize s1.servesBest ch (s1.web / Config.slotCycles) carried = b
  obtain ⟨best, s2⟩ := b
  dsimp only
  generalize (if best = true then s2.takesTurn t else (false, t, s2)) = c
  obtain ⟨mine, t', s3⟩ := c
  dsimp only
  cases mine <;> cases best <;> rfl

section
variable {s : State} {h : SlotHold} (hs : s.core.slotsHeld = [h])
include hs

theorem Kept.self : Kept s h s :=
  ⟨h.ideal, s.fresh, s.core.turn, s.core.usedSlots, by rw [show ({ h with ideal := h.ideal } : SlotHold) = h from rfl, ← hs], .inl rfl⟩

theorem State.missBest_keeps (ch : Nat) (carried : Bool) : Kept s h (s.missBest ch carried) := by
  cases hk : s.keptRequest ch with
  | none =>
    rw [State.missBest, hk]
    exact Kept.self hs
  | some h' =>
    have hh : h' = h := by
      unfold State.keptRequest at hk
      split at hk
      · exact List.mem_singleton.mp (hs ▸ List.mem_of_find?_eq_some hk)
      · exact absurd hk (by simp)
    subst hh
    cases ht : s.hadTurn ch
    · obtain ⟨⟨n, hn⟩, _, _⟩ := s.bestOffer_spec ch carried
      rw [State.missBest_eq hk ht]
      dsimp only
      rw [hn]
      simp only [State.keepTurn, hs]
      cases (s.bestOffer ch carried).2.1
      · exact ⟨h'.ideal, n, _, s.core.usedSlots, rfl, .inl rfl⟩
      · rw [if_pos rfl, List.map_singleton, if_pos rfl]
        exact ⟨some s.web, n, _, s.core.usedSlots, rfl, .inr rfl⟩
    · rw [State.missBest, hk]
      dsimp only
      rw [if_pos (by exact ht)]
      exact Kept.self hs

/-- A best-effort request, presented first on its channel. -/
theorem State.request_eq {ch : Nat} {h' : SlotHold} (hr : s.request ch = some h') : h' = h :=
  List.mem_singleton.mp (hs ▸ List.mem_of_find?_eq_some hr)

theorem Kept.keepTurn {fr : Nat} (ch : Nat) (t : Turn) : Kept s h (State.keepTurn { s with fresh := fr } ch t) :=
  ⟨h.ideal, fr, _, s.core.usedSlots, by rw [show ({ h with ideal := h.ideal } : SlotHold) = h from rfl, ← hs]; rfl, .inl rfl⟩

theorem Kept.useUp {fr : Nat} (ch c w : Nat) (t : Turn) :
    Kept s h (State.keepTurn { s with fresh := fr, core := s.core.useUp c w } ch t) :=
  ⟨h.ideal, fr, _, _, by rw [show ({ h with ideal := h.ideal } : SlotHold) = h from rfl, ← hs]; rfl, .inl rfl⟩

/-- In a slot that a best-effort request may have it stays, or it performs when it is the core's turn; a refresh slot and a frozen region
keep it (19 R342, R352, 07 R141). -/
theorem State.serveBest_cases (ch : Nat) (carried : Bool) : Kept s h (s.serveBest ch carried)
    ∨ ((s.region.still && h.grp.isSome) = false ∧ s.web / 9 % 32 ≠ 31 ∧ ∃ (n : Nat) (cmds : List Cmd) (t : Turn),
      s.serveBest ch carried = State.keepTurn (State.performHold { s with fresh := n, core := { s.core with cmds := cmds } } h) ch t) := by
  cases hr : s.request ch with
  | none =>
    left
    rw [State.serveBest, hr]
    exact State.missBest_keeps hs ch carried
  | some h' =>
    obtain rfl := State.request_eq hs hr
    have hpulses : (s.region.still && h'.grp.isSome) = false := by
      have hfound := List.find?_some hr
      simp only [Bool.and_eq_true, Bool.or_eq_true] at hfound
      cases hst : s.region.still <;> simp_all
    cases ht : s.hadTurn ch
    · obtain ⟨⟨n, hn⟩, hmine, hrefresh⟩ := s.bestOffer_spec ch carried
      rw [State.serveBest_eq hr ht]
      dsimp only
      rw [hn]
      cases hm : (s.bestOffer ch carried).2.1
      · left
        cases (s.bestOffer ch carried).1
        · exact Kept.keepTurn hs ch _
        · exact Kept.useUp hs ch ch s.web _
      · refine .inr ⟨hpulses, fun h31 => ?_, n, ?_⟩
        · rw [hmine (hrefresh h31)] at hm
          exact absurd hm (by simp)
        · cases h'.grp with
          | none => exact ⟨s.core.cmds, _, rfl⟩
          | some g => exact ⟨_, _, rfl⟩
    · left
      rw [State.serveBest, hr]
      dsimp only
      rw [if_pos (by exact ht)]
      exact Kept.self hs

end

end Sys2Proof.Machine
end

section
/-! SUPPORT. What a held slot of HBM carries, and where its group goes when the slot is lost (05 R93, R94, 07 R131, R141, R142, 17 R318,
22 R397). -/

namespace Sys2Proof.Machine

/-! ## A lost slot -/

theorem State.nextOwn_spec (s : State) (h : SlotHold) (after : Nat) : after < s.nextOwn h after ∧ s.nextOwn h after % 9 = 0 := by
  have hnext : after < (after / Config.slotCycles + 1) * Config.slotCycles ∧ (after / Config.slotCycles + 1) * Config.slotCycles % 9 = 0 := by
    rw [show Config.slotCycles = 9 from rfl]
    omega
  have found {p : Nat → Bool} {n t : Nat} (hp : firstSlot p n ((after / Config.slotCycles + 1) * Config.slotCycles) = some t) :
      after < t ∧ t % 9 = 0 := by
    obtain ⟨hle, hmod⟩ := firstSlot_ge hp
    exact ⟨Nat.lt_of_lt_of_le hnext.1 hle, hmod.trans hnext.2⟩
  unfold State.nextOwn
  dsimp only
  split
  · next t ht => exact found ht
  · generalize hq : firstSlot _ (512 * _) _ = r
    cases r with
    | none => exact hnext
    | some t => exact found hq

/-- The hold of a group that has moved. -/
def SlotHold.moved (h : SlotHold) (new : Nat) (heat : Bool) : SlotHold :=
  { h with start := new, ideal := if !heat && h.ideal.isNone && h.grp.isSome then some h.start else h.ideal }

theorem State.moveGroup_spec {s : State} {h : SlotHold} (hs : s.core.slotsHeld = [h]) (new : Nat) (heat : Bool) : let t := s.moveGroup h new heat
    t.core.slotsHeld = [h.moved new heat] ∧ Slips s t (if heat then 1 else 0) ∧ t.arriving = s.arriving ∧ t.dev = s.dev
      ∧ KeepsRegisters s t ∧ KeepsMemory s t := by
  have hheld : (s.core.slotsHeld.map fun x => if x = h then h.moved new heat else x) = [h.moved new heat] := by
    rw [hs, List.map_singleton, if_pos rfl]
  have hslip : (BitVec.ofNat 32 (Nat.min (s.core.slip.toNat + b2n heat) 0xFFFFFFFF)).toNat
      = min (s.core.slip.toNat + if heat then 1 else 0) 0xFFFFFFFF := slip_sum _ _
  unfold State.moveGroup
  dsimp only
  split
  · exact ⟨hheld, hslip, rfl, rfl, ⟨rfl, rfl, rfl, rfl, rfl, rfl⟩, ⟨rfl, rfl, rfl, rfl, rfl, rfl⟩⟩
  · exact ⟨hheld, hslip, rfl, rfl, ⟨rfl, rfl, rfl, rfl, rfl, rfl⟩, ⟨rfl, rfl, rfl, rfl, rfl, rfl⟩⟩

theorem SlotHold.moved_ideal {h : SlotHold} {heat : Bool} (hg : heat = false → h.grp.isSome = true) (new : Nat) :
    (h.moved new heat).ideal = if heat then h.ideal else some (h.ideal.getD h.start) := by
  cases heat
  · simp only [SlotHold.moved, hg rfl]
    cases h.ideal <;> rfl
  · rfl

/-- A slot that is lost is entered in the thermal log when heat takes it; the only hold moves. -/
theorem State.loseSlot_eq {s : State} {h : SlotHold} (hs : s.core.slotsHeld = [h]) (heat : Bool) : ∃ dev : Device,
    dev.thlogN = s.dev.thlogN + (if heat then 1 else 0)
      ∧ let u : State := { s with dev := dev, core := s.core.useUp h.channel h.start }
        s.loseSlot h heat = u.moveGroup h (u.nextOwn h h.start) heat := by
  have hlater (c : Core) (hc : c.slotsHeld = [h]) : (c.slotsHeld.filter fun x =>
      h.grp.isSome && !x.best && x.channel == h.channel && x.grp.isSome && decide (h.start < x.start)) = [] := by simp [hc]
  unfold State.loseSlot
  dsimp only
  cases heat
  · refine ⟨s.dev, rfl, ?_⟩
    simp only [Bool.false_eq_true, if_false]
    rw [hlater (s.core.useUp h.channel h.start) hs]
    rfl
  · simp only [if_true]
    rw [hlater (s.core.useUp h.channel h.start) hs]
    exact ⟨{ s.dev with thlog := _, thlogN := s.dev.thlogN + 1 }, rfl, rfl⟩

/-- A slot that is lost: the hold has another start, after it, and nothing of the access is done (07 R141, R142, 22 R397). -/
theorem State.loseSlot_moves {s : State} {h : SlotHold} (hs : s.core.slotsHeld = [h]) {heat : Bool} (hg : heat = false → h.grp.isSome = true) :
    let t := s.loseSlot h heat
    ∃ x : SlotHold, t.core.slotsHeld = [x] ∧ x.best = h.best ∧ x.grp = h.grp ∧ x.atm = h.atm ∧ h.start < x.start ∧ x.start % 9 = 0
      ∧ Slips s t (if heat then 1 else 0) ∧ x.ideal = (if heat then h.ideal else some (h.ideal.getD h.start)) ∧ t.arriving = s.arriving
      ∧ KeepsRegisters s t ∧ KeepsMemory s t ∧ t.dev.thlogN = s.dev.thlogN + (if heat then 1 else 0) := by
  obtain ⟨dev, hlog, heq⟩ := s.loseSlot_eq hs heat
  dsimp only at heq ⊢
  rw [heq]
  generalize hu : ({ s with dev := dev, core := s.core.useUp h.channel h.start } : State) = u
  have hus : u.core.slotsHeld = [h] := hu ▸ hs
  obtain ⟨hheld, hslip, harr, hdev, hregs, hmem⟩ := u.moveGroup_spec hus (u.nextOwn h h.start) heat
  obtain ⟨hlt, hmod⟩ := u.nextOwn_spec h h.start
  subst hu
  exact ⟨_, hheld, rfl, rfl, rfl, hlt, hmod, hslip, SlotHold.moved_ideal hg _, harr, hregs, hmem, hdev ▸ hlog⟩

/-! ## A slot that carries -/

/-- The slips of a group that a freeze has delayed. -/
def SlotHold.late (h : SlotHold) (web : Nat) : Nat :=
  if h.ideal.any (fun i => decide (i < web)) = true then (match h.grp with
    | some (_, gs) => gs.length
    | none => 0) else 0

/-- The slot is used, and its hold is gone. -/
def State.takeSlot (s : State) (h : SlotHold) : State :=
  let s' := s.slips (h.late s.web)
  { s' with core := { s'.core.useUp h.channel s.web with slotsHeld := s.core.slotsHeld.filter fun x => !(x == h) } }

theorem State.performHold_eq (s : State) (h : SlotHold) : s.performHold h = match h.grp, h.atm with
    | some (id, gs), _ => if h.write then (s.takeSlot h).writeGroup id gs else (s.takeSlot h).readGroup h.channel id gs
    | none, some e => (s.takeSlot h).hbmAtom h.channel h.seq e
    | none, none => s.takeSlot h := by
  unfold State.performHold State.takeSlot SlotHold.late
  cases h.grp <;> rfl

theorem State.takeSlot_spec {s : State} {h : SlotHold} (hs : s.core.slotsHeld = [h]) : let t := s.takeSlot h
    t.core.slotsHeld = [] ∧ Slips s t (h.late s.web) ∧ KeepsRegisters s t ∧ KeepsMemory s t :=
  ⟨by simp [State.takeSlot, hs], slip_sum _ _, ⟨rfl, rfl, rfl, rfl, rfl, rfl⟩, ⟨rfl, rfl, rfl, rfl, rfl, rfl⟩⟩

theorem State.performHold_writes {s : State} {h : SlotHold} {id : Nat} {g : GroupBeat} (hg : h.grp = some (id, [g])) (hw : h.write = true) :
    s.performHold h = (s.takeSlot h).writeBeat id g := by
  rw [s.performHold_eq, hg, hw]
  rfl

theorem State.slotData_keeps (s : State) (off : Nat) : ∃ fr, (s.slotData off).2 = { s with fresh := fr } := by
  rw [show (s.slotData off).2 = (s.webImage 8).2 from rfl, State.webImage]
  split
  · exact ⟨_, rfl⟩
  · exact ⟨_, rfl⟩

/-- A beat of a write group performs: its bytes go to HBM, and its core learns of it. -/
theorem State.writeBeat_eq {s : State} {id off : Nat} {g : GroupBeat} (hp : g.place = .pad off) : ∃ fr m w,
    s.writeBeat id g = { s with fresh := fr, hbm := m, core := { s.core with acted := true }, arriving := s.arriving ++ [(s.web, w)] }
    ∧ m = Memory.writeNat s.hbm g.pa 64 (s.slotData off).1.toNat
    ∧ w.bad = (if s.core.padPoisoned off 64 then (s.core.cmd id).map fun k => { poisonFault .read (k.beatSrc g.n) with word := k.word } else none) := by
  obtain ⟨fr, hfr⟩ := s.slotData_keeps off
  unfold State.writeBeat
  rw [hp]
  dsimp only
  rw [hfr]
  exact ⟨fr, _, _, rfl, rfl, rfl⟩

theorem State.writeBeat_held (s : State) (id : Nat) (g : GroupBeat) :
    (s.writeBeat id g).core.slotsHeld = s.core.slotsHeld ∧ (s.writeBeat id g).core.slip = s.core.slip := by
  have hdata (off : Nat) : (s.slotData off).2.core.slotsHeld = s.core.slotsHeld ∧ (s.slotData off).2.core.slip = s.core.slip := by
    obtain ⟨fr, hfr⟩ := s.slotData_keeps off
    rw [hfr]
    exact ⟨rfl, rfl⟩
  unfold State.writeBeat
  exact hdata _

theorem State.hbmAtom_held (s : State) (ch seq : Nat) (e : Eff) :
    (s.hbmAtom ch seq e).core.slotsHeld = s.core.slotsHeld ∧ (s.hbmAtom ch seq e).core.slip = s.core.slip := by
  unfold State.hbmAtom
  split
  · next ent _ _ =>
    obtain ⟨y, hy⟩ := s.core.pend_eq ent.toNat false
    dsimp only
    rw [hy]
    exact ⟨rfl, rfl⟩
  · exact ⟨rfl, rfl⟩
  · exact ⟨rfl, rfl⟩

theorem State.slotData_inFabric {s : State} (hf : s.inFabric = true) (off : Nat) :
    (s.slotData off).1 = s.core.padData (s.core.imageAt (s.core.cyc - 8)) off := by
  rw [State.slotData, State.webImage, if_pos hf]

/-- A byte of 64 that are read with no poison. -/
theorem Core.elem_padData {c : Core} (hc : c.poison = []) (m : Memory) (off : Nat) {i : Nat} (hi : i < 64) :
    elem (c.padData m off) 8 i = m.byte (off + i) := by
  rw [Core.padData, elem_ofNat_elemsNat _ hi (by decide), hc]
  exact BitVec.ofNat_toNat _ _

section
variable {s : State} {h : SlotHold} (hs : s.core.slotsHeld = [h])
include hs

/-- What a read of a beat in its slot sends: the bytes of HBM, which arrive when its channel and its place in the block say (05 R93, R94). -/
theorem State.performHold_reads {id : Nat} {g : GroupBeat} (hg : h.grp = some (id, [g])) (hw : h.write = false) : let t := s.performHold h
    let lat := if h.channel / 16 = s.core.sheet.toNat then 160 else 184
    t.core.slotsHeld = [] ∧ Slips s t (h.late s.web) ∧ KeepsRegisters s t ∧ KeepsMemory s t ∧ ∃ w : EngWrite,
      t.arriving = s.arriving ++ [(s.web + lat + g.pa % 256 / 64, w)] ∧ w.place = g.place ∧ w.cmd = some (id, g.n) ∧ w.bad = g.bad
      ∧ w.data = if g.bad.isSome then poison512 else if g.zeros then 0 else BitVec.ofNat 512 (Memory.readNat s.hbm g.pa 64) := by
  obtain ⟨hheld, hslip, hregs, hmem⟩ := State.takeSlot_spec hs
  have heq : s.performHold h = (s.takeSlot h).readGroup h.channel id [g] := by
    rw [s.performHold_eq, hg, hw]
    rfl
  dsimp only
  rw [heq]
  exact ⟨hheld, hslip, hregs, hmem, _, rfl, rfl, rfl, rfl, rfl⟩

/-- A write group in the fabric group takes the scratchpad of eight cycles before to HBM (07 R131). -/
theorem State.performHold_stores {id off : Nat} {g : GroupBeat} (hg : h.grp = some (id, [g])) (hw : h.write = true) (hp : g.place = .pad off)
    (hf : s.inFabric = true) (hpoison : s.core.poison = []) (hwf : s.hbm.wf = true) : let t := s.performHold h
    t.core.slotsHeld = [] ∧ Slips s t (h.late s.web) ∧ KeepsRegisters s t ∧ t.core.scratch = s.core.scratch
      ∧ (∀ i, i < 64 → Memory.byte t.hbm (g.pa + i) = Memory.byte (s.core.imageAt (s.core.cyc - 8)) (off + i))
      ∧ ∀ a, a < g.pa ∨ g.pa + 64 ≤ a → Memory.byte t.hbm a = Memory.byte s.hbm a := by
  obtain ⟨hheld, hslip, hregs, _⟩ := State.takeSlot_spec hs
  obtain ⟨fr, m, w, hbeat, hm, _⟩ := (s.takeSlot h).writeBeat_eq (id := id) hp
  have hfab : (s.takeSlot h).inFabric = true := hf
  have hclean : (s.takeSlot h).core.poison = [] := hpoison
  have himage : (s.takeSlot h).core.imageAt ((s.takeSlot h).core.cyc - 8) = s.core.imageAt (s.core.cyc - 8) := rfl
  have hhbm : (s.takeSlot h).hbm = s.hbm := rfl
  rw [State.slotData_inFabric hfab, himage, hhbm] at hm
  rw [← State.performHold_writes hg hw] at hbeat
  have hkeeps : (s.performHold h).core.slotsHeld = [] ∧ Slips s (s.performHold h) (h.late s.web) ∧ KeepsRegisters s (s.performHold h)
      ∧ (s.performHold h).core.scratch = s.core.scratch ∧ (s.performHold h).hbm = m := by
    rw [hbeat]
    exact ⟨hheld, hslip, hregs, rfl, rfl⟩
  obtain ⟨hheld', hslip', hregs', hpad, hmem⟩ := hkeeps
  have hwrite := hmem.trans hm
  have hbyte (a : Nat) : Memory.byte (s.performHold h).hbm a = _ := congrArg (Memory.byte · a) hwrite
  refine ⟨hheld', hslip', hregs', hpad, fun i hi => ?_, fun a ha => ?_⟩
  · rw [hbyte, Memory.byte_writeNat_elem hwf _ _ hi, Core.elem_padData hclean _ _ hi]
  · rw [hbyte, Memory.byte_writeNat_out hwf ha]

/-- Whatever it carries, a slot that is used leaves no hold of it, and counts the slips of a delay alone. -/
theorem State.performHold_held : (s.performHold h).core.slotsHeld = [] ∧ Slips s (s.performHold h) (h.late s.web) := by
  obtain ⟨hheld, hslip, _⟩ := State.takeSlot_spec hs
  have kept {u : State} (hu : u.core.slotsHeld = (s.takeSlot h).core.slotsHeld ∧ u.core.slip = (s.takeSlot h).core.slip) :
      u.core.slotsHeld = [] ∧ Slips s u (h.late s.web) := ⟨hu.1.trans hheld, (congrArg BitVec.toNat hu.2).trans hslip⟩
  rw [s.performHold_eq]
  split
  · next _ id gs _ =>
    split
    · exact kept (foldl_keeps (P := fun u : State => u.core.slotsHeld = (s.takeSlot h).core.slotsHeld ∧ u.core.slip = (s.takeSlot h).core.slip)
        (fun u g hu => ⟨(u.writeBeat_held id g).1.trans hu.1, (u.writeBeat_held id g).2.trans hu.2⟩) gs ⟨rfl, rfl⟩)
    · exact ⟨hheld, hslip⟩
  · exact kept (State.hbmAtom_held _ _ _ _)
  · exact ⟨hheld, hslip⟩

omit hs in
/-- A poisoned source is the fault of the command (21 R382). -/
theorem State.performHold_spoilt {id off : Nat} {g : GroupBeat} {k : Cmd} (hg : h.grp = some (id, [g])) (hw : h.write = true) (hp : g.place = .pad off)
    (hk : s.core.cmd id = some k) (hbad : ∃ y ∈ granulesFrom off 64, y ∈ s.core.poison) : ∃ (w : EngWrite) (f : FaultInfo),
      (s.performHold h).arriving = s.arriving ++ [(s.web, w)] ∧ w.bad = some f ∧ f.kind = .uncorrectableData ∧ f.word = k.word := by
  obtain ⟨fr, m, w, hbeat, _, hfault⟩ := (s.takeSlot h).writeBeat_eq (id := id) hp
  have hpoison : (s.takeSlot h).core.padPoisoned off 64 = true := (Core.padPoisoned_iff _ off 64).mpr hbad
  have hcmd : (s.takeSlot h).core.cmd id = some k := hk
  rw [hpoison, if_pos rfl, hcmd] at hfault
  rw [State.performHold_writes hg hw, hbeat]
  exact ⟨w, _, rfl, hfault, rfl, rfl⟩

omit hs in
/-- An HBM atomic is one read-modify-write, whose old value lands later (17 R318). -/
theorem State.performHold_atomic {op : BitVec 3} {i64 : Bool} {pa : Nat} {ent : BitVec 10} {x cmp : Word} (hg : h.grp = none)
    (ha : h.atm = some (.atmHbm op i64 pa ent x cmp)) : let t := s.performHold h
    let n := if i64 then 8 else 4
    let old := Memory.readNat s.hbm pa n
    KeepsRegisters s t ∧ t.core.scratch = s.core.scratch
      ∧ t.hbm = Memory.writeNat s.hbm pa n (atomicNew op (8 * n) old (x.toNat % 2 ^ (8 * n)) (cmp.toNat % 2 ^ (8 * n)))
      ∧ t.agenda = s.agenda ++ [(s.web + (if h.channel / 16 = s.core.sheet.toNat then 160 else 184), .remoteAtmReturn h.seq (BitVec.ofNat 64 old))] := by
  have heq : s.performHold h = (s.takeSlot h).hbmAtom h.channel h.seq (.atmHbm op i64 pa ent x cmp) := by
    rw [s.performHold_eq, hg, ha]
  obtain ⟨y, hy⟩ := (s.takeSlot h).core.pend_eq ent.toNat false
  dsimp only
  rw [heq]
  simp only [State.hbmAtom, hy]
  exact ⟨⟨rfl, rfl, rfl, rfl, rfl, rfl⟩, rfl, rfl, rfl⟩

end

end Sys2Proof.Machine
end

section
/-! SUPPORT. A slot of an HBM channel starts (05 R91 to R95, 07 R131, R141, R142, 17 R318, 22 R397). -/

namespace Sys2Proof.Machine

theorem execHbmSlot_off {s : State} {ch : BitVec 9} (h : s.web % 9 ≠ 0 ∨ 384 ≤ ch.toNat) : execHbmSlot ch s = .fault .notDue := if_pos h

theorem Region.still_iff (r : Region) : r.still = true ↔ r.st = .frozen ∨ r.st = .relock := by
  simp [Region.still]

/-- No request of this core for best effort may begin on a channel. -/
def State.NoneWaits (s : State) (ch : Nat) : Prop := ∀ x ∈ s.core.slotsHeld, x.best = true → x.channel = ch → s.web < x.start

theorem State.serveBest_idle {s : State} {ch : Nat} (h : s.NoneWaits ch) (carried : Bool) : s.serveBest ch carried = s := by
  have none {p : SlotHold → Bool} : s.core.slotsHeld.find? (fun x => x.best && x.channel == ch && decide (x.start ≤ s.web) && p x) = none := by
    rw [List.find?_eq_none]
    intro x hx
    simp only [Bool.and_eq_true, beq_iff_eq, decide_eq_true_eq, not_and, Bool.not_eq_true]
    exact fun hmay => absurd hmay.2 (Nat.not_le.mpr (h x hx hmay.1.1 hmay.1.2))
  have hkept : s.keptRequest ch = Option.none := by
    unfold State.keptRequest
    split
    · exact none
    · rfl
  rw [State.serveBest, show s.request ch = Option.none from none]
  dsimp only
  rw [State.missBest, hkept]

/-- What this core holds in the slot of a channel that starts now. -/
def State.holdsNow (s : State) (ch : Nat) : List SlotHold := s.core.slotsHeld.filter fun h => !h.best && h.channel == ch && h.start == s.web

section
variable {s : State} {ch : BitVec 9} (hweb : s.web % 9 = 0) (hch : ch.toNat < 384)
include hweb hch

theorem execHbmSlot_eq : execHbmSlot ch s =
    .next (((s.holdsNow ch.toNat).foldl State.useSlot s).serveBest ch.toNat ((s.holdsNow ch.toNat).any s.slotCarries)) :=
  if_neg (not_or.mpr ⟨not_not.mpr hweb, Nat.not_le.mpr hch⟩)

theorem execHbmSlot_idle (h : ∀ h ∈ s.core.slotsHeld, h.channel = ch.toNat → if h.best then s.web < h.start else h.start ≠ s.web) :
    execHbmSlot ch s = .next s := by
  have hnow : s.holdsNow ch.toNat = [] := by
    rw [State.holdsNow, List.filter_eq_nil_iff]
    intro x hx hnow
    simp only [Bool.and_eq_true, Bool.not_eq_true', beq_iff_eq] at hnow
    have hstart := h x hx hnow.1.2
    rw [hnow.1.1] at hstart
    exact hstart hnow.2
  have hwait : s.NoneWaits ch.toNat := fun x hx hb hc => by
    have hstart := h x hx hc
    rwa [hb] at hstart
  rw [execHbmSlot_eq hweb hch, hnow]
  exact congrArg _ (State.serveBest_idle hwait _)

variable {h : SlotHold} (hs : s.core.slotsHeld = [h]) (hc : h.channel = ch.toNat)
include hs hc

theorem execHbmSlot_held (hb : h.best = false) (hstart : h.start = s.web) {t : State} (ht : s.useSlot h = t)
    (hheld : t.core.slotsHeld = [] ∨ ∃ x, t.core.slotsHeld = [x] ∧ x.best = false) :
    execHbmSlot ch s = .next t := by
  have hnow : s.holdsNow ch.toNat = [h] := by simp [State.holdsNow, hs, hb, hc, hstart]
  have hwait : t.NoneWaits ch.toNat := by
    intro x hx hbest
    rcases hheld with hnil | ⟨y, hy, hyb⟩
    · rw [hnil] at hx
      exact absurd hx (List.not_mem_nil)
    · rw [hy, List.mem_singleton] at hx
      rw [hx, hyb] at hbest
      exact absurd hbest (by decide)
  rw [execHbmSlot_eq hweb hch, hnow, List.foldl_cons, List.foldl_nil, ht]
  exact congrArg _ (State.serveBest_idle hwait _)

omit hc in
theorem execHbmSlot_best (hb : h.best = true) : execHbmSlot ch s = .next (s.serveBest ch.toNat false) := by
  have hnow : s.holdsNow ch.toNat = [] := by simp [State.holdsNow, hs, hb]
  rw [execHbmSlot_eq hweb hch, hnow]
  rfl

end

/-! ## The only hold of the core -/

section
variable {s : State} {ch : BitVec 9} {h : SlotHold}

/-- What a slot that is lost does. -/
def SlotMoves (s : State) (ch : BitVec 9) (h : SlotHold) (heat : Bool) : Prop :=
  ∃ (t : State) (x : SlotHold), execHbmSlot ch s = .next t ∧ t.core.slotsHeld = [x]
    ∧ x.grp = h.grp ∧ x.atm = h.atm ∧ h.start < x.start ∧ x.start % 9 = 0 ∧ Slips s t (if heat then 1 else 0)
    ∧ x.ideal = (if heat then h.ideal else some (h.ideal.getD h.start)) ∧ t.arriving = s.arriving ∧ KeepsRegisters s t ∧ KeepsMemory s t
    ∧ t.dev.thlogN = s.dev.thlogN + (if heat then 1 else 0)

/-- What a group of one beat that is read does. -/
def SlotReads (s : State) (ch : BitVec 9) (h : SlotHold) (t : State) (id : Nat) (g : GroupBeat) : Prop :=
  h.write = false → g.bad = none → g.zeros = false → ∃ w : EngWrite,
    t.arriving = s.arriving ++ [(s.web + (if ch.toNat / 16 = s.core.sheet.toNat then 160 else 184) + g.pa % 256 / 64, w)] ∧ w.place = g.place
    ∧ w.cmd = some (id, g.n) ∧ w.bad = none ∧ w.data = BitVec.ofNat 512 (Memory.readNat s.hbm g.pa 64) ∧ KeepsRegisters s t ∧ KeepsMemory s t

variable (hweb : s.web % 9 = 0) (hch : ch.toNat < 384) (hs : s.core.slotsHeld = [h]) (hc : h.channel = ch.toNat)
include hweb hch hs hc

theorem execHbmSlot_loses (hb : h.best = false) (hstart : h.start = s.web) {heat : Bool} (hg : heat = false → h.grp.isSome = true)
    (hu : s.useSlot h = s.loseSlot h heat) : SlotMoves s ch h heat := by
  obtain ⟨x, hheld, hbest, hrest⟩ := State.loseSlot_moves hs hg
  exact ⟨_, x, execHbmSlot_held hweb hch hs hc hb hstart hu (.inr ⟨x, hheld, hbest.trans hb⟩), hheld, hrest⟩

section
variable (hb : h.best = false) (hstart : h.start = s.web)
include hb hstart

theorem execHbmSlot_withheld (hheat : s.withheld ch.toNat h.write (s.web / 9) = true) : SlotMoves s ch h true := by
  refine execHbmSlot_loses hweb hch hs hc hb hstart (fun h => absurd h (by decide)) (if_pos ?_)
  rw [State.slotWithheld, hc, hstart]
  exact hheat

variable (hheat : s.withheld ch.toNat h.write (s.web / 9) = false)
include hheat

theorem execHbmSlot_frozen (hstill : s.region.st = .frozen ∨ s.region.st = .relock) (hg : h.grp.isSome = true) : SlotMoves s ch h false := by
  refine execHbmSlot_loses hweb hch hs hc hb hstart (fun _ => hg) ?_
  rw [State.useSlot, State.slotWithheld, hc, hstart, show Config.slotCycles = 9 from rfl, hheat, if_neg (by decide),
    if_pos ⟨s.region.still_iff.mpr hstill, hg⟩]

/-- A slot that is not lost carries what holds it. -/
theorem execHbmSlot_carries (hp : ¬(s.region.st = .frozen ∨ s.region.st = .relock) ∨ h.grp = none) :
    execHbmSlot ch s = .next (s.performHold h) := by
  refine execHbmSlot_held hweb hch hs hc hb hstart ?_ (.inl (State.performHold_held hs).1)
  rw [State.useSlot, State.slotWithheld, hc, hstart, show Config.slotCycles = 9 from rfl, hheat, if_neg (by decide), if_neg]
  rw [s.region.still_iff]
  rintro ⟨hstill, hg⟩
  rcases hp with hp | hp
  · exact hp hstill
  · rw [hp] at hg
    exact absurd hg (by decide)

/-- A group of one beat: a read that lands later, the fault of its check, a write of the scratchpad's bytes, or the fault of a poisoned
source. -/
theorem execHbmSlot_group (hp : ¬(s.region.st = .frozen ∨ s.region.st = .relock)) {id : Nat} {g : GroupBeat} (hg : h.grp = some (id, [g])) :
    let lat := if ch.toNat / 16 = s.core.sheet.toNat then 160 else 184
    let lateBy := if h.ideal.any (fun i => decide (i < s.web)) = true then 1 else 0
    (∃ t : State, execHbmSlot ch s = .next t ∧ t.core.slotsHeld = [] ∧ Slips s t lateBy ∧ SlotReads s ch h t id g)
    ∧ (∀ i, h.write = false → g.bad = some i → ∃ (t : State) (w : EngWrite), execHbmSlot ch s = .next t
      ∧ t.arriving = s.arriving ++ [(s.web + lat + g.pa % 256 / 64, w)] ∧ w.bad = some i ∧ ∀ j, j < 16 → elem w.data 32 j = 0x7FC00000)
    ∧ (∀ off, h.write = true → g.place = .pad off → s.inFabric = true → s.core.poison = [] → Memory.wf s.hbm = true →
      ∃ t : State, execHbmSlot ch s = .next t ∧ t.core.slotsHeld = [] ∧ Slips s t lateBy ∧ KeepsRegisters s t ∧ t.core.scratch = s.core.scratch
        ∧ (∀ i, i < 64 → Memory.byte t.hbm (g.pa + i) = Memory.byte (s.core.imageAt (s.core.cyc - 8)) (off + i))
        ∧ ∀ a, a < g.pa ∨ g.pa + 64 ≤ a → Memory.byte t.hbm a = Memory.byte s.hbm a)
    ∧ (∀ off k, h.write = true → g.place = .pad off → s.core.cmd id = some k → (∃ y ∈ granulesFrom off 64, y ∈ s.core.poison) →
      ∃ (t : State) (w : EngWrite) (f : FaultInfo), execHbmSlot ch s = .next t ∧ t.arriving = s.arriving ++ [(s.web, w)] ∧ w.bad = some f
        ∧ f.kind = .uncorrectableData ∧ f.word = k.word) := by
  intro lat lateBy
  have hev := execHbmSlot_carries hweb hch hs hc hb hstart hheat (.inl hp)
  have hlate : h.late s.web = lateBy := by rw [SlotHold.late, hg]; rfl
  refine ⟨?_, fun i hw hbad => ?_, fun off hw hpl hf hpoison hwf => ?_, fun off k hw hpl hk hbad => ?_⟩
  · obtain ⟨hheld, hslip⟩ := State.performHold_held hs
    refine ⟨_, hev, hheld, hlate ▸ hslip, fun hw hbad hz => ?_⟩
    obtain ⟨_, _, hregs, hmem, w, harr, hplace, hcmd, hwbad, hdata⟩ := State.performHold_reads hs hg hw
    rw [hc] at harr
    rw [hbad] at hwbad hdata
    rw [hz] at hdata
    exact ⟨w, harr, hplace, hcmd, hwbad, hdata, hregs, hmem⟩
  · obtain ⟨_, _, _, _, w, harr, _, _, hwbad, hdata⟩ := State.performHold_reads hs hg hw
    rw [hc] at harr
    rw [hbad] at hwbad hdata
    exact ⟨_, w, hev, harr, hwbad, fun j hj => hdata ▸ elem_poison512 hj⟩
  · obtain ⟨hheld, hslip, hrest⟩ := State.performHold_stores hs hg hw hpl hf hpoison hwf
    exact ⟨_, hev, hheld, hlate ▸ hslip, hrest⟩
  · obtain ⟨w, f, hrest⟩ := State.performHold_spoilt hg hw hpl hk hbad
    exact ⟨_, w, f, hev, hrest⟩

theorem execHbmSlot_atomic {op : BitVec 3} {i64 : Bool} {pa : Nat} {ent : BitVec 10} {x cmp : Word} (hg : h.grp = none)
    (ha : h.atm = some (.atmHbm op i64 pa ent x cmp)) :
    let n := if i64 then 8 else 4
    let old := Memory.readNat s.hbm pa n
    ∃ t : State, execHbmSlot ch s = .next t ∧ KeepsRegisters s t ∧ t.core.scratch = s.core.scratch
      ∧ t.hbm = Memory.writeNat s.hbm pa n (atomicNew op (8 * n) old (x.toNat % 2 ^ (8 * n)) (cmp.toNat % 2 ^ (8 * n)))
      ∧ t.agenda = s.agenda ++ [(s.web + (if ch.toNat / 16 = s.core.sheet.toNat then 160 else 184), .remoteAtmReturn h.seq (BitVec.ofNat 64 old))] :=
  ⟨_, execHbmSlot_carries hweb hch hs hc hb hstart hheat (.inr hg), hc ▸ State.performHold_atomic hg ha⟩

end

/-! ## Best effort -/

omit hc in
/-- A best-effort request stays in a refresh slot, and a group's in a frozen region. -/
theorem execHbmSlot_stays (hb : h.best = true)
    (hno : s.web / 9 % 32 = 31 ∨ ((s.region.st = .frozen ∨ s.region.st = .relock) ∧ h.grp.isSome = true)) : ∃ (t : State) (x : Option Nat),
      execHbmSlot ch s = .next t ∧ t.core.slotsHeld = [{ h with ideal := x }] ∧ (x = h.ideal ∨ x = some s.web) ∧ t.arriving = s.arriving
        ∧ KeepsRegisters s t ∧ KeepsMemory s t := by
  rcases State.serveBest_cases hs ch.toNat false with hkept | ⟨hpulses, hdata, _⟩
  · obtain ⟨⟨x, hheld, hx⟩, hrest⟩ := hkept.spec
    exact ⟨_, x, execHbmSlot_best hweb hch hs hb, hheld, hx, hrest⟩
  · rcases hno with h31 | ⟨hstill, hg⟩
    · exact absurd h31 hdata
    · rw [s.region.still_iff.mpr hstill, hg] at hpulses
      exact absurd hpulses (by decide)

/-- A best-effort group of one beat that reads stays, or performs in the slot that it is given. -/
theorem execHbmSlot_serves (hb : h.best = true) {id : Nat} {g : GroupBeat} (hg : h.grp = some (id, [g])) (hw : h.write = false) : ∃ t : State,
    execHbmSlot ch s = .next t ∧ KeepsRegisters s t ∧ KeepsMemory s t
      ∧ (((∃ x, t.core.slotsHeld = [{ h with ideal := x }] ∧ (x = h.ideal ∨ x = some s.web)) ∧ t.arriving = s.arriving)
        ∨ (t.core.slotsHeld = [] ∧ SlotReads s ch h t id g)) := by
  refine ⟨_, execHbmSlot_best hweb hch hs hb, ?_⟩
  rcases State.serveBest_cases hs ch.toNat false with hkept | ⟨_, _, n, cmds, turn, heq⟩
  · obtain ⟨hheld, harr, hregs, hmem⟩ := hkept.spec
    exact ⟨hregs, hmem, .inl ⟨hheld, harr⟩⟩
  · obtain ⟨hheld, _, hregs, hmem, w, harr, hplace, hcmd, hwbad, hdata⟩ :=
      State.performHold_reads (s := { s with fresh := n, core := { s.core with cmds := cmds } }) hs hg hw
    rw [heq]
    generalize State.performHold { s with fresh := n, core := { s.core with cmds := cmds } } h = u at hheld hregs hmem harr ⊢
    have hregs' : KeepsRegisters s (u.keepTurn ch.toNat turn) := hregs
    have hmem' : KeepsMemory s (u.keepTurn ch.toNat turn) := hmem
    refine ⟨hregs', hmem', .inr ⟨hheld, fun _ hbad hz => ?_⟩⟩
    rw [hc] at harr
    rw [hbad] at hwbad hdata
    rw [hz] at hdata
    exact ⟨w, harr, hplace, hcmd, hwbad, hdata, hregs', hmem'⟩

end

end Sys2Proof.Machine
end

section
/-! SUPPORT. The finish of an overlay (08 R144, R145, R149, 21 R382). -/

namespace Sys2Proof.Machine

/-! ## Bundles written to the instruction store -/

theorem writeBundles_okAbove : ∀ (bs : List Bundle) {t : Tab Bundle} (base : Nat), Tab.okAbove (0 : Bundle) 0 t = true →
    Tab.okAbove (0 : Bundle) 0 (writeBundles t base bs) = true
  | [], _, _, h => h
  | _ :: bs, _, base, h => writeBundles_okAbove bs (base + 1) (Tab.put_okAbove h (Nat.zero_le base))

/-- Bundle i is at the i-th index, and other indices keep theirs. -/
theorem get_writeBundles : ∀ (bs : List Bundle) {t : Tab Bundle} (base a : Nat), Tab.okAbove (0 : Bundle) 0 t = true →
    Tab.get 0 (writeBundles t base bs) a = if base ≤ a ∧ a < base + bs.length then nth 0 bs (a - base) else Tab.get 0 t a
  | [], t, base, a, _ => by
    rw [if_neg (by simp)]
    rfl
  | b :: bs, t, base, a, h => by
    rw [writeBundles, get_writeBundles bs (base + 1) a (Tab.put_okAbove h (Nat.zero_le base)), Tab.get_put h, List.length_cons]
    by_cases ha : a = base
    · rw [if_neg (by omega), if_pos ha, if_pos (by omega), ha, Nat.sub_self]
      rfl
    · by_cases hin : base + 1 ≤ a ∧ a < base + 1 + bs.length
      · rw [if_pos hin, if_pos (by omega), show a - base = a - (base + 1) + 1 by omega]
        rfl
      · rw [if_neg hin, if_neg ha, if_neg (by omega)]

/-! ## The image -/

/-- An image without a failure has the CRC that its stream gives (08 R145). -/
theorem Cmd.image_crc {k : Cmd} (h : k.image.2 = 0) :
    (crc32 ((List.range k.len).map k.streamByte)).toNat = elemsNat 8 (fun j => (k.streamByte (k.len + j)).toNat) 4 := by
  unfold Cmd.image at h
  dsimp only at h
  split at h
  · exact absurd h (by simp)
  · next hc =>
    by_contra hne
    exact hc ⟨h, hne⟩

/-! ## Commands that are gone -/

theorem Core.cmd_eq_none {c : Core} {id : Nat} : c.cmd id = none ↔ ∀ x ∈ c.cmds, x.id ≠ id := by
  simp [Core.cmd, List.find?_eq_none]

/-- A change of other commands brings none back. -/
theorem Core.cmd_setCmd_none {c : Core} {id : Nat} (h : c.cmd id = none) (id' : Nat) {f : Cmd → Cmd} (hf : ∀ x, (f x).id = x.id := by intro _; rfl) :
    (c.setCmd id' f).cmd id = none := by
  rw [Core.cmd_eq_none] at h ⊢
  intro x hx
  obtain ⟨y, hy, rfl⟩ := List.mem_map.mp hx
  by_cases hid : y.id = id'
  · rw [if_pos hid, hf]
    exact h y hy
  · rw [if_neg hid]
    exact h y hy

/-! ## The finish -/

/-- The overlay is gone: its bundles are in the idle half, and its end is told. -/
def State.finishOverlay (s : State) (k : Cmd) (f : Nat) : State :=
  let (bs, cause) := k.image
  let c := s.core
  { s with core := { c with
      istore := writeBundles c.istore (1024 * k.half.toNat + k.dstb) bs
      poison := let first := 2 ^ 22 + 1024 * k.half.toNat + k.dstb
        c.poison.filter fun g => !decide (first ≤ g ∧ g < first + bs.length)
      cmds := c.cmds.filter fun x => x.id != k.id
      ovlEnd := f
      ovs := { nb := BitVec.ofNat 11 bs.length, cause := BitVec.ofNat 4 cause, fs := c.ovs.fs || cause != 0
               st := if cause = 0 then 2 else 3 } } }

/-- The next overlay begins, and one that is checked takes its place in the pipelines. -/
def State.beginNext (s : State) (n : Cmd) : State :=
  if n.checked then { s.beginLoad n with core := (s.beginLoad n).core.planCmd n (s.beginLoad n).core.cyc } else s.beginLoad n

theorem State.beginNext_keeps (s : State) (n : Cmd) : let t := s.beginNext n
    KeepsRegisters s t ∧ t.core.scratch = s.core.scratch ∧ t.core.istore = s.core.istore ∧ t.core.ovlEnd = s.core.ovlEnd
      ∧ ∀ id, s.core.cmd id = none → t.core.cmd id = none := by
  intro t
  have hload (id : Nat) (h : s.core.cmd id = none) : (s.beginLoad n).core.cmd id = none := Core.cmd_setCmd_none h n.id
  by_cases hn : n.checked = true
  · obtain ⟨kind, b, l, e, hp⟩ := (s.beginLoad n).core.planCmd_eq n (s.beginLoad n).core.cyc
    have ht : t = _ := if_pos hn
    rw [hp] at ht
    rw [ht]
    exact ⟨⟨rfl, rfl, rfl, rfl, rfl, rfl⟩, rfl, rfl, rfl, fun id h => Core.cmd_setCmd_none (hload id h) n.id⟩
  · have ht : t = s.beginLoad n := if_neg hn
    rw [ht]
    exact ⟨⟨rfl, rfl, rfl, rfl, rfl, rfl⟩, rfl, rfl, rfl, hload⟩

section
variable {s : State} {k : Cmd} (hk : s.core.cmd k.id = some k)
include hk

theorem execOverlayFinish_early {f : Nat} (hf : k.finish = some f) (h : s.core.cyc < f) : execOverlayFinish k.id s = .fault .notDue := by
  simp [execOverlayFinish, hk, hf, h]

theorem execOverlayFinish_stopped (h : k.stopped = true) : execOverlayFinish k.id s = .fault .notDue := by
  cases hf : k.finish <;> simp [execOverlayFinish, hk, hf, h]

theorem execOverlayFinish_eq {f : Nat} (hs : k.stopped = false) (hf : k.finish = some f) (h : f ≤ s.core.cyc) :
    execOverlayFinish k.id s = .next (match (s.finishOverlay k f).core.firstOvl with
      | some n => (s.finishOverlay k f).beginNext n
      | none => s.finishOverlay k f) := by
  simp only [execOverlayFinish, hk, hf, hs, Bool.false_eq_true, false_or, if_neg (Nat.not_lt.mpr h)]
  split
  · next n hn =>
    have hfirst : (s.finishOverlay k f).core.firstOvl = some n := hn
    rw [hfirst]
    rfl
  · next hn =>
    have hfirst : (s.finishOverlay k f).core.firstOvl = none := hn
    rw [hfirst]
    rfl

/-- An overlay finishes: its bundles are in the idle half, and nothing else of the store changes (08 R149). -/
theorem execOverlayFinish_spec {f : Nat} (hs : k.stopped = false) (hf : k.finish = some f) (h : f ≤ s.core.cyc)
    (hok : Tab.okAbove (0 : Bundle) 0 s.core.istore = true) :
    ∃ t : State, execOverlayFinish k.id s = .next t ∧ t.core.cmd k.id = none ∧ t.core.ovlEnd = f
      ∧ KeepsRegisters s t ∧ t.core.scratch = s.core.scratch ∧ Tab.okAbove (0 : Bundle) 0 t.core.istore = true
      ∧ (∀ i, i < k.image.1.length → Tab.get 0 t.core.istore (1024 * k.half.toNat + k.dstb + i) = nth 0 k.image.1 i)
      ∧ (∀ a, a < 1024 * k.half.toNat + k.dstb ∨ 1024 * k.half.toNat + k.dstb + k.image.1.length ≤ a →
          Tab.get 0 t.core.istore a = Tab.get 0 s.core.istore a)
      ∧ ((∀ x ∈ s.core.cmds, x.ovl = true → x.id = k.id) → t.core.ovs =
        { nb := BitVec.ofNat 11 k.image.1.length, cause := BitVec.ofNat 4 k.image.2, fs := s.core.ovs.fs || decide (k.image.2 ≠ 0)
          st := if k.image.2 = 0 then 2 else 3 }) := by
  generalize hu : s.finishOverlay k f = u
  have hstore : u.core.istore = writeBundles s.core.istore (1024 * k.half.toNat + k.dstb) k.image.1 := hu ▸ rfl
  have hgone : u.core.cmd k.id = none := by
    rw [Core.cmd_eq_none, ← hu]
    intro x hx
    simpa using (List.mem_filter.mp hx).2
  have hnext : ∃ t : State, execOverlayFinish k.id s = .next t ∧ t.core.cmd k.id = none ∧ t.core.ovlEnd = u.core.ovlEnd ∧ KeepsRegisters u t
      ∧ t.core.scratch = u.core.scratch ∧ t.core.istore = u.core.istore ∧ (u.core.firstOvl = none → t = u) := by
    have hev := execOverlayFinish_eq hk hs hf h
    rw [hu] at hev
    cases hfirst : u.core.firstOvl with
    | none =>
      rw [hfirst] at hev
      exact ⟨u, hev, hgone, rfl, (Untouched.self u).1, rfl, rfl, fun _ => rfl⟩
    | some n =>
      rw [hfirst] at hev
      obtain ⟨hregs, hpad, hist, hend, hcmd⟩ := u.beginNext_keeps n
      exact ⟨_, hev, hcmd _ hgone, hend, hregs, hpad, hist, fun h => absurd h (by simp)⟩
  obtain ⟨t, hev, hcmd, hend, hregs, hpad, hist, hlast⟩ := hnext
  rw [hstore] at hist
  refine ⟨t, hev, hcmd, hend.trans (hu ▸ rfl), ?_, hpad.trans (hu ▸ rfl), ?_, fun i hi => ?_, fun a ha => ?_, fun honly => ?_⟩
  · rw [← hu] at hregs
    exact hregs
  · rw [hist]
    exact writeBundles_okAbove _ _ hok
  · rw [hist, get_writeBundles _ _ _ hok, if_pos (by omega), Nat.add_sub_cancel_left]
  · rw [hist, get_writeBundles _ _ _ hok, if_neg (by omega)]
  · have hnone : u.core.firstOvl = none := by
      rw [Core.firstOvl, List.find?_eq_none, ← hu]
      intro x hx ho
      obtain ⟨hx, hid⟩ := List.mem_filter.mp hx
      simp [honly x hx ho] at hid
    rw [hlast hnone, ← hu]
    simp only [State.finishOverlay, ne_eq, decide_not]
    congr 1

end

end Sys2Proof.Machine
end

section
/-! SUPPORT. O53: copy commands and overlays (07 R128 to R141, 08 R144, R149, 05 R91 to R95, 17 R318, 22 R397). -/

namespace Sys2Proof.Machine

/-- What the engine does with a beat of a row. -/
def State.takeBeat (s : State) (k : Cmd) (n : Nat) : Row → State
  | .local_ => s.transfer k n 2
  | .quireSrc => s.quireSource k n
  | .staging => s.stagingBeat k n
  | .quireDst => s.quireBeat k n
  | .remote => s.remoteBeat k n
  | .hbm => s.chooseGroup k n

section
variable {s : State} {k : Cmd} {n : Nat} (hk : s.core.cmd k.id = some k)
include hk

/-- A beat that is due moves by its row. -/
theorem execCopyBeat_due {r : Row} (hd : s.beatDue k n = some r) : execCopyBeat k.id n s = .next (s.takeBeat k n r) := by
  rw [execCopyBeat, hk]
  dsimp only
  rw [hd]
  cases r <;> rfl

theorem execCopyBeat_none (hd : s.beatDue k n = none) : execCopyBeat k.id n s = .fault .notDue := by
  rw [execCopyBeat, hk]
  dsimp only
  rw [hd]

end

/-- Settles O53: an event of the engine is its row's rule, and each rule changes the books of the engine and what it names. -/
theorem copyEngine : Obligations.CopyEngine := by
  refine ⟨fun s k hk hs hc => ?_, fun s k ho => ⟨?_, fun i => State.cpyFault_kind, fun n _ => k.extent_bounds n⟩,
    fun k => ⟨fun i => Cmd.ovlFault_kind, k.ovlFault_eq_none⟩, fun k n ho hn => Cmd.eq_sum_index ho hn, fun s k n hk => ?_,
    fun s k n b r hb hsh => State.beatDue_iff hb hsh n r, fun c k n => c.row_spec k n, fun c k b n hk hn hrow hrest => Core.planCmd_local hk hn hrow hrest,
    fun s w off ha hw hpad hbuf => ⟨State.performWrite_pad ha hw hpad, State.performWrite_wbuf ha hw hbuf⟩, fun s ch => ?_, fun s k hk => ?_⟩
  · exact ⟨execCopyCommandStart_early hk hs hc, execCopyCommandStart_reads hk hs hc, execCopyCommandStart_spoilt hk hs hc,
      fun hr h => ⟨fun i => execCopyCommandStart_fails hk hs hc hr h, execCopyCommandStart_passes hk hs hc hr h⟩, s.stopCmd_spec hk⟩
  · have h := s.cpyFault_eq_none ho
    simp only [Cmd.WellFormed, and_assoc] at h
    simp only [and_assoc]
    exact h
  · intro ev slips moved
    refine ⟨execCopyBeat_none hk, fun hd => ⟨fun i h => ?_, fun a b h => ?_⟩, fun hd a b h => ⟨fun hr => ?_, fun hr => ?_⟩, fun hd a b h => ?_,
      fun hd hw => ⟨fun hfull => ?_, fun hroom => ⟨fun i h => ?_, fun a b h => ?_⟩⟩, fun hd => ?_, fun hd => ⟨fun i h => ?_, fun gs h => ?_⟩⟩
    · exact (execCopyBeat_due hk hd).trans (congrArg Host.Outcome.next (State.transfer_fails h 2))
    · obtain ⟨w, hw⟩ := State.transfer_local h
      exact ⟨_, w, execCopyBeat_due hk hd, hw⟩
    · obtain ⟨w, hw⟩ := State.quireSource_moves hr h
      exact ⟨_, w, execCopyBeat_due hk hd, hw⟩
    · exact ⟨_, execCopyBeat_due hk hd, State.quireSource_stalls hk hr⟩
    · obtain ⟨w, hw⟩ := State.stagingBeat_moves h
      exact ⟨_, w, execCopyBeat_due hk hd, hw⟩
    · exact ⟨_, execCopyBeat_due hk hd, State.quireBeat_waits hk hw hfull n⟩
    · exact (execCopyBeat_due hk hd).trans (congrArg Host.Outcome.next ((State.quireBeat_enters hw hroom n).trans (State.feltBeat_fails h)))
    · obtain ⟨f, hf⟩ := State.feltBeat_enters h
      exact ⟨_, f, (execCopyBeat_due hk hd).trans (congrArg Host.Outcome.next (State.quireBeat_enters hw hroom n)), hf⟩
    · obtain ⟨x, hx⟩ := s.remoteBeat_joins k n
      exact ⟨_, x, execCopyBeat_due hk hd, hx⟩
    · have hfail : s.chooseGroup k n = s.stopCmd k i := State.chooseGroup_fails h
      exact (execCopyBeat_due hk hd).trans (congrArg Host.Outcome.next hfail)
    · obtain ⟨x, hx⟩ := State.chooseGroup_holds h
      exact ⟨_, x, execCopyBeat_due hk hd, hx⟩
  · refine ⟨execHbmSlot_off, execHbmSlot_idle, fun h hweb hch hs hc => ?_⟩
    intro lat ev still reads slipsBy lateBy moves
    exact ⟨fun hstart hb hheat => execHbmSlot_withheld hweb hch hs hc hb hstart hheat,
      fun hstart hb hheat => ⟨fun id gs hg hstill => execHbmSlot_frozen hweb hch hs hc hb hstart hheat hstill (hg ▸ rfl),
        fun id g hg hstill => execHbmSlot_group hweb hch hs hc hb hstart hheat hstill hg,
        fun op i64 pa ent x cmp hg ha => execHbmSlot_atomic hweb hch hs hc hb hstart hheat hg ha⟩,
      fun hb _ hno => execHbmSlot_stays hweb hch hs hb hno, fun id g hb _ hg hw => execHbmSlot_serves hweb hch hs hc hb hg hw⟩
  · exact ⟨fun h => Cmd.image_crc h, fun f hf h => execOverlayFinish_early hk hf h, execOverlayFinish_stopped hk,
      fun f hs hf h hok => execOverlayFinish_spec hk hs hf h hok⟩

end Sys2Proof.Machine
end

section
/-! SUPPORT. Bank phases and MARK, and O21 (07 R122, R125, 17 R305, R308, R311). -/

namespace Sys2Proof.Machine

/-! ## The largest of some numbers -/

theorem maxOf_le_iff {b : Nat} : ∀ {l : List Nat} {lo : Nat}, maxOf lo l ≤ b ↔ lo ≤ b ∧ ∀ x ∈ l, x ≤ b
  | [], lo => by simp [maxOf]
  | y :: l, lo => by
    rw [maxOf, maxOf_le_iff, Nat.max_le, List.forall_mem_cons, and_assoc]

theorem le_maxOf_of_mem {l : List Nat} {lo x : Nat} (h : x ∈ l) : x ≤ maxOf lo l :=
  (maxOf_le_iff.mp (Nat.le_refl (maxOf lo l))).2 x h

/-! ## Banks -/

theorem phaseStart_le_iff {free : Vector Nat 32} {gs : List Nat} {lo b : Nat} :
    phaseStart free gs lo ≤ b ↔ lo ≤ b ∧ ∀ g ∈ gs, (free[g % 32]?).getD 0 ≤ b := by
  rw [phaseStart, maxOf_le_iff, List.forall_mem_map]

/-- A phase begins when every bank of its granules is free. -/
theorem free_le_phaseStart {free : Vector Nat 32} {gs : List Nat} (lo : Nat) {g : Nat} (h : g ∈ gs) :
    (free[g % 32]?).getD 0 ≤ phaseStart free gs lo :=
  (phaseStart_le_iff.mp (Nat.le_refl _)).2 g h

theorem one_le_demand (gs : List Nat) : 1 ≤ demand gs := le_maxOf _ _

theorem rows_le_demand (gs : List Nat) {b : Nat} (h : b < 32) : (gs.filter fun g => g % 32 == b).length ≤ demand gs :=
  le_maxOf_of_mem (List.mem_map.mpr ⟨b, List.mem_range.mpr h, rfl⟩)

/-- Banks that no granule lies in stay as free as they were. -/
theorem occupy_other {stop b : Nat} : ∀ {gs : List Nat} {free : Vector Nat 32}, (∀ g ∈ gs, g % 32 ≠ b) →
    (occupy free gs stop)[b]? = free[b]?
  | [], _, _ => rfl
  | g :: gs, free, h => by
    obtain ⟨hg, hgs⟩ := List.forall_mem_cons.mp h
    have hrest : (occupy free (g :: gs) stop)[b]? = (free.setIfInBounds (g % 32) stop)[b]? := occupy_other hgs
    rw [hrest, Vector.getElem?_setIfInBounds_ne hg]

/-- The banks of a phase's granules are taken until its end. -/
theorem occupy_mem {stop : Nat} : ∀ {gs : List Nat} {free : Vector Nat 32} {g : Nat}, g ∈ gs →
    (occupy free gs stop)[g % 32]? = some stop
  | x :: gs, free, g, h => by
    have hrest : occupy free (x :: gs) stop = occupy (free.setIfInBounds (x % 32) stop) gs stop := rfl
    rw [hrest]
    by_cases hin : ∃ y ∈ gs, y % 32 = g % 32
    · obtain ⟨y, hy, hyg⟩ := hin
      rw [← hyg]
      exact occupy_mem hy
    · have hnone : ∀ y ∈ gs, y % 32 ≠ g % 32 := fun y hy he => hin ⟨y, hy, he⟩
      have hg : g = x := (List.mem_cons.mp h).resolve_right fun hg => hnone g hg rfl
      rw [occupy_other hnone, hg, Vector.getElem?_setIfInBounds_self_of_lt (Nat.mod_lt x (by decide))]

theorem occupy_mem_getD {stop : Nat} {gs : List Nat} (free : Vector Nat 32) {g : Nat} (h : g ∈ gs) :
    ((occupy free gs stop)[g % 32]?).getD 0 = stop := by
  rw [occupy_mem h, Option.getD_some]

/-! ## Phases -/

theorem Core.loadPhase_ge (c : Core) (gs : List Nat) : c.cyc + 4 ≤ (c.loadPhase gs).1 :=
  Nat.le_trans (Nat.le_max_left _ _) (le_phaseStart c.ldFree gs _)

/-- The start of a store phase, from the cycle in which it performs. -/
theorem Core.storePhase_start (c : Core) (gs : List Nat) : (c.storePhase gs).1 + 1 - demand gs
    = phaseStart c.stFree gs (Nat.max (c.cyc + 4) (c.minW + 1 - demand gs)) := by
  have h : (c.storePhase gs).1 = phaseStart c.stFree gs (Nat.max (c.cyc + 4) (c.minW + 1 - demand gs)) + demand gs - 1 := rfl
  have := one_le_demand gs
  omega

/-- A store phase performs in its last cycle. -/
theorem Core.storePhase_last (c : Core) (gs : List Nat) : (c.storePhase gs).1 + 1
    = phaseStart c.stFree gs (Nat.max (c.cyc + 4) (c.minW + 1 - demand gs)) + demand gs := by
  have h : (c.storePhase gs).1 = phaseStart c.stFree gs (Nat.max (c.cyc + 4) (c.minW + 1 - demand gs)) + demand gs - 1 := rfl
  have := one_le_demand gs
  omega

theorem exec_mark {g : BitVec 4} {s : State} (hg : s.guardOn g = true) : exec (.mark g) s = .next { s with core := { s.core with
    minB0 := Nat.max s.core.minB0 (s.core.lastW + 1), minW := Nat.max s.core.minW (s.core.lastE + 1) } } := by
  have hexec : exec (.mark g) s = execMark g s := rfl
  rw [hexec, execMark, guarded_of_true hg]

/-- Settles O21: a phase begins at the least cycle above its bounds, and MARK raises the bounds. -/
theorem bankPhasesAndMark : Obligations.BankPhasesAndMark := by
  refine ⟨fun c gs => ?_, fun c gs => ?_, fun c gs => ?_, fun g s => exec_mark⟩
  · intro r
    have hlo : Nat.max (c.cyc + 4) c.minB0 ≤ r.1 := le_phaseStart c.ldFree gs _
    exact ⟨c.loadPhase_ge gs, Nat.le_trans (Nat.le_max_right _ _) hlo, fun g => free_le_phaseStart _,
      fun b hcyc hmark hfree => phaseStart_le_iff.mpr ⟨Nat.max_le.mpr ⟨hcyc, hmark⟩, hfree⟩, rfl, one_le_demand gs,
      fun b => rows_le_demand gs, fun g => occupy_mem_getD c.ldFree, fun b _ => occupy_other, rfl, rfl⟩
  · intro r b0
    have hb0 : b0 = phaseStart c.stFree gs (Nat.max (c.cyc + 4) (c.minW + 1 - demand gs)) := c.storePhase_start gs
    have hlast : r.1 + 1 = b0 + demand gs := hb0 ▸ c.storePhase_last gs
    have hlo : Nat.max (c.cyc + 4) (c.minW + 1 - demand gs) ≤ b0 := hb0 ▸ le_phaseStart c.stFree gs _
    obtain ⟨hcyc, hmark⟩ := Nat.max_le.mp hlo
    have hd := one_le_demand gs
    refine ⟨hcyc, by omega, fun g hg => hb0 ▸ free_le_phaseStart _ hg, fun b hc hm hfree => ?_, fun g hg => ?_, rfl, rfl⟩
    · rw [hb0]
      exact phaseStart_le_iff.mpr ⟨Nat.max_le.mpr ⟨hc, by omega⟩, hfree⟩
    · rw [hlast, hb0]
      exact occupy_mem_getD c.stFree hg
  · intro r
    exact ⟨c.enginePhase_ge gs, fun g => free_le_phaseStart _, fun b hcyc hfree => phaseStart_le_iff.mpr ⟨hcyc, hfree⟩, rfl,
      fun g => occupy_mem_getD c.ldFree, rfl⟩

end Sys2Proof.Machine
end

section
/-! SUPPORT. Loads of the scratchpad, and O15 (07 R125, R126, 12 R216 to R220). -/

namespace Sys2Proof.Machine

/-! ## Issue -/

/-- A load of the scratchpad issues beside what its base sends. -/
theorem State.issueLoad_loadsPad {s : State} (u : BitVec 1) (n : BitVec 5) (nb : Option Word) (off : Nat)
    (bytes : Nat → List (Nat × Nat)) {form : LoadForm} (hf : form.isFetch = false) (file : RegFile) (dst : BitVec 10) (sel : Line) :
    LoadsPad s (.next ((s.bumpBase (addrSlot u) n nb).issueLoad (addrSlot u) (.pad off) bytes form (loadLanding u file dst sel sel))) u n nb
      (bytes off) form file dst sel := by
  have hge := s.core.loadPhase_ge (granulesOf ((bytes off).map (·.2)))
  have hs := s.bumpBase_onlySends (addrSlot u) n nb
  have hslot : s.bumpBase (1 + u.toNat) n nb = s.bumpBase (addrSlot u) n nb := rfl
  rw [LoadsPad, hslot]
  generalize s.bumpBase (addrSlot u) n nb = s' at hs
  rw [OnlySends] at hs
  generalize s'.core.land = land, s'.core.seqNo = q, s'.core.undo = w, s'.core.known = known at hs
  subst hs
  simp only [State.issueLoad, hf, Bool.false_eq_true, if_false]
  exact ⟨_, _, rfl, ⟨rfl, rfl, ⟨rfl, rfl, rfl, rfl, rfl, rfl⟩, ⟨rfl, rfl, rfl, rfl, rfl, rfl⟩⟩, rfl, rfl, rfl, rfl, rfl, rfl, rfl,
    Nat.sub_add_cancel (Nat.le_trans (Nat.le_add_left 4 _) hge), rfl, rfl, rfl, rfl, rfl, rfl, rfl, rfl, rfl⟩

/-! ## The instructions -/

section
variable {u : BitVec 1} {g : BitVec 4} {n : BitVec 5} {m : BitVec 1} {s : State} {nb : Option Word}
  (hg : s.guardOn g = true) (hnb : s.newBase n m = some nb)
include hg hnb

/-- A load that the check lets into the scratchpad. -/
theorem loadWith_pad {size off : Nat} {bytes : Nat → List (Nat × Nat)} {form : LoadForm} (hf : form.isFetch = false) {file : RegFile}
    {dst : BitVec 10} {sel : Line} (h : s.checkAccess (addrSlot u) (s.core.r.readA n) size size .read = .pad off) :
    LoadsPad s (loadWith u g n m size size (fun _ => bytes) form (fun _ => loadLanding u file dst sel sel) s) u n nb (bytes off)
      form file dst sel := by
  have ho : loadWith u g n m size size (fun _ => bytes) form (fun _ => loadLanding u file dst sel sel) s
      = .next ((s.bumpBase (addrSlot u) n nb).issueLoad (addrSlot u) (.pad off) bytes form (loadLanding u file dst sel sel)) := by
    simp only [loadWith, guarded_of_true hg, hnb, h]
    rfl
  rw [ho]
  exact State.issueLoad_loadsPad u n nb off bytes hf file dst sel

/-- A gather whose base and elements pass their checks (12 R219). -/
theorem execLdg_pad {v k : BitVec 4} {w : BitVec 2} (h : gatherCheck s u n k (gatherBytes w) .read = none) :
    LoadsPad s (execLdg u g v n m w k s) u n nb
      ((List.range (128 / gatherBytes w)).map fun i => byteRun (gatherBytes w * i)
        ((s.core.r.readA n).toNat + gatherOff s k (gatherBytes w) i) (gatherBytes w)).flatten
      .line .v (BitVec.ofNat 10 v.toNat) (BitVec.allOnes 1024) := by
  have ho : execLdg u g v n m w k s = .next ((s.bumpBase (addrSlot u) n nb).issueLoad (addrSlot u) (.pad (s.core.r.readA n).toNat)
      (fun a => ((List.range (128 / gatherBytes w)).map fun i =>
        byteRun (gatherBytes w * i) (a + gatherOff s k (gatherBytes w) i) (gatherBytes w)).flatten) .line
      (loadLanding u .v (BitVec.ofNat 10 v.toNat) (BitVec.allOnes 1024) (BitVec.allOnes 1024))) := by
    simp only [execLdg, guarded_of_true hg, hnb, h]
  rw [ho]
  exact State.issueLoad_loadsPad u n nb _ (fun a => ((List.range (128 / gatherBytes w)).map fun i =>
    byteRun (gatherBytes w * i) (a + gatherOff s k (gatherBytes w) i) (gatherBytes w)).flatten) rfl _ _ _

end

theorem exec_ldg (u : BitVec 1) (g v : BitVec 4) (n : BitVec 5) (m : BitVec 1) (w : BitVec 2) (k : BitVec 4) (s : State) :
    exec (.ldg u g v n m w k) s = execLdg u g v n m w k s := rfl

theorem gatherBytes_eq : ∀ w : BitVec 2, gatherBytes w = if w = 0 then 4 else if w = 1 then 2 else 1 := by
  decide

/-- A gather finds no fault when its base is aligned and every element lies in the scratchpad (12 R214, R219). -/
theorem gatherCheck_eq_none {s : State} {u : BitVec 1} {n : BitVec 5} {k : BitVec 4} {b : Nat} {d : Doing}
    (ha : (s.core.r.readA n).toNat % b = 0)
    (hin : ∀ i, i < 128 / b → (s.core.r.readA n).toNat + gatherOff s k b i + b ≤ Config.scratchBytes) :
    gatherCheck s u n k b d = none := by
  have hout : gatherOut s n k b = [] := by
    rw [gatherOut, List.filter_eq_nil_iff, List.forall_mem_map]
    intro i hi
    simpa using hin i (List.mem_range.mp hi)
  simp [gatherCheck, ha, hout]

/-- Settles O15: each form passes its check and its bytes enter the load queue. -/
theorem loadsOfTheScratchpad : Obligations.LoadsOfTheScratchpad := by
  intro u g n m s nb off hg hnb
  refine ⟨fun sf w t h hw => ?_, fun d k => ?_, fun sf w t f e => ?_, fun v w k _ => ?_⟩
  · intro first count hck
    have hform : ldlForm w h = (first, count) := ldlForm_eq h hw
    rw [exec_ldl, hform]
    exact loadWith_pad hg hnb rfl hck
  · intro size hk hck
    have hkind : scalarKind k = (size, decide (k.toNat < 8)) := scalarKind_eq k hk
    rw [exec_lds, hkind, ← byteRun_zero]
    exact loadWith_pad hg hnb rfl hck
  · intro first count size hck
    have hform : ldbForm w f = (first, count) := ldbForm_eq w f
    have hsize : ldbBytes e = size := ldbBytes_eq e
    rw [exec_ldb, hform, hsize, ← byteRun_zero]
    exact loadWith_pad hg hnb rfl hck
  · intro size va ha hin
    have hsize : gatherBytes w = size := gatherBytes_eq w
    have h := execLdg_pad hg hnb (u := u) (v := v) (w := w) (k := k) (gatherCheck_eq_none (by rw [hsize]; exact ha) (by rw [hsize]; exact hin))
    rw [hsize] at h
    rw [exec_ldg]
    exact h

end Sys2Proof.Machine
end

section
/-! SUPPORT. What a load of the scratchpad lands, what a store changes, and O17 (07 R126, 12 R217 to R220, 17 R306). -/

namespace Sys2Proof.Machine

/-! ## What a load reads -/

/-- A load of the scratchpad with no poisoned granule reads the bytes that stand there. -/
theorem State.loadByte_pad {s : State} {l : Load} (hq : l.quire = false) (hz : l.zeros = false) (hp : l.poison = false)
    (hc : s.loadPoisoned l = false) {b : Nat × Nat} (hb : b ∈ l.bytes) : s.loadByte l b.2 = Memory.byte s.core.scratch b.2 := by
  have hclean : s.core.poison.contains (poisonGran false b.2) = false := by
    rw [State.loadPoisoned, hz, hp, hq] at hc
    simpa using List.any_eq_false.mp hc b hb
  rw [State.loadByte, hp, hz, hq, hclean]
  rfl

/-- With no poisoned granule a load that is not MLDW's lands its value and nothing beside it. -/
theorem State.readLoad_mem_clean {s : State} {l : Load} {v : Line} (hc : s.loadPoisoned l = false) (hm : l.markRem = none)
    (hw : ∀ off, l.form ≠ .wbuf off)
    (hv : l.form.fill (loadNat (s.loadByte l) l.bytes) l.land = { l.land with val := v, lval := v }) :
    ({ l.land with val := v, lval := v } : Landing) ∈ (s.readLoad l).core.land := by
  have h := State.readLoad_mem hm hw hv
  rw [hc] at h
  exact h

/-! ## What a store changes -/

/-- A byte after cells are written one after another. -/
theorem Memory.byte_writeCells (a : Nat) : ∀ (cs : List Host.Cell) {m : Memory}, m.wf = true →
    (m.writeCells cs).byte a = match lastAt a cs with
      | some b => b
      | none => m.byte a
  | [], _, _ => rfl
  | (b, x) :: cs, m, h => by
    rw [Memory.writeCells, Memory.byte_writeCells a cs (Memory.setByte_wf h b x), lastAt]
    cases lastAt a cs with
    | some y => rfl
    | none =>
      dsimp only
      rw [Memory.byte_setByte h]
      by_cases hb : b = a
      · rw [if_pos hb, if_pos hb.symm]
      · rw [if_neg hb, if_neg fun he => hb he.symm]

theorem Core.writePad_poison (c : Core) (cells : List Host.Cell) : ∀ g ∈ (c.writePad cells).poison, g ∈ c.poison := by
  intro g hg
  unfold Core.writePad at hg
  dsimp only at hg
  split at hg
  · exact absurd hg List.not_mem_nil
  · exact (List.mem_filter.mp hg).1

/-- Settles O17: the bytes of a load by their places, and those of a store by the last cell of each address. -/
theorem accessesPerformExactly : Obligations.AccessesPerformExactly := by
  refine ⟨fun s l hq hz hp hc hm => ?_, fun c x hwf => ?_⟩
  · intro t lands
    have hbyte {b : Nat × Nat} (hb : b ∈ l.bytes) : s.loadByte l b.2 = Memory.byte s.core.scratch b.2 := State.loadByte_pad hq hz hp hc hb
    refine ⟨(s.readLoad_keeps l).1, (s.readLoad_keeps l).2, fun hf hn hlt => ?_, fun a n _ hbs => ?_⟩
    · have hx : loadNat (s.loadByte l) l.bytes = elemsNat 8 (placedByte (s.loadByte l) l.bytes) 128 := loadNat_eq_elemsNat _ hn hlt
      refine ⟨BitVec.ofNat 1024 (loadNat (s.loadByte l) l.bytes), State.readLoad_mem_clean hc hm (by simp [hf]) (by rw [hf]; rfl), ?_, ?_⟩
      · intro b hb
        rw [hx, elem_ofNat_elemsNat _ (hlt b hb) (by decide), placedByte_used hn hb, BitVec.ofNat_toNat, BitVec.setWidth_eq, hbyte hb]
      · intro p hp
        rcases Nat.lt_or_ge p 128 with h | h
        · rw [hx, elem_ofNat_elemsNat _ h (by decide), placedByte_unused hp]
          rfl
        · exact elem_above _ (by omega)
    · have hx : loadNat (s.loadByte l) l.bytes = Memory.readNat s.core.scratch a n := by
        rw [Memory.readNat_eq_elemsNat, hbs, loadNat_run]
        refine elemsNat_congr fun i hi => ?_
        have hb : (i, a + i) ∈ l.bytes := hbs ▸ List.mem_map.mpr ⟨i, List.mem_range.mpr hi, rfl⟩
        rw [hbyte hb]
      intro x
      refine ⟨fun hf => ?_, fun hf => ?_, fun hf => ?_⟩
      · exact State.readLoad_mem_clean hc hm (by simp [hf]) (by rw [hf, hx, LoadForm.fill_zeroExtended])
      · exact State.readLoad_mem_clean hc hm (by simp [hf]) (by rw [hf, hx, LoadForm.fill_signExtended])
      · exact ⟨_, State.readLoad_mem_clean hc hm (by simp [hf]) (by rw [hf, hx, LoadForm.fill_bcast]), fun i => elem_ofElems_const _⟩
  · exact ⟨Memory.writeCells_wf x.bytes hwf, fun a => Memory.byte_writeCells a x.bytes hwf, rfl, c.writePad_poison x.bytes, rfl⟩

end Sys2Proof.Machine
end

section
/-! SUPPORT. The write slot of an HBM atomic: the first owned one that nothing holds (05 R92, 07 R131, 17 R318). -/

namespace Sys2Proof.Machine

/-! ## The first slot -/

/-- A search among enough slots finds the first that satisfies its test. -/
theorem firstSlot_spec {p : Nat → Bool} : ∀ {n start : Nat}, (∃ i, i < n ∧ p (start + 9 * i) = true) →
    ∃ t, firstSlot p n start = some t ∧ p t = true ∧ ∀ u, start ≤ u → u % 9 = start % 9 → p u = true → t ≤ u
  | 0, _, ⟨_, hi, _⟩ => absurd hi (Nat.not_lt_zero _)
  | n + 1, start, ⟨i, hi, hp⟩ => by
    have hslot : Config.slotCycles = 9 := rfl
    rw [firstSlot, hslot]
    by_cases h : p start = true
    · exact ⟨start, if_pos h, h, fun u hu _ _ => hu⟩
    · have hpos : i ≠ 0 := fun h0 => h (by simpa [h0] using hp)
      have hlater : ∃ j, j < n ∧ p (start + 9 + 9 * j) = true :=
        ⟨i - 1, by omega, by rwa [show start + 9 + 9 * (i - 1) = start + 9 * i by omega]⟩
      obtain ⟨t, ht, hpt, hmin⟩ := firstSlot_spec hlater
      refine ⟨t, (if_neg h).trans ht, hpt, fun u hu hmod hpu => ?_⟩
      have hne : u ≠ start := fun he => h (he ▸ hpu)
      exact hmin u (by omega) (by omega) hpu

/-- Of one number more than a list holds, spread without repetition, some number is not in the list. -/
theorem exists_image_not_mem {f : Nat → Nat} (hf : Function.Injective f) (l : List Nat) : ∃ j, j ≤ l.length ∧ f j ∉ l := by
  by_contra hall
  push Not at hall
  have hsub : (List.range (l.length + 1)).map f ⊆ l := by
    intro x hx
    obtain ⟨j, hj, rfl⟩ := List.mem_map.mp hx
    exact hall j (Nat.le_of_lt_succ (List.mem_range.mp hj))
  have hlen := (List.subperm_of_subset (List.nodup_range.map hf) hsub).length_le
  simp at hlen

/-! ## Slots that are held -/

/-- Starts of the slots that groups and atomics hold or that have been used. -/
def Core.takenStarts (c : Core) : List Nat := c.slotsHeld.map (·.start) ++ c.usedSlots.map (·.2)

theorem Core.slotHeld_mem {c : Core} {ch t : Nat} (h : c.slotHeld ch t = true) : t ∈ c.takenStarts := by
  rw [Core.slotHeld, Bool.or_eq_true] at h
  rcases h with hused | hheld
  · have hmem : (ch, t) ∈ c.usedSlots := by simpa using hused
    exact List.mem_append_right _ (List.mem_map.mpr ⟨_, hmem, rfl⟩)
  · obtain ⟨x, hx, heq⟩ := List.any_eq_true.mp hheld
    simp only [Bool.and_eq_true, beq_iff_eq] at heq
    exact List.mem_append_left _ (List.mem_map.mpr ⟨x, hx, heq.2⟩)

/-- A core that owns a slot of a revolution owns it in every revolution (05 R92). -/
theorem State.ownsHbm_mod (s : State) (ch : Nat) (write : Bool) {k j : Nat} (h : j % 512 = k % 512) :
    s.ownsHbm ch write j = s.ownsHbm ch write k := by
  rw [State.ownsHbm, State.ownsHbm, h]

theorem State.ownsHbm_any {s : State} {ch : Nat} {write : Bool} :
    (List.range 512).any (s.ownsHbm ch write) = true ↔ ∃ k, s.ownsHbm ch write k = true := by
  rw [List.any_eq_true]
  refine ⟨fun ⟨k, _, hk⟩ => ⟨k, hk⟩, fun ⟨k, hk⟩ => ⟨k % 512, List.mem_range.mpr (Nat.mod_lt k (by decide)), ?_⟩⟩
  rw [s.ownsHbm_mod ch write (Nat.mod_mod k 512), hk]

/-- Some slot that the core owns and that nothing holds starts within the revolutions that the search covers. -/
theorem State.free_slot {s : State} {ch k : Nat} {write : Bool} (hk : s.ownsHbm ch write k = true) (b : Nat) :
    ∃ i, i < 512 * (s.core.slotsHeld.length + s.core.usedSlots.length + 2)
      ∧ (s.ownsHbm ch write ((9 * b + 9 * i) / 9) && !s.core.slotHeld ch (9 * b + 9 * i)) = true := by
  have hinj : Function.Injective fun j => 9 * b + 9 * ((k + 512 * b - b) % 512 + 512 * j) := fun i j h => by
    dsimp only at h
    omega
  obtain ⟨j, hj, hfree⟩ := exists_image_not_mem hinj s.core.takenStarts
  have hlen : s.core.takenStarts.length = s.core.slotsHeld.length + s.core.usedSlots.length := by simp [Core.takenStarts]
  refine ⟨(k + 512 * b - b) % 512 + 512 * j, by omega, ?_⟩
  rw [s.ownsHbm_mod ch write (k := k) (by omega), hk, Bool.true_and, Bool.not_eq_true']
  exact Bool.eq_false_iff.mpr fun h => hfree (Core.slotHeld_mem h)

/-! ## The choice -/

section
variable {s : State} {ch : Nat} {write : Bool} {lo ent : Nat}

theorem State.chooseSlot_best (h : (∀ k, s.ownsHbm ch write k = false) ∨ BitVec.ofNat 10 ent ∈ s.dev.followExt) :
    (s.chooseSlot ch write (some ent) lo).2 = true := by
  have hno : ((List.range 512).any (s.ownsHbm ch write) && !((some ent).any fun e => s.dev.followExt.contains (BitVec.ofNat 10 e))) = false := by
    rw [Bool.and_eq_false_iff]
    refine h.imp (fun h => Bool.eq_false_iff.mpr fun hany => ?_) fun h => ?_
    · obtain ⟨k, hk⟩ := State.ownsHbm_any.mp hany
      exact Bool.noConfusion ((h k).symm.trans hk)
    · simpa using h
  simp only [State.chooseSlot, hno, Bool.false_eq_true, if_false]

/-- A core that owns slots of the channel has the first of them that nothing holds (07 R131). -/
theorem State.chooseSlot_owned (hown : ∃ k, s.ownsHbm ch write k = true) (hfollow : BitVec.ofNat 10 ent ∉ s.dev.followExt) :
    let r := s.chooseSlot ch write (some ent) lo
    r.2 = false ∧ r.1 % 9 = 0 ∧ s.ownsHbm ch write (r.1 / 9) = true ∧ s.core.slotHeld ch r.1 = false
      ∧ ∀ t, lo ≤ t → t % 9 = 0 → s.ownsHbm ch write (t / 9) = true → s.core.slotHeld ch t = false → r.1 ≤ t := by
  obtain ⟨k, hk⟩ := hown
  have hyes : ((List.range 512).any (s.ownsHbm ch write) && !((some ent).any fun e => s.dev.followExt.contains (BitVec.ofNat 10 e))) = true := by
    rw [State.ownsHbm_any.mpr ⟨k, hk⟩]
    simpa using hfollow
  have hslot : Config.slotCycles = 9 := rfl
  obtain ⟨i, hi, hfree⟩ := State.free_slot hk ((lo + 9 - 1) / 9)
  rw [Nat.mul_comm 9 ((lo + 9 - 1) / 9)] at hfree
  obtain ⟨t, ht, hp, hmin⟩ := firstSlot_spec (p := fun t => s.ownsHbm ch write (t / 9) && !s.core.slotHeld ch t) ⟨i, hi, hfree⟩
  have hmod := (firstSlot_ge ht).2
  have hr : s.chooseSlot ch write (some ent) lo = (t, false) := by
    simp only [State.chooseSlot, hyes, if_true, hslot, ht, Option.getD_some]
  rw [Bool.and_eq_true, Bool.not_eq_true'] at hp
  rw [hr]
  refine ⟨rfl, by omega, hp.1, hp.2, fun u hu hm ho hh => hmin u (by omega) (by omega) ?_⟩
  rw [ho, hh]
  rfl

end

end Sys2Proof.Machine
end

section
/-! SUPPORT. The queues that effects enter, and O43 (07 R130, R138, 09 R158, R166, R167, 10 R183, 17 R318, R319, 20 R366). -/

namespace Sys2Proof.Machine

/-! ## What no effect changes -/

theorem State.enterHbmAtom_engines (s : State) (q : Nat) (e : Eff) (pa : Nat) : (s.enterHbmAtom q e pa).core.mx = s.core.mx
    ∧ (s.enterHbmAtom q e pa).core.sp = s.core.sp ∧ (s.enterHbmAtom q e pa).core.land = s.core.land
    ∧ (s.enterHbmAtom q e pa).core.loads = s.core.loads := by
  dsimp only [State.enterHbmAtom]
  generalize s.chooseSlot _ _ _ _ = slot
  exact ⟨rfl, rfl, rfl, rfl⟩

/-- The engines, the results in flight and the load queue stay as they are when an effect is taken. -/
theorem State.applyEff_engines (s : State) (q : Nat) (e : Eff) : (s.applyEff q e).core.mx = s.core.mx ∧ (s.applyEff q e).core.sp = s.core.sp
    ∧ (s.applyEff q e).core.land = s.core.land ∧ (s.applyEff q e).core.loads = s.core.loads := by
  cases e with
  | send cap line data => simp [State.applyEff, State.enterSend]
  | felt pk qat ent => simp [State.applyEff, State.enterFelt]
  | atmRemote op i64 cap off x cmp => simp [State.applyEff, State.enterRemoteAtom]
  | atmHbm op i64 pa ent x cmp => simp [State.applyEff, State.enterHbmAtom_engines]
  | atmPoison i64 pa info => simp [State.applyEff, State.enterHbmAtom_engines]
  | xwr port ln stamp =>
    dsimp only [State.applyEff]
    split <;> exact ⟨rfl, rfl, rfl, rfl⟩
  | _ => exact ⟨rfl, rfl, rfl, rfl⟩

theorem State.applyEff_keeps (s : State) (q : Nat) (e : Eff) : KeepsRegisters s (s.applyEff q e) ∧ KeepsMemory s (s.applyEff q e)
    ∧ KeepsEngines s (s.applyEff q e) ∧ (s.applyEff q e).core.land = s.core.land ∧ (s.applyEff q e).core.loads = s.core.loads := by
  obtain ⟨hregs, hmem, _⟩ := State.settled_eq_iff.mp (s.applyEff_settled q e)
  obtain ⟨hmx, hsp, hland, hloads⟩ := s.applyEff_engines q e
  refine ⟨hregs, hmem, ?_, hland, hloads⟩
  rw [KeepsEngines, hmx, hsp]
  exact ⟨rfl, rfl, rfl, rfl, rfl, rfl⟩

/-! ## Flits -/

theorem bitVec3_toNat_eq_two {x : BitVec 3} : x.toNat = 2 ↔ x = 2 := by
  revert x
  decide

theorem sendFlits_spec (c : Core) (cap : BitVec 64) (line : Bool) (data : Line) :
    (sendFlits c cap line data).length = (if line then 2 else 1)
    ∧ (∀ f ∈ sendFlits c cap line data, f.src = c.pos
      ∧ f.dst = if bitsAt cap 60 3 = 2 then 64 else BitVec.ofNat 7 (bitsAt cap 22 6).toNat)
    ∧ ∀ i, i < (sendFlits c cap line data).length → (sendFlits c cap line data)[i]?.map (·.data) = some (elem data 512 i) := by
  cases line
  · refine ⟨rfl, fun f hf => ?_, fun i hi => ?_⟩
    · cases List.mem_singleton.mp hf
      exact ⟨rfl, if_congr bitVec3_toNat_eq_two rfl rfl⟩
    · cases Nat.lt_one_iff.mp hi
      rfl
  · refine ⟨rfl, fun f hf => ?_, fun i hi => ?_⟩
    · rcases List.mem_cons.mp hf with rfl | hf
      · exact ⟨rfl, if_congr bitVec3_toNat_eq_two rfl rfl⟩
      · cases List.mem_singleton.mp hf
        exact ⟨rfl, if_congr bitVec3_toNat_eq_two rfl rfl⟩
    · match i, hi with
      | 0, _ => rfl
      | 1, _ => exact congrArg (fun k => some (elem data 512 k)) (show b2n true = 1 from rfl)

/-- A SEND queues the flits of its bytes (10 R183). -/
theorem State.enterSend_queues (s : State) (cap : BitVec 8) (line : Bool) (data : Line) : let c := s.core
    ∃ new : List SendItem, (s.enterSend cap line data).core.sendQ = c.sendQ ++ new ∧ new.length = (if line then 2 else 1)
      ∧ (∀ f ∈ new, f.cap = cap ∧ f.beat = none ∧ f.first = false ∧ f.fl.src = c.pos ∧ s.web + 2 ≤ f.ready
        ∧ f.fl.dst = if bitsAt (Tab.get 0 c.caps cap.toNat) 60 3 = 2 then 64 else BitVec.ofNat 7 (bitsAt (Tab.get 0 c.caps cap.toNat) 22 6).toNat)
      ∧ ∀ i, i < new.length → (new[i]?.map fun f => f.fl.data) = some (elem data 512 i) := by
  intro c
  obtain ⟨fr, hcross⟩ := s.cross_eq s.web
  obtain ⟨hlen, hall, hdata⟩ := sendFlits_spec c (Tab.get 0 c.caps cap.toNat) line data
  simp only [State.enterSend, hcross]
  refine ⟨_, rfl, by rw [List.length_map, hlen], fun f hf => ?_, fun i hi => ?_⟩
  · obtain ⟨fl, hfl, rfl⟩ := List.mem_map.mp hf
    obtain ⟨hsrc, hdst⟩ := hall fl hfl
    exact ⟨rfl, rfl, rfl, hsrc, Nat.add_le_add_right (s.cross_bound s.web).1 2, hdst⟩
  · rw [List.length_map] at hi
    rw [List.getElem?_map, Option.map_map]
    exact hdata i hi

/-! ## Packets and atomics -/

theorem State.enterFelt_queues (s : State) (pk : FeltPacket) (qat : Bool) (ent : BitVec 10) (q : Nat) :
    let t := s.enterFelt pk qat ent q
    ∃ f : FeltItem, t.core.feltQ = s.core.feltQ ++ [f] ∧ f.pk = pk ∧ f.qat = qat ∧ f.seq = q ∧ s.web ≤ f.entry ∧ f.beat = none
      ∧ f.ent = some ent.toNat ∧ t.core.awaiting = s.core.awaiting ++ (if qat then [{ seq := q, src := .felt, due := none }] else []) := by
  intro t
  obtain ⟨fr, hcross⟩ := s.cross_eq s.web
  simp only [t, State.enterFelt, hcross]
  exact ⟨_, rfl, rfl, rfl, rfl, (s.cross_bound s.web).1, rfl, rfl, trivial⟩

/-- A fenced phase begins when its banks are free of either kind, after the queued stores and loads, and bounds the later ones (17 R318, R319). -/
theorem Core.fencedPhase_spec (c : Core) (gs : List Nat) : let ph := c.fencedPhase gs
    c.cyc + 4 ≤ ph.1 ∧ c.lastW < ph.1 ∧ c.lastE < ph.1 + ph.2.1 - 1
      ∧ (∀ x ∈ gs, (c.ldFree[x % 32]?).getD 0 ≤ ph.1 ∧ (c.stFree[x % 32]?).getD 0 ≤ ph.1)
      ∧ ph.1 + ph.2.1 - 1 < ph.2.2.minB0 ∧ ph.1 + ph.2.1 - 1 < ph.2.2.minW := by
  intro ph
  generalize hlo : Nat.max (c.cyc + 4) (Nat.max (Nat.max c.minB0 (c.minW + 1 - demand gs)) (Nat.max (c.lastW + 1) (c.lastE + 2 - demand gs))) = lo
  have hb0 : ph.1 = Nat.max (phaseStart c.ldFree gs lo) (phaseStart c.stFree gs lo) := hlo ▸ rfl
  have hd : ph.2.1 = demand gs := rfl
  have hge : lo ≤ ph.1 := hb0 ▸ Nat.le_trans (le_phaseStart c.ldFree gs lo) (Nat.le_max_left _ _)
  rw [← hlo] at hge
  obtain ⟨hcyc, hrest⟩ := Nat.max_le.mp hge
  obtain ⟨hw, he⟩ := Nat.max_le.mp (Nat.max_le.mp hrest).2
  refine ⟨hcyc, hw, by omega, fun x hx => ⟨?_, ?_⟩, Nat.le_max_right _ _, Nat.le_max_right _ _⟩
  · exact hb0 ▸ Nat.le_trans (free_le_phaseStart lo hx) (Nat.le_max_left _ _)
  · exact hb0 ▸ Nat.le_trans (free_le_phaseStart lo hx) (Nat.le_max_right _ _)

/-- An atomic on HBM holds its slot, or asks for one of best effort (17 R318). -/
theorem State.applyEff_atmHbm (s : State) (q : Nat) (op : BitVec 3) (i64 : Bool) (pa : Nat) (ent : BitVec 10) (x y : Word) :
    let c := s.core
    let e := Eff.atmHbm op i64 pa ent x y
    let t := s.applyEff q e
    ∃ h : SlotHold, t.core.slotsHeld = c.slotsHeld ++ [h] ∧ h.channel = pa / Config.channelBytes ∧ h.write = true
      ∧ h.grp = none ∧ h.atm = some e ∧ h.seq = q ∧ s.web + 8 ≤ h.start
      ∧ (let mine := fun (k : Nat) => s.ownsHbm h.channel true k
         ((∃ k, mine k = true) → ent ∉ s.dev.followExt → h.best = false ∧ h.start % Config.slotCycles = 0
            ∧ mine (h.start / Config.slotCycles) = true ∧ c.slotHeld h.channel h.start = false
            ∧ ∀ t, s.web + 8 ≤ t → t % Config.slotCycles = 0 → mine (t / Config.slotCycles) = true → c.slotHeld h.channel t = false → h.start ≤ t)
         ∧ ((∀ k, mine k = false) ∨ ent ∈ s.dev.followExt → h.best = true))
      ∧ t.core.awaiting = c.awaiting ++ [{ seq := q, src := .hbm, due := none }] := by
  intro c e t
  have hent : BitVec.ofNat 10 ent.toNat = ent := by rw [BitVec.ofNat_toNat, BitVec.setWidth_eq]
  have hge := s.chooseSlot_ge (pa / Config.channelBytes) true (some ent.toNat) (s.web + 8)
  have howned := State.chooseSlot_owned (s := s) (ch := pa / Config.channelBytes) (write := true) (lo := s.web + 8) (ent := ent.toNat)
  have hbest := State.chooseSlot_best (s := s) (ch := pa / Config.channelBytes) (write := true) (lo := s.web + 8) (ent := ent.toNat)
  rw [hent] at howned hbest
  dsimp only [t, e, State.applyEff, State.enterHbmAtom, effEnts, List.head?]
  generalize s.chooseSlot _ _ _ _ = slot at hge howned hbest
  exact ⟨_, rfl, rfl, rfl, rfl, rfl, rfl, hge, ⟨howned, hbest⟩, rfl⟩

theorem State.enterRemoteAtom_queues (s : State) (q : Nat) (op : BitVec 3) (i64 : Bool) (cap : BitVec 8) (off : Nat) (x y : Word) :
    let t := s.enterRemoteAtom q op i64 cap off x y
    ∃ f : SendItem, t.core.sendQ = s.core.sendQ ++ [f] ∧ f.fl.body = .atm op i64 off x y ∧ f.cap = cap
      ∧ f.fl.dst = BitVec.ofNat 7 (bitsAt (Tab.get 0 s.core.caps cap.toNat) 22 6).toNat ∧ s.web + 2 ≤ f.ready
      ∧ t.core.awaiting = s.core.awaiting ++ [{ seq := q, src := .core f.fl.dst, due := none }] := by
  intro t
  obtain ⟨fr, hcross⟩ := s.cross_eq s.web
  simp only [t, State.enterRemoteAtom, hcross]
  exact ⟨_, rfl, rfl, rfl, rfl, Nat.add_le_add_right (s.cross_bound s.web).1 2, rfl⟩

/-! ## Ports -/

/-- A line written to a port leaves, or goes round to another end of the core (20 R365, R366). -/
theorem State.applyEff_xwr (s : State) (q : Nat) (p : BitVec 2) (ln : Line) (stamp : BitVec 64) : let c := s.core
    let t := s.applyEff q (.xwr p ln stamp)
    t.core.xp = c.xp.set p.toNat { c.xp[p.toNat] with
      written := (c.xp[p.toNat]).written + 1, enters := ((c.xp[p.toNat]).enters.filter fun t => decide (c.cyc < t)) ++ [c.cyc + 2] }
    ∧ (t.dev.sent = .line p ln stamp :: s.dev.sent ∧ t.core.xline = c.xline
      ∨ t.dev = s.dev ∧ ∃ r : BitVec 2, t.core.xline = c.xline ++ [(c.cyc + 2, r, ln, stamp)]) := by
  intro c t
  simp only [t, State.applyEff]
  split
  · exact ⟨rfl, .inr ⟨rfl, _, rfl⟩⟩
  · exact ⟨rfl, .inl ⟨rfl, rfl⟩⟩

/-- Settles O43: effect by effect, what its queue holds after it is taken. -/
theorem effectsEnterTheirQueues : Obligations.EffectsEnterTheirQueues := by
  intro s q c
  refine ⟨s.applyEff_keeps q, fun desc wm word half => ⟨⟨_, rfl, rfl, rfl, rfl, rfl, rfl, rfl, rfl, rfl⟩, ⟨_, rfl, rfl, rfl, rfl, rfl, rfl, rfl, rfl⟩⟩,
    fun off tgt => ⟨_, rfl, rfl, rfl, rfl⟩, s.enterSend_queues, fun pk qat ent => s.enterFelt_queues pk qat ent q,
    fun op i64 off x y => rfl, fun off x => rfl, c.fencedPhase_spec, s.applyEff_atmHbm q, s.enterRemoteAtom_queues q,
    fun i64 i => ⟨rfl, rfl, _, Nat.le_add_right _ _, rfl⟩, fun cell n dest ream word => ⟨_, rfl, rfl, rfl, rfl, rfl, rfl⟩,
    fun cell t r word => ⟨_, rfl, rfl, rfl, rfl, rfl, ?_⟩, s.applyEff_xwr q⟩
  refine List.map_congr_left fun j _ => ?_
  simp only [c, Matrix.el, Exa.zero, Nat.add_assoc]

end Sys2Proof.Machine
end

section
/-! SUPPORT. The instructions of the control slot that make the next bundle wait (07 R139, 08 R151, R152, 17 R310, 20 R363). -/

namespace Sys2Proof.Machine

section
variable {g : BitVec 4} {s : State} (hg : s.guardOn g = true)
include hg

theorem exec_waitc (b : BitVec 1) (n : BitVec 9) : exec (.waitc g b n) s = .next (s.await (.waitc (b == 1) n)) := by
  have hexec : exec (.waitc g b n) s = execWaitc g b n s := rfl
  rw [hexec, execWaitc, guarded_of_true hg]

theorem exec_ifence (p : BitVec 3) : exec (.ifence g p) s
    = .next { s with core := { s.core with wait := .ifence p, undo := s.core.undo + (if p = 0 then 0 else 1) } } := by
  have hexec : exec (.ifence g p) s = execIfence g p s := rfl
  have hcount : b2n (p != 0) = if p = 0 then 0 else 1 := by by_cases hp : p = 0 <;> simp [b2n, hp]
  rw [hexec, execIfence, guarded_of_true hg, hcount]

theorem exec_wsamp_waits (h : s.region.smpc = s.core.lw.toNat) : exec (.wsamp g) s
    = .next { s with core := { s.core with wait := .wsamp, lw := BitVec.ofNat 64 (s.region.smpc + 1) } } := by
  have hexec : exec (.wsamp g) s = execWsamp g s := rfl
  rw [hexec, execWsamp, guarded_of_true hg]
  exact if_pos h

/-- A sample that has passed counts the samples missed, and nothing waits (20 R363). -/
theorem exec_wsamp_late (h : s.region.smpc ≠ s.core.lw.toNat) : exec (.wsamp g) s = .next { s with
    core := { s.core with lw := BitVec.ofNat 64 s.region.smpc }
    region := s.region.count s.moment 0 0 0 (s.region.smpc - s.core.lw.toNat) } := by
  have hexec : exec (.wsamp g) s = execWsamp g s := rfl
  rw [hexec, execWsamp, guarded_of_true hg]
  exact if_neg h

theorem exec_bswap_inLoop (im : BitVec 10) (h : s.core.seq.loops ≠ []) :
    exec (.bswap g im) s = .next (s.takePrecise (.plain .illegalOperation 0)) := by
  have hexec : exec (.bswap g im) s = execBswap g im s := rfl
  rw [hexec, execBswap, guarded_of_true hg]
  exact if_pos (by simpa using h)

theorem exec_bswap (im : BitVec 10) (h : s.core.seq.loops = []) : exec (.bswap g im) s = .next (s.await (.bswap im)) := by
  have hexec : exec (.bswap g im) s = execBswap g im s := rfl
  rw [hexec, execBswap, guarded_of_true hg]
  exact if_neg (by simp [h])

/-! ## WMW -/

variable {n : BitVec 5} {e : BitVec 9}

theorem exec_wmw_misaligned (h : (s.core.r.readA n).toNat % 16 ≠ 0) : exec (.wmw g n e) s
    = .next (s.takePrecise (accessFault .misalignment 0 .read 0 (s.core.r.readA n).toNat)) := by
  have hexec : exec (.wmw g n e) s = execWmw g n e s := rfl
  rw [hexec, execWmw, guarded_of_true hg]
  exact if_pos h

variable (ha : (s.core.r.readA n).toNat % 16 = 0)
include ha

theorem exec_wmw_outOfTable (h : s.core.wordPlace (s.core.r.readA n).toNat = none) : exec (.wmw g n e) s
    = .next (s.takePrecise (accessFault .outOfTable 0 .read 0 (s.core.r.readA n).toNat)) := by
  have hexec : exec (.wmw g n e) s = execWmw g n e s := rfl
  simp only [hexec, execWmw, guarded_of_true hg, ha, h, ne_eq, not_true_eq_false, if_false]

/-- What WMW does with a word: a reload of its mirror holds it with a slip, and one reached and not poisoned lets go (07 R139, 09 R170). -/
theorem exec_wmw_word {q : Bool} {off : Nat} (h : s.core.wordPlace (s.core.r.readA n).toNat = some (q, off)) : exec (.wmw g n e) s
    = if q && s.reloads then .next (State.slips (s.await (.wmw q off e none)) 1)
      else if genReached (s.wordGen q off) e && !s.core.poison.contains (poisonGran q off) then .next s
      else .next (s.await (.wmw q off e none)) := by
  have hexec : exec (.wmw g n e) s = execWmw g n e s := rfl
  simp only [hexec, execWmw, guarded_of_true hg, ha, h, ne_eq, not_true_eq_false, if_false]

/-- The same, by the word's generation and its granule. -/
theorem exec_wmw_spec {q : Bool} {off : Nat} (h : s.core.wordPlace (s.core.r.readA n).toNat = some (q, off)) :
    let c := s.core
    let gen := Memory.readNat (if q then s.mirror else c.scratch) (off + 8) 4 % 512
    let reached := (gen + 512 - e.toNat) % 512 < 256
    let reloads := q = true ∧ s.reloads = true
    let poisoned := off / 32 + (if q then 2 ^ 20 else 0) ∈ c.poison
    (reloads → exec (.wmw g n e) s = .next { s with core := { c with
        wait := .wmw q off e none, slip := BitVec.ofNat 32 (min (c.slip.toNat + 1) 0xFFFFFFFF) } })
    ∧ (¬reloads → reached → ¬poisoned → exec (.wmw g n e) s = .next s)
    ∧ (¬reloads → ¬reached ∨ poisoned → exec (.wmw g n e) s = .next { s with core := { c with wait := .wmw q off e none } }) := by
  intro c gen reached reloads poisoned
  have hreloads : (q && s.reloads) = true ↔ reloads := by rw [Bool.and_eq_true]
  have hgoes : (genReached (s.wordGen q off) e && !s.core.poison.contains (poisonGran q off)) = true ↔ reached ∧ ¬poisoned := by
    rw [Bool.and_eq_true, Bool.not_eq_true', genReached, decide_eq_true_eq, ← Bool.not_eq_true, List.contains_iff_mem]
    rfl
  rw [exec_wmw_word hg ha h]
  refine ⟨fun hr => if_pos (hreloads.mpr hr), fun hr hreached hclean => ?_, fun hr hstays => ?_⟩
  · rw [if_neg (mt hreloads.mp hr), if_pos (hgoes.mpr ⟨hreached, hclean⟩)]
  · have hno : ¬(reached ∧ ¬poisoned) := fun ⟨h1, h2⟩ => hstays.elim (fun h => h h1) h2
    rw [if_neg (mt hreloads.mp hr), if_neg (mt hgoes.mp hno)]
    rfl

end

end Sys2Proof.Machine
end

section
/-! SUPPORT. The ends of waits and holds, issue while a wait lasts, and O48 (07 R139, 08 R151, R152, 17 R310, 19 R350, 20 R363). -/

namespace Sys2Proof.Machine

/-! ## WMW, WAITC, WSAMP -/

section
variable {s : State}

theorem exec_wmwResume {q : Bool} {off n : Nat} {e : BitVec 9} (hw : s.core.wait = .wmw q off e (some n)) : exec .wmwResume s
    = if n + 3 ≤ s.core.cyc ∧ !(q && s.reloads) then .next s.endWait else .fault .notDue := by
  have hexec : exec .wmwResume s = execWmwResume s := rfl
  rw [hexec, execWmwResume, hw]

theorem exec_waitcResume {b : Bool} {n : BitVec 9} (hw : s.core.wait = .waitc b n) : exec .waitcResume s
    = if (if b then s.core.scnt else s.core.lcnt) ≤ n.toNat then .next s.endWait else .fault .notDue := by
  have hexec : exec .waitcResume s = execWaitcResume s := rfl
  rw [hexec, execWaitcResume, hw]

theorem exec_wsampResume (hw : s.core.wait = .wsamp) : exec .wsampResume s
    = if s.core.lw.toNat ≤ s.region.smpc then .next { s with core := { s.core with wait := .none, psCount := 0 } } else .fault .notDue := by
  have hexec : exec .wsampResume s = execWsampResume s := rfl
  rw [hexec, execWsampResume, hw]

end

/-! ## IFENCE and BSWAP -/

/-- Every overlay has finished by a cycle: none is under way, and the last finish is not later (08 R151). -/
theorem Core.overlaysDone_iff {c : Core} {t : Nat} : c.overlaysDone t = true ↔ (∀ k ∈ c.cmds, k.ovl = false) ∧ c.ovlEnd ≤ t := by
  simp [Core.overlaysDone]

/-- The result of an IFENCE lands in the present cycle, and nothing else changes for the bundles to come (08 R151). -/
theorem State.fenceResult_spec (s : State) (p : BitVec 3) : let c := s.core
    let t := s.fenceResult p
    t.core.ovs = c.ovs ∧ t.core.seq = c.seq ∧ t.core.lat = c.lat ∧ t.core.r = c.r ∧ (p = 0 → t.core.land = c.land)
    ∧ (p ≠ 0 → ∃ l : Landing, t.core.land = insertBy Landing.le l c.land ∧ l.due = c.cyc ∧ l.file = some .p ∧ l.dst = BitVec.ofNat 10 p.toNat
      ∧ l.latch = .none ∧ l.sel = BitVec.allOnes 1024 ∧ l.flg = 0 ∧ l.val = if c.ovs.st = 2 ∧ c.ovs.fs = false then 1 else 0) := by
  intro c t
  by_cases hp : p = 0
  · have ht : t = s := if_pos hp
    rw [ht]
    exact ⟨rfl, rfl, rfl, rfl, fun _ => rfl, fun h => absurd hp h⟩
  · simp only [t, State.fenceResult, if_neg hp]
    refine ⟨rfl, rfl, rfl, rfl, fun h => absurd h hp, fun _ => ⟨_, rfl, rfl, rfl, rfl, rfl, rfl, rfl, ?_⟩⟩
    have hok : c.fenceOk = true ↔ c.ovs.st = 2 ∧ c.ovs.fs = false := by simp [Core.fenceOk]
    show BitVec.ofNat 1024 (b2n c.fenceOk) = _
    rw [← if_congr hok rfl rfl]
    cases c.fenceOk <;> rfl

section
variable {s : State} {p : BitVec 3}

theorem exec_ifenceResume_early (hw : s.core.wait = .ifence p) (h : s.core.overlaysDone s.core.cyc = false) :
    exec .ifenceResume s = .fault .notDue := by
  have hexec : exec .ifenceResume s = execIfenceResume s := rfl
  simp [hexec, execIfenceResume, hw, h]

/-- The predicate of IFENCE lands at the last finish; the wait ends with it when that is past (08 R151). -/
theorem exec_ifenceResume (hw : s.core.wait = .ifence p) (h : s.core.overlaysDone s.core.cyc = true) : exec .ifenceResume s
    = .next (if s.core.overlaysDone (s.core.cyc - 1) then (s.fenceResult p).fenceOver else (s.fenceResult p).await (.fenced p)) := by
  have hexec : exec .ifenceResume s = execIfenceResume s := rfl
  by_cases hpast : s.core.overlaysDone (s.core.cyc - 1) = true <;> simp [hexec, execIfenceResume, hw, h, hpast]

theorem exec_ifenceResume_fenced (hw : s.core.wait = .fenced p) : exec .ifenceResume s
    = .next (if s.core.overlaysDone (s.core.cyc - 1) = true then s.fenceOver else s.await (.ifence p)) := by
  have hexec : exec .ifenceResume s = execIfenceResume s := rfl
  rw [hexec, execIfenceResume, hw]

theorem exec_ifenceResume_swap {im : BitVec 10} (hw : s.core.wait = .bswap im) (h : s.core.overlaysDone s.core.cyc = true) :
    exec .ifenceResume s = .next { s with core := s.core.swapTo im } := by
  have hexec : exec .ifenceResume s = execIfenceResume s := rfl
  simp [hexec, execIfenceResume, hw, h]

/-- The end of IFENCE's wait, part by part. -/
theorem exec_ifenceResume_spec (hw : s.core.wait = .ifence p) (h : s.core.overlaysDone s.core.cyc = true) : let c := s.core
    ∃ t, exec .ifenceResume s = .next t
      ∧ (c.overlaysDone (c.cyc - 1) = true → t.core.wait = .none ∧ t.core.ovs = { c.ovs with fs := false })
      ∧ (c.overlaysDone (c.cyc - 1) = false → t.core.wait = .fenced p ∧ t.core.ovs = c.ovs)
      ∧ t.core.seq = c.seq ∧ t.core.lat = c.lat ∧ t.core.r = c.r
      ∧ (p = 0 → t.core.land = c.land)
      ∧ (p ≠ 0 → ∃ l : Landing, t.core.land = insertBy Landing.le l c.land ∧ l.due = c.cyc ∧ l.file = some .p ∧ l.dst = BitVec.ofNat 10 p.toNat
        ∧ l.latch = .none ∧ l.sel = BitVec.allOnes 1024 ∧ l.flg = 0 ∧ l.val = if c.ovs.st = 2 ∧ c.ovs.fs = false then 1 else 0) := by
  intro c
  obtain ⟨hovs, hrest⟩ := s.fenceResult_spec p
  rw [exec_ifenceResume hw h]
  refine ⟨_, rfl, ?_⟩
  split
  · next hpast =>
    exact ⟨fun _ => ⟨rfl, congrArg (fun o : Ovs => { o with fs := false }) hovs⟩, fun hnot => absurd (hpast.symm.trans hnot) (by decide), hrest⟩
  · next hpast => exact ⟨fun hyes => absurd hyes hpast, fun _ => ⟨rfl, hovs⟩, hrest⟩

end

/-! ## Holds -/

theorem State.endHold_of {s : State} {b : Bool} (h : b = true) : s.endHold b = .next { s with core := { s.core with held := .none } } :=
  if_pos h

/-- The event that ends a hold lets the bundle at the PC issue (19 R350). -/
theorem exec_resume {s : State} {ev : Instr} {h : Held} (hev : (ev, h) ∈ [(Instr.queueHeadResume, Held.queueHead), (.busyBitResume, .busyBit),
    (.queueCapResume, .queueCap), (.queueCapResume, .mirrorReload), (.bankExtensionResume, .bankExtension)]) (hh : s.core.held = h) :
    exec ev s = .next { s with core := { s.core with held := .none } } := by
  simp only [List.mem_cons, Prod.mk.injEq, List.not_mem_nil, or_false] at hev
  rcases hev with ⟨rfl, rfl⟩ | ⟨rfl, rfl⟩ | ⟨rfl, rfl⟩ | ⟨rfl, rfl⟩ | ⟨rfl, rfl⟩ <;> exact State.endHold_of (by rw [hh]; rfl)

theorem exec_gateEntryRelease {s : State} {e : GateEntry} {t : List GateEntry} (hgate : s.core.gate = e :: t) (hc : e.committed = true)
    (hroom : s.core.room e.eff = true) :
    exec .gateEntryRelease s = .next (State.applyEff { s with core := { s.core with gate := t } } e.seq e.eff) := by
  have hexec : exec .gateEntryRelease s = execGateEntryRelease s := rfl
  simp [hexec, execGateEntryRelease, hgate, hc, hroom]

/-! ## Issue while a wait lasts -/

section
variable {s : State} (hrun : s.core.run = .running) (hdead : s.core.dead = 0)
include hrun hdead

/-- A wait that has no end in this cycle lets no bundle issue; the watchdog is off. -/
theorem issueStage_waits (hpreb : s.core.r.preb = 0) (hword : s.core.wordPoisoned = none) (hwait : s.waitEnd = some none) :
    issueStage s = .next s := by
  have hlive : ¬0 < s.core.dead := by omega
  simp only [issueStage, hrun, hlive, hword, hwait, hpreb, ne_eq, not_true_eq_false, false_and, if_false]

/-- A word in a poisoned granule has its fault when the next bundle is due (21 R382). -/
theorem issueStage_poisoned {off : Nat} (hword : s.core.wordPoisoned = some off) : issueStage s = .next (s.slot0Poison off) := by
  have hlive : ¬0 < s.core.dead := by omega
  simp only [issueStage, hrun, hlive, hword, if_false]

end

section
variable {s : State} {p : BitVec 3}

/-- A wait for a sample lasts until it has begun (20 R363). -/
theorem State.waitEnd_wsamp (hw : s.core.wait = .wsamp) (h : s.region.smpc < s.core.lw.toNat) : s.waitEnd = some none := by
  simp [State.waitEnd, hw, h]

theorem State.waitEnd_waitc {b : Bool} {n : BitVec 9} (hw : s.core.wait = .waitc b n) : s.waitEnd = some none := by
  rw [State.waitEnd, hw]

/-- A wait for overlays lasts until they have finished (08 R151). -/
theorem State.waitEnd_ifence (hw : s.core.wait = .ifence p) (h : s.core.overlaysDone s.core.cyc = false) : s.waitEnd = some none := by
  simp [State.waitEnd, hw, h]

theorem State.waitEnd_fenced (hw : s.core.wait = .fenced p) (h : s.core.overlaysDone (s.core.cyc - 1) = false) :
    s.waitEnd = some none := by
  simp [State.waitEnd, hw, h]

end

theorem Core.wordPoisoned_wmw {c : Core} {q : Bool} {off : Nat} {e : BitVec 9} {n : Option Nat} (hw : c.wait = .wmw q off e n)
    (h : off / 32 + (if q then 2 ^ 20 else 0) ∈ c.poison) : c.wordPoisoned = some off := by
  rw [Core.wordPoisoned, hw]
  exact if_pos (List.contains_iff_mem.mpr h)

/-- Settles O48: what each wait holds, the event that ends it, and issue while it lasts. -/
theorem waitsAndTheirEnds : Obligations.WaitsAndTheirEnds := by
  refine ⟨fun g s hg => ?_, fun r web k => ?_, fun s => ?_⟩
  · intro c await
    exact ⟨exec_waitc hg, exec_ifence hg, exec_wsamp_waits hg, exec_wsamp_late hg, fun im => ⟨exec_bswap_inLoop hg im, exec_bswap hg im⟩,
      fun n e => ⟨exec_wmw_misaligned hg, exec_wmw_outOfTable hg, fun quire off ha => exec_wmw_spec hg ha⟩⟩
  · obtain ⟨a, n, h⟩ := r.count_eq web 0 0 0 k
    rw [h]
    exact ⟨rfl, count16_zero _, count16_zero _, count16_zero _⟩
  · intro c go
    refine ⟨fun q off e n hw => ⟨fun h hr => ?_, fun h => ?_⟩, fun b n hw => ⟨fun h => ?_, fun h => ?_⟩, fun hw => ⟨fun h => ?_, fun h => ?_⟩,
      fun p => exec_ifenceResume_early, fun p => exec_ifenceResume_fenced, fun p => exec_ifenceResume_spec,
      fun im hw h => ⟨_, exec_ifenceResume_swap hw h, rfl, rfl, rfl, rfl, rfl⟩, fun t => Core.overlaysDone_iff, fun ev h => exec_resume,
      fun e t => exec_gateEntryRelease, fun hrun hdead hpreb => ⟨fun hw h => ?_, fun b n hw => ?_, fun q off e n hw h => ?_,
        fun p => ⟨fun hw h => ?_, fun hw h => ?_⟩⟩⟩
    · have hmirror : (q && s.reloads) = false := by cases q <;> simp_all
      rw [exec_wmwResume hw, if_pos ⟨h, by rw [hmirror]; rfl⟩]
      rfl
    · rw [exec_wmwResume hw, if_neg fun hn => Nat.not_le.mpr h hn.1]
    · rw [exec_waitcResume hw, if_pos h]
      rfl
    · rw [exec_waitcResume hw, if_neg (Nat.not_le.mpr h)]
    · rw [exec_wsampResume hw, if_pos h]
    · rw [exec_wsampResume hw, if_neg (Nat.not_le.mpr h)]
    · exact issueStage_waits hrun hdead hpreb (by rw [Core.wordPoisoned, hw]) (State.waitEnd_wsamp hw h)
    · exact issueStage_waits hrun hdead hpreb (by rw [Core.wordPoisoned, hw]) (State.waitEnd_waitc hw)
    · exact issueStage_poisoned hrun hdead (Core.wordPoisoned_wmw hw h)
    · exact issueStage_waits hrun hdead hpreb (by rw [Core.wordPoisoned, hw]) (State.waitEnd_ifence hw h)
    · exact issueStage_waits hrun hdead hpreb (by rw [Core.wordPoisoned, hw]) (State.waitEnd_fenced hw h)

end Sys2Proof.Machine
end

section
/-! SUPPORT. A remote atomic through a capability outside the partition while the send queue is full, which O42 says is performed (17 R318,
21 R377, R383). -/

namespace Sys2Proof.Machine

/-- ATM with `.rem` holds while the send queue has no room, before its capability is looked at (17 R318, 21 R377). -/
theorem exec_atm_remote_blocked {g : BitVec 4} {n m k : BitVec 5} {o : BitVec 3} {b : BitVec 1} {s : State} (hg : s.guardOn g = true)
    (ho : o.toNat ≤ 6) (hk : o = 6 ∨ k = 0) (hb : s.blocked (.atmRemote o (b == 1) 0 0 0 0) = true) :
    exec (.atm g n m k o b 1) s = .next (s.hold .queueCap) := by
  have hexec : exec (.atm g n m k o b 1) s = execAtm g n m k o b 1 s := rfl
  have hlegal : ¬(6 < o.toNat ∨ (o ≠ 6 ∧ k ≠ 0)) := by
    rintro (h | ⟨h6, h0⟩)
    · omega
    · exact hk.elim h6 h0
  simp only [hexec, execAtm, guarded_of_true hg, if_neg hlegal, if_true, hb]

/-- A flit of a SEND that waits for its slot. -/
def waitingFlit : SendItem :=
  { fl := { src := 0, dst := 1, body := .msg 0 false false none, data := 0 }, ready := 0, cap := 0, first := false, beat := none,
    delayed := false, displaced := false, kept := false }

/-- Sixteen flits wait in the send queue, and the one capability names a core of a quadrant that the partition does not have. -/
def fullAndOutside : State :=
  { State.reset with
    core := { Core.reset with sendQ := List.replicate 16 waitingFlit, caps := [(0, BitVec.ofNat 64 (2 ^ 63 + 2 ^ 59))] }
    dev := { Device.reset with rmap := [(0, BitVec.ofNat 64 (2 ^ 52))] } }

theorem fullAndOutside_capOutside : fullAndOutside.capOutside (Tab.get 0 fullAndOutside.core.caps 0) = true := by decide

theorem fullAndOutside_blocked : fullAndOutside.blocked (.atmRemote 0 false 0 0 0 0) = true := by decide

/-- Refutes O42: the refused atomic needs no room in the send queue, but issue asks for it all the same, and holds. -/
theorem not_portSlotEffects : ¬ Obligations.PortSlotEffects := by
  intro h
  obtain ⟨_, _, _, _, _, _, hatm, _⟩ := h 0 0 0 0 0 0 fullAndOutside (by decide)
  obtain ⟨_, _, _, _, hout⟩ := hatm 0 0 (by decide) (.inr rfl)
  obtain ⟨t, ht, hacts⟩ := hout (by decide) ⟨by decide, by decide, by decide, fullAndOutside_capOutside⟩
  rw [exec_atm_remote_blocked (by decide) (by decide) (.inr rfl) fullAndOutside_blocked] at ht
  have hheld : t.core.held = .queueCap := by
    cases ht
    rfl
  have hnow : fullAndOutside.core.mark.inForce = false := rfl
  rw [hnow] at hacts
  have hnone : t.core.held = .none := by
    rw [hacts]
    rfl
  exact Held.noConfusion (hheld.symm.trans hnone)

end Sys2Proof.Machine
end

section
/-! SUPPORT. Memories and the numbers in them, byte for byte: which bytes a number rests on, and when two memories are one (00 R3). -/

namespace Sys2Proof.Machine

/-! ## Tables -/

/-- Tables in canonical form that read alike are one table. -/
theorem Tab.ext_of_okAbove {α : Type} [DecidableEq α] {d : α} : ∀ {lo : Nat} {t u : Tab α}, Tab.okAbove d lo t = true →
    Tab.okAbove d lo u = true → (∀ n, Tab.get d t n = Tab.get d u n) → t = u
  | _, [], [], _, _, _ => rfl
  | _, [], (k, x) :: u, _, hu, h => by
    simp only [Tab.okAbove, Bool.and_eq_true, decide_eq_true_eq] at hu
    exact absurd (by simpa [Tab.get] using (h k).symm) hu.1.2
  | _, (k, x) :: t, [], ht, _, h => by
    simp only [Tab.okAbove, Bool.and_eq_true, decide_eq_true_eq] at ht
    exact absurd (by simpa [Tab.get] using h k) ht.1.2
  | lo, (k, x) :: t, (j, y) :: u, ht, hu, h => by
    simp only [Tab.okAbove, Bool.and_eq_true, decide_eq_true_eq] at ht hu
    obtain ⟨⟨_, hx⟩, ht⟩ := ht
    obtain ⟨⟨_, hy⟩, hu⟩ := hu
    have hkj : k = j := by
      rcases Nat.lt_trichotomy k j with hlt | heq | hgt
      · have hk := h k
        rw [Tab.get, if_pos rfl, Tab.get, if_neg (by omega), Tab.get_below hu (by omega)] at hk
        exact absurd hk hx
      · exact heq
      · have hj := h j
        rw [Tab.get, if_neg (by omega), Tab.get_below ht (by omega), Tab.get, if_pos rfl] at hj
        exact absurd hj.symm hy
    subst hkj
    have hxy : x = y := by simpa [Tab.get] using h k
    have htail : t = u := Tab.ext_of_okAbove ht hu fun n => by
      by_cases hn : k = n
      · rw [Tab.get_below ht (by omega), Tab.get_below hu (by omega)]
      · simpa [Tab.get, hn] using h n
    rw [hxy, htail]

theorem Memory.ext_of_wf {m m' : Memory} (h : m.wf = true) (h' : m'.wf = true) (hb : ∀ a, m.byte a = m'.byte a) : m = m' :=
  Tab.ext_of_okAbove h h' hb

/-! ## Numbers -/

theorem Memory.readNat_congr {m m' : Memory} {a n : Nat} (h : ∀ i, i < n → m.byte (a + i) = m'.byte (a + i)) :
    m.readNat a n = m'.readNat a n := by
  rw [Memory.readNat_eq_elemsNat, Memory.readNat_eq_elemsNat]
  exact elemsNat_congr fun i hi => by rw [h i hi]

theorem Memory.readNat_lt (m : Memory) (a n : Nat) : m.readNat a n < 2 ^ (8 * n) := by
  rw [Memory.readNat_eq_elemsNat]
  exact elemsNat_lt 8 _ n

/-- A number reads as before when another is written elsewhere. -/
theorem Memory.readNat_writeNat_apart {m : Memory} (h : m.wf = true) {a n x b k : Nat} (hd : b + k ≤ a ∨ a + n ≤ b) :
    (m.writeNat a n x).readNat b k = m.readNat b k :=
  Memory.readNat_congr fun i hi => Memory.byte_writeNat_out h (by omega)

/-- A byte of a number. -/
theorem Memory.byte_eq_readNat (m : Memory) (a : Nat) {i n : Nat} (hi : i < n) :
    m.byte (a + i) = BitVec.ofNat 8 (m.readNat a n / 256 ^ i) := by
  refine BitVec.eq_of_toNat_eq ?_
  rw [BitVec.toNat_ofNat, Memory.readNat_eq_elemsNat, show 256 ^ i = 2 ^ (8 * i) by rw [Nat.pow_mul], elemsNat_elem 8 _ hi,
    Nat.mod_eq_of_lt (BitVec.isLt _)]

/-- A range written over as it was makes the memory what it was. -/
theorem Memory.writeNat_restores {m m' : Memory} (h : m.wf = true) (h' : m'.wf = true) {a n : Nat}
    (hout : ∀ b, b < a ∨ a + n ≤ b → m'.byte b = m.byte b) : m'.writeNat a n (m.readNat a n) = m := by
  refine Memory.ext_of_wf (Memory.writeNat_wf n a _ h') h fun b => ?_
  by_cases hb : a ≤ b ∧ b < a + n
  · obtain ⟨i, rfl⟩ := Nat.exists_eq_add_of_le hb.1
    have hi : i < n := by omega
    rw [Memory.byte_writeNat_in h' a _ hi, m.byte_eq_readNat a hi]
  · have hb : b < a ∨ a + n ≤ b := by omega
    rw [Memory.byte_writeNat_out h' hb, hout b hb]

end Sys2Proof.Machine
end

section
/-! SUPPORT. A raise of a watermark word, and the raises of one cycle (07 R133, R134). -/

namespace Sys2Proof.Machine

/-! ## Flags -/

/-- Bit 0 of a number is set. -/
theorem testBit_set_zero (f i : Nat) : (if f % 2 = 0 then f + 1 else f).testBit i = (f.testBit i || i == 0) := by
  cases i with
  | zero => split <;> simp [Nat.testBit_zero] <;> omega
  | succ i =>
    have hhalf : (if f % 2 = 0 then f + 1 else f) / 2 = f / 2 := by split <;> omega
    rw [Nat.testBit_succ, hhalf, ← Nat.testBit_succ]
    simp

/-- Bit 1 of a number is set. -/
theorem testBit_set_one (f i : Nat) : (if f / 2 % 2 = 0 then f + 2 else f).testBit i = (f.testBit i || i == 1) := by
  cases i with
  | zero => split <;> simp [Nat.testBit_zero]
  | succ i =>
    have hhalf : (if f / 2 % 2 = 0 then f + 2 else f) / 2 = if f / 2 % 2 = 0 then f / 2 + 1 else f / 2 := by split <;> omega
    rw [Nat.testBit_succ, hhalf, testBit_set_zero, ← Nat.testBit_succ]
    simp

/-- FLG after a raise: OVF when the count has passed its 32 bits, and ZT for a target of zero (07 R133, R134). -/
def raisedFlags (flg : Nat) (ovf zt : Bool) : Nat :=
  let f := if ovf ∧ flg % 2 = 0 then flg + 1 else flg
  if zt then (if f / 2 % 2 = 0 then f + 2 else f) else f

theorem raisedFlags_testBit (flg : Nat) (ovf zt : Bool) (i : Nat) : (raisedFlags flg ovf zt).testBit i
    = (flg.testBit i || (i == 0 && ovf) || (i == 1 && zt)) := by
  cases ovf <;> cases zt <;> simp [raisedFlags, testBit_set_zero, testBit_set_one]

theorem raisedFlags_lt {flg : Nat} (h : flg < 2 ^ 32) (ovf zt : Bool) : raisedFlags flg ovf zt < 2 ^ 32 := by
  unfold raisedFlags
  dsimp only
  split_ifs <;> omega

/-! ## A raise -/

/-- A raise writes CNT and FLG of its word, and GEN but for a target of zero (07 R134). -/
theorem raiseWord_eq (m : Memory) (a b : Nat) : let tgt := Memory.readNat m a 4
    let total := Memory.readNat m (a + 4) 4 + b
    let cnt := if 2 ^ 32 ≤ total then 2 ^ 32 - 1 else total
    let flg := raisedFlags (Memory.readNat m (a + 12) 4) (decide (2 ^ 32 ≤ total)) (decide (tgt = 0))
    raiseWord m a b = if tgt = 0 then (m.writeNat (a + 4) 4 cnt).writeNat (a + 12) 4 flg
      else ((m.writeNat (a + 4) 4 (cnt % tgt)).writeNat (a + 8) 4 ((Memory.readNat m (a + 8) 4 + cnt / tgt) % 2 ^ 32)).writeNat (a + 12) 4 flg := by
  intro tgt total cnt flg
  have hovf : (2 ^ 32 - 1 < total) = (2 ^ 32 ≤ total) := by
    apply propext
    omega
  have hcnt : (if decide (2 ^ 32 - 1 < total) = true then 2 ^ 32 - 1 else total) = cnt := by simp only [decide_eq_true_eq, hovf, cnt]
  by_cases ht : tgt = 0
  · have hflg : flg = raisedFlags (Memory.readNat m (a + 12) 4) (decide (2 ^ 32 - 1 < total)) true := by
      simp only [flg, hovf, ht, decide_true]
    rw [if_pos ht, hflg, ← hcnt]
    exact if_pos ht
  · have hflg : flg = raisedFlags (Memory.readNat m (a + 12) 4) (decide (2 ^ 32 - 1 < total)) false := by
      simp only [flg, hovf, ht, decide_false]
    rw [if_neg ht, hflg, ← hcnt]
    exact if_neg ht

/-- A raise changes no byte outside its word. -/
theorem raiseWord_byte_out {m : Memory} (h : m.wf = true) (a b : Nat) {x : Nat} (hx : x < a ∨ a + 16 ≤ x) :
    (raiseWord m a b).byte x = m.byte x := by
  have h1 (n y : Nat) := Memory.writeNat_wf n (a + 4) y h
  have h2 (n y n' y' : Nat) := Memory.writeNat_wf n' (a + 8) y' (h1 n y)
  rw [raiseWord_eq]
  split
  · rw [Memory.byte_writeNat_out (h1 _ _) (by omega), Memory.byte_writeNat_out h (by omega)]
  · rw [Memory.byte_writeNat_out (h2 _ _ _ _) (by omega), Memory.byte_writeNat_out (h1 _ _) (by omega), Memory.byte_writeNat_out h (by omega)]

/-- The fields of a word when CNT and FLG are written. -/
theorem readNat_write_cnt_flg {m : Memory} (h : m.wf = true) (a : Nat) {c f : Nat} (hc : c < 2 ^ 32) (hf : f < 2 ^ 32) :
    let m' := (m.writeNat (a + 4) 4 c).writeNat (a + 12) 4 f
    m'.readNat a 4 = m.readNat a 4 ∧ m'.readNat (a + 4) 4 = c ∧ m'.readNat (a + 8) 4 = m.readNat (a + 8) 4 ∧ m'.readNat (a + 12) 4 = f := by
  have h1 := Memory.writeNat_wf 4 (a + 4) c h
  refine ⟨?_, ?_, ?_, ?_⟩
  · rw [Memory.readNat_writeNat_apart h1 (by omega), Memory.readNat_writeNat_apart h (by omega)]
  · rw [Memory.readNat_writeNat_apart h1 (by omega), Memory.readNat_writeNat h]
    exact Nat.mod_eq_of_lt hc
  · rw [Memory.readNat_writeNat_apart h1 (by omega), Memory.readNat_writeNat_apart h (by omega)]
  · rw [Memory.readNat_writeNat h1]
    exact Nat.mod_eq_of_lt hf

/-- The fields of a word when GEN is written as well. -/
theorem readNat_write_cnt_gen_flg {m : Memory} (h : m.wf = true) (a : Nat) {c g f : Nat} (hc : c < 2 ^ 32) (hg : g < 2 ^ 32) (hf : f < 2 ^ 32) :
    let m' := ((m.writeNat (a + 4) 4 c).writeNat (a + 8) 4 g).writeNat (a + 12) 4 f
    m'.readNat a 4 = m.readNat a 4 ∧ m'.readNat (a + 4) 4 = c ∧ m'.readNat (a + 8) 4 = g ∧ m'.readNat (a + 12) 4 = f := by
  have h1 := Memory.writeNat_wf 4 (a + 4) c h
  have h2 := Memory.writeNat_wf 4 (a + 8) g h1
  refine ⟨?_, ?_, ?_, ?_⟩
  · rw [Memory.readNat_writeNat_apart h2 (by omega), Memory.readNat_writeNat_apart h1 (by omega), Memory.readNat_writeNat_apart h (by omega)]
  · rw [Memory.readNat_writeNat_apart h2 (by omega), Memory.readNat_writeNat_apart h1 (by omega), Memory.readNat_writeNat h]
    exact Nat.mod_eq_of_lt hc
  · rw [Memory.readNat_writeNat_apart h2 (by omega), Memory.readNat_writeNat h1]
    exact Nat.mod_eq_of_lt hg
  · rw [Memory.readNat_writeNat h2]
    exact Nat.mod_eq_of_lt hf

/-- The fields of a word after a raise (07 R134). -/
theorem raiseWord_fields {m : Memory} (h : m.wf = true) (a b : Nat) : let m' := raiseWord m a b
    let tgt := Memory.readNat m a 4
    let total := Memory.readNat m (a + 4) 4 + b
    let cnt := if 2 ^ 32 ≤ total then 2 ^ 32 - 1 else total
    Memory.readNat m' a 4 = tgt ∧ Memory.readNat m' (a + 4) 4 = (if tgt = 0 then cnt else cnt % tgt)
    ∧ Memory.readNat m' (a + 8) 4 = (if tgt = 0 then Memory.readNat m (a + 8) 4 else (Memory.readNat m (a + 8) 4 + cnt / tgt) % 2 ^ 32)
    ∧ Memory.readNat m' (a + 12) 4 = raisedFlags (Memory.readNat m (a + 12) 4) (decide (2 ^ 32 ≤ total)) (decide (tgt = 0)) := by
  intro m' tgt total cnt
  have hcnt : cnt < 2 ^ 32 := by
    show (if 2 ^ 32 ≤ total then 2 ^ 32 - 1 else total) < 2 ^ 32
    split <;> omega
  have hflg := raisedFlags_lt (m.readNat_lt (a + 12) 4) (decide (2 ^ 32 ≤ total)) (decide (tgt = 0))
  have hm' := raiseWord_eq m a b
  by_cases ht : tgt = 0
  · rw [if_pos ht, if_pos ht, show m' = _ from hm'.trans (if_pos ht)]
    exact readNat_write_cnt_flg h a hcnt hflg
  · rw [if_neg ht, if_neg ht, show m' = _ from hm'.trans (if_neg ht)]
    exact readNat_write_cnt_gen_flg h a (Nat.lt_of_le_of_lt (Nat.mod_le _ _) hcnt) (Nat.mod_lt _ (by decide)) hflg

/-- Of the raises of one word in one cycle the second starts from the word as it stood before the first (07 R134). -/
theorem raiseWord_undone {m : Memory} (h : m.wf = true) (a b : Nat) :
    (raiseWord m a b).writeNat a 16 (BitVec.ofNat 128 (m.readNat a 16)).toNat = m := by
  rw [BitVec.toNat_ofNat, Nat.mod_eq_of_lt (m.readNat_lt a 16)]
  exact Memory.writeNat_restores h (raiseWord_wf h a b) fun x => raiseWord_byte_out h a b

/-! ## The raises of a cycle -/

/-- The first raise of a cycle raises the word and is remembered. -/
theorem State.raiseOne_first {s : State} (hr : s.core.raised = []) (off a : Nat) : ∃ l, s.raiseOne off a = { s with core := { s.core with
    lateDue := l
    scratch := raiseWord s.core.scratch off a
    raised := [{ cyc := s.core.cyc, web := if s.region.still then s.web else 0, off := off, bytes := a,
                 old := BitVec.ofNat 128 (Memory.readNat s.core.scratch off 16) }] } } := by
  simp only [State.raiseOne, hr, List.filter_nil, List.find?_nil]
  exact ⟨_, rfl⟩

/-- Two raises of one word in one cycle are one of their sum (07 R134). -/
theorem State.raiseOne_twice {s : State} (hr : s.core.raised = []) (hwf : Memory.wf s.core.scratch = true) (off a b : Nat) :
    ((s.raiseOne off a).raiseOne off b).core.scratch = raiseWord s.core.scratch off (a + b) := by
  obtain ⟨l, h⟩ := State.raiseOne_first hr off a
  rw [h]
  simp only [State.raiseOne, List.filter_cons, List.filter_nil, beq_self_eq_true]
  simp [-BitVec.toNat_ofNat, raiseWord_undone hwf off a]

theorem distinct_replicate (x : Nat) : ∀ n, distinct (List.replicate (n + 1) x) = [x]
  | 0 => rfl
  | n + 1 => by
    rw [List.replicate_succ, distinct, distinct_replicate x n]
    simp

/-- Raises of one word that are due are one raise of their sum (07 R134). -/
theorem State.raisesDue_one {s : State} (hr : s.core.raised = []) (hne : s.core.raises ≠ []) {off : Nat}
    (hall : ∀ r ∈ s.core.raises, r.off = off ∧ r.due ≤ s.core.cyc) :
    s.raisesDue.core.scratch = raiseWord s.core.scratch off (s.core.raises.map (·.bytes)).sum ∧ s.raisesDue.core.raises = []
      ∧ KeepsRegisters s s.raisesDue := by
  have hdue : (s.core.raises.filter fun r => decide (r.due ≤ s.core.cyc)) = s.core.raises :=
    List.filter_eq_self.mpr fun r h => decide_eq_true (hall r h).2
  have hlater : (s.core.raises.filter fun r => decide (s.core.cyc < r.due)) = [] :=
    List.filter_eq_nil_iff.mpr fun r h => by simpa using (hall r h).2
  have hmine : (s.core.raises.filter fun r => r.off == off) = s.core.raises :=
    List.filter_eq_self.mpr fun r h => beq_iff_eq.mpr (hall r h).1
  have hoffs : distinct (s.core.raises.map (·.off)) = [off] := by
    have hrep : s.core.raises.map (·.off) = List.replicate s.core.raises.length off := by
      rw [List.eq_replicate_iff]
      exact ⟨List.length_map .., List.forall_mem_map.mpr fun r h => (hall r h).1⟩
    obtain ⟨n, hn⟩ := Nat.exists_eq_succ_of_ne_zero fun h => hne (List.length_eq_zero_iff.mp h)
    rw [hrep, hn, distinct_replicate]
  have hsome : s.core.raises.isEmpty = false := by simpa using hne
  have heq : s.raisesDue = State.raiseOne { s with core := { s.core with raises := [] } } off (s.core.raises.map (·.bytes)).sum := by
    simp only [State.raisesDue, hdue, hlater, hsome, hoffs, hmine, Bool.false_eq_true, if_false, List.foldl_cons, List.foldl_nil,
      ← List.sum_eq_foldl]
  obtain ⟨l, hone⟩ :=
    State.raiseOne_first (s := { s with core := { s.core with raises := [] } }) hr off (s.core.raises.map (·.bytes)).sum
  rw [heq, hone]
  exact ⟨rfl, rfl, rfl, rfl, rfl, rfl, rfl, rfl⟩

end Sys2Proof.Machine
end

section
/-! SUPPORT. What a mirror does with a packet, by its operation (09 R162). -/

namespace Sys2Proof.Machine

/-! ## Numbers of a row of slots -/

/-- Some numbers of a row of k bytes each, from a on, are replaced, each by what it was before. -/
def updateSlots (a k : Nat) (g : Nat → Nat → Nat) (l : List Nat) (m : Memory) : Memory :=
  l.foldl (fun m i => Memory.writeNat m (a + k * i) k (g i (Memory.readNat m (a + k * i) k))) m

theorem updateSlots_wf (a k : Nat) (g : Nat → Nat → Nat) : ∀ (l : List Nat) {m : Memory}, m.wf = true →
    (updateSlots a k g l m).wf = true
  | [], _, h => h
  | _ :: t, _, h => updateSlots_wf a k g t (Memory.writeNat_wf k _ _ h)

/-- No byte outside the slots is replaced. -/
theorem updateSlots_byte_out {a k : Nat} {g : Nat → Nat → Nat} {b : Nat} : ∀ {l : List Nat} {m : Memory}, m.wf = true →
    (∀ i ∈ l, b < a + k * i ∨ a + k * i + k ≤ b) → (updateSlots a k g l m).byte b = m.byte b
  | [], _, _, _ => rfl
  | i :: _, _, h, hb => (updateSlots_byte_out (Memory.writeNat_wf k _ _ h) fun j hj => hb j (List.mem_cons_of_mem i hj)).trans
      (Memory.byte_writeNat_out h (hb i List.mem_cons_self))

theorem slots_apart {i j : Nat} (h : i ≠ j) (k : Nat) : k * i + k ≤ k * j ∨ k * j + k ≤ k * i := by
  rcases Nat.lt_or_gt_of_ne h with hlt | hgt
  · exact .inl (Nat.mul_le_mul_left k hlt)
  · exact .inr (Nat.mul_le_mul_left k hgt)

/-- The number of a slot that is not replaced. -/
theorem updateSlots_readNat_out {a k : Nat} {g : Nat → Nat → Nat} {l : List Nat} {m : Memory} (h : m.wf = true) {i : Nat} (hi : i ∉ l) :
    (updateSlots a k g l m).readNat (a + k * i) k = m.readNat (a + k * i) k :=
  Memory.readNat_congr fun j hj => updateSlots_byte_out h fun x hx => by
    rcases slots_apart (fun heq => hi (heq ▸ hx) : x ≠ i) k with hlo | hhi <;> omega

/-- The number of a slot that is replaced. -/
theorem updateSlots_readNat_in {a k : Nat} {g : Nat → Nat → Nat} : ∀ {l : List Nat} {m : Memory}, m.wf = true → l.Nodup → ∀ {i}, i ∈ l →
    (updateSlots a k g l m).readNat (a + k * i) k = g i (m.readNat (a + k * i) k) % 256 ^ k
  | j :: t, m, h, hnd, i, hi => by
    obtain ⟨hj, ht⟩ := List.nodup_cons.mp hnd
    have h1 := Memory.writeNat_wf k (a + k * j) (g j (m.readNat (a + k * j) k)) h
    rcases List.mem_cons.mp hi with rfl | hi
    · exact (updateSlots_readNat_out h1 hj).trans (Memory.readNat_writeNat h _ _ _)
    · have hne : i ≠ j := fun heq => hj (heq ▸ hi)
      have happart := slots_apart hne k
      refine (updateSlots_readNat_in h1 ht hi).trans ?_
      rw [Memory.readNat_writeNat_apart h (by omega)]

/-! ## Operations -/

/-- The slots of a packet that a mask enables, when its payload ends in the window. -/
theorem filter_in_window {a k n : Nat} (p : Nat → Bool) (h : a + k * n ≤ Config.quireBytes) :
    ((List.range n).filter fun i => p i && decide (a + k * i + k ≤ Config.quireBytes)) = (List.range n).filter p :=
  List.filter_congr fun i hi => by
    have hlt : k * i + k ≤ k * n := Nat.mul_le_mul_left k (List.mem_range.mp hi)
    rw [decide_eq_true (by omega), Bool.and_true]

variable {pk : FeltPacket} {m : Memory}

/-- A store packet replaces its enabled lanes. -/
theorem applyPacket_store (hw : pk.wme = false) (hr : 16 * pk.addr.toNat + 128 ≤ Config.quireBytes) (hop : pk.op = 0) :
    applyPacket pk m = updateSlots (16 * pk.addr.toNat) 4 (fun i _ => (lane pk.payload i).toNat) ((List.range 32).filter fun i => bitAt pk.mask i) m := by
  have hl := filter_in_window (k := 4) (n := 32) (fun i => bitAt pk.mask i) hr
  simp only [applyPacket, hw, hop, hl, Bool.false_eq_true, if_false]
  rfl

/-- An exact-add packet adds to its enabled elements. -/
theorem applyPacket_exactAdd (hw : pk.wme = false) (hr : 16 * pk.addr.toNat + 128 ≤ Config.quireBytes) (hop : pk.op = 2) :
    applyPacket pk m = updateSlots (16 * pk.addr.toNat) 32 (fun e old => exactAdd old (elem pk.payload 256 e).toNat (bitAt pk.aux e))
      ((List.range 4).filter fun e => bitAt pk.mask (8 * e)) m := by
  have hl := filter_in_window (k := 32) (n := 4) (fun e => bitAt pk.mask (8 * e)) hr
  simp only [applyPacket, hw, hop, hl, Bool.false_eq_true, if_false]
  rfl

theorem applyPacket_raise (hw : pk.wme = false) (hop : pk.op = 1) :
    applyPacket pk m = raiseWord m (16 * pk.addr.toNat) (lane pk.payload 0).toNat := by
  simp only [applyPacket, hw, hop, Bool.false_eq_true, if_false]
  rfl

theorem applyPacket_atomic (hw : pk.wme = false) (hop : pk.op = 3) {b w x cmp : Nat} (h : atomicOperand pk = (b, w, x, cmp)) :
    applyPacket pk m = Memory.writeNat m b (w / 8) (atomicNew (BitVec.ofNat 3 pk.aux.toNat) w (Memory.readNat m b (w / 8)) x cmp) := by
  simp only [applyPacket, hw, hop, h, Bool.false_eq_true, if_false]
  rfl

theorem applyPacket_other (hw : pk.wme = false) (hop : 3 < pk.op.toNat) : applyPacket pk m = m := by
  obtain ⟨n, hn⟩ := Nat.exists_eq_add_of_lt hop
  have hn : pk.op.toNat = n + 4 := by omega
  simp only [applyPacket, hw, hn, Bool.false_eq_true, if_false]

/-- A packet that also raises a watermark word does so after all else, by the bytes that it writes. -/
theorem applyPacket_wme (hw : pk.wme = true) (hr : 16 * pk.addr.toNat + 128 ≤ Config.quireBytes) : applyPacket pk m =
    raiseWord (applyPacket { pk with wme := false } m) (16 * pk.wma.toNat)
      (if pk.op = 0 then 4 * ((List.range 32).filter fun i => bitAt pk.mask i).length
       else if pk.op = 2 then 32 * ((List.range 4).filter fun e => bitAt pk.mask (8 * e)).length else 0) := by
  have hl := filter_in_window (k := 32) (n := 4) (fun e => bitAt pk.mask (8 * e)) hr
  have h0 : pk.op = 0 ↔ pk.op.toNat = 0 := BitVec.toNat_inj.symm
  have h2 : pk.op = 2 ↔ pk.op.toNat = 2 := BitVec.toNat_inj.symm
  simp only [applyPacket, hw, hl, h0, h2, Bool.false_eq_true, if_false, if_true]
  have ha : atomicOperand { pk with wme := false } = atomicOperand pk := rfl
  split
  · next h => simp [h]
  · next h => simp [h]
  · next h => simp [h]
  · next h => simp [h, ha]
  · next h h' _ _ => rw [if_neg h, if_neg (by assumption)]

/-! ## Values -/

/-- A number as a word of a width, from its remainder. -/
theorem ofNat_toNat_emod (w : Nat) (z : Int) : BitVec.ofNat w (z % 2 ^ w).toNat = BitVec.ofInt w z := by
  refine BitVec.eq_of_toNat_eq ?_
  have h : (BitVec.ofInt w z).toNat = (z % 2 ^ w).toNat := by
    rw [BitVec.toNat_ofInt]
    push_cast
    rfl
  rw [BitVec.toNat_ofNat, ← h, Nat.mod_eq_of_lt (BitVec.isLt _)]

/-- The exact add of 256-bit elements (09 R162). -/
theorem exactAdd_eq (old : Nat) (x : BitVec 256) (bad : Bool) (h : old < 2 ^ 256) : let o : BitVec 256 := BitVec.ofNat 256 old
    BitVec.ofNat 256 (exactAdd old x.toNat bad) =
      if o = quirePoison ∨ bad = true ∨ o.toInt + x.toInt ≤ -2 ^ 255 ∨ 2 ^ 255 ≤ o.toInt + x.toInt then quirePoison else o + x := by
  intro o
  have hp : old = quirePoison.toNat ↔ o = quirePoison := by
    rw [← BitVec.toNat_inj, BitVec.toNat_ofNat, Nat.mod_eq_of_lt h]
  have hx : BitVec.ofNat 256 x.toNat = x := by simp
  have hp' : BitVec.ofNat 256 quirePoison.toNat = quirePoison := by simp
  have hlim : (2 ^ 255 - 1 < o.toInt + x.toInt) = (2 ^ 255 ≤ o.toInt + x.toInt) := by
    apply propext
    omega
  have hsum : BitVec.ofNat 256 ((o.toInt + x.toInt) % 2 ^ 256).toNat = o + x := by
    rw [ofNat_toNat_emod, BitVec.ofInt_add, BitVec.ofInt_toInt, BitVec.ofInt_toInt]
  simp only [exactAdd, hx, hp, show (2 ^ 255 - 1 < (BitVec.ofNat 256 old).toInt + x.toInt) = _ from hlim]
  rw [apply_ite (BitVec.ofNat 256), hp', hsum]

/-- A new value of an atomic is as wide as the old one. -/
theorem atomicNew_lt (op : BitVec 3) {w old x : Nat} (cmp : Nat) (ho : old < 2 ^ w) (hx : x < 2 ^ w) : atomicNew op w old x cmp < 2 ^ w := by
  unfold atomicNew
  dsimp only
  split
  · exact Nat.mod_lt _ (Nat.two_pow_pos w)
  · exact iteInduction (motive := (· < 2 ^ w)) (fun _ => ho) fun _ => hx
  · exact iteInduction (motive := (· < 2 ^ w)) (fun _ => hx) fun _ => ho
  · exact Nat.lt_of_le_of_lt (Nat.min_le_left ..) ho
  · exact Nat.max_lt.mpr ⟨ho, hx⟩
  · exact hx
  · exact iteInduction (motive := (· < 2 ^ w)) (fun _ => hx) fun _ => ho

/-! ## What stands in the mirror -/

/-- The mirror stays well formed. -/
theorem applyPacket_wf (h : m.wf = true) (hw : pk.wme = false) (hr : 16 * pk.addr.toNat + 128 ≤ Config.quireBytes) :
    (applyPacket pk m).wf = true := by
  have hop : pk.op = 0 ∨ pk.op = 1 ∨ pk.op = 2 ∨ pk.op = 3 ∨ 3 < pk.op.toNat := by bv_omega
  rcases hop with hop | hop | hop | hop | hop
  · rw [applyPacket_store hw hr hop]
    exact updateSlots_wf _ _ _ _ h
  · rw [applyPacket_raise hw hop]
    exact raiseWord_wf h _ _
  · rw [applyPacket_exactAdd hw hr hop]
    exact updateSlots_wf _ _ _ _ h
  · rw [applyPacket_atomic hw hop rfl]
    exact Memory.writeNat_wf _ _ _ h
  · rw [applyPacket_other hw hop]
    exact h

/-- A store packet stores its selected lanes and no other byte. -/
theorem applyPacket_store_reads (h : m.wf = true) (hw : pk.wme = false) (hr : 16 * pk.addr.toNat + 128 ≤ Config.quireBytes) (hop : pk.op = 0) :
    let a := 16 * pk.addr.toNat
    let m' := applyPacket pk m
    (∀ i, i < 32 → bitAt pk.mask i = true → Memory.readNat m' (a + 4 * i) 4 = (lane pk.payload i).toNat)
    ∧ ∀ b, (∀ i, i < 32 → bitAt pk.mask i = true → b < a + 4 * i ∨ a + 4 * i + 4 ≤ b) → Memory.byte m' b = Memory.byte m b := by
  intro a m'
  rw [show m' = _ from applyPacket_store hw hr hop]
  refine ⟨fun i hi hb => ?_, fun b hb => updateSlots_byte_out h fun i hi => ?_⟩
  · rw [updateSlots_readNat_in h (List.nodup_range.filter _) (by simp [hi, hb])]
    exact Nat.mod_eq_of_lt (lane pk.payload i).isLt
  · obtain ⟨hi, hm⟩ := List.mem_filter.mp hi
    exact hb i (List.mem_range.mp hi) hm

/-- An exact-add packet adds to its selected elements and changes no other byte. -/
theorem applyPacket_exactAdd_reads (h : m.wf = true) (hw : pk.wme = false) (hr : 16 * pk.addr.toNat + 128 ≤ Config.quireBytes) (hop : pk.op = 2) :
    let a := 16 * pk.addr.toNat
    let m' := applyPacket pk m
    (∀ e, e < 4 → bitAt pk.mask (8 * e) = true →
      let old : BitVec 256 := BitVec.ofNat 256 (Memory.readNat m (a + 32 * e) 32)
      let x : BitVec 256 := elem pk.payload 256 e
      BitVec.ofNat 256 (Memory.readNat m' (a + 32 * e) 32) =
        if old = quirePoison ∨ bitAt pk.aux e = true ∨ old.toInt + x.toInt ≤ -2 ^ 255 ∨ 2 ^ 255 ≤ old.toInt + x.toInt then quirePoison else old + x)
    ∧ ∀ b, (∀ e, e < 4 → bitAt pk.mask (8 * e) = true → b < a + 32 * e ∨ a + 32 * e + 32 ≤ b) → Memory.byte m' b = Memory.byte m b := by
  intro a m'
  rw [show m' = _ from applyPacket_exactAdd hw hr hop]
  refine ⟨fun e he hb => ?_, fun b hb => updateSlots_byte_out h fun e he => ?_⟩
  · have hold : m.readNat (a + 32 * e) 32 < 2 ^ 256 := m.readNat_lt _ 32
    have hmod (n : Nat) : BitVec.ofNat 256 (n % 256 ^ 32) = BitVec.ofNat 256 n :=
      BitVec.eq_of_toNat_eq (by rw [BitVec.toNat_ofNat, BitVec.toNat_ofNat, show 256 ^ 32 = 2 ^ 256 by decide, Nat.mod_mod])
    rw [updateSlots_readNat_in h (List.nodup_range.filter _) (by simp [he, hb]), hmod]
    exact exactAdd_eq _ _ _ hold
  · obtain ⟨he, hm⟩ := List.mem_filter.mp he
    exact hb e (List.mem_range.mp he) hm

/-- An atomic packet gives its word the new value and changes no other byte. -/
theorem applyPacket_atomic_reads (h : m.wf = true) (hw : pk.wme = false) (hop : pk.op = 3) {b w x cmp : Nat}
    (ha : atomicOperand pk = (b, w, x, cmp)) : let m' := applyPacket pk m
    Memory.readNat m' b (w / 8) = atomicNew (BitVec.ofNat 3 pk.aux.toNat) w (Memory.readNat m b (w / 8)) x cmp
    ∧ ∀ y, y < b ∨ b + w / 8 ≤ y → Memory.byte m' y = Memory.byte m y := by
  intro m'
  rw [show m' = _ from applyPacket_atomic hw hop ha]
  have hx : x < 2 ^ w := by
    simp only [atomicOperand, Prod.mk.injEq] at ha
    obtain ⟨-, hwid, hval, -⟩ := ha
    rw [← hval, hwid]
    exact Nat.mod_lt _ (Nat.two_pow_pos w)
  have hbytes : 8 * (w / 8) = w := by
    simp only [atomicOperand, Prod.mk.injEq] at ha
    obtain ⟨-, hwid, -⟩ := ha
    rw [← hwid]
    split <;> rfl
  have hpow : 256 ^ (w / 8) = 2 ^ w := by rw [show 256 = 2 ^ 8 by decide, ← Nat.pow_mul, hbytes]
  have hold : m.readNat b (w / 8) < 2 ^ w := by simpa only [hbytes] using m.readNat_lt b (w / 8)
  refine ⟨?_, fun y hy => Memory.byte_writeNat_out h hy⟩
  rw [Memory.readNat_writeNat h, hpow]
  exact Nat.mod_eq_of_lt (atomicNew_lt _ cmp hold hx)

end Sys2Proof.Machine
end

section
/-! SUPPORT. The felt: what goes out in a beat, what is applied, shown and refused (09 R156 to R161). -/

namespace Sys2Proof.Machine

/-! ## A packet goes out -/

/-- When the head of the core's queue may go out. -/
theorem State.feltReady_iff {s : State} {f : FeltItem} {rest : List FeltItem} (h : s.core.feltQ = f :: rest) : s.feltReady = some f ↔
    s.web % 2 = 0 ∧ s.ownsFelt (s.web / 2) = true ∧ f.entry + 2 ≤ s.web ∧ s.core.feltLast ≤ s.web ∧ s.sheetAsleep = false := by
  simp only [State.feltReady, h, Bool.not_eq_true', ite_eq_left_iff, reduceCtorEq, imp_false, not_not]

theorem State.loadPacket_plain (s : State) {f : FeltItem} (h : f.beat = none) :
    s.loadPacket f = { f.pk with party := BitVec.ofNat 12 (s.core.sheet.toNat * 128 + s.torusPos) } := by
  simp only [State.loadPacket, h]

/-- A copy beat takes the bytes that are visible now, in the half that its mask enables. -/
theorem State.loadPacket_beat {s : State} {f : FeltItem} {id n off : Nat} (h : f.beat = some (id, n, off)) (hp : s.core.poison = []) :
    s.loadPacket f = { f.pk with
      party := BitVec.ofNat 12 (s.core.sheet.toNat * 128 + s.torusPos)
      payload := BitVec.ofNat 1024 (Memory.readNat s.core.scratch off 64 * if f.pk.mask = 0xFFFF0000 then 2 ^ 512 else 1) } := by
  have hclean : s.core.padData s.core.scratch off = BitVec.ofNat 512 (Memory.readNat s.core.scratch off 64) :=
    Core.padData_clean (by simp [hp]) _
  have hlt : Memory.readNat s.core.scratch off 64 < 2 ^ (8 * 64) := Memory.readNat_lt _ off 64
  simp only [State.loadPacket, h, hclean, BitVec.toNat_ofNat, Nat.mod_eq_of_lt hlt, mul_ite, mul_one]

/-- Counting a beat that is sent changes the commands only. -/
theorem Core.countSentBeat_eq (c : Core) (f : FeltItem) : ∃ l, c.countSentBeat f = { c with cmds := l } := by
  unfold Core.countSentBeat
  split
  · exact ⟨_, rfl⟩
  · exact ⟨c.cmds, rfl⟩

/-- The head of the core's queue goes out. -/
theorem State.feltCoreSend_spec {s : State} {f : FeltItem} {rest : List FeltItem} (h : s.core.feltQ = f :: rest) : let t := s.feltCoreSend f
    ∃ x : FeltSent, t.core.feltQ = rest ∧ t.felt = insertBy (fun y z => decide (y.beat ≤ z.beat)) x s.felt ∧ x.beat = s.web / 2 ∧ x.applied = false
      ∧ x.own.isSome = true ∧ x.pk = s.loadPacket f ∧ KeepsRegisters s t ∧ KeepsMemory s t := by
  intro t
  obtain ⟨l, hl⟩ := s.core.countSentBeat_eq f
  refine ⟨⟨s.web / 2, s.loadPacket f, some { f with pk := s.loadPacket f, bad := s.feltPoison f }, none, false, false⟩, ?_, rfl, rfl, rfl, rfl, rfl, ?_, ?_⟩
  · show s.core.feltQ.drop 1 = rest
    rw [h]
    rfl
  · simp only [t, State.feltCoreSend, State.onFelt, hl, KeepsRegisters, and_self]
  · simp only [t, State.feltCoreSend, State.onFelt, hl, KeepsMemory, and_self]

/-- The head of the gateway's queue goes out. -/
theorem State.gatewaySend_spec {s : State} {n : Nat} {c : BitVec 5} {pk : FeltPacket} {rest : List (Nat × BitVec 5 × FeltPacket)}
    (h : s.gw.q = (n, c, pk) :: rest) : let t := s.gatewaySend (n, c, pk)
    ∃ x : FeltSent, t.gw.q = rest ∧ t.felt = insertBy (fun y z => decide (y.beat ≤ z.beat)) x s.felt ∧ x.beat = s.web / 2 ∧ x.applied = false
      ∧ x.own = none ∧ x.pk = { pk with party := BitVec.ofNat 12 (s.core.sheet.toNat * 128 + 64) }
      ∧ t.gw.cells[c.toNat].left = s.gw.cells[c.toNat].left - 1 ∧ KeepsRegisters s t ∧ KeepsMemory s t := by
  refine ⟨⟨s.web / 2, { pk with party := BitVec.ofNat 12 (s.core.sheet.toNat * 128 + 64) }, none, some c, false, false⟩, ?_, rfl, rfl, rfl, rfl, rfl, ?_,
    ⟨rfl, rfl, rfl, rfl, rfl, rfl⟩, rfl, rfl, rfl, rfl, rfl, rfl⟩
  · show s.gw.q.drop 1 = rest
    rw [h]
    rfl
  · simp only [State.gatewaySend, State.onFelt, State.setCell, Vector.getElem_set_self]

/-! ## A packet is applied -/

/-- The base die's mirror applies a packet that this side sent. -/
theorem exec_feltPacketApply_own {s : State} {x : FeltSent} (h : s.felt.find? (fun f => f.beat == s.web / 2 - 5) = some x) :
    exec (.feltPacketApply x.pk) s = if x.applied = true then .fault .notDue else .next { s.baseTakes x.pk with
      core := s.core.forget (x.own.bind fun it => if it.beat.isNone then it.ent else none).toList
      felt := s.felt.map fun f => if f.beat = s.web / 2 - 5 then { f with applied := true } else f } := by
  have hexec : exec (.feltPacketApply x.pk) s = execFeltPacketApply x.pk s := rfl
  rw [hexec, execFeltPacketApply]
  simp only [h]
  cases x.applied <;> rfl

/-- The base die's mirror applies a packet of another party, sent in a slot of its own and not refused. -/
theorem exec_feltPacketApply_other {s : State} (pk : FeltPacket) (h : s.felt.find? (fun f => f.beat == s.web / 2 - 5) = none) :
    ∃ l, exec (.feltPacketApply pk) s =
      if s.web < 10 ∨ s.ownBeat (s.web / 2 - 5) = true ∨ s.dev.refused.contains (s.web / 2 - 5) = true then .fault .notDue
      else .next { s.baseTakes pk with felt := l } := by
  have hexec : exec (.feltPacketApply pk) s = execFeltPacketApply pk s := rfl
  rw [hexec, execFeltPacketApply]
  simp only [h]
  exact ⟨_, rfl⟩

/-! ## A packet is shown -/

/-- What the core's own side of a packet may change while loads do not see it yet: the core but for its sheet, and whether its raise is done. -/
def ToldOnly (s t : State) : Prop :=
  ∃ (c : Core) (n : Nat) (fl : List FeltSent), t = { s with core := c, fresh := n, felt := fl } ∧ c.sheet = s.core.sheet
    ∧ fl.map (·.beat) = s.felt.map (·.beat)

theorem ToldOnly.refl (s : State) : ToldOnly s s := ⟨s.core, s.fresh, s.felt, rfl, rfl, rfl⟩

theorem ToldOnly.trans {s t u : State} : ToldOnly s t → ToldOnly t u → ToldOnly s u := by
  rintro ⟨c, n, fl, rfl, hc, hf⟩ ⟨c', n', fl', rfl, hc', hf'⟩
  exact ⟨c', n', fl', rfl, hc'.trans hc, hf'.trans hf⟩

theorem State.seesFelt_keeps (s : State) (τ : Nat) : ∃ n, (s.seesFelt τ).2 = { s with fresh := n } := by
  unfold State.seesFelt
  split
  · exact ⟨s.fresh, rfl⟩
  · exact s.crossed_keeps τ

/-- In the fabric group a time is seen in its web cycle (20 R362). -/
theorem State.seesFelt_inFabric {s : State} (h : s.inFabric = true) (τ : Nat) : (s.seesFelt τ).1 = decide (τ ≤ s.web) := by
  unfold State.seesFelt
  split
  · rfl
  · by_cases hτ : τ ≤ s.web
    · rw [State.crossed_inFabric hτ h, decide_eq_true hτ]
    · rw [State.not_crossed_before (by omega), decide_eq_false hτ]

theorem State.lateSlip_eq (s : State) (τ : Nat) : ∃ x, s.lateSlip τ = { s with core := { s.core with slip := x } } := by
  unfold State.lateSlip
  split
  · exact ⟨_, rfl⟩
  · exact ⟨s.core.slip, rfl⟩

theorem State.tellSender_toldOnly (s : State) (f : FeltSent) : ToldOnly s (s.tellSender f) := by
  have hfelt : (s.felt.map fun x => if x.beat = f.beat then { x with told := true } else x).map (·.beat) = s.felt.map (·.beat) := by
    rw [List.map_map]
    exact List.map_congr_left fun x _ => apply_ite FeltSent.beat .. |>.trans (ite_self _)
  cases hown : f.own with
  | none => exact ⟨s.core, s.fresh, _, by simp only [State.tellSender, hown], rfl, hfelt⟩
  | some it =>
    cases hbeat : it.beat with
    | none => exact ⟨s.core, s.fresh, _, by simp only [State.tellSender, hown, hbeat], rfl, hfelt⟩
    | some b =>
      refine ⟨_, s.fresh, _, by simp only [State.tellSender, hown, hbeat]; rfl, ?_, hfelt⟩
      cases it.ent with
      | none => rfl
      | some k =>
        obtain ⟨x, hx⟩ := Core.pend_eq (if it.bad.isSome then s.core else s.core.touch k false) k false
        show Core.sheet (Core.pend _ k false) = s.core.sheet
        rw [hx]
        show Core.sheet (if _ then s.core else s.core.touch k false) = s.core.sheet
        split <;> rfl

/-- The raise of one sent copy beat, if the region sees its web cycle. -/
def State.tellOne (s : State) (f : FeltSent) : State :=
  let see := s.seesFelt (2 * f.beat + 12)
  let u := if see.1 && f.own.any (·.beat.isSome) then see.2.lateSlip (2 * f.beat + 12) else see.2
  if see.1 then u.tellSender f else u

theorem State.tellAll_cons (s : State) (f : FeltSent) (t : List FeltSent) :
    State.tellAll (f :: t) s = if !f.applied || f.told then State.tellAll t s else State.tellAll t (s.tellOne f) := rfl

theorem State.tellOne_toldOnly (s : State) (f : FeltSent) : ToldOnly s (s.tellOne f) := by
  obtain ⟨n, hn⟩ := s.seesFelt_keeps (2 * f.beat + 12)
  have hsee : ToldOnly s (s.seesFelt (2 * f.beat + 12)).2 := ⟨s.core, n, s.felt, hn, rfl, rfl⟩
  have hslip (u : State) : ToldOnly u (u.lateSlip (2 * f.beat + 12)) := by
    obtain ⟨x, hx⟩ := u.lateSlip_eq (2 * f.beat + 12)
    exact ⟨_, u.fresh, u.felt, hx, rfl, rfl⟩
  refine hsee.trans ?_
  unfold State.tellOne
  dsimp only
  generalize s.seesFelt (2 * f.beat + 12) = see
  by_cases hlate : (see.1 && f.own.any (·.beat.isSome)) = true
  · rw [if_pos hlate]
    split
    exacts [(hslip _).trans (State.tellSender_toldOnly _ f), hslip _]
  · rw [if_neg hlate]
    split
    exacts [State.tellSender_toldOnly _ f, .refl _]

/-- Telling the senders shows loads nothing. -/
theorem State.tellAll_toldOnly : ∀ (l : List FeltSent) (s : State), ToldOnly s (State.tellAll l s)
  | [], s => .refl s
  | f :: t, s => by
    rw [State.tellAll_cons]
    split
    · exact State.tellAll_toldOnly t s
    · exact (s.tellOne_toldOnly f).trans (State.tellAll_toldOnly t _)

theorem State.sheetAsleep_felt (s : State) (l : List FeltSent) : State.sheetAsleep { s with felt := l } = s.sheetAsleep := rfl

/-- What loads of this sheet see when a packet is shown. -/
theorem State.showPacket_eq (s : State) (f : FeltSent) : ∃ p l x ag, s.showPacket f = { s with
    felt := s.felt.filter (fun x => x.beat != f.beat)
    mirror := if s.sheetAsleep then s.mirror else applyPacket f.pk s.mirror
    core := { s.core with poison := p, lateDue := l, slip := x }
    agenda := ag } := by
  cases hs : s.sheetAsleep <;> cases hown : f.own with
  | none =>
    simp only [State.showPacket, hown, State.sheetAsleep_felt, hs, Bool.false_eq_true, if_false, if_true]
    exact ⟨_, s.core.lateDue, s.core.slip, s.agenda, rfl⟩
  | some it =>
    simp only [State.showPacket, hown, State.sheetAsleep_felt, hs, Bool.false_eq_true, if_false, if_true]
    cases it.qat
    · exact ⟨_, s.core.lateDue, s.core.slip, s.agenda, rfl⟩
    · cases s.core.poison.contains (poisonGran true (atomicOperand f.pk).1) <;> cases s.reload <;> exact ⟨_, _, _, _, rfl⟩

/-- The old value of a QAT returns when its packet is shown, if no reload of the mirror runs (09 R164). -/
theorem State.showPacket_returns {s : State} {f : FeltSent} {it : FeltItem} {b w x cmp : Nat} (hown : f.own = some it) (hq : it.qat = true)
    (hp : s.core.poison = []) (hr : s.reload = none) (ha : atomicOperand f.pk = (b, w, x, cmp)) : (s.showPacket f).agenda =
      s.agenda ++ [(s.web, .remoteAtmReturn it.seq (BitVec.ofNat 64 (Memory.readNat s.mirror b (w / 8))))] := by
  have hold : atomicOld s.mirror f.pk = Memory.readNat s.mirror b (w / 8) := by simp only [atomicOld, ha]
  cases hs : s.sheetAsleep <;> simp only [State.showPacket, hown, State.sheetAsleep_felt, hs, Bool.false_eq_true, if_false, if_true] <;>
    simp [hq, hp, hr, hold]

theorem State.showAll_cons (s : State) {f : FeltSent} (h : f.applied = true) (t : List FeltSent) :
    let see := s.seesFelt (2 * f.beat + 16)
    State.showAll (f :: t) s = if see.1 = true then State.showAll t ((see.2.lateSlip (2 * f.beat + 16)).showPacket f) else see.2 := by
  intro see
  have hnot : ¬(!f.applied) = true := by simp [h]
  exact if_neg hnot

/-- In the fabric group the packet under way is shown eight beats after its own (09 R160, R161). -/
theorem State.feltLater_one {s : State} {f : FeltSent} (ha : f.applied = true) (hf : s.inFabric = true) (h1 : s.felt = [f]) :
    (s.web < 2 * f.beat + 16 → s.feltLater.mirror = s.mirror)
    ∧ (2 * f.beat + 16 ≤ s.web → s.feltLater.felt = [] ∧ s.feltLater.mirror = if s.sheetAsleep then s.mirror else applyPacket f.pk s.mirror) := by
  obtain ⟨c, k, fl, ht, hc, hfl⟩ := State.tellAll_toldOnly s.felt s
  have hlater : s.feltLater = State.showAll [f] { s with core := c, fresh := k, felt := fl } := by rw [State.feltLater, ht, h1]
  have hsee : (State.seesFelt { s with core := c, fresh := k, felt := fl } (2 * f.beat + 16)).1 = decide (2 * f.beat + 16 ≤ s.web) :=
    State.seesFelt_inFabric (s := { s with core := c, fresh := k, felt := fl }) hf _
  obtain ⟨n, hn⟩ := State.seesFelt_keeps { s with core := c, fresh := k, felt := fl } (2 * f.beat + 16)
  rw [hlater, State.showAll_cons _ ha, hsee, hn]
  constructor
  · intro hlt
    rw [if_neg (by simpa using hlt)]
  · intro hge
    rw [if_pos (decide_eq_true hge)]
    obtain ⟨x, hx⟩ := State.lateSlip_eq { s with core := c, fresh := n, felt := fl } (2 * f.beat + 16)
    obtain ⟨p, l, y, ag, hshow⟩ := State.showPacket_eq { s with core := { c with slip := x }, fresh := n, felt := fl } f
    have hasleep : State.sheetAsleep { s with core := { c with slip := x }, fresh := n, felt := fl } = s.sheetAsleep := by
      show (s.dev.asleep[c.sheet.toNat]?).getD false = _
      rw [hc]
      rfl
    rw [hx, hshow, hasleep]
    refine ⟨?_, rfl⟩
    have hbeat : ∀ x ∈ fl, x.beat = f.beat := fun x hx => by
      have hmem : x.beat ∈ fl.map (·.beat) := List.mem_map_of_mem hx
      simpa [hfl, h1] using hmem
    exact List.filter_eq_nil_iff.mpr fun x hx => by simp [hbeat x hx]

/-! ## A packet is refused -/

theorem Core.uncountBeat_packet (c : Core) {it : FeltItem} (h : it.beat = none) : c.uncountBeat it = c := by
  simp only [Core.uncountBeat, h]

/-- A packet that the master refuses returns to the head of its queue, with a slip (09 R157). -/
theorem exec_refusal_returns {s : State} {f : FeltSent} {it : FeltItem} (hfind : s.felt.find? (fun x => x.beat == f.beat) = some f)
    (hown : f.own = some it) (hbeat : it.beat = none) (ha : f.applied = false) (hweb : s.web / 2 = f.beat + 2) :
    ∃ gone sent, exec (.refusal f.beat f.pk) s = .next (State.slips { s with
      felt := s.felt.filter (fun x => x.beat != f.beat)
      dev := { s.dev with err := s.dev.err.set 5 (s.dev.err[5] + 1), sent := sent }
      core := { s.core with feltQ := it :: s.core.feltQ, feltGone := gone } } 1) := by
  have hexec : exec (.refusal f.beat f.pk) s = execRefusal f.beat f.pk s := rfl
  refine ⟨s.core.feltGone.erase (2 * f.beat), .refusal f.beat :: s.dev.sent, hexec.trans ?_⟩
  simp only [execRefusal, hweb, ne_eq, not_true_eq_false, if_false, hfind, ha, Bool.false_eq_true, or_self, hown, hbeat,
    Core.uncountBeat_packet _ hbeat, if_true]

end Sys2Proof.Machine
end

section
/-! SUPPORT. The gateway's cells: what a setting and a contribution do to them (09 R165 to R168). -/

namespace Sys2Proof.Machine

/-! ## A setting -/

/-- The destinations of a setting that a cell takes (09 R166; assumption 52). -/
def State.goodSetting (s : State) (dest : Word) (ream : Bool) (cap : BitVec 64) : Prop :=
  let dst := (bitsAt dest 0 32).toNat
  let wm := (bitsAt dest 32 32).toNat
  (ream = true → dest.toNat < 256 ∧ bitAt cap 63 = true ∧ bitsAt cap 60 3 = 2)
  ∧ (ream = false → dst % 128 = 0 ∧ dst + 1024 ≤ Config.quireBytes ∧ within s.part.quireShare dst 1024 = true ∧ (∃ j, j < 64 ∧ s.gatewayOwns j = true)
    ∧ (wm = 0xFFFFFFFF ∨ (wm % 16 = 0 ∧ wm + 16 ≤ Config.quireBytes ∧ within s.part.quireShare wm 16 = true)))

theorem State.gatewayOwnsAny_iff (s : State) : s.gatewayOwnsAny = true ↔ ∃ j, j < 64 ∧ s.gatewayOwns j = true := by
  simp only [State.gatewayOwnsAny, List.any_eq_true, List.mem_range]

/-- A cell refuses exactly the other settings. -/
theorem State.badSetting_false_iff (s : State) (dest : Word) (ream : Bool) (cap : BitVec 64) :
    s.badSetting dest ream cap = false ↔ s.goodSetting dest ream cap := by
  unfold State.badSetting State.goodSetting
  dsimp only
  rw [← s.gatewayOwnsAny_iff]
  have hkind : (bitsAt cap 60 3).toNat = 2 ↔ bitsAt cap 60 3 = 2 := BitVec.toNat_inj (y := 2)
  cases ream with
  | true => simp [hkind, and_assoc]
  | false =>
    generalize (bitsAt dest 0 32).toNat = dst
    generalize (bitsAt dest 32 32).toNat = wm
    simp [imp_iff_not_or]
    tauto

/-- A setting that is refused changes nothing; a fault of this core is its sender's affair. -/
theorem State.setCollecting_refused {s : State} {n : BitVec 5} {k : Nat} {dest : Word} {ream : Bool} {cap : BitVec 64}
    (h : ¬s.goodSetting dest ream cap ∨ s.gw.cells[n.toNat].state s.web ≠ 0) : s.setCollecting n k dest ream cap none = s := by
  have hbad : s.badSetting dest ream cap = true ∨ s.gw.cells[n.toNat].state s.web ≠ 0 :=
    h.imp_left fun hg => by simpa [← s.badSetting_false_iff] using hg
  rw [State.setCollecting, if_pos hbad]

/-- A good setting sets an idle cell collecting. -/
theorem State.setCollecting_taken {s : State} {n : BitVec 5} {k : Nat} {dest : Word} {ream : Bool} {cap : BitVec 64}
    (hg : s.goodSetting dest ream cap) (hidle : s.gw.cells[n.toNat].state s.web = 0) : s.setCollecting n k dest ream cap none =
      s.setCell n fun c => { c with
        st := 1, n := k, got := 0, anchor := 0, sums := List.replicate 32 (0, 0), dest := dest, ream := ream, cap := cap, mine := false, left := 0 } := by
  have hbad : ¬(s.badSetting dest ream cap = true ∨ s.gw.cells[n.toNat].state s.web ≠ 0) := by
    rw [(s.badSetting_false_iff ..).mpr hg]
    simp [hidle]
  rw [State.setCollecting, if_neg hbad]
  rfl

theorem State.setCell_self (s : State) (n : BitVec 5) (f : GwCell → GwCell) : (s.setCell n f).gw.cells[n.toNat] = f s.gw.cells[n.toNat] :=
  Vector.getElem_set_self ..

theorem State.setCell_other (s : State) {n : BitVec 5} (f : GwCell → GwCell) {i : Fin 32} (h : i.val ≠ n.toNat) :
    (s.setCell n f).gw.cells[i] = s.gw.cells[i] :=
  Vector.getElem_set_ne n.isLt i.isLt (Ne.symm h)

/-! ## A contribution -/

theorem GwCell.add_sums (c : GwCell) (k : Contribution) (hc : c.sums.length = 32) (hk : k.els.length = 32) {i : Nat} (hi : i < 32) :
    nth (0, 0) (c.add k).sums i = ((nth (0, 0) c.sums i).1 + (nth (0, 0) k.els i).1.toInt,
      if c.got ≠ 0 ∧ c.anchor ≠ k.anchor then 1 else joinTags (nth (0, 0) c.sums i).2 (nth (0, 0) k.els i).2) := by
  have hx : i < c.sums.length := hc ▸ hi
  have hy : i < k.els.length := hk ▸ hi
  simp [nth_eq_getD, GwCell.add, hk, List.getElem?_zipWith, List.getElem?_eq_getElem hx, List.getElem?_eq_getElem hy]

/-- A contribution that its cell does not take changes nothing, or is a fault of this core. -/
theorem State.contribute_refused {s : State} {n : BitVec 5} (k : Contribution) (h : s.gw.cells[n.toNat].state s.web ≠ 1) :
    s.contribute n k none = s ∧ ∀ i, s.contribute n k (some i) = s.gatewayFault i :=
  ⟨if_pos h, fun _ => if_pos h⟩

/-- A contribution that leaves its cell collecting. -/
theorem State.contribute_more {s : State} {n : BitVec 5} {k : Contribution} (h : s.gw.cells[n.toNat].state s.web = 1)
    (hmore : s.gw.cells[n.toNat].got + 1 < s.gw.cells[n.toNat].n) (info : Option FaultInfo) :
    s.contribute n k info = { s with gw := { s.gw with cells := s.gw.cells.set n.toNat (s.gw.cells[n.toNat].add k) } } := by
  have hstate : ¬s.gw.cells[n.toNat].state s.web ≠ 1 := fun hne => hne h
  have hcount : ¬(s.gw.cells[n.toNat].add k).n ≤ (s.gw.cells[n.toNat].add k).got := Nat.not_le.mpr hmore
  exact (if_neg hstate).trans (if_neg hcount)

/-- The last contribution of a cell. -/
theorem State.contribute_last {s : State} {n : BitVec 5} {k : Contribution} (h : s.gw.cells[n.toNat].state s.web = 1)
    (hlast : s.gw.cells[n.toNat].n ≤ s.gw.cells[n.toNat].got + 1) (info : Option FaultInfo) :
    s.contribute n k info = (s.setCell n fun _ => s.gw.cells[n.toNat].add k).emit n := by
  have hstate : ¬s.gw.cells[n.toNat].state s.web ≠ 1 := fun hne => hne h
  have hcount : (s.gw.cells[n.toNat].add k).n ≤ (s.gw.cells[n.toNat].add k).got := hlast
  exact (if_neg hstate).trans (if_pos hcount)

end Sys2Proof.Machine
end

section
/-! SUPPORT. The packets of a cell whose count is complete (09 R168). -/

namespace Sys2Proof.Machine

theorem insertBy_last {α : Type} {le : α → α → Bool} {x : α} : ∀ {l : List α}, (∀ y ∈ l, le y x = true) → insertBy le x l = l ++ [x]
  | [], _ => rfl
  | y :: t, h => by
    rw [insertBy, if_pos (h y List.mem_cons_self), insertBy_last fun z hz => h z (List.mem_cons_of_mem y hz)]
    rfl

/-- Items of one key stand in the order in which they enter. -/
theorem foldl_insertBy {α : Type} {le : α → α → Bool} (f : Nat → α) (hle : ∀ i j, le (f i) (f j) = true) : ∀ (l acc : List Nat),
    l.foldl (fun q j => insertBy le (f j) q) (acc.map f) = (acc ++ l).map f
  | [], acc => by rw [List.append_nil]; rfl
  | j :: t, acc => by
    have hlast : insertBy le (f j) (acc.map f) = (acc ++ [j]).map f := by
      rw [insertBy_last (List.forall_mem_map.mpr fun i _ => hle i j), List.map_append]
      rfl
    rw [List.foldl_cons, hlast, foldl_insertBy f hle t, List.append_assoc]
    rfl

/-- A cell when its sums are checked for their range (09 R167). -/
def GwCell.checked (c : GwCell) : GwCell := { c with sums := c.sums.map rangeTag }

/-- A cell that emits: its sums are checked, and its eight packets stand in the gateway's queue. -/
theorem State.emit_felt {s : State} {n : BitVec 5} (hr : s.gw.cells[n.toNat].ream = false) (hq : s.gw.q = []) :
    let c := s.gw.cells[n.toNat].checked
    s.emit n = State.setCell { s with gw := { s.gw with q := (List.range 8).map fun j => (s.web + 4, n, c.packet j) } } n
      fun _ => { c with st := 2, left := 8, idleAt := 0 } := by
  intro c
  have hfold := foldl_insertBy (le := fun (x y : Nat × BitVec 5 × FeltPacket) =>
    decide (x.1 < y.1) || (x.1 == y.1 && decide (x.2.1.toNat ≤ y.2.1.toNat)))
    (fun j => (s.web + 4, n, c.packet j)) (fun _ _ => by simp) (List.range 8) []
  rw [List.nil_append, List.map_nil, ← hq] at hfold
  have hfelt : ¬c.ream = true := by simp [c, GwCell.checked, hr]
  rw [← hfold]
  exact if_neg hfelt

/-! ## A packet of a cell -/

theorem rangeTag_fst (x : Int × BitVec 2) : (rangeTag x).1 = x.1 := by
  unfold rangeTag
  split <;> rfl

/-- After the check of its range a sum is tagged when it was, or when it has left the range (09 R167). -/
theorem rangeTag_tagged_iff (x : Int × BitVec 2) : (rangeTag x).2 ≠ 0 ↔ x.2 ≠ 0 ∨ x.1 < -2 ^ 255 ∨ 2 ^ 255 ≤ x.1 := by
  have hlim : 2 ^ 255 - 1 < x.1 ↔ 2 ^ 255 ≤ x.1 := by omega
  unfold rangeTag
  by_cases hx : x.2 = 0
  · by_cases hr : x.1 < -2 ^ 255 ∨ 2 ^ 255 - 1 < x.1
    · rw [if_pos ⟨hx, hr⟩]
      exact ⟨fun _ => .inr (hr.imp_right hlim.mp), fun _ => show (2 : BitVec 2) ≠ 0 by decide⟩
    · rw [if_neg fun h => hr h.2]
      exact ⟨.inl, fun h => h.resolve_right fun h => hr (h.imp_right hlim.mpr)⟩
  · rw [if_neg fun h => hx h.1]
    exact ⟨.inl, fun _ => hx⟩

theorem nth_map_fixed {α : Type} {d : α} {f : α → α} (h : f d = d) (l : List α) (i : Nat) : nth d (l.map f) i = f (nth d l i) := by
  rw [nth_eq_getD, nth_eq_getD, List.getElem?_map]
  cases l[i]? with
  | none => exact h.symm
  | some x => rfl

theorem bitAt_eq_elem {w : Nat} (x : BitVec w) (i : Nat) : bitAt x i = true ↔ elem x 1 i = 1 := by
  rw [bitAt, elem, ← BitVec.toNat_inj, BitVec.toNat_ofNat, Nat.one_mul, beq_iff_eq]
  rfl

/-- The elements of a packet are 256 bits of the sums, and AUX says which are not valid (09 R168). -/
theorem GwCell.packet_elements (c : GwCell) (j : Nat) {e : Nat} (he : e < 4) :
    let pk := c.checked.packet j
    let x := nth (0, 0) c.sums (4 * j + e)
    elem pk.payload 256 e = BitVec.ofInt 256 x.1 ∧ (bitAt pk.aux e = true ↔ x.2 ≠ 0 ∨ x.1 < -2 ^ 255 ∨ 2 ^ 255 ≤ x.1) := by
  intro pk x
  have hx : nth (0, 0) c.checked.sums (4 * j + e) = rangeTag x := nth_map_fixed (by decide) _ _
  constructor
  · refine (elem_ofNat_elemsNat _ he (by decide)).trans ?_
    dsimp only
    rw [hx, rangeTag_fst, ofNat_toNat_emod]
  · rw [bitAt_eq_elem, ← rangeTag_tagged_iff x]
    rw [show elem pk.aux 1 e = _ from elem_ofNat_elemsNat _ he (by decide)]
    simp only [hx]
    by_cases h0 : (rangeTag x).2 = 0
    · rw [if_pos h0]
      exact iff_of_false (by decide) (not_not.mpr h0)
    · rw [if_neg h0]
      exact iff_of_true (by decide) h0

/-- The address and watermark word of a packet (09 R168). -/
theorem GwCell.packet_places (c : GwCell) {j : Nat} (hj : j < 8) : let pk := c.packet j
    let dst := (bitsAt c.dest 0 32).toNat
    let wm := (bitsAt c.dest 32 32).toNat
    pk.op = 2 ∧ pk.mask = 0xFFFFFFFF ∧ (dst % 128 = 0 → dst + 1024 ≤ Config.quireBytes → 16 * pk.addr.toNat = dst + 128 * j)
    ∧ (pk.wme = true ↔ wm ≠ 0xFFFFFFFF) ∧ (wm ≠ 0xFFFFFFFF → wm % 16 = 0 → wm + 16 ≤ Config.quireBytes → 16 * pk.wma.toNat = wm) := by
  intro pk dst wm
  have hword (x : Nat) (hx : x % 16 = 0) (hlt : x + 16 ≤ Config.quireBytes) : 16 * (BitVec.ofNat 17 (x / 16)).toNat = x := by
    have hlim : Config.quireBytes = 2 ^ 21 := rfl
    rw [BitVec.toNat_ofNat, Nat.mod_eq_of_lt (by omega)]
    omega
  refine ⟨rfl, rfl, fun hd hr => hword _ (by omega) (by omega), bne_iff_ne, fun hw hm hr => ?_⟩
  have hwma : pk.wma = BitVec.ofNat 17 (wm / 16) := if_neg hw
  rw [hwma, hword wm hm hr]

end Sys2Proof.Machine
end

section
/-! SUPPORT. A contribution reaches the gateway, and O54 (09 R153 to R169). -/

namespace Sys2Proof.Machine

theorem exec_feltSend (s : State) : exec (.feltSend false) s = match s.feltReady with | some f => .next (s.feltCoreSend f) | none => .fault .notDue := rfl

theorem exec_gatewaySend (s : State) : exec (.feltSend true) s = match s.gatewayReady with | some x => .next (s.gatewaySend x) | none => .fault .notDue := rfl

/-- A contribution is at the gateway: in the fabric group once its cycle has come, otherwise once it has crossed (20 R362). -/
theorem State.atGateway_iff (s : State) (due : Nat) (at_ : Option Nat) : s.atGateway due at_ = true ↔
    (at_ = none ∧ s.inFabric = true ∧ due ≤ s.core.cyc) ∨ ∃ t, at_ = some t ∧ t ≤ s.web := by
  cases at_ <;> simp [State.atGateway]

theorem exec_gatewayContribution_set (s : State) (n : BitVec 5) (m : BitVec 7) (dest : Word) (ream : Bool) (cap : BitVec 64) :
    exec (.gatewayContribution n (.set m dest ream cap)) s = .next (s.setCollecting n (m.toNat + 1) dest ream cap none) := rfl

/-- A contribution of another core reaches its cell. -/
theorem exec_gatewayContribution_other (s : State) (n : BitVec 5) {con : Contribution} (h : con.own = false) :
    exec (.gatewayContribution n (.add con)) s = .next (s.contribute n con none) := by
  have hown : ¬con.own = true := by simp [h]
  exact if_neg hown

/-- A contribution of this core, the only one under way, reaches its cell. -/
theorem exec_gatewayContribution_own {s : State} {n : BitVec 5} {con : Contribution} {a : GwAdd} (hown : con.own = true)
    (hadds : s.gw.adds = [a]) (hcell : a.cell = n) (hcon : a.con = con) : exec (.gatewayContribution n (.add con)) s =
      if s.atGateway a.due a.at_ = true then .next (State.contribute { s with gw := { s.gw with adds := [] } } n con (some a.info)) else .fault .notDue := by
  have hexec : exec (.gatewayContribution n (.add con)) s = execGatewayContribution n (.add con) s := rfl
  rw [hexec, execGatewayContribution]
  cases hat : s.atGateway a.due a.at_ <;> simp [hown, hadds, hcell, hcon, hat]

/-- The last contribution of a cell sets it emitting, and its eight packets stand in the gateway's queue (09 R168). -/
theorem State.contribute_emits {s : State} {n : BitVec 5} {k : Contribution} (h : s.gw.cells[n.toNat].state s.web = 1)
    (hlast : s.gw.cells[n.toNat].n ≤ s.gw.cells[n.toNat].got + 1) (hr : s.gw.cells[n.toNat].ream = false) (hq : s.gw.q = []) (info : Option FaultInfo) :
    let c := (s.gw.cells[n.toNat].add k).checked
    ∃ v : Vector GwCell 32, v[n.toNat] = { c with st := 2, left := 8, idleAt := 0 } ∧ s.contribute n k info = { s with
      gw := { s.gw with cells := v, q := (List.range 8).map fun j => (s.web + 4, n, c.packet j) } } := by
  intro c
  have hcell : (s.setCell n fun _ => s.gw.cells[n.toNat].add k).gw.cells[n.toNat] = s.gw.cells[n.toNat].add k := s.setCell_self n _
  have hream : (s.setCell n fun _ => s.gw.cells[n.toNat].add k).gw.cells[n.toNat].ream = false := by
    rw [hcell]
    exact hr
  have hemit := State.emit_felt hream hq
  rw [hcell] at hemit
  exact ⟨_, Vector.getElem_set_self .., (State.contribute_last h hlast info).trans hemit⟩

/-- The packets of a cell with a good destination stand in the queue as 09 R168 gives them. -/
theorem State.contribute_emits_packets {s : State} {n : BitVec 5} {con : Contribution} (hstate : s.gw.cells[n.toNat].state s.web = 1)
    (hlast : s.gw.cells[n.toNat].n ≤ s.gw.cells[n.toNat].got + 1) (hr : s.gw.cells[n.toNat].ream = false) (hq : s.gw.q = [])
    (hset : s.badSetting s.gw.cells[n.toNat].dest false s.gw.cells[n.toNat].cap = false) (info : Option FaultInfo) :
    let c := s.gw.cells[n.toNat]
    let sums := (c.add con).sums
    let wm := (bitsAt c.dest 32 32).toNat
    let t := s.contribute n con info
    t.core = s.core ∧ KeepsMemory s t ∧ t.gw.q.length = 8 ∧ (t.gw.cells[n.toNat]).st = 2 ∧ (t.gw.cells[n.toNat]).left = 8
      ∧ ∀ j, j < 8 → ∃ pk : FeltPacket, t.gw.q[j]? = some (s.web + 4, n, pk) ∧ pk.op = 2 ∧ pk.mask = 0xFFFFFFFF
        ∧ 16 * pk.addr.toNat = (bitsAt c.dest 0 32).toNat + 128 * j ∧ (pk.wme = true ↔ wm ≠ 0xFFFFFFFF) ∧ (wm ≠ 0xFFFFFFFF → 16 * pk.wma.toNat = wm)
        ∧ ∀ e, e < 4 → let x := nth (0, 0) sums (4 * j + e)
          elem pk.payload 256 e = BitVec.ofInt 256 x.1
          ∧ (bitAt pk.aux e = true ↔ x.2 ≠ 0 ∨ x.1 < -2 ^ 255 ∨ 2 ^ 255 ≤ x.1) := by
  intro c sums wm t
  obtain ⟨v, hv, ht⟩ := State.contribute_emits (k := con) hstate hlast hr hq info
  rw [show t = _ from ht, hv]
  refine ⟨rfl, ⟨rfl, rfl, rfl, rfl, rfl, rfl⟩, rfl, rfl, rfl, fun j hj => ?_⟩
  obtain ⟨-, hfelt⟩ := (s.badSetting_false_iff ..).mp hset
  obtain ⟨hdst, hend, -, -, hword⟩ := hfelt rfl
  obtain ⟨hop, hmask, haddr, hwme, hwma⟩ := (c.add con).checked.packet_places hj
  refine ⟨(c.add con).checked.packet j, ?_, hop, hmask, haddr hdst hend, hwme, fun hw => ?_, fun e he => (c.add con).packet_elements j he⟩
  · show ((List.range 8).map fun i => (s.web + 4, n, (c.add con).checked.packet i))[j]? = _
    rw [List.getElem?_map, List.getElem?_range hj]
    rfl
  · obtain ⟨hm, hwe, -⟩ := hword.resolve_left hw
    exact hwma hw hm hwe

/-- Settles O54: each clause is a lemma about the event or the operation that it speaks of. -/
theorem feltAndGateway : Obligations.FeltAndGateway := by
  unfold Obligations.FeltAndGateway
  refine ⟨?send, ?apply, ?other, ?show_, ?packet, ?mark, ?raise, ?raises, ?refusal, ?set, ?add, ?own, ?sums⟩
  case send =>
    intro s
    refine ⟨fun h => by rw [exec_feltSend, h], fun h => by rw [exec_gatewaySend, h], fun f rest hq => ⟨State.feltReady_iff hq, fun hready => ?_⟩,
      fun n c pk rest hq hready => ?_⟩
    · obtain ⟨x, hrest, hfelt, hbeat, happ, hown, hpk, hkeep, hmem⟩ := State.feltCoreSend_spec hq
      exact ⟨_, x, by rw [exec_feltSend, hready], hrest, hfelt, hbeat, happ, hown,
        ⟨fun h => hpk.trans (s.loadPacket_plain h), fun id n off h hp => hpk.trans (State.loadPacket_beat h hp)⟩, hkeep, hmem⟩
    · obtain ⟨x, hspec⟩ := State.gatewaySend_spec hq
      exact ⟨_, x, by rw [exec_gatewaySend, hready], hspec⟩
  case apply =>
    intro s x hfind
    exact ⟨fun h => by rw [exec_feltPacketApply_own hfind, h]; rfl, fun h => by rw [exec_feltPacketApply_own hfind, h]; rfl, rfl⟩
  case other =>
    intro s pk hfind own
    obtain ⟨l, hexec⟩ := exec_feltPacketApply_other pk hfind
    refine ⟨fun h => ?_, fun hweb hown href => ⟨_, hexec.trans (if_neg ?_), rfl, rfl, rfl⟩⟩
    · exact hexec.trans (if_pos (h.imp_right (Or.imp_right List.contains_iff_mem.mpr)))
    · rintro (h | h | h)
      · omega
      · exact absurd (hown.symm.trans h) (by decide)
      · exact href (List.contains_iff_mem.mp h)
  case show_ =>
    intro s f ha t
    obtain ⟨p, l, x, ag, ht⟩ := s.showPacket_eq f
    rw [show t = _ from ht]
    refine ⟨rfl, rfl, ⟨rfl, rfl, rfl, rfl, rfl, rfl⟩, rfl, rfl, rfl, fun it b w x cmp hown hq hp hr hat => ?_, State.feltLater_one ha⟩
    rw [← ht]
    exact State.showPacket_returns hown hq hp hr hat
  case packet =>
    intro pk m h hw hr a m'
    exact ⟨applyPacket_wf h hw hr, applyPacket_store_reads h hw hr, applyPacket_exactAdd_reads h hw hr,
      fun b w x cmp hop hat => applyPacket_atomic_reads h hw hop hat⟩
  case mark => exact fun pk m => ⟨applyPacket_raise, applyPacket_wme⟩
  case raise =>
    intro m a b h m' tgt total cnt
    obtain ⟨htgt, hcnt, hgen, hflg⟩ := raiseWord_fields h a b
    exact ⟨raiseWord_wf h a b, htgt, hcnt, hgen, fun i => by rw [hflg, raisedFlags_testBit], fun x => raiseWord_byte_out h a b⟩
  case raises => exact fun s off hr hwf => ⟨fun hne hall => State.raisesDue_one hr hne hall, State.raiseOne_twice hr hwf off⟩
  case refusal =>
    intro s f it hfind hown hbeat ha
    refine ⟨fun hweb => if_pos hweb, fun hweb => ?_⟩
    obtain ⟨gone, sent, hexec⟩ := exec_refusal_returns hfind hown hbeat ha hweb
    exact ⟨_, hexec, rfl, slip_sum _ 1, Vector.getElem_set_self .., rfl, ⟨rfl, rfl, rfl, rfl, rfl, rfl⟩, rfl, rfl, rfl, rfl, rfl, rfl⟩
  case set =>
    intro s n m dest ream cap c dst wm good
    rw [exec_gatewayContribution_set]
    refine ⟨fun h => congrArg _ (State.setCollecting_refused h), fun hgood hidle => ?_⟩
    refine ⟨_, congrArg _ (State.setCollecting_taken hgood hidle), rfl, ⟨rfl, rfl, rfl, rfl, rfl, rfl⟩, ?_⟩
    rw [State.setCell_self]
    exact ⟨rfl, rfl, rfl, rfl, rfl, rfl, rfl, fun i hi => State.setCell_other _ _ hi⟩
  case add =>
    intro s n con hown c
    rw [exec_gatewayContribution_other s n hown]
    refine ⟨fun h => congrArg _ (State.contribute_refused con h).1, fun h hmore => congrArg _ (State.contribute_more h hmore none),
      fun h hlast hr _ hq hset => ⟨_, rfl, State.contribute_emits_packets h hlast hr hq hset none⟩⟩
  case own =>
    intro s n con a hown hadds hcell hcon c here
    rw [exec_gatewayContribution_own hown hadds hcell hcon]
    have hat : s.atGateway a.due a.at_ = true ↔ here := s.atGateway_iff a.due a.at_
    refine ⟨fun h => if_neg fun h' => h (hat.mp h'), fun h hstate => ?_, fun h hstate hmore => ?_⟩
    · obtain ⟨-, hfault⟩ := State.contribute_refused (s := { s with gw := { s.gw with adds := [] } }) con hstate
      exact ⟨_, (if_pos (hat.mpr h)).trans (congrArg _ (hfault a.info)), rfl, rfl, rfl⟩
    · have hadd := State.contribute_more (s := { s with gw := { s.gw with adds := [] } }) (k := con) hstate hmore (some a.info)
      exact (if_pos (hat.mpr h)).trans (congrArg _ hadd)
  case sums =>
    intro c k hc hk c'
    refine ⟨rfl, rfl, fun h => ?_, fun h => ?_, fun i hi => ?_⟩
    · simp [c', GwCell.add, h]
    · simp [c', GwCell.add, h]
    · rw [GwCell.add_sums c k hc hk hi]
      exact ⟨rfl, rfl⟩

end Sys2Proof.Machine
end
